-- ==== Sys2Proof/Word.lean ====
section
/-! DEFINITION. The word types of the P409 block: 32-bit registers (R9) and bytes. -/
namespace Sys2Proof

/-- A register value or a register address (R7, R9). -/
abbrev Word := BitVec 32

/-- One byte of a packet, a thread frame or C0 SRAM. -/
abbrev Byte := BitVec 8

end Sys2Proof
end

