-- ==== Sys2Proof/Syntax.lean ====
section
/-! DEFINITION. The commands of the block: one constructor per row of spec/opcode_table.json.
A command carries what the row's sender or the outside world supplies with it: the domain that writes a register,
the address and value written, the packet or frame that arrives, the reading of a sensor. What the block itself
holds is not an operand; it is read from the state. -/
namespace Sys2Proof

/-- The two management domains (R501). -/
inductive Dom where
  | owner
  | fabric
deriving DecidableEq, Repr

/-- One end of a link that carries link frames: a port, a quadrant's seam end (SEM page `i` of Q`q`; 3 is QP), or the
press die's end PP of its press seam (R52, R153). -/
inductive LinkId where
  | port (p : Fin 1024)
  | seam (q : Fin 4) (i : Fin 4)
  | pp (d : Fin 4)
deriving DecidableEq, Repr

/-- A seam: one of the six quadrant seams, in the order 01, 02, 03, 12, 13, 23, or the press seam of one quadrant. -/
inductive SeamId where
  | quad (k : Fin 6)
  | press (d : Fin 4)
deriving DecidableEq, Repr

/-- The islands that hold a copy of the selected banks (R59, R64, R403). -/
inductive Island where
  | qd (q : Fin 4) (d : Fin 16)
  | qx (q : Fin 4)
  | ps (p : Fin 4)
  | cs
deriving DecidableEq, Repr

/-- A link frame as it arrives: 8 bytes of head, 496 bytes of content, 8 bytes of tail (R114 to R116). -/
structure Frame where
  head : BitVec 64
  content : List Byte
  tail : BitVec 64
deriving DecidableEq, Repr

/-- One scrubbed word that showed an error (R563, R564): die select, memory code, word index within the memory, and
whether it was uncorrectable. -/
structure ScrubErr where
  die : Fin 32
  memory : Fin 11
  index : Nat
  uncorrectable : Bool
deriving DecidableEq, Repr

/-- The root that takes a RESEND_REQ, and what its read of the retained copy finds: an uncorrectable error before the resend's
head has left (`some false`) or after (`some true`), or none (R366). -/
structure RootRead where
  die : Fin 4
  bad : Option Bool
deriving DecidableEq, Repr

/-- The commands. -/
inductive Instr where
  -- register pages
  | registerWrite (dom : Dom) (addr val : Word)
  | rcRead (dom : Dom) (addr : Word)
  | countLowHalfRead (dom : Dom) (addr : Word)
  | evtSetWrite (dom : Dom) (page val : Word)
  | lockWrite (dom : Dom) (page val : Word)
  | ctlEnable (dom : Dom) (page : Word)
  | ctlDisable (dom : Dom) (page : Word)
  | pageEnableDone (page : Word)
  | pageDisableDone (page : Word)
  -- power-on
  | powerOn
  | railSequenceStep
  | referenceSelect (primaryGood backupGood : Bool)
  | strapSample (pos : BitVec 3) (side : Bool)
  | strapChange (pos : BitVec 3) (side : Bool)
  | bypassRelease
  -- seams and banks
  | seamUp (k : SeamId)
  | seamFault (k : SeamId)
  | bankFlip (island : Island) (job : BitVec 12)
  -- engines and lanes
  | oenFpEnableWrite (dom : Dom) (e : Fin 16) (val : Word)
  | lneLayoutWrite (dom : Dom) (q : Fin 4) (d : Fin 16) (val : Word)
  | lneLoopbackWrite (dom : Dom) (q : Fin 4) (d : Fin 16) (val : Word)
  | prbsEnableWrite (dom : Dom) (q : Fin 4) (d : Fin 16) (checker : Bool) (val : Word)
  | prbsClear (dom : Dom) (q : Fin 4) (d : Fin 16)
  | prbsPatternWrite (dom : Dom) (q : Fin 4) (d : Fin 16) (val : Word)
  | oenSpareMapWrite (dom : Dom) (e : Fin 16) (val : Word)
  | losEnter (lane : Fin 2048)
  | losLeave (lane : Fin 2048)
  | sourceFail (e : Fin 16) (src : Fin 10)
  | darnRequestReceive (port : Fin 1024) (working : BitVec 8) (col : BitVec 16)
  | darnSwitch (port : Fin 1024)
  | darnTimeout (port : Fin 1024)
  | darnWiden (port : Fin 1024)
  | spareSubstitute (e : Fin 16) (w : Fin 8)
  | spareLocked (e : Fin 16) (spare : Bool)
  | lanesTrained (port : Fin 1024)
  | slackInsert (port : Fin 1024)
  | quietEnter (port : Fin 1024)
  | quietEntryAbandon (port : Fin 1024)
  | tackStart (port : Fin 1024)
  | tackEnd (port : Fin 1024) (locked : Bool)
  | prbsLock (lane : Fin 2048)
  | prbsLockLost (lane : Fin 2048) (bitErrs : Nat)
  | opticalPowerSample (e : Fin 16) (rx : List (BitVec 16)) (tx : List (BitVec 16)) (src : List (BitVec 16))
  -- link layer
  | linkFrameReceive (link : LinkId) (frame : Frame) (fecCorr uncorr : List Nat)
  | replayTimeout (link : LinkId)
  | recoveryTimeout (link : LinkId)
  | mendFault (port : Fin 1024)
  | idleFrameSend (link : LinkId)
  | initFrameSend (port : Fin 1024)
  | initFrameReceive (port : Fin 1024) (frame : Frame)
  | initTimeout (port : Fin 1024)
  | linkSilenceTimeout (port : Fin 1024)
  | admitWrite (dom : Dom) (port : Fin 1024) (val : Word)
  | retrain (dom : Dom) (port : Fin 1024)
  | autoRetrain (port : Fin 1024)
  | lnkCreditCfgWrite (dom : Dom) (q : Fin 4) (d : Fin 16) (val : Word)
  -- packets
  | packetHeadArrive (q : Fin 4) (d i : Fin 16) (vc : Fin 10)
  | packetTailArrive (q : Fin 4) (d i : Fin 16) (vc : Fin 10)
  | seamCopyArrive (rx : LinkId) (vc : Fin 10)
  | copyTailSent (link : LinkId) (vc : Fin 10) (frames : Nat)
  | mendProbeAnswer (port : Fin 1024) (aux : BitVec 24) (payload : List Byte)
  | tackReqAnswer (port : Fin 1024)
  | c0Inject
  -- tables
  | tableRead (dom : Dom) (addr cmd : Word)
  | tableWrite (dom : Dom) (addr cmd : Word)
  | pegPortOutClear (dom : Dom) (q : Fin 4) (i : Fin 8) (val : Word)
  | pegReturn (port : Fin 1024)
  | rteSeamWWrite (dom : Dom) (q : Fin 4) (i : Fin 3) (val : Word)
  -- buffer
  | pool0WaitResume (q : Fin 4)
  | chainCellTake (q : Fin 4)
  | chainFreeCell (q : Fin 4)
  | hamperRefill (q : Fin 4) (pool : Fin 4)
  | hamperSpill (q : Fin 4) (pool : Fin 4)
  | bufModeWrite (dom : Dom) (q : Fin 4) (val : Word)
  | bufLayoutWrite (dom : Dom) (q : Fin 4) (off : BitVec 12) (val : Word)
  | rebuild (dom : Dom) (q : Fin 4)
  | rebuildDone (q : Fin 4)
  | bufMove (dom : Dom) (q : Fin 4) (val : Word)
  | moveDone (q : Fin 4)
  | autoRebuild (q : Fin 4)
  | poolBalance (q : Fin 4) (boundary : Fin 3) (delta : Int)
  -- queues
  | tc3GateChange (q : Fin 4)
  | entryAged (link : LinkId) (vc : Fin 10) (index : Nat)
  | entryAgedStomp (link : LinkId) (vc : Fin 10)
  | queAgeLimitWrite (dom : Dom) (q : Fin 4) (tc : Fin 4) (val : Word)
  | windowEpochStart (port : Fin 1024) (tc : Fin 4)
  | windowEpochExpire (port : Fin 1024) (tc : Fin 4)
  | winExpireWrite (dom : Dom) (q : Fin 4) (d : Fin 16) (val : Word)
  | winLimitWrite (dom : Dom) (q : Fin 4) (d : Fin 16) (i : Fin 64) (val : Word)
  -- collectives
  | contributionTake (die : Fin 4)
  | chunkLate (die : Fin 4) (ctx : Fin 24) (chunk : BitVec 24)
  | lateNoticeRepeat (die : Fin 4) (ctx : Fin 24)
  | retainExpire (die : Fin 4) (ctx : Fin 24) (gen : BitVec 2) (chunk : BitVec 24)
  | resendReqRoot (read : RootRead)
  | resendReqRelay (die : Fin 4)
  | ctxStart (dom : Dom) (die : Fin 4) (ctx : Fin 24)
  | ctxStop (dom : Dom) (die : Fin 4) (ctx : Fin 24)
  | ctxClear (dom : Dom) (die : Fin 4) (ctx : Fin 24)
  | ctxCheck (dom : Dom) (die : Fin 4) (ctx : Fin 24) (bank : Bool)
  | ctxStopDone (die : Fin 4) (ctx : Fin 24)
  | colTableRead (dom : Dom) (die : Fin 4) (cmd : Word)
  | colTableWrite (dom : Dom) (die : Fin 4) (cmd : Word)
  | prsCtxModeWrite (dom : Dom) (die : Fin 4) (ctx : Fin 24) (val : Word)
  | rwbWrite (dom : Dom) (addr val : Word)
  | prsCtxJobWrite (dom : Dom) (die : Fin 4) (ctx : Fin 24) (val : Word)
  -- sync network and time
  | barrierArriveTake (q : Fin 4)
  | barrierReleaseReceive (q : Fin 4)
  | barrierLate (b : BitVec 12)
  | synTableRead (dom : Dom) (q : Fin 4) (cmd : Word)
  | synTableWrite (dom : Dom) (q : Fin 4) (cmd : Word)
  | timeSyncSend
  | timeSyncReceive
  | timeHoldover
  | synTimeSetGo (dom : Dom)
  -- banks
  | set (dom : Dom) (job : BitVec 12) (bank : Bool)
  | setIdle (dom : Dom) (bank : Bool)
  | rinse (dom : Dom) (job : BitVec 12)
  | abort (dom : Dom) (job : BitVec 12)
  | holdEffective (job : BitVec 12)
  | drainedReport (job : BitVec 12)
  | drainedReportRepeat (job : BitVec 12)
  | swapArrivalRepeat (job : BitVec 12)
  | heldPacketAged (port : Fin 1024) (vc : Fin 10)
  | rinseLate (job : BitVec 12)
  -- twin planes
  | twnCtlWrite (dom : Dom) (val : Word)
  | twnLinkWrite (dom : Dom) (val : Word)
  | twinBeatSend
  | inbandBeatSend
  | twinBeatReceive
  | inbandBeatReceive
  | leaseExpire
  | partitionNoticeRepeat
  | pathStale (path : Bool)
  | twinDigestSend
  | twinDigestReceive
  | fenceAct
  | fenceAdmitClear
  | digestEntryExpire
  | unfence (dom : Dom)
  | resync (dom : Dom)
  | relinquish (dom : Dom)
  | twinResyncReceive
  | resyncGapTimeout
  | resyncTailEnd
  -- telemetry
  | cgmSample (q : Fin 4) (cycles : Nat)
  | mapWindowEnd
  | mapPublish
  | pmcEvtWrite (dom : Dom) (addr val : Word)
  | pmcCfgWrite (dom : Dom) (addr val : Word)
  | pmcValWrite (dom : Dom) (addr val : Word)
  | pmcFreeze (dom : Dom) (page : Word)
  | pmcClear (dom : Dom) (page : Word)
  | pmcWrap (page : Word) (i : Fin 128)
  | dumpCapture
  | dumpRecordWritten
  | dmpRingRdWrite (dom : Dom) (val : Word)
  | lintTake (q : Fin 4) (tap : Nat)
  | lintRecordComplete (q : Fin 4) (tap : Nat)
  | lintRingWrite (q : Fin 4)
  | lintBatchSend
  -- check-value engine
  | cveStart (dom : Dom) (c : Fin 32) (fold : Bool)
  | cveFold (dom : Dom) (c : Fin 32)
  | cveFeedB (dom : Dom) (c : Fin 32) (val : Word)
  | cveFeedH (dom : Dom) (c : Fin 32) (val : Word)
  | cveFeedW (dom : Dom) (c : Fin 32) (val : Word)
  | cveStateWrite (dom : Dom) (c : Fin 32) (hi : Bool) (val : Word)
  | cveStateRead (dom : Dom) (c : Fin 32) (off : BitVec 12)
  | cveSettingWrite (dom : Dom) (c : Fin 32) (off : BitVec 12) (val : Word)
  -- thread and management
  | threadFrameReceive (bytes : List Byte)
  | helloSend
  | mgmtRequest
  | mgmtResponse (dom : Dom)
  | read (dom : Dom) (addr : Word) (count : Nat)
  | write (dom : Dom) (addr : Word) (vals : List Word)
  | modify (dom : Dom) (addr mask val : Word)
  | wait (dom : Dom) (addr mask val : Word) (timeout : Nat)
  | waitPoll (dom : Dom)
  | memRead (dom : Dom) (off : Word) (len : Nat)
  | memWrite (dom : Dom) (off : Word) (words : List Word)
  | tableLoad (dom : Dom) (addr source : Word) (first count : Nat) (cmd : Word) (words : Nat)
  | eventWait (dom : Dom) (timeout : Nat)
  | eventWaitTimeout (dom : Dom)
  | ident (dom : Dom)
  | fwStart (dom : Dom)
  | fwStartDone
  | fuseProgram (dom : Dom) (slot : Word)
  | fuseRevoke (dom : Dom) (slot : Word)
  | fuseFloor (dom : Dom) (floor : Word)
  | stintEnd (core : Fin 4)
  | stintLong (core : Fin 4)
  | coreWatchdog (core : Fin 4)
  | halt (dom : Dom)
  | run (dom : Dom)
  | restart (dom : Dom)
  | eventFrameSend
  | ctlPolicyWrite (dom : Dom) (val : Word)
  -- power and cooling
  | powerSample (vinMv iinMa : Nat)
  | limitStepDown
  | limitStepUp
  | pwrCapWrite (dom : Dom) (val : Word)
  | pwrLimitNowWrite (dom : Dom) (val : Word)
  | brakeEnd
  | vinHighEnter
  | vinHighLeave
  | vinLowEnter
  | vinLowRecover
  | inputWarn
  | inputWarnEnd
  | vinShutdownBand (high : Bool)
  | vinOff
  | railFault (rail : Fin 20)
  | shutdownStage
  | thermalRead (readings : List (Option Int))
  | throttleFloorRise
  | throttleFloorFall
  | thermalShutdown (sensor : Fin 180)
  | dieHotShutdown (die : Fin 25)
  | tripSensor (sensor : Fin 25)
  -- reset and recovery
  | partReset (dom : Dom) (grace : Bool)
  | datapathReset (dom : Dom) (grace : Bool)
  | quadrantReset (dom : Dom) (q : Fin 4) (grace : Bool)
  | pressReset (dom : Dom) (p : Fin 4)
  | engineReset (dom : Dom) (e : Fin 16)
  | graceEnd
  | resetDone
  | parityReload (array : Fin 5) (die : Fin 25)
  | scrubStint (passEnds : Bool) (errors : List ScrubErr)
  | scrubLate
  | clkSpreadWrite (dom : Dom) (val : Word)
  | referenceFail (backup : Bool)
  | forceBackup (dom : Dom)
  | referencesLost
  | referenceRecover (backup : Bool)
  -- rows added at the end of the table
  | headGrant (link : LinkId) (vc : Fin 10)
  | seamUpLost (k : SeamId)
  | railStartTimeout (rail : Fin 20)
  | resyncEndSend
deriving DecidableEq, Repr

end Sys2Proof
end

