-- ==== Sys2Proof/Decode.lean ====
section
/-! DEFINITION. The commands that a table word spells. -/
namespace Sys2Proof

/-- The command that a word spells by the bits spec/opcode_table.json gives its rows. No row of this table has bits or
fields (the block takes its commands as events, not as encoded words), so no word spells a command. -/
def decodeTableWord (_nbits _w : Nat) : Option Instr := none

end Sys2Proof
end

