-- ==== Sys2Proof/Machine/Bits.lean ====
section
/-! DEFINITION. Bit fields, byte order, sorted maps and the two reflected CRCs. -/
namespace Sys2Proof.Machine

/-- Bits `[hi:lo]` of a number. -/
def fld (n hi lo : Nat) : Nat := n / 2 ^ lo % 2 ^ (hi + 1 - lo)

/-- Bit `i` of a number. -/
def bit (n i : Nat) : Bool := n / 2 ^ i % 2 == 1

/-- 1 for true. -/
def b2n (b : Bool) : Nat := if b then 1 else 0

/-- The field `v` placed at bit `lo`. -/
def put (v lo : Nat) : Nat := v * 2 ^ lo

/-- `n` with bits `[hi:lo]` replaced by `v`. -/
def setFld (n hi lo v : Nat) : Nat :=
  n - put (fld n hi lo) lo + put (v % 2 ^ (hi + 1 - lo)) lo

/-- `n` with bit `i` set to `b`. -/
def setBit (n i : Nat) (b : Bool) : Nat := setFld n i i (b2n b)

/-- The positions below `w` of the bits of `n` that are 1, ascending. -/
def bitsOf (n w : Nat) : List Nat := (List.range w).filter (bit n)

/-- The number whose bits listed are 1. -/
def ofBits (l : List Nat) : Nat := l.foldl (fun a i => setBit a i true) 0

/-- A bit mask of `w` ones. -/
def ones (w : Nat) : Nat := 2 ^ w - 1

/-- A two's complement field of width `w` as an integer. -/
def sx (w n : Nat) : Int := if n < 2 ^ (w - 1) then (n : Int) else (n : Int) - (2 ^ w : Nat)

/-- An integer as a two's complement field of width `w`. -/
def toTwos (w : Nat) (i : Int) : Nat := (i % (2 ^ w : Nat)).toNat

/-- A sum that saturates at 0xFFFF_FFFF. -/
def satAdd (w : Word) (n : Nat) : Word := BitVec.ofNat 32 (min (w.toNat + n) 0xFFFFFFFF)

/-- `n` as `k` little-endian bytes (R9, R157). -/
def leBytes : Nat → Nat → List Byte
  | 0, _ => []
  | k + 1, n => BitVec.ofNat 8 n :: leBytes k (n / 256)

/-- Little-endian bytes as a number. -/
def ofLe : List Byte → Nat
  | [] => 0
  | b :: t => b.toNat + 256 * ofLe t

/-- Byte `i` of a list; bytes beyond its end read 0. -/
def byteAt (l : List Byte) (i : Nat) : Nat := (l.getD i 0).toNat

/-- The little-endian number at bytes `i` to `i + k - 1`. -/
def leAt (l : List Byte) (i k : Nat) : Nat := ofLe ((l.drop i).take k)

/-- A list cut or filled with `d` to length `n`. -/
def fit {α : Type} (d : α) (n : Nat) (l : List α) : List α := (l ++ List.replicate (n - l.length) d).take n

/-- Element `i` of a list replaced; out of range changes nothing. -/
def upd {α : Type} (l : List α) (i : Nat) (f : α → α) : List α :=
  match l, i with
  | [], _ => []
  | a :: t, 0 => f a :: t
  | a :: t, i + 1 => a :: upd t i f

/-! ### Sorted maps -/

/-- Sparse data by key: pairs with keys strictly rising. -/
abbrev SMap (α : Type) := List (Nat × α)

/-- The value at a key. -/
def SMap.get? {α : Type} : SMap α → Nat → Option α
  | [], _ => none
  | (k, v) :: t, x => if k = x then some v else if x < k then none else SMap.get? t x

/-- The value at a key, or a default. -/
def SMap.getD {α : Type} (m : SMap α) (x : Nat) (d : α) : α := (SMap.get? m x).getD d

/-- The map with a key set. -/
def SMap.set {α : Type} : SMap α → Nat → α → SMap α
  | [], x, v => [(x, v)]
  | (k, w) :: t, x, v =>
    if x < k then (x, v) :: (k, w) :: t
    else if x = k then (k, v) :: t
    else (k, w) :: SMap.set t x v

/-- The map with a key removed. -/
def SMap.del {α : Type} (m : SMap α) (x : Nat) : SMap α := m.filter (fun p => p.1 != x)

/-- The map with the keys that satisfy `f` removed. -/
def SMap.drop {α : Type} (m : SMap α) (f : Nat → Bool) : SMap α := m.filter (fun p => !f p.1)

/-- Keys strictly rising. -/
def SMap.sorted {α : Type} : SMap α → Bool
  | [] => true
  | [_] => true
  | a :: b :: t => decide (a.1 < b.1) && SMap.sorted (b :: t)

/-! ### CRCs -/

/-- One byte into a reflected CRC-32 register of polynomial `poly`. -/
def crcBit (poly : Word) : Nat → Word → Word
  | 0, c => c
  | k + 1, c => crcBit poly k (if c.getLsbD 0 then (c >>> 1) ^^^ poly else c >>> 1)

/-- Bytes into a reflected CRC-32 register. -/
def crcBytes (poly : Word) : Word → List Byte → Word
  | c, [] => c
  | c, b :: t => crcBytes poly (crcBit poly 8 (c ^^^ b.setWidth 32)) t

/-- CRC-32 of IEEE 802.3, as used for the Ethernet FCS (R117, R491). -/
def crc32 (l : List Byte) : Word := ~~~ (crcBytes 0xEDB88320 0xFFFFFFFF l)

/-- The reflected CRC-32C from a given initial register (R182, R207). -/
def crc32c (c : Word) (l : List Byte) : Word := ~~~ (crcBytes 0x82F63B78 c l)

/-! ### Lists of counts by virtual channel -/

/-- Entry `i` of a list of counts. -/
def cnt (l : List Nat) (i : Nat) : Nat := l.getD i 0

/-- Entry `i` of a list of ten counts goes up by `n`. -/
def cntAdd (l : List Nat) (i n : Nat) : List Nat := upd (fit 0 10 l) i (· + n)

/-- Entry `i` of a list of ten counts takes a value. -/
def cntSet (l : List Nat) (i n : Nat) : List Nat := upd (fit 0 10 l) i (fun _ => n)

/-- Port `i` of island QnDd: 16 ports an island, 256 a quadrant (R59, R72). -/
def portAt (q : Fin 4) (d i : Fin 16) : Fin 1024 := ⟨256 * q.val + 16 * d.val + i.val, by omega⟩

end Sys2Proof.Machine
end

