-- ==== Sys2Proof/Machine/Regs.lean ====
section
/-! DEFINITION. The register pages of the P409 (chapter 19): which block each page belongs to, and for every register
its access type, its reserved bits and its reset value, as the chapters' register tables give them. -/
namespace Sys2Proof.Machine

/-- The block types of the block index (chapter 19); SYN, CGM and LNT differ between the quadrants and C0, and SEM
between the quadrants and the press dies. -/
inductive Block where
  | idx | ctl | thr | pwr | thm | clk | rst | ras | lne | lnk | win | edg | rte | peg | mcg | buf | que | xbr
  | synQ | cgmQ | lntQ | semQ | semP | prs | col | oen | bnk | twn | dmp | cve | synC | cgmC | lntC | pmc
deriving DecidableEq, Repr

/-- Die kinds by die select (R7): quadrant, press, engine, controller. -/
inductive DieKind where
  | quad | press | engine | ctrl
deriving DecidableEq, Repr

/-- The kind of the die at a die select; 25 to 31 name no die (R7, R8). -/
def dieKind (die : Nat) : Option DieKind :=
  if die < 4 then some .quad else if die < 8 then some .press else if die < 24 then some .engine
  else if die = 24 then some .ctrl else none

/-- The block index of chapter 19: block and instance at a page number of a die. -/
def pageOf (die page : Nat) : Option (Block × Nat) :=
  let rng (lo n : Nat) (b : Block) (k : Option (Block × Nat)) : Option (Block × Nat) :=
    if lo ≤ page ∧ page < lo + n then some (b, page - lo) else k
  match dieKind die with
  | none => none
  | some .quad =>
    rng 0 1 .idx <| rng 0x10 16 .lne <| rng 0x20 16 .lnk <| rng 0x30 16 .win <| rng 0x40 1 .edg <| rng 0x41 1 .rte <|
    rng 0x42 1 .peg <| rng 0x43 1 .mcg <| rng 0x44 1 .buf <| rng 0x45 1 .que <| rng 0x46 1 .xbr <| rng 0x47 1 .synQ <|
    rng 0x48 1 .cgmQ <| rng 0x49 1 .lntQ <| rng 0x50 4 .semQ <| rng 0x60 23 .pmc none
  | some .press =>
    rng 0 1 .idx <| rng 0x40 1 .prs <| rng 0x41 1 .col <| rng 0x50 1 .semP <| rng 0x60 10 .pmc none
  | some .engine => rng 0 1 .idx <| rng 0x40 1 .oen <| rng 0x60 1 .pmc none
  | some .ctrl =>
    rng 0 1 .idx <| rng 1 1 .ctl <| rng 2 1 .thr <| rng 3 1 .pwr <| rng 4 1 .thm <| rng 5 1 .clk <| rng 6 1 .rst <|
    rng 7 1 .ras <| rng 0x40 1 .bnk <| rng 0x47 1 .synC <| rng 0x48 1 .cgmC <| rng 0x49 1 .lntC <| rng 0x4A 1 .twn <|
    rng 0x4B 1 .dmp <| rng 0x4C 1 .cve <| rng 0x60 6 .pmc none

/-- The page numbers a die holds, ascending (R585). -/
def pagesOf (die : Nat) : List Nat := (List.range 0x77).filter (fun p => (pageOf die p).isSome)

/-- Block type codes (chapter 19). -/
def typeCode : Block → Nat
  | .idx => 0x01 | .oen => 0x02 | .lne => 0x03 | .lnk => 0x04 | .semQ => 0x05 | .semP => 0x05 | .edg => 0x06
  | .win => 0x07 | .rte => 0x08 | .peg => 0x09 | .mcg => 0x0A | .buf => 0x0B | .que => 0x0C | .xbr => 0x0D
  | .prs => 0x0E | .col => 0x0F | .synQ => 0x10 | .synC => 0x10 | .bnk => 0x11 | .twn => 0x12 | .cgmQ => 0x13
  | .cgmC => 0x13 | .pmc => 0x14 | .dmp => 0x15 | .lntQ => 0x16 | .lntC => 0x16 | .cve => 0x17 | .ctl => 0x18
  | .thr => 0x19 | .pwr => 0x1A | .thm => 0x1B | .clk => 0x1C | .rst => 0x1D | .ras => 0x1E

/-- CLASS of PAGE_CAPS (chapter 19): the class of R502 that covers the page's own registers; 0xFE for IDX, 0xFF for a
page of the owner domain alone. DEDUCED for the pages with MIXED 1; log entry 5. -/
def pageClass : Block → Nat
  | .idx => 0xFE
  | .ctl => 0xFF | .thr => 0xFF | .clk => 0xFF | .rst => 0xFF | .ras => 0xFF
  | .pwr => 13 | .thm => 13
  | .lne => 6 | .lnk => 6 | .oen => 6 | .semQ => 6 | .semP => 6
  | .win => 8 | .buf => 8 | .que => 8 | .xbr => 8
  | .edg => 7 | .rte => 7 | .peg => 7 | .mcg => 7
  | .synQ => 4 | .bnk => 4 | .synC => 10
  | .cgmQ => 3 | .cgmC => 3 | .lntQ => 9 | .lntC => 9
  | .prs => 1 | .col => 1 | .pmc => 2 | .dmp => 2 | .twn => 11 | .cve => 12

/-- The pages that come out of reset ON and refuse DISABLE (R552). -/
def alwaysOn : Block → Bool
  | .ctl | .thr | .pwr | .thm | .clk | .rst | .ras => true
  | _ => false

/-- MIXED of PAGE_CAPS. -/
def mixedClass : Block → Bool
  | .edg | .rte | .peg | .mcg | .lnk | .ctl => true
  | _ => false

/-- The implemented event bits of each block's EVT. -/
def evtMask : Block → Nat
  | .semQ => 3 | .semP => 3 | .oen => 1 | .lne => 1 | .lnk => 3 | .edg => 1 | .buf => 0xFF | .que => 7 | .col => 0x1F
  | .synQ => 3 | .synC => 0xF | .bnk => 0xF | .twn => 0x1F | .ctl => 0xF | .pwr => 0x1F | .thm => 0xF | .rst => 3
  | .clk => 3 | .ras => 7 | .pmc => 1
  | _ => 0

/-- Counters of a PMC page (R453). -/
def pmcCount (die inst : Nat) : Nat :=
  match dieKind die with
  | some .quad => if inst < 16 then 48 else if inst < 19 then 64 else 16
  | some .press => if inst < 8 then 16 else if inst = 8 then 96 else 32
  | some .engine => 64
  | some .ctrl => if inst < 4 then 16 else if inst = 4 then 48 else 16
  | none => 0

/-- One register: the bits a write stores (RW, RWB), the read-only and read-to-clear bits a write ignores, the W1C and
W1S bits, whether a read clears it, whether it holds one value per bank, whether it is write-only, whether it is the
low or the high half of a 64-bit count (R11), and its reset value. Every other bit is reserved (R582). -/
structure RegDef where
  rst : Nat := 0
  rw : Nat := 0
  ro : Nat := 0
  w1c : Nat := 0
  w1s : Nat := 0
  rc : Bool := false
  rwb : Bool := false
  wo : Bool := false
  lo64 : Bool := false
  hi64 : Bool := false
deriving DecidableEq, Repr

/-- A read-only register whose named bits are `m`. -/
def rO (m rst : Nat) : Option RegDef := some { ro := m, rst := rst }

/-- A counter that a read clears. -/
def rC : Option RegDef := some { ro := 0xFFFFFFFF, rc := true }

/-- A register that stores the bits `m`. -/
def rW (m rst : Nat) : Option RegDef := some { rw := m, rst := rst }

/-- The low half of a 64-bit count (R11). -/
def rLo : Option RegDef := some { ro := 0xFFFFFFFF, lo64 := true }

/-- The high half of a 64-bit count. -/
def rHi : Option RegDef := some { ro := 0xFFFFFFFF, hi64 := true }

/-- The common page header at offsets 0x000 to 0x034 (chapter 19). -/
def headerDef (b : Block) (off : Nat) : Option RegDef :=
  let e := evtMask b
  if off = 0x00 then rO 0xFFFFFFFF 0
  else if off = 0x04 then rO 0xFF00FF 0
  else if off = 0x08 then rO 0xFF0F 0
  else if off = 0x0C then rO 0x1FFF 0
  else if off = 0x10 then some { w1s := 3 }
  else if off = 0x14 then rO 0x307 0
  else if off = 0x18 then some { w1c := e }
  else if off = 0x1C then rW e e
  else if off = 0x20 then some { w1s := e, wo := true }
  else if off = 0x24 then some { w1c := 0x80000000, ro := 0x4F000FFF }
  else if off = 0x28 then rC
  else if off = 0x2C then rO 0xFFFFFFFF 0
  else if off = 0x30 then if b = .prs then rW 0x103 2 else some {}
  else if off = 0x34 then some { rw := 2, w1s := 1 }
  else none

/-- `off` is register `i` of an array of `n` registers of stride `st` at `base`. -/
def inArr (off base n st : Nat) : Bool := base ≤ off && off < base + n * st && (off - base) % st == 0

/-- Table access registers common to EDG, RTE, PEG and MCG (R226). -/
def tblDef (off : Nat) (k : Option RegDef) : Option RegDef :=
  if off = 0x100 then some { rw := 0x6F0FFFFF, w1s := 0x80000000 }
  else if off = 0x104 then rO 3 0
  else if inArr off 0x140 36 4 then rW 0xFFFFFFFF 0 else k

/-- The registers of the quadrant, press and engine pages, at offsets 0x100 and above. -/
def dataplaneDef (b : Block) (inst off : Nat) : Option RegDef :=
  match b with
  | .semQ | .semP =>
    if off = 0x100 then rO 0xF00FE 0
    else if off = 0x104 ∨ off = 0x108 then rC
    else if off = 0x110 ∨ off = 0x118 then rLo
    else if off = 0x114 ∨ off = 0x11C then rHi
    else none
  | .oen =>
    if off = 0x100 then rW 0xFFFF 0
    else if off = 0x104 then rO 0xFFFF 0
    else if off = 0x108 then some { w1c := 0x3FF0000, ro := 0x3FF }
    else if off = 0x10C then rW 0xFF 0
    else if off = 0x110 then rW 3 3
    else if off = 0x114 then rW 0x3FF 0xC8
    else if inArr off 0x200 64 4 || inArr off 0x300 8 4 || inArr off 0x320 5 4 then rO 0xFFFFFFFF 0x80008000
    else none
  | .lne =>
    if off = 0x100 then rW 0xFFF 0x249
    else if off = 0x104 then rW 0xFF 0
    else if off = 0x108 then rO 0xFFFFFFFF 0xFFFFFFFF
    else if off = 0x10C ∨ off = 0x114 ∨ off = 0x13C then rO 0xFFFFFFFF 0
    else if off = 0x110 then rW 0xF03FF 0xA
    else if off = 0x118 ∨ off = 0x11C ∨ off = 0x120 then rC
    else if off = 0x130 then some { rw := 0xF, w1s := 0x10 }
    else if off = 0x134 ∨ off = 0x138 then rW 0xFFFFFFFF 0
    else if off = 0x140 then some { w1c := 0xFFFFFFFF }
    else if off = 0x148 then rLo
    else if off = 0x14C then rHi
    else if inArr off 0x200 96 4 then rC
    else none
  | .lnk =>
    if inArr off 0x100 16 4 then some { rw := 3, w1s := 4, rst := 2 }
    else if inArr off 0x140 16 4 then rO 0xFF 0
    else if inArr off 0x180 16 4 then rO 0xFFFFFFFF 0
    else if inArr off 0x1C0 16 4 then rO 0xFFFF 0xFFFF
    else if inArr off 0x200 16 4 then rO 0xFF 0
    else if off = 0x400 then rW 0x0FFFFFFF 0x06404020
    else if off = 0x404 then rW 0xFFF 0
    else if inArr off 0x500 80 4 then rC
    else none
  | .win =>
    if inArr off 0x100 64 4 then rW 0xFFFF 0
    else if inArr off 0x200 64 4 then rO 0x8000FFFF 0
    else if off = 0x300 then rW 0x3FFF 0x1F40
    else if off = 0x304 ∨ off = 0x308 then rC
    else none
  | .edg => tblDef off <|
    if inArr off 0x200 8 4 then rW 0xFFFFFFFF 0 else if off = 0x220 then rC else none
  | .rte => tblDef off <|
    if off = 0x200 then rW 0xFFFF 0xFFFF
    else if off = 0x204 then rW 0xFFFFFFFF 0xFFFFFFFF
    else if inArr off 0x210 3 4 then rW 0x7FFFFFF 0x00C060A0
    else if off = 0x220 ∨ off = 0x224 then rC
    else none
  | .peg => tblDef off <|
    if inArr off 0x200 8 4 then some { w1c := 0xFFFFFFFF }
    else if off = 0x220 then rW 0x103FF 0x10001
    else if off = 0x224 then rC
    else none
  | .mcg => tblDef off <|
    if off = 0x200 ∨ off = 0x204 ∨ off = 0x208 then rC else none
  | .buf =>
    if off = 0x100 then some { rw := 0xFF0101, w1s := 0x10, rst := 0x100100 }
    else if off = 0x104 then rO 0xF 0
    else if off = 0x108 then rW 0x1FF01FF 0x1800080
    else if off = 0x110 then rW 0xFFFFF 0 else if off = 0x120 then rW 0xFFFFF 0x60000
    else if off = 0x130 then rW 0xFFFFF 0x78000 else if off = 0x140 then rW 0xFFFFF 0x90000
    else if off = 0x114 then rW 0xFFFFF 0x60000 else if off = 0x124 then rW 0xFFFFF 0x78000
    else if off = 0x134 then rW 0xFFFFF 0x90000 else if off = 0x144 then rW 0xFFFFF 0x9DFE9
    else if off = 0x118 then rW 0xFFFFF 0x9E000 else if off = 0x128 then rW 0xFFFFF 0x9FC00
    else if off = 0x138 then rW 0xFFFFF 0x9FE00 else if off = 0x148 then rW 0xFFFFF 0x9FF00
    else if off = 0x11C then rW 0x1FFFFF 0x70000 else if off = 0x12C then rW 0x1FFFFF 0x8000
    else if off = 0x13C then rW 0x1FFFFF 0x4000 else if off = 0x14C then rW 0x1FFFFF 0x2000
    else if inArr off 0x160 8 4 then rO 0x801FFFFF 0
    else if inArr off 0x180 8 4 then rO 0x1FFFFF 0
    else if inArr off 0x1A0 4 4 then rW 0x1FFFFF 0
    else if off = 0x1B0 then some { rw := 0x3FFFFF, w1s := 0x80000000 }
    else if off = 0x1B4 then rO 0xFFFFF 0xD8A4
    else if off = 0x1B8 ∨ off = 0x1BC then rO 0xFFFFF 0x9E000
    else if inArr off 0x1C0 5 4 then rC
    else none
  | .que =>
    if off = 0x100 then rW 7 7
    else if off = 0x104 then rO 1 0
    else if inArr off 0x110 3 4 then rW 0x3FFF 0xFA0
    else if off = 0x11C then rW 0x3FFF 0xFA
    else if off = 0x120 then rW 0xFFFFF 0x76800
    else if off = 0x124 then rW 0xFFFFF 0x4000
    else if off = 0x130 then rW 0xFFFFFFFF 0x11111111
    else if off = 0x140 then rW 0x3FF 0
    else if inArr off 0x180 10 4 then rO 0xFFFFF 0
    else if inArr off 0x200 8 4 then rC
    else none
  | .synQ =>
    if off = 0x100 then some { rw := 0x60000FFF, w1s := 0x80000000 }
    else if off = 0x104 then rO 3 0
    else if inArr off 0x140 40 4 then rW 0xFFFFFFFF 0
    else if off = 0x200 then rW 0x3FF 0x64
    else if inArr off 0x210 6 4 then rC
    else none
  | .cgmQ =>
    if off = 0x100 then rW 0xF 4
    else if inArr off 0x200 64 4 then rO 0xFFFFFFFF 0
    else if off = 0x300 then rO 0xFFFFFFFF 0
    else none
  | .lntQ =>
    if inArr off 0x100 32 4 then rW 0x1FFF 0xFF0
    else if inArr off 0x180 32 4 then rW 0xFFFFFF 0
    else if inArr off 0x200 32 4 then rW 0x80000FFF 0
    else if inArr off 0x280 32 4 then rC
    else if off = 0x300 ∨ off = 0x304 then rC
    else if inArr off 0x400 256 4 then rW 0xFFFFFFFF 0
    else none
  | .prs =>
    if inArr off 0x200 24 4 then some { rw := 0x7F03FFFF, rwb := true }
    else if off = 0x300 ∨ off = 0x304 ∨ off = 0x308 ∨ off = 0x30C then rC
    else if inArr off 0x400 24 0x20 then some { rw := 0xFFFFFFFF, rwb := true }
    else if inArr off 0x404 24 0x20 then some { rw := 0x0FFF01FF, rwb := true, rst := 0x00400008 }
    else if inArr off 0x408 24 0x20 then some { rw := 0x3FFF3FFF, rwb := true }
    else if inArr off 0x40C 24 0x20 then some { rw := 0xFFFFFF, rwb := true }
    else if inArr off 0x410 24 0x20 then some { rw := 0x1FFFF, rwb := true }
    else if inArr off 0x414 24 0x20 then some { rw := 0xFFFFFF, rwb := true }
    else if inArr off 0x418 24 0x20 then some { rw := 0x03FF03FF, rwb := true, rst := 0x00200014 }
    else if inArr off 0x41C 24 0x20 then rW 0xFFF 0
    else none
  | .col =>
    if off = 0x100 then some { rw := 0x7F81FFFF, w1s := 0x80000000 }
    else if off = 0x104 then rO 3 0
    else if off = 0x140 ∨ off = 0x144 then rW 0xFFFFFFFF 0
    else if off = 0x180 then some { rw := 0x0F00011F, w1s := 0x80000000 }
    else if off = 0x184 then rO 7 0
    else if inArr off 0x200 24 4 then rO 0x1FF003F 0
    else if inArr off 0x280 24 4 then rO 0xFFFFFF 0
    else if inArr off 0x300 24 4 then rW 0xFFFFFF 0
    else if inArr off 0x380 24 4 then rW 0x1FFF1FFF 0
    else if inArr off 0x400 10 4 then rC
    else none
  | .pmc =>
    if off = 0x100 then some { ro := 0xFF0000, w1s := 3 }
    else if inArr off 0x104 4 4 then some { w1c := 0xFFFFFFFF }
    else if off = 0x114 then rO 0xF 0
    else if inArr off 0x200 128 4 then rW 0xFFFFFFFF 0
    else if inArr off 0x400 128 4 then rW 0xF7 0
    else if inArr off 0x800 128 8 then rW 0xFFFFFFFF 0
    else if inArr off 0x804 128 8 then rW 0xFFFF 0
    else if inArr off 0xC00 128 8 then rO 0xFFFFFFFF 0
    else if inArr off 0xC04 128 8 then rO 0x8000FFFF 0
    else none
  | _ => let _ := inst; none

/-- The registers of the C0 pages and of the IDX pages, at offsets 0x100 and above. -/
def controllerDef (b : Block) (off : Nat) : Option RegDef :=
  match b with
  | .idx =>
    if off = 0x100 then rO 0x31F 0 else if off = 0x104 then rO 0xFF 0
    else if inArr off 0x200 128 4 then rO 0xFFFF7FFF 0 else none
  | .ctl =>
    if off = 0x100 then rW 0xFFFF 0x1F
    else if off = 0x104 then rW 0xFFFFFFFF 0xFFFFFFFF
    else if off = 0x108 then rW 0x7F 0x7F
    else if off = 0x10C then some { ro := 0x3000F, w1s := 0x700 }
    else if off = 0x110 then rO 0xF07 0
    else if off = 0x114 then rO 0xFFFFFFFF 0
    else if off = 0x118 ∨ off = 0x11C then rO 0x1FFF1FFF 0
    else if inArr off 0x120 5 4 then rC
    else if inArr off 0x140 3 4 then rO 0xFFFFFFFF 0
    else if off = 0x150 then rO 0x7F0F0F 0
    else none
  | .thr =>
    if off = 0x100 then rW 1 1
    else if off = 0x104 then rO 0xFF07 0xFE01
    else if inArr off 0x108 5 4 then rC
    else if off = 0x11C then rO 0xFFFFFFFF 0x80008000
    else none
  | .pwr =>
    if off = 0x100 ∨ off = 0x104 then rW 0xFFF 0xD48
    else if off = 0x108 then rW 7 5
    else if off = 0x10C then some { rw := 0xF, ro := 0x0FFF0000, rst := 0x076C0008 }
    else if off = 0x110 then rO 0x1FFF 0
    else if off = 0x114 ∨ off = 0x118 then rO 0xFFFF 0
    else if off = 0x11C then rO 0x1FFF 0
    else if off = 0x120 then some { ro := 0x1FFF, rc := true }
    else if off = 0x128 then rLo
    else if off = 0x12C then rHi
    else if off = 0x130 ∨ off = 0x134 ∨ off = 0x138 then rC
    else if inArr off 0x140 20 4 then rO 0xFFFFFFFF 0
    else none
  | .thm =>
    if off = 0x100 then some { rw := 0xFFFF, ro := 0xFF0000, rst := 0x006E665F }
    else if off = 0x104 then rO 0xFFFFFF0F 0
    else if off = 0x108 then some { ro := 0xFFFF, rc := true, rst := 0x8000 }
    else if off = 0x10C then rO 0xFF00FF 0
    else if off = 0x120 ∨ off = 0x124 then rC
    else if inArr off 0x200 90 4 then rO 0xFFFFFFFF 0x80008000
    else none
  | .clk =>
    if off = 0x100 then rW 7 5
    else if off = 0x104 then some { ro := 0x13, w1s := 0x100 }
    else if off = 0x108 then rC
    else none
  | .rst =>
    if off = 0x100 then some { rw := 0x4F00000F, w1s := 0x80000000 }
    else if off = 0x104 then rO 3 0
    else if off = 0x108 then rO 0xFF0003 0
    else if off = 0x10C then some { w1c := 0x80000000, ro := 0xF000F }
    else if off = 0x110 then rW 0x3FF 0x14
    else none
  | .ras =>
    if off = 0x100 then rW 0x3FFF 0x64
    else if off = 0x104 ∨ off = 0x108 ∨ off = 0x10C then rC
    else if off = 0x110 then some { w1c := 0x80000000, ro := 0x1F0F0000 }
    else if off = 0x114 then rO 0xFFFFFFFF 0
    else if off = 0x118 ∨ off = 0x11C ∨ off = 0x120 then rC
    else none
  | .bnk =>
    if off = 0x100 then some { rw := 0x0F100FFF, w1s := 0x80000000 }
    else if off = 0x104 then rO 3 0
    else if off = 0x108 then rW 0x0FFF0FFF 0
    else if off = 0x10C then rW 0xFFFF 0x3E8
    else if off = 0x110 then rW 0xFFF 0
    else if off = 0x114 then rO 0xFFFF0000 0
    else if off = 0x118 ∨ off = 0x11C ∨ off = 0x120 then rO 0x3FFFFF 0
    else if off = 0x130 then rO 0x1FFF1FFF 0x1000
    else if off = 0x134 then rO 0x7F 0
    else if inArr off 0x140 4 4 then rC
    else if inArr off 0x200 128 4 then rO 0xFFFFFFFF 0
    else none
  | .synC =>
    if off = 0x300 then rW 0xC000007F 0x4000000A
    else if off = 0x304 then rO 0x7FF3FF 0xFF
    else if off = 0x308 ∨ off = 0x30C then rW 0x07FF07FF 0
    else if inArr off 0x310 32 4 then rW 0xFFFFFFFF 0
    else if off = 0x390 then rLo
    else if off = 0x394 then rHi
    else if off = 0x398 ∨ off = 0x39C then rW 0xFFFFFFFF 0
    else if off = 0x3A0 then some { w1s := 1 }
    else if off = 0x3A4 then rO 0xFFFFFFFF 0
    else if off = 0x3A8 ∨ off = 0x3AC then rC
    else if off = 0x3B0 then rW 0x3FF 0
    else if off = 0x3B4 then rO 0xFFFF 0xFFFF
    else none
  | .twn =>
    if off = 0x100 then rW 0xFFFF000D 0xC
    else if off = 0x104 then rW 0x800003FF 0
    else if off = 0x108 then rW 0x8003FFFF 0
    else if off = 0x10C ∨ off = 0x110 then rW 0xFFFF 0xFFFF
    else if off = 0x114 then rW 0x0FFFFFFF 0x04FF0100
    else if off = 0x118 then rW 0x03FF03FF 0x00640064
    else if off = 0x120 then some { rw := 0x0F000000, w1s := 0x80000000 }
    else if off = 0x124 then rO 3 0
    else if off = 0x128 then rO 0x1FFF 0
    else if off = 0x12C ∨ off = 0x130 then rO 0xFFFFFFFF 0
    else if inArr off 0x140 7 4 then rC
    else none
  | .cgmC =>
    if off = 0x100 then rW 0x83003FFF 0x81000040
    else if off = 0x104 then rW 0xFFFF 0xFFFF
    else if off = 0x108 ∨ off = 0x10C then rC
    else none
  | .dmp =>
    if off = 0x100 then rW 0x33 0
    else if off = 0x104 then rW 0xFFFFF 0x64
    else if off = 0x108 then rW 0xFFFF 0xFFFF
    else if off = 0x10C then rW 0xFFFFFFFF 0x03000000
    else if off = 0x110 then rW 0xFFFFFFFF 0x00800000
    else if off = 0x114 then rO 0xFFFFFFFF 0xC440
    else if off = 0x118 then rO 0xFFFFFFFF 0
    else if off = 0x11C then rW 0xFFFFFFFF 0
    else if inArr off 0x120 4 4 then rW 0xFFFFFFFF 0xFFFFFFFF
    else if off = 0x130 then some { rw := 0x03FFFFFF, ro := 0xFC000000, rst := 0x03FFFFFF }
    else if off = 0x140 then rO 0xFFFFFFFF 0
    else if inArr off 0x144 4 4 then rC
    else none
  | .lntC =>
    if off = 0x100 then rW 0x31 0
    else if off = 0x104 then rW 0xFFFF 0xFFFF
    else if off = 0x108 then rW 0xFFFFFFFF 0x001E8480
    else if off = 0x10C then rW 0x3FF 0xA
    else if off = 0x110 then rW 0xFFFFFFFF 0x03800000
    else if off = 0x114 then rW 0xFFFFFFFF 0x00400000
    else if off = 0x118 ∨ off = 0x11C then rO 0xFFFFFFFF 0
    else if off = 0x120 then rW 0xFFFFFFFF 1
    else if off = 0x130 ∨ off = 0x134 ∨ off = 0x138 then rC
    else none
  | .cve =>
    if 0x100 ≤ off ∧ off < 0x900 ∧ off % 4 = 0 then
      let o := (off - 0x100) % 0x40
      if o = 0x00 then rW 0xFFFFFFFF 0x1EDC6F41
      else if o = 0x04 ∨ o = 0x0C ∨ o = 0x14 ∨ o = 0x1C then rW 0xFFFFFFFF 0
      else if o = 0x08 ∨ o = 0x10 then rW 0xFFFFFFFF 0xFFFFFFFF
      else if o = 0x18 then rW 0x003F077F 0x320
      else if o = 0x20 then some { rw := 0xFF, wo := true }
      else if o = 0x24 then some { rw := 0xFFFF, wo := true }
      else if o = 0x28 then some { rw := 0xFFFFFFFF, wo := true }
      else if o = 0x2C then some { w1s := 3 }
      else if o = 0x30 then rW 0xFFFFFFFF 0xFFFFFFFF
      else if o = 0x34 then rW 0xFFFFFFFF 0
      else rO 0xFFFFFFFF 0
    else none
  | _ => none

/-- The register at an offset of a page; none where no register sits (R573). -/
def regDef (b : Block) (inst off : Nat) : Option RegDef :=
  if off % 4 ≠ 0 then none
  else if off < 0x100 then headerDef b off
  else (dataplaneDef b inst off).orElse fun _ => controllerDef b off

/-- Address of a register (R7). -/
def regAddr (die page off : Nat) : Nat := die * 2 ^ 27 + page * 2 ^ 12 + off

/-- Die select of an address. -/
def adDie (a : Nat) : Nat := a / 2 ^ 27 % 32

/-- Page number of an address. -/
def adPage (a : Nat) : Nat := a / 2 ^ 12 % 2 ^ 15

/-- Offset of an address. -/
def adOff (a : Nat) : Nat := a % 2 ^ 12

/-- The page of an address, its offset cleared. -/
def pageBase (a : Nat) : Nat := a % 2 ^ 32 / 2 ^ 12 * 2 ^ 12

/-- The reset value of the register at an address (the Reset column of the chapters' tables); 0 where none sits. -/
def regReset (a : Nat) : Word :=
  match pageOf (adDie a) (adPage a) with
  | none => 0
  | some (b, i) => match regDef b i (adOff a) with
    | none => 0
    | some d => BitVec.ofNat 32 d.rst

end Sys2Proof.Machine
end

