-- ==== Sys2Proof/Machine/State.lean ====
section
/-! DEFINITION. The state of the block: every piece of state the spec gives the part, as plain data; the outcomes; and
the state right after reset. Registers that hold a plain value stand in `regs` under their address (R7); a register that
only shows other state is computed when it is read. -/
namespace Sys2Proof.Machine

/-- No event of the block stops it: the spec gives every command an effect, a refusal status or a discard. -/
inductive Fault where
deriving DecidableEq, Repr

/-- Why the model answers no next state. -/
inductive Refusal where
  /-- Raised by a dispatch arm whose command has no meaning yet, and by no meaning. Safe: nothing is claimed of it. -/
  | notModelled (mnemonic : String)
deriving DecidableEq, Repr

/-- The port states of R142. -/
inductive PState where
  | disabled | down | training | init | quarantine | active | fault
deriving DecidableEq, Repr

/-- The fields of a packet header (R159, R160), each as a number. -/
structure Hdr where
  net : Nat := 0
  tc : Nat := 0
  op : Nat := 0
  mc : Bool := false
  bank : Bool := false
  gen : Nat := 0
  plane : Bool := false
  sw : Bool := false
  dest : Nat := 0
  src : Nat := 0
  job : Nat := 0
  len : Nat := 0
  seq : Nat := 0
  aux : Nat := 0
  hops : Nat := 0
  rsv : Nat := 0
deriving DecidableEq, Repr

/-- STATE and the two pending flags of a page (R551); `keep` while it passes through ENABLING after a QUADRANT reset, which keeps
every table (R558, R559). -/
structure PageSt where
  st : Nat := 0
  pe : Bool := false
  pd : Bool := false
  keep : Bool := false
deriving DecidableEq, Repr

/-- A width darn in progress (R89 to R92): the lane set wanted, when it started, the part's own column count at the switch,
the peer's column count at its switch once its request has come, and whether the set widens. -/
structure Darn where
  set : Nat
  since : Nat
  col : Nat
  peerCol : Option Nat
  widen : Bool
deriving DecidableEq, Repr

/-- The INIT record taken from the peer (R139) and when it arrived. -/
structure InitRec where
  id : Nat
  port : Nat
  sw : Bool
  seen : Bool
  twin : Bool
  kind : Nat
  stamp : Nat
  priv : List Nat
  shared : Nat
  at_ : Nat
deriving DecidableEq, Repr

/-- A port: lane side and link side (chapters 3 and 4). `trained` are the lanes trained since they last lost light in either
direction, `rxTrained` those trained since they last lost it in the receive direction, `col`
the count of slack columns sent and `cols` the data columns since the last of them; `sealDrop` counts the packets whose seal
has failed (R149, R282). -/
structure Port where
  st : PState := .disabled
  lanes : Nat := 0
  trained : Nat := 0
  rxTrained : Nat := 0
  darn : Option Darn := none
  col : Nat := 0
  cols : Nat := 0
  idleAt : Nat := 0
  tackFails : Nat := 0
  cleanAt : Nat := 0
  initAt : Nat := 0
  sentSeen : Bool := false
  gotSeen : Bool := false
  peer : Option InitRec := none
  rtts : List Nat := []
  held : Bool := false
  advPriv : List Nat := []
  advShared : Nat := 0
  peerAdm : Bool := false
  peerTwin : Bool := false
  peerSw : Bool := false
  peerKind : Nat := 0
  latched : Option (Nat × Nat × Nat) := none
  faults : List Nat := []
  activeAt : Nat := 0
  goodAt : Nat := 0
  sealDrop : Nat := 0
deriving DecidableEq, Repr

/-- A stitch of a DATA frame (R119): its virtual channel, the copy it is of, how many bytes of the packet have been sent
with it, whether it is the last, and its bytes. -/
structure Stitch where
  vc : Nat
  copy : Nat
  upto : Nat
  last : Bool
  bytes : List Byte
deriving DecidableEq, Repr

/-- A DATA frame in a replay buffer: its number, its resends, when it was last sent, and its stitches, stitch 0 first. -/
structure RepFrame where
  fseq : Nat
  resends : Nat
  sentAt : Nat
  stitches : List Stitch
deriving DecidableEq, Repr

/-- One end of a link: mend and credits (R125 to R138). `stall` are the virtual channels that lack a credit for a stored stitch, `stallNs`
how long, up to `stallAt`, one of VC0 to VC7 has in the interval that is running (R449). `replayDue` while a replay waits for lanes that
retrain from cold (R99). -/
structure Link where
  txSeq : Nat := 0
  replay : List RepFrame := []
  nakAck : Option Nat := none
  replayEnd : Nat := 0
  replayDue : Bool := false
  rxExp : Nat := 0
  recov : Bool := false
  recovAt : Nat := 0
  nakDue : Bool := false
  ackDue : Bool := false
  priv : List Nat := []
  shared : Nat := 0
  shUse : List Nat := []
  pvUse : List Nat := []
  learned : List Nat := []
  ret : List Nat := []
  told : List Nat := []
  rot : Nat := 0
  withheld : List Nat := []
  deficit : List Nat := []
  turn : Nat := 0
  dryAt : List (Option Nat) := []
  stall : List Nat := []
  stallNs : Nat := 0
  stallAt : Nat := 0
deriving DecidableEq, Repr

/-- A seam: whether it is UP, and from when its time not UP counts (R70). -/
structure Seam where
  up : Bool := false
  since : Nat := 0
deriving DecidableEq, Repr

/-- A ring or cache entry of a hamper: its word, whether its SRAM word holds an uncorrectable error, and whether its LAP bit differed
from HEAD's when it left the ring. -/
structure HEnt where
  w : Nat
  bad : Bool := false
  stale : Bool := false
deriving DecidableEq, Repr

/-- The hamper of one pool (R247 to R249): the cache newest first, and HEAD and TAIL of the ring with their lap bits. The
ring's entries stand in the quadrant's cells. -/
structure Hamper where
  cache : List HEnt := []
  head : Nat := 0
  headLap : Bool := false
  tail : Nat := 0
  tailLap : Bool := false
deriving DecidableEq, Repr

/-- A pool boundary move in progress (R258, R259): the boundary and the signed cell count. -/
structure Move where
  p : Nat
  delta : Int
deriving DecidableEq, Repr

/-- The buffer pool manager of one quadrant (chapter 7), but for the stored packets. `ringMem` holds the ring entries, entry
k of cell x at 64x + k; `links` the cell links of chained cells; `freeing` the chains being freed, each with the packet bytes
from its next cell on; `badRef` and `badLink` the cells whose REF or link cannot be read, `badData` the words of packet data that
cannot, word w of cell x at 32x + w; `visited` how many units of each pool a rebuild has visited; `lastRebuild` when the controller
last rebuilt; `waits` whether stitches were last seen to wait for pool 0 (R455). -/
structure Buf where
  mode : Bool := false
  built : Bool := false
  rebuilding : Bool := false
  visited : List Nat := []
  move : Option Move := none
  hamp : List Hamper := [{}, {}, {}, {}]
  ringMem : SMap HEnt := []
  links : SMap Nat := []
  finder : Nat := 0
  lost : List Nat := []
  freeing : List (Nat × List Nat) := []
  badRef : List Nat := []
  badLink : List Nat := []
  badData : List Nat := []
  gone : List (Nat × Nat × Nat) := []
  errAt : List Nat := []
  trigger : Bool := false
  auto : Bool := false
  lastRebuild : Option Nat := none
  holdUp : Bool := false
  spillUp : Bool := false
  waits : Bool := false
deriving DecidableEq, Repr

/-- Where a packet came into the part. -/
inductive Origin where
  | port (p : Nat)
  | press (d : Nat)
  | ctl
deriving DecidableEq, Repr

/-- Partial delivery of a multicast packet (R221 to R224): the failed ports, why, and the end point to notify. -/
structure Mc where
  failed : List Nat
  aged : Bool
  down : Bool
  notify : Nat
deriving DecidableEq, Repr

/-- A packet in the part: its header as the part sends it, the DEST its arriving seal covers, its arrival stamp and the
nominal width of its ingress port, its payload as far as it has arrived, and once the tail has come its seal and tail code
(0 GOOD, 1 POISONED, 2 STOMPED, 3 SEVERED). `counted` while it is in IN(j, b) (R405). -/
structure Pkt where
  id : Nat
  hdr : Hdr
  oldDest : Nat
  origin : Origin
  entry : Nat
  vc : Nat
  stamp : Nat
  rate : Nat
  payload : List Byte := []
  tailIn : Bool := false
  sealW : Word := 0
  code : Nat := 0
  counted : Bool := false
  mc : Option Mc := none
deriving DecidableEq, Repr

/-- A packet stored in one quadrant's buffer, or waiting for storage in the ingress island (`wait`; R237, R238): its handle,
the mode it was taken in, the cells taken so far and needed, REF, the link its stitches came over and the packet bytes that
have arrived with them, the arrived stitches that still hold a credit, each by the packet byte it ends at, from which byte
on the packet is zeros, the tail code it came with, and whether its tail is stored. -/
structure Store where
  sid : Nat
  q : Nat
  pkt : Nat
  wait : Bool := false
  handle : Nat := 0
  chain : Bool := false
  pooled : Bool := false
  cells : List Nat := []
  need : Nat := 0
  ref : Nat
  rx : Nat
  vc : Nat
  got : Nat := 0
  owed : List Nat := []
  cut : Option Nat := none
  code : Nat := 0
  tailIn : Bool := false
  tailWait : Bool := false
deriving DecidableEq, Repr

/-- What becomes of a copy at the end of its path. -/
inductive Goal where
  | port (p : Nat)
  | press (d ctx : Nat)
  | repl (q : Nat)
  | sync
  | ctl
  | twin
  | time
  | probe
deriving DecidableEq, Repr

/-- A copy of a stored packet: an entry of an output queue (R264), or a transfer to a unit of the part (`link` 2000). It
reads the store `sid`; `sent` packet bytes have left with it. Of a copy that crosses a seam, `got` bytes have been accepted at
the far end, `owed` are the stitches among them that wait there for its head to be taken in, and `into` is the store that
takes it in. From byte `cut` on it goes out as zeros. `counted` once the ports it is for have failed with a lost seam copy
(R221). -/
structure Copy where
  id : Nat
  pkt : Nat
  sid : Nat
  q : Nat
  link : Nat
  vc : Nat
  goal : Goal
  path : List Nat
  sent : Nat := 0
  headSent : Bool := false
  tailSent : Bool := false
  got : Nat := 0
  owed : List Nat := []
  arrived : Bool := false
  into : Option Nat := none
  ended : Bool := false
  zeros : Bool := false
  cut : Option Nat := none
  code : Nat := 0
  counted : Bool := false
deriving DecidableEq, Repr

/-- The packet a receive virtual channel is part way through: the packet, if it is kept, the name its head was given, its
length in bytes, and its bytes so far. -/
structure RxCur where
  pkt : Option Nat
  seen : Nat
  need : Nat
  got : List Byte
deriving DecidableEq, Repr

/-- A receive virtual channel of a port: the packet it is part way through, and the stitches accepted behind it, each with the
fabric time at which it came. -/
structure Rx where
  cur : Option RxCur := none
  queue : List (Nat × List Byte) := []
deriving DecidableEq, Repr

/-- A packet a rinse holds, or that waits behind one, on a port and virtual channel (R412). -/
structure Held where
  port : Nat
  vc : Nat
  pkt : Nat
  island : Nat
deriving DecidableEq, Repr

/-- One edge window (R283 to R288): its epochs oldest first, each with its start and count, and whether it is closed. -/
structure Win where
  epochs : List (Nat × Nat) := []
  closed : Bool := false
deriving DecidableEq, Repr

/-- A job's banks (R403 to R406): the bank of the islands not in `moved`, the flip that is scheduled, the islands that
have taken it, the previous bank while it drains, and whether the job has flipped since reset (R419). -/
structure Job where
  sel : Bool := false
  pend : Option (Bool × Nat) := none
  moved : List Nat := []
  prev : Option Bool := none
  was : Bool := false
deriving DecidableEq, Repr

/-- A LOCAL arrival that a rinse repeats (R413, R414): EPOCH, VOTE, STAMP, and when it was last placed. -/
structure Report where
  epoch : Nat
  vote : Nat
  stamp : Nat
  at_ : Nat
deriving DecidableEq, Repr

/-- A rinse in progress (R411 to R417). -/
structure Rinse where
  job : Nat
  drain : Nat
  swap : Nat
  start : Nat
  phase : Nat
  round : Nat
  reported : Option Report
  rose : Bool
  late : Bool
deriving DecidableEq, Repr

/-- A barrier counter (R376): configuration and runtime state. -/
structure Bar where
  valid : Bool := false
  root : Bool := false
  action : Nat := 0
  swapBank : Bool := false
  job : Nat := 0
  expect : Nat := 0
  parent : Nat := 0
  lead : Nat := 0
  epoch : Nat := 0
  mask : List Nat := []
  loc : Bool := false
  arrived : Nat := 0
  vote : Nat := 0
  stamp : Nat := 0
  wait : Bool := false
  record : Option (List Byte) := none
  resent : List (Nat × Nat) := []
  upAt : Option Nat := none
  since : Nat := 0
  late : Bool := false
  bad : Bool := false
deriving DecidableEq, Repr

/-- A packet handed to a unit of the part: the header, the payload, the port it came in on (1024: the part itself), its
tail code, whether its seal was good, its virtual channel, the fabric time of its first bit at the port, and how many
stitches of it hold a credit until the unit takes it. -/
structure Arr where
  hdr : Hdr
  payload : List Byte
  port : Nat
  code : Nat
  sealOk : Bool
  vc : Nat
  stamp : Nat := 0
  stitches : Nat := 0
deriving DecidableEq, Repr

/-- A packet the part originates in C0, waiting for the injection path (R206); `via` names the one port it must leave
through, `quad` the quadrant it enters where that is fixed (R223). -/
structure OutPkt where
  hdr : Hdr
  payload : List Byte
  code : Nat
  via : Option Nat
  quad : Option Nat := none
deriving DecidableEq, Repr

/-- The fabric time master and its servo (R390 to R397); `was` is the count before it last moved (R391). -/
structure Time where
  ft : Nat := 0
  was : Nat := 0
  frac : Int := 0
  slew : Int := 0
  locked : Bool := false
  holdover : Bool := false
  stage : Nat := 0xFF
  rootId : Nat := 0
  good : Nat := 0
  off : Nat := 0
  lastSync : Nat := 0
  seqs : SMap Nat := []
  offset : Int := 0
deriving DecidableEq, Repr

/-- A template with its tables as a chunk latches them (R352): PRS_CTX_MODE and the seven template registers, the valid
slots with ID word and SCALE, and the members. -/
structure Tmpl where
  mode : Nat
  bind : Nat
  window : Nat
  chunk : Nat
  ops : Nat
  members : Nat
  ownRun : Nat
  timers : Nat
  slots : List (Nat × Nat × Nat)
  mems : List (Nat × Nat)
deriving DecidableEq, Repr

/-- What a slot of an OPEN chunk holds: the segments accepted as (SEG, FIRST, ELEMS, payload), SEG_COUNT, whether the
slot is complete, and whether a segment was refused (R343). -/
structure SlotRec where
  slot : Nat
  segs : List (Nat × Nat × Nat × List Byte)
  count : Nat
  full : Bool
  refused : Bool
deriving DecidableEq, Repr

/-- A chunk record (R353): OPEN or DONE. -/
structure Chunk where
  c : Nat
  done : Bool
  bank : Bool
  tmpl : Tmpl
  slots : List SlotRec
  openAt : Nat
  late : Bool
  poisoned : Bool
deriving DecidableEq, Repr

/-- A packet a press die emits: header, payload, seal and tail code. -/
structure PressPkt where
  hdr : Hdr
  payload : List Byte
  sealW : Word
  code : Nat
deriving DecidableEq, Repr

/-- A retained copy (R358): its chunk, its packets, when it was made, when it was last resent and the packets of that resend. -/
structure Retained where
  gen : Nat
  c : Nat
  bank : Bool
  tmpl : Tmpl
  pkts : List PressPkt
  at_ : Nat
  resentAt : Option Nat
  resends : List Nat
deriving DecidableEq, Repr

/-- A collective context's runtime state (R353, R368). -/
structure Ctx where
  st : Nat := 0
  floor : Nat := 0
  openMax : Nat := 0
  chunks : List Chunk := []
  kept : List Retained := []
  ahead : Bool := false
  noticeAt : Option Nat := none
deriving DecidableEq, Repr

/-- A digest's chunk entry (R437): the CHUNK word, CSTATE, CRC, when it was emitted, and whether it has been sent and
matched. -/
structure DigEnt where
  chunk : Nat
  cstate : Nat
  crc : Nat
  at_ : Nat
  sent : Bool
  matched : Bool
deriving DecidableEq, Repr

/-- The twin unit (chapter 13). -/
structure Twin where
  role : Nat := 0
  peerRole : Nat := 0
  term : Nat := 0
  peerTerm : Nat := 0
  beatSeq : Nat := 0
  peerSeq : Option Nat := none
  lastBeat : Option Nat := none
  lastLink : Option Nat := none
  lastIb : Option Nat := none
  armedAt : Nat := 0
  mismatchAt : Option Nat := none
  clashAt : Option Nat := none
  paired : Bool := false
  partition : Bool := false
  partAt : Nat := 0
  sseq : Nat := 0
  peerSseq : Nat := 0
  ownNotices : Nat := 0
  errs : List Nat := []
  peerErr : Nat := 0
  linkCnt : List Nat := [0, 0, 0]
  ibSeq : SMap Nat := []
  digestSeq : Nat := 0
  own : List DigEnt := []
  peer : List DigEnt := []
  count : SMap Nat := []
  disturbed : List Nat := []
  ownHist : SMap (List (Nat × Bool)) := []
  peerHist : SMap (List (Nat × Bool)) := []
  lastTest : Option Nat := none
  fenceAt : Option Nat := none
  fencedAt : Option Nat := none
  paths : List Bool := [false, false]
  rsCount : Nat := 0
  rsAt : Nat := 0
  rsOn : Bool := false
  rsFloors : List (Nat × Nat) := []
  txOn : Bool := false
  txCount : Nat := 0
  txTail : Option Nat := none
deriving DecidableEq, Repr

/-- A packet that a lint tap has chosen: `copy` at egress, its port, TIME, DISP, SKIPPED and TRUNC (R469, R470), and, once
its tail has passed the tap, its bytes, tail code byte and SEAL code. -/
structure LintRec where
  pkt : Nat
  copy : Option Nat
  port : Nat
  time : Nat
  hdr : Hdr
  disp : Nat
  skipped : Nat
  trunc : Nat := 64
  done : Bool := false
  body : List Byte := []
  tailB : Nat := 0
  sealC : Nat := 0
deriving DecidableEq, Repr

/-- A lint tap's runtime state (R468, R469). -/
structure Tap where
  count : Nat := 0
  skipped : Nat := 0
  due : List LintRec := []
  busy : List LintRec := []
deriving DecidableEq, Repr

/-- A map window that has ended: its end time, W, the ACTIVE ports, the 1,040 level bytes, U, and FLAGS [2:1] (R452). -/
structure WinEnd where
  time : Nat
  w : Nat
  active : List Nat
  levels : List Nat
  shift : Nat
  flags : Nat
deriving DecidableEq, Repr

/-- The dump engine, the congestion maps and the lint forwarder (chapter 14). `cgm` holds the levels of output i of
quadrant q at 260q + i, `cgmAt` when each quadrant's last interval ended; `tokens` counts in units of 10^-9 token; `lvl` says, under
the address of its PMC_CFG, the count of its island's clock from which a counter in level mode has cycles to add (R455), and `clk` when, and
at what count, the clock of island inst of a die was last read, at 32 × die + inst (R63). -/
structure Tele where
  cgm : SMap Nat := []
  cgmAt : SMap Nat := []
  winEnd : Option WinEnd := none
  winW : Nat := 0x40
  gap : Bool := false
  dumpRec : Option (List Byte) := none
  dumpSkipped : Nat := 0
  dumpFirst : Bool := true
  taps : SMap Tap := []
  lintQ : List (Nat × List Byte) := []
  ring : List (Nat × Nat × Nat) := []
  ringWr : Nat := 0
  ringRd : Nat := 0
  tokens : Nat := 0
  tokenAt : Nat := 0
  batchAt : Nat := 0
  dropped : Nat := 0
  lvl : SMap Nat := []
  clk : SMap (Nat × Nat) := []
deriving DecidableEq, Repr

/-- One event queue entry (R513): fabric time, page address, EVT; and the slot it stands in (R487). -/
structure EvEnt where
  time : Nat
  page : Nat
  evt : Nat
  slot : Nat := 0
deriving DecidableEq, Repr

/-- A management command as a request carries it: CODE, ADDR and the argument words (R503). -/
structure MCmd where
  code : Nat
  addr : Nat
  args : List Word
deriving DecidableEq, Repr

/-- Who sent a request and where its response goes (R509). `sided`: SIDE_SEL named this part's side, so it answers in every
role. -/
inductive Requester where
  | thread (src : Nat)
  | inband (src port : Nat) (tc label seq : Nat) (quarantined sided : Bool)
deriving DecidableEq, Repr

/-- A request in a command ring: its commands, the completions so far as (CODE, STATUS, result words), and the number of its next command
while that is in progress (R507). -/
structure Req where
  who : Requester
  tag : Nat
  pass : Bool
  stop : Bool
  cmds : List MCmd
  done : List (Nat × Nat × List Word)
  mute : Bool := false
  busy : Option Nat := none
deriving DecidableEq, Repr

/-- A WAIT in progress: register, MASK, VALUE, TIMEOUT in µs, when it started, the value last read (R504, R591); its number,
and when it joined those that wait (R510). -/
structure Poll where
  addr : Nat
  mask : Nat
  val : Nat
  time : Nat
  start : Nat
  last : Nat
  id : Nat
  seq : Nat
deriving DecidableEq, Repr

/-- The WAITs and the EVENT_WAITs in progress of one domain, oldest first; of an EVENT_WAIT its TIMEOUT in µs, when it
started, and its number (R504, R515). -/
structure Waits where
  polls : List Poll := []
  evs : List (Nat × Nat × Nat) := []
deriving DecidableEq, Repr

/-- A TABLE_LOAD between two of its stints: its operands, the number of entries written (R504, R510, R592); its number, and
when it joined those that wait. -/
structure Load where
  addr : Nat
  source : Nat
  first : Nat
  count : Nat
  cmd : Nat
  words : Nat
  next : Nat
  id : Nat
  seq : Nat
deriving DecidableEq, Repr

/-- C0's management state: rings, stored responses, event queues, firmware, fuses and the thread (chapter 16). -/
structure Mgmt where
  reqs : List (List Req) := [[], []]
  stored : List (List (Requester × Nat × List Byte)) := [[], []]
  evq : List (List EvEnt) := [[], []]
  evLost : List Nat := [0, 0]
  evAt : Nat := 0
  evWr : List Nat := [0, 0]
  seq : Nat := 0
  waits : List Waits := [{}, {}]
  loads : List (List Load) := [[], []]
  turn : Nat := 0
  fw : Nat := 0
  reason : Nat := 0
  fwVersion : Nat := 0
  fwBy : Option (Nat × Nat) := none
  running : Nat := 0
  halted : Bool := false
  watchdog : Bool := false
  keys : List (Option (BitVec 384)) := [none, none]
  revoked : Nat := 0
  floor : Nat := 0
  addr : Option Nat := none
  bypass : Bool := true
  helloAt : Nat := 0
  rxLock : Bool := false
  badSram : List Nat := []
deriving DecidableEq, Repr

/-- Input, power and thermal state (chapter 17). -/
structure Power where
  samples : List Nat := []
  t : Nat := 0
  tTh : Nat := 0
  under : Nat := 0
  cause : Nat := 0
  warn : Bool := false
  high : Bool := false
  vinLow : Bool := false
  energy : Nat := 0
  stage : Option Nat := none
  stageAt : Nat := 0
  off : Bool := false
  below17 : Bool := false
  rails : Nat := 0xFFFFF
  step : Nat := 6
  stepAt : Nat := 0
  fault : List Nat := []
  good : SMap Nat := []
  hotAt : SMap Nat := []
  overAt : SMap Nat := []
  engHot : List Nat := []
  coolAt : Option Nat := none
deriving DecidableEq, Repr

/-- A reset in progress: its kind and target, whether it waits for its ports (R561), the ports whose ADMIT it cleared, and since when. -/
structure ResetRun where
  kind : Nat
  target : Nat
  grace : Bool
  admits : List Nat
  at_ : Nat
deriving DecidableEq, Repr

/-- Resets and clocks (chapter 18). `kind` is the reset in progress, 0 for none; `more` are those of other dies that were accepted
behind it, oldest first (R560). -/
structure Reset where
  kind : Nat := 0
  target : Nat := 0
  grace : Bool := false
  cmd : Bool := false
  admits : List Nat := []
  at_ : Nat := 0
  more : List ResetRun := []
  c0Up : Bool := true
  primOk : Bool := false
  backOk : Bool := false
  backup : Bool := false
  refChosen : Bool := false
  refsLost : Bool := false
  cause : Nat := 0
  resets : Nat := 0
  strapped : Bool := false
  pos : Nat := 0
  side : Bool := false
  livePos : Nat := 0
  liveSide : Bool := false
  scrubAt : Nat := 0
  scrubLate : Bool := false
deriving DecidableEq, Repr

/-- What leaves the part, newest first: the model's own trace. A frame at a port leaves as its columns too, each a block of
32 bytes on every active lane (R78); a slack column has on each lane its lane tag and the column count (R81). -/
inductive Emit where
  | slack (port : Nat) (blocks : List (Nat × Nat × Nat))
  | columns (port : Nat) (cols : List (List (Nat × List Byte)))
  | looped (port : Nat) (frame : Frame)
  | quietNotice (port : Nat)
  | tack (port : Nat)
  | tackRepeat (port : Nat)
  | darnReq (port mask col : Nat)
  | frame (link : Nat) (frame : Frame)
  | head (link vc : Nat) (hdr : BitVec 128)
  | tail (link vc : Nat) (payload : List Byte) (trailer : BitVec 64)
  | reply (port : Nat) (hdr : BitVec 128) (payload : List Byte) (trailer : BitVec 64)
  | read (dom : Dom) (addr : Nat) (val : Word)
  | complete (dom : Dom) (code status : Nat) (words : List Word)
  | response (who : Requester) (bytes : List Byte)
  | thread (bytes : List Byte)
deriving DecidableEq, Repr

/-- Everything inside the part but the queue of commands and C0's SRAM. `ticks` holds the tick that each periodic unit last took
(R391), `busy` until when the GO bit of a command register reads 1 (R226, R370, R371, R400, R419). -/
structure Chip where
  now : Nat
  free : Nat
  ids : Nat
  regs : SMap Word
  latch : SMap Word
  pages : SMap PageSt
  ports : SMap Port
  links : SMap Link
  seams : SMap Seam
  engBad : SMap Nat
  engLock : SMap Nat
  bufs : SMap Buf
  tables : SMap (List Word)
  badEnt : List Nat
  gate : List Bool
  pkts : List Pkt
  stores : List Store
  copies : List Copy
  rx : SMap Rx
  probeIn : List (Nat × Arr)
  held : List Held
  wins : SMap Win
  jobs : SMap Job
  rinses : List Rinse
  bars : SMap Bar
  time : Time
  ticks : SMap Nat
  busy : SMap Nat
  ctxs : SMap Ctx
  pressIn : List (Nat × Arr)
  syncIn : List (Nat × Arr)
  timeIn : List (Nat × Arr)
  twinIn : List (Nat × Arr)
  c0In : List (Nat × Arr)
  c0Out : List OutPkt
  twin : Twin
  tele : Tele
  mgmt : Mgmt
  power : Power
  rst : Reset
  out : List Emit
deriving DecidableEq, Repr

/-- C0 SRAM as a list of the bytes that differ from 0, addresses rising. -/
abbrev Memory := List Host.Cell

/-- The state of the block: the part, C0's SRAM, and the commands that wait, first in first out. -/
structure State where
  chip : Chip
  sram : Memory
  pending : List Instr
deriving DecidableEq, Repr

/-- The part right after reset: the cycle on which every rail is valid and C0 leaves reset (R550); every register at its
reset value, every page OFF but those of R552, the bypass engaged, and the boot ROM waiting for an image. -/
def Chip.reset : Chip where
  now := 0
  free := 0
  ids := 0
  regs := []
  latch := []
  pages := []
  ports := []
  links := []
  seams := []
  engBad := []
  engLock := []
  bufs := []
  tables := []
  badEnt := []
  gate := [true, true, true, true]
  pkts := []
  stores := []
  copies := []
  rx := []
  probeIn := []
  held := []
  wins := []
  jobs := []
  rinses := []
  bars := []
  time := {}
  ticks := []
  busy := []
  ctxs := []
  pressIn := []
  syncIn := []
  timeIn := []
  twinIn := []
  c0In := []
  c0Out := []
  twin := {}
  tele := {}
  mgmt := {}
  power := {}
  rst := {}
  out := []

/-- The block right after reset: the part at reset, SRAM with nothing listed, no command waiting. -/
def State.reset : State where
  chip := Chip.reset
  sram := []
  pending := []

end Sys2Proof.Machine
end

