-- ==== Sys2Proof/Machine/Clock.lean ====
section
/-! DEFINITION. Time: the block's own clock in nanoseconds, and fabric time, which the master advances from the
reference, corrected by the servo (R390, R394). -/
namespace Sys2Proof.Machine

/-- Fabric time after `d` ns of the block's clock: the count advances by `d` corrected by the slew in ppm; what is left below
1 ns is kept, and so is an error below 0 until the count has made it up, for the count never decreases (R390, R394). `was` keeps
where the count stood before it last moved. -/
def Time.advance (t : Time) (d : Nat) : Time :=
  if d = 0 then t else
  let e : Int := t.frac + (d : Int) * (1000000 + t.slew)
  let step := (e / 1000000).toNat
  { t with ft := t.ft + step, frac := e - (step : Int) * 1000000, was := t.ft }

/-- `d` ns pass. The master counts only while C0 is out of reset. -/
def Chip.pass (c : Chip) (d : Nat) : Chip :=
  { c with now := c.now + d, time := if c.rst.c0Up then c.time.advance d else c.time }

/-- The block's clock reaches `t`, if it has not passed it: an event that falls due at `t` happens no earlier. -/
def Chip.till (c : Chip) (t : Nat) : Chip := c.pass (t - c.now)

/-- Time passes until fabric time is at least `t`: what a slew below 0 holds back is waited for again. The first argument
bounds the waits; within 200 ppm six are enough for any time below an hour. -/
def Chip.passTo : Nat → Chip → Nat → Chip
  | 0, c, _ => c
  | n + 1, c, t => if t ≤ c.time.ft then c else Chip.passTo n (c.pass (t - c.time.ft)) t

/-- The block's clock passes until fabric time reaches `t`; while C0 is in reset fabric time stands still. -/
def Chip.untilFabric (c : Chip) (t : Nat) : Chip :=
  if c.rst.c0Up then Chip.passTo 6 c t else c.pass (t - c.time.ft)

/-- A tick of period `p` of one unit, or of one island for it: the tick that fabric time reached when it last moved, if the unit
has yet to take it, otherwise the next one, for which time passes (R391). -/
def Chip.tick (c : Chip) (u p : Nat) : Chip :=
  let p := max p 1
  let k := c.time.ft / p
  let due := decide (c.time.was < k * p) && SMap.getD c.ticks u 0 != k * p
  let c := if due then c else c.untilFabric ((k + 1) * p)
  { c with ticks := SMap.set c.ticks u (c.time.ft / p * p) }

/-- One nanosecond passes in an idle block. DESIGN CHOICE; log entry 2. -/
def idle (s : State) : State := { s with chip := s.chip.pass 1 }

end Sys2Proof.Machine
end

