-- ==== Sys2Proof/Config.lean ====
section
/-! DEFINITION. Free values: what the spec leaves open. None has a body, so nothing can be proved of its value; each is
named in the assumption log. A first argument `n` is the model's counter of fresh values (`free` of the state). -/
namespace Sys2Proof.Config

/-- Which of several equally wide aligned lane sets a darn takes (R89 names the widest, not which of two); log 11. -/
opaque darnTie : (n : Nat) → Nat

/-- The draw of a lint tap's LFSR at a reload (R468 gives its range 1 to 2N − 1, not the LFSR's polynomial); log 12. -/
opaque jitterDraw : (n : Nat) → Nat

/-- The size in ppm of the follower's slew (R394 bounds it by 200 ppm and gives no servo law); log 13. -/
opaque slewPpm : (n : Nat) → Fin 201

/-- The serial number's 12 characters (R47, CTL_SERIAL), per part; log 14. -/
opaque serial : Fin 12 → BitVec 8

/-- SHA-384 of the two factory keys (KEY_HASH 0 and 1 of R498), per part; log 14. -/
opaque factoryKeyHash : Fin 2 → BitVec 384

/-- The commissioned output of a laser source in 0.01 dBm (R88), per part; log 15. -/
opaque commissioned : (engine source : Nat) → Int

/-- A choice between two behaviours that the spec allows (R373: the STAMP of a swap arrival); log 16. -/
opaque pick : (n : Nat) → Nat

/-- A value the spec gives no result for, at a use number and an operand; log 17. -/
opaque anyWord : (n : Nat) → BitVec 32

/-- A word of the SRAM regions whose contents the part keeps for itself and the spec gives no form for (firmware data,
command rings, event queues of R487), at a use number and an offset; log 66. -/
opaque ownWord : (n off : Nat) → BitVec 32

/-- How many units of a pool a rebuild has visited when a unit is freed (R261 gives the whole rebuild 50 µs and no progress); log
entry 67. -/
opaque rebuildAt : (n : Nat) → Nat

/-- The bit errors a locked checker has counted between two readings of LNE_PRBS_ERR (R105): what the line brought; log entry
69. -/
opaque bitErrs : (n : Nat) → Nat

/-- How long the GO bit of a command register reads 1, in ns (R226, R370 and R419 give bounds); log entry 85. -/
opaque goTime : (n : Nat) → Nat

/-- Cycles that an island's clock counts in a time, within the bounds of its rate, and cycles that lanes work on a chunk (R455, R460,
R524, R567); log entry 38. -/
opaque cycleCount : (n : Nat) → Nat

/-- Cycles for which a condition that ended unseen has held, by the PMC_EVT and SUBSEL that select it, among the cycles of its
island between two counts (R455); log entry 38. -/
opaque unseenCycles : (evt sub since upto : Nat) → Nat

end Sys2Proof.Config
end

