-- ==== Sys2Proof/Machine/Ops.lean ====
section
/-! DEFINITION. The named operations over the state: registers by address, pages, ports, links, fresh names and free
values, and C0's SRAM. -/
namespace Sys2Proof.Machine

/-- A change of the part alone: SRAM and the queue stay. -/
def State.onChip (s : State) (f : Chip → Chip) : State := { s with chip := f s.chip }

/-- The next state of a command that changes the part alone. -/
def onChip (s : State) (f : Chip → Chip) : Host.Outcome State Fault Refusal := .next (s.onChip f)

/-! ### Registers -/

/-- The value a register holds: the one written, or its reset value. -/
def Chip.reg (c : Chip) (a : Nat) : Nat := ((SMap.get? c.regs a).getD (regReset a)).toNat

/-- A register takes a value. -/
def Chip.setReg (c : Chip) (a v : Nat) : Chip := { c with regs := SMap.set c.regs a (BitVec.ofNat 32 v) }

/-- Bit `i` of a register. -/
def Chip.regBit (c : Chip) (a i : Nat) : Bool := bit (c.reg a) i

/-- A field of a register takes a value. -/
def Chip.setRegFld (c : Chip) (a hi lo v : Nat) : Chip := c.setReg a (setFld (c.reg a) hi lo v)

/-- Bit `i` of a register takes a value. -/
def Chip.setRegBit (c : Chip) (a i : Nat) (b : Bool) : Chip := c.setReg a (setBit (c.reg a) i b)

/-- A read-to-clear counter goes up by `n`, saturating (the RC counters of every chapter). -/
def Chip.bump (c : Chip) (a n : Nat) : Chip :=
  if n = 0 then c else c.setReg a (min (c.reg a + n) 0xFFFFFFFF)

/-- A 64-bit count at LO `a` and HI `a + 4` goes up by `n` (R11). -/
def Chip.add64 (c : Chip) (a n : Nat) : Chip :=
  let v := (c.reg a + 2 ^ 32 * c.reg (a + 4) + n) % 2 ^ 64
  (c.setReg a (v % 2 ^ 32)).setReg (a + 4) (v / 2 ^ 32)

/-- Every register of a page returns to its reset value. -/
def Chip.resetRegs (c : Chip) (f : Nat → Bool) : Chip := { c with regs := SMap.drop c.regs (fun k => f (k % 2 ^ 32)) }

/-! ### Pages (R551) -/

/-- Key of a page: its address without the offset. -/
def pageKey (die page : Nat) : Nat := die * 2 ^ 15 + page

/-- STATE and the pending flags of a page; the pages of R552 come out of reset ON. -/
def Chip.page (c : Chip) (k : Nat) : PageSt :=
  (SMap.get? c.pages k).getD <|
    match pageOf (k / 2 ^ 15 % 32) (k % 2 ^ 15) with
    | some (b, _) => if alwaysOn b then { st := 2 } else {}
    | none => {}

/-- A page takes a STATE. -/
def Chip.setPage (c : Chip) (k : Nat) (p : PageSt) : Chip := { c with pages := SMap.set c.pages k p }

/-- The page is ON. -/
def Chip.isOn (c : Chip) (die page : Nat) : Bool := (c.page (pageKey die page)).st == 2

/-- The block of a page works: it is ON, or finishes in DISABLING what it holds (R553, R556). -/
def Chip.works (c : Chip) (die page : Nat) : Bool :=
  (c.page (pageKey die page)).st == 2 || (c.page (pageKey die page)).st == 3

/-- The pages that a page needs ON (R554), as die and page number. -/
def needs (die page : Nat) : List (Nat × Nat) :=
  let qx (q : Nat) : List (Nat × Nat) := [(q, 0x45), (q, 0x46)]
  match pageOf die page with
  | some (.que, _) | some (.xbr, _) => [(die, 0x44)]
  | some (.semQ, i) => if i = 3 then qx die else qx die ++ qx (((List.range 4).filter (· != die)).getD i 0)
  | some (.semP, _) => qx (die - 4)
  | some (.lne, i) => [(8 + 4 * die + i / 4, 0x40)]
  | some (.lnk, i) | some (.win, i) => (die, 0x10 + i) :: qx die
  | some (.edg, _) | some (.rte, _) | some (.peg, _) | some (.mcg, _) => qx die
  | some (.synQ, _) | some (.cgmQ, _) | some (.lntQ, _) => qx die
  | some (.prs, _) | some (.col, _) => [(die - 4, 0x53), (die, 0x50)]
  | _ => []

/-- Every page of the part but those that need none and that none needs. -/
def linkedPages : List (Nat × Nat) :=
  (List.range 4).flatMap (fun q =>
    ((List.range 0x60).filter (fun p => p != 0 && (pageOf q p).isSome)).map (fun p => (q, p))) ++
  (List.range 4).flatMap (fun p => [(4 + p, 0x40), (4 + p, 0x41), (4 + p, 0x50)])

/-- The pages that need a page. -/
def dependents (die page : Nat) : List (Nat × Nat) :=
  linkedPages.filter (fun dp => (needs dp.1 dp.2).contains (die, page))

/-- Every page that a page needs is ON. -/
def Chip.needsOn (c : Chip) (die page : Nat) : Bool := (needs die page).all (fun dp => c.isOn dp.1 dp.2)

/-- A page in ENABLING with PENDING_DISABLE set goes OFF once a page that it needs is not ON (R553). -/
def Chip.dropPending (c : Chip) (die page : Nat) : Chip :=
  (dependents die page).foldl (fun c dp =>
    let k := pageKey dp.1 dp.2
    if (c.page k).st = 1 ∧ (c.page k).pd then c.setPage k {} else c) c

/-- Where the part keeps that a page has been in FAULT for a reason that only a wider reset clears: a SEM page until a
reset of the part (R70, R557), a QUE page until a QUADRANT reset (R564). -/
def scar (die page : Nat) : Nat := regAddr die page 0 + 2 ^ 34

/-- The mark of a QUE page whose state has been cleared since, with good check bits in every word (R554). -/
def scarClean : Word := 0xFFFFFFFF

/-- The page bears the mark of such a FAULT. -/
def Chip.scarred (c : Chip) (die page : Nat) : Bool := SMap.getD c.regs (scar die page) 0 != 0

/-! ### Ports and links -/

/-- Quadrant of a port. -/
def quadOf (p : Nat) : Nat := p / 256

/-- The LNK register of a port in an array at `base` (one register per local port). -/
def lnkReg (p base : Nat) : Nat := regAddr (p / 256) (0x20 + p % 256 / 16) (base + 4 * (p % 16))

/-- The LNK page of a port. -/
def lnkPage (p : Nat) : Nat := regAddr (p / 256) (0x20 + p % 256 / 16) 0

/-- The LNE page of a port. -/
def lnePage (p : Nat) : Nat := regAddr (p / 256) (0x10 + p % 256 / 16) 0

/-- The WIN page of a port. -/
def winPage (p : Nat) : Nat := regAddr (p / 256) (0x30 + p % 256 / 16) 0

/-- A port. -/
def Chip.port (c : Chip) (p : Nat) : Port := SMap.getD c.ports p {}

/-- A port takes a value. -/
def Chip.setPort (c : Chip) (p : Nat) (v : Port) : Chip := { c with ports := SMap.set c.ports p v }

/-- A change of one port. -/
def Chip.onPort (c : Chip) (p : Nat) (f : Port → Port) : Chip := c.setPort p (f (c.port p))

/-- The port is ACTIVE (R142). -/
def Chip.active (c : Chip) (p : Nat) : Bool := (c.port p).st == .active

/-- The number of a port state (R142). -/
def PState.code : PState → Nat
  | .disabled => 0 | .down => 1 | .training => 2 | .init => 3 | .quarantine => 4 | .active => 5 | .fault => 6

/-- A port is not trained: DISABLED, DOWN, TRAINING or FAULT (R75). -/
def PState.untrained : PState → Bool
  | .disabled | .down | .training | .fault => true
  | _ => false

/-- Keys of links: a port, the seam end `i` of a quadrant, the press end of a press seam; `localLink` for transfers to a
unit of the part itself. -/
def seamLink (q i : Nat) : Nat := 1024 + 4 * q + i

/-- The press die's end of its press seam. -/
def ppLink (d : Nat) : Nat := 1040 + d

/-- The pseudo link of a copy that goes to a unit of the part. -/
def localLink : Nat := 2000

/-- The key of a link end. -/
def linkKey : LinkId → Nat
  | .port p => p.val
  | .seam q i => seamLink q.val i.val
  | .pp d => ppLink d.val

/-- A link end. -/
def Chip.link (c : Chip) (k : Nat) : Link := SMap.getD c.links k {}

/-- A change of one link end. -/
def Chip.onLink (c : Chip) (k : Nat) (f : Link → Link) : Chip :=
  { c with links := SMap.set c.links k (f (c.link k)) }

/-- The other quadrants, ascending: seam instance i of a quadrant faces the i-th (R59). -/
def peers (q : Nat) : List Nat := (List.range 4).filter (· != q)

/-- The seam instance of quadrant `q` that faces quadrant `r`. -/
def seamTo (q r : Nat) : Nat := if r < q then r else r - 1

/-- The seam key of two quadrants: 01, 02, 03, 12, 13, 23. -/
def quadSeam (a b : Nat) : Nat :=
  let x := min a b
  let y := max a b
  if x = 0 then y - 1 else if x = 1 then y + 1 else 5

/-- The quadrants that a seam key joins; for a press seam its quadrant twice. -/
def seamEnds (k : Nat) : Nat × Nat :=
  match k with
  | 0 => (0, 1) | 1 => (0, 2) | 2 => (0, 3) | 3 => (1, 2) | 4 => (1, 3) | 5 => (2, 3)
  | k => (k - 6, k - 6)

/-- The key of a seam. -/
def seamKey : SeamId → Nat
  | .quad k => k.val
  | .press d => 6 + d.val

/-- The seam of a seam link end; none for a port. -/
def seamOf (l : Nat) : Option Nat :=
  if 1024 ≤ l ∧ l < 1040 then
    let q := (l - 1024) / 4
    let i := (l - 1024) % 4
    if i = 3 then some (6 + q) else some (quadSeam q ((peers q).getD i 0))
  else if 1040 ≤ l ∧ l < 1044 then some (6 + (l - 1040)) else none

/-- The link end at the far side of a seam link end. -/
def farEnd (l : Nat) : Nat :=
  if 1040 ≤ l then seamLink (l - 1040) 3
  else
    let q := (l - 1024) / 4
    let i := (l - 1024) % 4
    if i = 3 then ppLink q
    else
      let r := (peers q).getD i 0
      seamLink r (seamTo r q)

/-- The SEM pages at both ends of a seam. -/
def semPages (k : Nat) : List (Nat × Nat) :=
  if k < 6 then
    let e := seamEnds k
    [(e.1, 0x50 + seamTo e.1 e.2), (e.2, 0x50 + seamTo e.2 e.1)]
  else [(k - 6, 0x53), (k - 2, 0x50)]

/-- A seam. -/
def Chip.seam (c : Chip) (k : Nat) : Seam := SMap.getD c.seams k {}

/-- A change of one seam. -/
def Chip.onSeam (c : Chip) (k : Nat) (f : Seam → Seam) : Chip :=
  { c with seams := SMap.set c.seams k (f (c.seam k)) }

/-- Both SEM pages of the seam are ON. -/
def Chip.semOn (c : Chip) (k : Nat) : Bool := (semPages k).all (fun dp => c.isOn dp.1 dp.2)

/-- The seam is in FAULT: its SEM pages are. -/
def Chip.seamFaulted (c : Chip) (k : Nat) : Bool :=
  (semPages k).any (fun dp => (c.page (pageKey dp.1 dp.2)).st == 4)

/-- The seam may carry new flows: UP, not in FAULT, both SEM pages ON (R214). -/
def Chip.seamUsable (c : Chip) (k : Nat) : Bool := (c.seam k).up && !c.seamFaulted k && c.semOn k

/-- The quadrant a link end belongs to; a press end belongs to the quadrant of its press die. -/
def linkQuad (l : Nat) : Nat := if l < 1024 then l / 256 else if l < 1040 then (l - 1024) / 4 else l - 1040

/-- Where the SEM registers of a seam link end stand. -/
def semPage (l : Nat) : Nat :=
  if 1040 ≤ l then regAddr (l - 1036) 0x50 0 else regAddr ((l - 1024) / 4) (0x50 + (l - 1024) % 4) 0

/-! ### Buffers, contexts, jobs, taps -/

/-- The buffer pool manager of a quadrant. -/
def Chip.buf (c : Chip) (q : Nat) : Buf := SMap.getD c.bufs q {}

/-- A change of one quadrant's buffer pool manager. -/
def Chip.onBuf (c : Chip) (q : Nat) (f : Buf → Buf) : Chip := { c with bufs := SMap.set c.bufs q (f (c.buf q)) }

/-- The BUF page of a quadrant. -/
def bufPage (q : Nat) : Nat := regAddr q 0x44 0

/-- The QUE page of a quadrant. -/
def quePage (q : Nat) : Nat := regAddr q 0x45 0

/-- A collective context, numbered 24 × die + context. -/
def Chip.ctx (c : Chip) (k : Nat) : Ctx := SMap.getD c.ctxs k {}

/-- A change of one context. -/
def Chip.onCtx (c : Chip) (k : Nat) (f : Ctx → Ctx) : Chip := { c with ctxs := SMap.set c.ctxs k (f (c.ctx k)) }

/-- A job's banks. -/
def Chip.job (c : Chip) (j : Nat) : Job := SMap.getD c.jobs j {}

/-- A change of one job's banks. -/
def Chip.onJob (c : Chip) (j : Nat) (f : Job → Job) : Chip := { c with jobs := SMap.set c.jobs j (f (c.job j)) }

/-- A barrier counter. -/
def Chip.bar (c : Chip) (b : Nat) : Bar := SMap.getD c.bars b {}

/-- A change of one barrier counter. -/
def Chip.onBar (c : Chip) (b : Nat) (f : Bar → Bar) : Chip := { c with bars := SMap.set c.bars b (f (c.bar b)) }

/-! ### Free values, names and the trace -/

/-- The number of the next free value, and the state with it used. -/
def Chip.fresh (c : Chip) : Nat × Chip := (c.free, { c with free := c.free + 1 })

/-- A new name for a packet or a copy. -/
def Chip.newId (c : Chip) : Nat × Chip := (c.ids, { c with ids := c.ids + 1 })

/-- Something leaves the part. -/
def Chip.emit (c : Chip) (e : Emit) : Chip := { c with out := e :: c.out }

/-- A change repeated over a list. -/
def Chip.each {α : Type} (c : Chip) (l : List α) (f : Chip → α → Chip) : Chip := l.foldl f c

/-! ### C0 SRAM (R487) -/

/-- The byte at an SRAM offset; a byte nothing has written reads 0 (DESIGN CHOICE; log entry 3). -/
def Memory.byte : Memory → Nat → Byte
  | [], _ => 0
  | (k, v) :: t, a => if k = a then v else if a < k then 0 else Memory.byte t a

/-- One byte is written; writing 0 removes the entry, so equal contents are equal lists. -/
def Memory.put : Memory → Nat → Byte → Memory
  | [], a, v => if v = 0 then [] else [(a, v)]
  | (k, w) :: t, a, v =>
    if a < k then (if v = 0 then (k, w) :: t else (a, v) :: (k, w) :: t)
    else if a = k then (if v = 0 then t else (a, v) :: t)
    else (k, w) :: Memory.put t a v

/-- Bytes are written at rising offsets from `a`. -/
def Memory.putAll (m : Memory) (a : Nat) : List Byte → Memory
  | [] => m
  | b :: t => Memory.putAll (m.put a b) (a + 1) t

/-- `n` bytes from offset `a`. -/
def Memory.bytes (m : Memory) (a n : Nat) : List Byte := (List.range n).map (fun i => m.byte (a + i))

/-- The little-endian word at offset `a` (R9). -/
def Memory.word (m : Memory) (a : Nat) : Word := BitVec.ofNat 32 (ofLe (m.bytes a 4))

/-- The canonical form: offsets strictly rising, no byte equal to the 0 that an unlisted offset reads as. -/
def Memory.wf : Memory → Bool
  | [] => true
  | [x] => x.2 != 0
  | x :: y :: t => x.2 != 0 && decide (x.1 < y.1) && Memory.wf (y :: t)

/-- Size of C0 SRAM: 64 MiB (R486). -/
def sramSize : Nat := 0x4000000

/-- A range of SRAM that MEM_WRITE may write: staging, free, and the image region while the boot ROM runs (R487). DEDUCED:
"the rest free" is what follows the two rings at their reset places; log entry 18. -/
def sramWritable (romRuns : Bool) (a n : Nat) : Bool :=
  let inside (lo hi : Nat) : Bool := lo ≤ a && a + n ≤ hi
  inside 0x2E00000 0x3000000 || inside 0x3C00000 0x4000000 || (romRuns && inside 0 0x2000000)

end Sys2Proof.Machine
end

