-- ==== Sys2Proof/Machine/Flags.lean ====
section
/-! DEFINITION. The status a page shows: event bits and the signals they raise (R513, R577), recorded errors (R578,
R579), and the performance counters that events of the block drive (R454 to R460). -/
namespace Sys2Proof.Machine

/-- A default policy of the controller may act: its firmware runs, and its bit of CTL_POLICY is 1 (R50, R516, R517). -/
def Chip.policy (c : Chip) (i : Nat) : Bool :=
  c.rst.c0Up && c.mgmt.fw == 3 && !c.mgmt.halted && c.regBit (regAddr 24 1 0x108) i

/-- The SCRUB policy begins to act, or acts again: its pass starts here (R517, R566). -/
def Chip.scrubStarts (was c : Chip) : Chip :=
  if c.policy 5 && !was.policy 5 then { c with rst := { c.rst with scrubAt := c.now, scrubLate := false } } else c

/-- Class of a page's own registers is granted to the fabric domain (R502). -/
def Chip.granted (c : Chip) (cls : Nat) : Bool := cls < 16 && c.regBit (regAddr 24 1 0x100) cls

/-- The class of the page at an address. -/
def classAt (pa : Nat) : Nat :=
  match pageOf (adDie pa) (adPage pa) with
  | some (b, _) => pageClass b
  | none => 0xFF

/-- EVT bits of a page are set; the page signals when EVT AND EVT_EN rises from 0 (R513, R577). Answers the state and
whether the signal rose. -/
def Chip.setEvt (c : Chip) (pa bits : Nat) : Chip × Bool :=
  let evt := c.reg (pa + 0x18)
  let en := c.reg (pa + 0x1C)
  let evt' := evt ||| bits
  (if evt' = evt then c else c.setReg (pa + 0x18) evt', evt &&& en == 0 && evt' &&& en != 0)

/-- The next free slot of an event queue of 1,024 entries; the first argument bounds the slots looked at (R487). -/
def freeSlot : Nat → List EvEnt → Nat → Nat
  | 0, _, s => s
  | n + 1, q, s => if q.any (·.slot == s) then freeSlot n q ((s + 1) % 1024) else s

/-- One entry joins an event queue of 1,024, in the next slot of its place in C0's SRAM, or is dropped and counted (R487, R513, R514).
Answers whether it was dropped. DEDUCED: the slots fill in turn from the first; log entry 66. -/
def Chip.pushEvent (c : Chip) (d : Nat) (e : EvEnt) : Chip × Bool :=
  let q := c.mgmt.evq.getD d []
  if q.length < 1024 then
    let slot := freeSlot 1024 q (c.mgmt.evWr.getD d 0)
    ({ c with mgmt := { c.mgmt with
        evq := c.mgmt.evq.set d (q ++ [{ e with slot := slot }]),
        evWr := c.mgmt.evWr.set d ((slot + 1) % 1024),
        evAt := if d = 0 ∧ q = [] then c.now else c.mgmt.evAt } }, false)
  else
    (({ c with mgmt := { c.mgmt with evLost := c.mgmt.evLost.set d (c.mgmt.evLost.getD d 0 + 1) } }).bump
      (regAddr 24 1 0x120) 1, true)

/-- A page's signal has risen: its entry goes to the owner's queue, and to the fabric domain's when the page's class is
granted (R513). Answers whether an entry was dropped. -/
def Chip.signal (c : Chip) (pa : Nat) : Chip × Bool :=
  let e : EvEnt := { time := c.time.ft, page := pa, evt := c.reg (pa + 0x18) }
  let r := c.pushEvent 0 e
  if r.1.granted (classAt pa) then
    let r' := r.1.pushEvent 1 e
    (r'.1, r.2 || r'.2)
  else r

/-- Events of a page: bits are set, a rising signal is queued, and a dropped entry raises EVT_LOST of the CTL page
(R513, R514). While C0 is in reset nothing is queued. -/
def Chip.raise (c : Chip) (pa bits : Nat) : Chip :=
  let r := c.setEvt pa bits
  if r.2 && c.rst.c0Up then
    let s := r.1.signal pa
    if s.2 then
      let t := s.1.setEvt (regAddr 24 1 0) 4
      if t.2 then (t.1.signal (regAddr 24 1 0)).1 else t.1
    else s.1
  else r.1

/-- An error is recorded in a page: ERR_COUNT goes up, ERR_SYNDROME takes the detail, ERR_FIRST fills while VALID is 0
(R578, R579). -/
def Chip.recordErr (c : Chip) (pa cause off syn : Nat) (fabric : Bool) : Chip :=
  let c := (c.bump (pa + 0x28) 1).setReg (pa + 0x2C) syn
  if c.regBit (pa + 0x24) 31 then c
  else c.setReg (pa + 0x24) (2 ^ 31 + put (b2n fabric) 30 + put cause 24 + off)

/-- A fence-class event is noted (R436). -/
def Chip.fenceEvent (c : Chip) : Chip := { c with twin := { c.twin with errs := c.now :: c.twin.errs } }

/-- An uncorrectable error is found, in a die's memory of a code of R564: counted, kept as the last one, raised, and a fence-class
event (R436, R563). -/
def Chip.countUe (c : Chip) (die memory index : Nat) : Chip :=
  let c := c.bump (regAddr 24 7 0x108) 1
  let c := (c.setReg (regAddr 24 7 0x110) (2 ^ 31 + put die 24 + put memory 16)).setReg (regAddr 24 7 0x114) (index % 2 ^ 32)
  c.fenceEvent.raise (regAddr 24 7 0) 1

/-- The part has a free value drawn; see `Config`. -/
def Chip.draw (c : Chip) (f : Nat → Nat) : Nat × Chip := (f c.free, { c with free := c.free + 1 })

/-! ### Performance counters -/

/-- The value of counter `i` of a PMC page. -/
def Chip.pmcVal (c : Chip) (pa i : Nat) : Nat := c.reg (pa + 0x800 + 8 * i) + 2 ^ 32 * c.reg (pa + 0x804 + 8 * i)

/-- Counter `i` takes a value. -/
def Chip.setPmcVal (c : Chip) (pa i v : Nat) : Chip :=
  (c.setReg (pa + 0x800 + 8 * i) (v % 2 ^ 32)).setReg (pa + 0x804 + 8 * i) (v / 2 ^ 32 % 2 ^ 16)

/-- A counter adds 1; on a wrap its bit in PMC_OVF is set and OVF raised (R458). Answers whether it wrapped. -/
def Chip.pmcStep (c : Chip) (pa i : Nat) (ovf : Bool) : Chip × Bool :=
  let v := c.pmcVal pa i + 1
  if v < 2 ^ 48 then (c.setPmcVal pa i v, false)
  else
    let c := c.setPmcVal pa i 0
    if ovf then
      let o := pa + 0x104 + 4 * (i / 32)
      ((c.setRegBit o (i % 32) true).raise pa 1, true)
    else (c, true)

/-- Counter `i` is the enabled high half of a chain (R457). -/
def Chip.pmcHigh (c : Chip) (pa i : Nat) : Bool :=
  i % 2 == 1 && c.regBit (pa + 0x400 + 4 * i) 2 && c.regBit (pa + 0x400 + 4 * i) 0

/-- Counter `i` is odd with CHAIN 1: it counts carries alone (R457). -/
def Chip.pmcChained (c : Chip) (pa i : Nat) : Bool := i % 2 == 1 && c.regBit (pa + 0x400 + 4 * i) 2

/-- Counter `i` counts once, with the carry into a chain's high half (R457, R458). -/
def Chip.pmcCount (c : Chip) (pa i : Nat) : Chip :=
  let chained := i % 2 == 0 && c.pmcChained pa (i + 1)
  let r := c.pmcStep pa i (!chained)
  if r.2 && i % 2 == 0 && r.1.pmcHigh pa (i + 1) then (r.1.pmcStep pa (i + 1) true).1 else r.1

/-- The counters of a PMC page that a register write has configured: only those can be enabled. -/
def Chip.pmcSet (c : Chip) (pa : Nat) : List Nat :=
  (c.regs.filter (fun kv => decide (pa + 0x400 ≤ kv.1) && decide (kv.1 < pa + 0x600) && kv.2.getLsbD 0)).map
    (fun kv => (kv.1 - pa - 0x400) / 4)

/-- Counter `i` counts events of `code` with qualifier `qual`; `sub` is the local port or context group the event is of,
where SUBSEL selects one (R454). -/
def Chip.pmcMatch (c : Chip) (pa code : Nat) (qual sub : Option Nat) (i : Nat) : Bool :=
  let e := c.reg (pa + 0x200 + 4 * i)
  let cfg := c.reg (pa + 0x400 + 4 * i)
  !c.pmcChained pa i && fld e 15 0 == code &&
    (match qual with | none => true | some k => bit e (16 + k)) &&
    (match sub with | none => true | some n => fld cfg 7 4 == n)

/-- One pulse of an event in an island: every enabled counter that selects it adds 1, in either mode, since a pulse lasts
one cycle (R455, R460). A page that is not ON does no work (R553). -/
def Chip.pmc (c : Chip) (die inst code : Nat) (qual sub : Option Nat) : Chip :=
  let pa := regAddr die (0x60 + inst) 0
  if c.isOn die (0x60 + inst) then
    ((c.pmcSet pa).filter (c.pmcMatch pa code qual sub)).foldl (fun c i => c.pmcCount pa i) c
  else c

/-- `n` pulses of an event. -/
def Chip.pmcN (c : Chip) : (n : Nat) → (die inst code : Nat) → (qual sub : Option Nat) → Chip
  | 0, _, _, _, _, _ => c
  | n + 1, die, inst, code, qual, sub => (c.pmc die inst code qual sub).pmcN n die inst code qual sub

/-! #### Level mode (R455)

A counter in level mode counts the cycles of its island's clock on which its event is true. `tele.lvl` holds, under the address of
its PMC_CFG, the count of that clock from which a running counter has cycles to add; they are added when the condition is seen to
change and before the counter is read, captured or set. All counters of an island are read on one cycle: they share its clock (R63). -/

/-- Cycles in 20 ns of an island's clock at its nominal rate, by die and PMC instance (chapter 2, R453). -/
def islandRate (die inst : Nat) : Nat :=
  match dieKind die with
  | some .quad => 35
  | some .press => 40
  | some .engine => 10
  | some .ctrl => if inst < 4 then 24 else if inst = 4 then 12 else 2
  | none => 0

/-- A throttle level slows the island (R524). -/
def islandReduced (die inst : Nat) : Bool :=
  match dieKind die with
  | some .quad => 16 ≤ inst && inst != 17
  | some .press => true
  | _ => false

/-- The fewest cycles that an island counts in `ns` ns: a reference up to 500 ppm slow, the deepest spread, and half the rate where
a throttle level acts (R524, R567, R568). -/
def cyclesMin (die inst ns : Nat) : Nat := ns * islandRate die inst / 20 * 994 / 1000 / (if islandReduced die inst then 2 else 1)

/-- The most cycles that an island counts in `ns` ns. -/
def cyclesMax (die inst ns : Nat) : Nat := ns * islandRate die inst / 20 + ns * islandRate die inst / 40000 + 1

/-- The clock of an island is read: it has counted a free number of cycles, within its bounds, since it was last read; at one time it
has one count (R63). DESIGN CHOICE; log entry 38. -/
def Chip.islandClock (c : Chip) (die inst : Nat) : Nat × Chip :=
  let k := 32 * die + inst
  let was := SMap.getD c.tele.clk k (0, 0)
  if c.now ≤ was.1 then (was.2, c)
  else
    let ns := c.now - was.1
    let lo := cyclesMin die inst ns
    let r := c.draw Config.cycleCount
    let n := was.2 + lo + r.1 % (cyclesMax die inst ns + 1 - lo)
    (n, { r.2 with tele := { r.2.tele with clk := SMap.set r.2.tele.clk k (c.now, n) } })

/-- Counter `i` adds `n`, with the wrap of R457 and R458 where it passes its largest value. -/
def Chip.pmcAdd (c : Chip) (pa i n : Nat) : Chip :=
  let n := n % 2 ^ 48
  let v := c.pmcVal pa i + n
  if n = 0 then c
  else if v < 2 ^ 48 then c.setPmcVal pa i v
  else ((c.setPmcVal pa i (2 ^ 48 - 1)).pmcCount pa i).setPmcVal pa i (v - 2 ^ 48)

/-- The count of its island's clock from which a counter in level mode has cycles to add. -/
def Chip.levelAt (c : Chip) (pa i : Nat) : Option Nat := SMap.get? c.tele.lvl (pa + 0x400 + 4 * i)

/-- A counter in level mode counts from now on. -/
def Chip.levelFrom (c : Chip) (pa i : Nat) : Chip :=
  let r := c.islandClock (adDie pa) (adPage pa - 0x60)
  { r.2 with tele := { r.2.tele with lvl := SMap.set r.2.tele.lvl (pa + 0x400 + 4 * i) r.1 } }

/-- The cycles of a counter in level mode up to now are added, and it stops; `whole` where its condition has held all the time. -/
def Chip.levelAdd (c : Chip) (pa i : Nat) (whole : Bool) : Chip :=
  match c.levelAt pa i with
  | none => c
  | some t =>
    let r := c.islandClock (adDie pa) (adPage pa - 0x60)
    let n := if whole then r.1 - t
      else Config.unseenCycles (c.reg (pa + 0x200 + 4 * i)) (fld (c.reg (pa + 0x400 + 4 * i)) 7 4) t r.1 % (r.1 + 1 - t)
    Chip.pmcAdd { r.2 with tele := { r.2.tele with lvl := SMap.del r.2.tele.lvl (pa + 0x400 + 4 * i) } } pa i n

/-- A lasting condition changes: an edge-mode counter adds 1 when its condition, over its qualifiers, was false and is
true; a level-mode counter adds the cycles of the time it was true, and counts on while it is (R455). `was` and `is` list the
qualifiers for which it holds, `sub` is what SUBSEL must select (R454). -/
def Chip.pmcEdgeOf (c : Chip) (die inst code : Nat) (sub : Option Nat) (was is : List Nat) : Chip :=
  let pa := regAddr die (0x60 + inst) 0
  let holds (l : List Nat) (i : Nat) : Bool :=
    l.any (fun k => code == 0x3003 || code == 0xC001 || bit (c.reg (pa + 0x200 + 4 * i)) (16 + k))
  if c.isOn die (0x60 + inst) then
    ((c.pmcSet pa).filter (c.pmcMatch pa code none sub)).foldl (fun c i =>
      if c.regBit (pa + 0x400 + 4 * i) 1 then (if !holds was i && holds is i then c.pmcCount pa i else c)
      else
        let c := c.levelAdd pa i (holds was i)
        if holds is i then c.levelFrom pa i else c) c
  else c

/-- The change of a lasting condition that SUBSEL does not qualify. -/
def Chip.pmcEdge (c : Chip) (die inst code : Nat) (was is : List Nat) : Chip := c.pmcEdgeOf die inst code none was is

/-- A discard in a port's island: 0 protocol, 1 rank miss, 2 no route, 3 no path, 4 group miss, 5 quarantine, 6 TC3 gate,
7 held and aged (R460, event 0x1007). -/
def Chip.pmcDiscard (c : Chip) (port why : Nat) : Chip :=
  c.pmc (port / 256) (port % 256 / 16) 0x1007 (some why) none

end Sys2Proof.Machine
end

