-- ==== Sys2Proof/Machine/Operands.lean ====
section
/-! DEFINITION. The forms that commands carry: packet headers and trailers, seals, the peg hash, opcodes, targets and link
frames (chapters 4, 5 and 6). -/
namespace Sys2Proof.Machine

/-! ### Headers (R157 to R160) -/

/-- The header that 128 bits spell. -/
def Hdr.ofBits (b : BitVec 128) : Hdr :=
  let n := b.toNat
  { net := fld n 1 0, tc := fld n 3 2, op := fld n 9 4, mc := bit n 10, bank := bit n 11, gen := fld n 13 12,
    plane := bit n 14, sw := bit n 15, dest := fld n 31 16, src := fld n 47 32, job := fld n 59 48,
    len := fld n 73 60, seq := fld n 97 74, aux := fld n 121 98, hops := fld n 125 122, rsv := fld n 127 126 }

/-- The bits of a header. -/
def Hdr.nat (h : Hdr) : Nat :=
  h.net % 4 + put (h.tc % 4) 2 + put (h.op % 64) 4 + put (b2n h.mc) 10 + put (b2n h.bank) 11 + put (h.gen % 4) 12 +
  put (b2n h.plane) 14 + put (b2n h.sw) 15 + put (h.dest % 2 ^ 16) 16 + put (h.src % 2 ^ 16) 32 +
  put (h.job % 2 ^ 12) 48 + put (h.len % 2 ^ 14) 60 + put (h.seq % 2 ^ 24) 74 + put (h.aux % 2 ^ 24) 98 +
  put (h.hops % 16) 122 + put (h.rsv % 4) 126

/-- The 16 header bytes in order (R157). -/
def Hdr.bytes (h : Hdr) : List Byte := leBytes 16 h.nat

/-- The 128 header bits. -/
def Hdr.toBits (h : Hdr) : BitVec 128 := BitVec.ofNat 128 h.nat

/-- SEAL of a packet: CRC-32C over the masked header and the payload, from an initial value of DEST, SRC and SEQ
(R181, R182). -/
def sealOf (h : Hdr) (pay : List Byte) : Word :=
  let init : Nat := 0xFFFFFFFF ^^^ (put h.dest 16 + h.src) ^^^ put h.seq 8
  crc32c (BitVec.ofNat 32 init) ({ h with bank := false, hops := 0, rsv := 0 }.bytes ++ pay)

/-- The code of a tail byte: 0 GOOD, 1 POISONED, 2 STOMPED, 3 SEVERED; an unknown one is forwarded as SEVERED (R177). -/
def tailCode (b : Nat) : Nat := if b = 0x0F then 0 else if b = 0x33 then 1 else if b = 0x55 then 2 else 3

/-- The byte of a tail code. -/
def tailByte (code : Nat) : Nat := if code = 0 then 0x0F else if code = 1 then 0x33 else if code = 2 then 0x55 else 0xF0

/-- The tail byte is one R177 names. -/
def tailKnown (b : Nat) : Bool := b == 0x0F || b == 0x33 || b == 0x55 || b == 0xF0

/-- A trailer: SEAL, tail code, reserved bits 0 (R176). -/
def trailerOf (s : Word) (code : Nat) : BitVec 64 := BitVec.ofNat 64 (s.toNat + put (tailByte code) 32)

/-- The 7 bytes of the peg hash (R207). -/
def pegBytes (src dest job tc label : Nat) : List Byte :=
  [src % 256, src / 256 % 256, dest % 256, dest / 256 % 256, job % 256, job / 256 % 16 + 16 * tc, label].map
    (BitVec.ofNat 8)

/-- The opcodes that carry a chunk index in AUX (R168). -/
def hasChunk (op : Nat) : Bool := op == 3 || op == 4 || op == 5 || op == 0x13 || op == 0x14 || op == 0x19

/-- The flow label of a packet (R168). -/
def Hdr.label (h : Hdr) : Nat := if hasChunk h.op then 0 else fld h.aux 23 16

/-- The peg hash of a packet under a seed (R207). -/
def pegHash (seed : Word) (h : Hdr) : Nat := (crc32c seed (pegBytes h.src h.dest h.job h.tc h.label)).toNat

/-- The network of an opcode; none for a reserved code (R169). -/
def opNet (op : Nat) : Option Nat :=
  if op ≤ 6 then some 0 else if 0x10 ≤ op ∧ op ≤ 0x1A then some 1 else if 0x20 ≤ op ∧ op ≤ 0x22 then some 2
  else if (0x30 ≤ op ∧ op ≤ 0x32) ∨ op = 0x38 ∨ op = 0x39 ∨ op = 0x3C ∨ op = 0x3D then some 3 else none

/-- DEST of the opcode is a group: MC must be 1 (R169, R200). -/
def opGroup (op : Nat) : Bool := op == 3 || op == 4 || op == 5 || op == 0x14

/-- An end point sends the opcode (R169). -/
def opByEndPoint (op : Nat) : Bool :=
  op ≤ 6 || op == 0x10 || op == 0x11 || op == 0x12 || op == 0x20 || op == 0x38 || op == 0x39 || op == 0x3C || op == 0x3D

/-- LEN fits the LEN column of R169; what a context sets is checked against the context. -/
def opLen (op len : Nat) : Bool :=
  if op = 5 ∨ op = 0x12 ∨ op = 0x19 ∨ op = 0x3C ∨ op = 0x3D then len == 0
  else if 0x16 ≤ op ∧ op ≤ 0x1A then decide (8 ≤ len) && decide (len ≤ 8192)
  else if 0x20 ≤ op ∧ op ≤ 0x22 then len == 40
  else if op = 0x38 ∨ op = 0x39 then decide (len ≤ 56)
  else decide (len ≤ 8192)

/-- Virtual channel of a packet: TC on VC0 to VC3 for NET 0, VC4 to VC7 for NET 1, VC8 for arrivals, VC9 for the rest of
NET 2 and for NET 3 (R122). -/
def Hdr.vc (h : Hdr) : Nat :=
  if h.net = 0 then h.tc else if h.net = 1 then 4 + h.tc else if h.net = 2 ∧ h.op = 0x20 then 8 else 9

/-- Packet length in bytes: header, payload, trailer (R156). -/
def Hdr.size (h : Hdr) : Nat := h.len + 24

/-- Bytes of a path target: KIND and ID (R202). -/
def tgtKind (t : Nat) : Nat := fld t 11 10

/-- ID of a target. -/
def tgtId (t : Nat) : Nat := fld t 9 0

/-! ### Link frames (R114 to R117) -/

/-- KIND of a frame: 0 DATA, 1 CONTROL, 2 INIT. -/
def frameKind (f : Frame) : Nat := fld f.head.toNat 63 62

/-- FSEQ of a frame. -/
def frameFseq (f : Frame) : Nat := fld f.head.toNat 11 0

/-- Virtual channel code of stitch `i`; 0xF empty (R115). -/
def frameStitch (f : Frame) (i : Nat) : Nat := fld f.head.toNat (15 + 4 * i) (12 + 4 * i)

/-- The CRC of a frame is good: CRC-32 of IEEE 802.3 over its first 508 bytes (R117). -/
def frameCrcOk (f : Frame) : Bool :=
  f.content.length == 496 &&
    crc32 (leBytes 8 f.head.toNat ++ f.content ++ leBytes 4 (f.tail.toNat % 2 ^ 32)) ==
      BitVec.ofNat 32 (f.tail.toNat / 2 ^ 32)

/-- The stitch slots of a frame that carry a virtual channel. -/
def frameVcs (f : Frame) : List Nat := ((List.range 8).map (frameStitch f)).filter (· < 10)

/-- A stitch code is reserved: 0xA to 0xE (R118). -/
def frameBadStitch (f : Frame) : Bool := (List.range 8).any (fun i => decide (10 ≤ frameStitch f i) && decide (frameStitch f i ≤ 14))

end Sys2Proof.Machine
end

