-- ==== Sys2Proof/Machine/Tables.lean ====
section
/-! DEFINITION. The banked tables of the quadrants (R201 to R230), the selected banks of jobs (R403 to R406), and the
resolution of a target to a port and of a quadrant to a seam path. -/
namespace Sys2Proof.Machine

/-! ### Tables -/

/-- Where an entry stands: table 0 job rank, 1 rank, 2 route, 3 switch route, 4 path set, 5 bucket words, 6 group. -/
def tblKey (q t : Nat) (bank : Bool) (idx : Nat) : Nat := ((q * 8 + t) * 2 + b2n bank) * 2 ^ 18 + idx

/-- The page that holds a table: EDG, RTE, PEG or MCG. -/
def tblPage (t : Nat) : Nat := if t < 2 then 0x40 else if t < 4 then 0x41 else if t < 6 then 0x42 else 0x43

/-- The entry as last written; all zeros, so invalid, where nothing has been (R562). -/
def Chip.entry (c : Chip) (q t : Nat) (bank : Bool) (idx : Nat) : List Word :=
  SMap.getD c.tables (tblKey q t (bank && t != 3) idx) []

/-- The entry as a lookup reads it: an entry marked bad reads invalid (R564), and so does one of a page that is not ON
(DESIGN CHOICE; log entry 19). -/
def Chip.look (c : Chip) (q t : Nat) (bank : Bool) (idx : Nat) : List Word :=
  if c.isOn q (tblPage t) && !c.badEnt.contains (tblKey q t (bank && t != 3) idx) then c.entry q t bank idx else []

/-- Word `i` of an entry as a number. -/
def word (l : List Word) (i : Nat) : Nat := (l.getD i 0).toNat

/-- Rank translation: the end-point id of a job's rank, or none (R197). -/
def Chip.translate (c : Chip) (q : Nat) (bank : Bool) (job dest : Nat) : Option Nat :=
  let jr := c.look q 0 bank job
  if bit (word jr 1) 31 && dest < fld (word jr 1) 16 0 then
    let r := c.look q 1 bank ((fld (word jr 0) 15 0 + dest) % 65536)
    if bit (word r 0) 31 then some (fld (word r 0) 15 0) else none
  else none

/-- The target of an end-point id; the entry at 0xFFFF is never read (R203). -/
def Chip.route (c : Chip) (q : Nat) (bank : Bool) (dest : Nat) : Nat :=
  if dest = 0xFFFF then 0 else fld (word (c.look q 2 bank dest) 0) 11 0

/-- The target of a switch id: KIND 0 unless the tag matches (R205). -/
def Chip.switchRoute (c : Chip) (q dest : Nat) : Nat :=
  let e := word (c.look q 3 false (dest % 4096)) 0
  if fld e 15 12 = fld dest 15 12 then fld e 11 0 else 0

/-- Member `m` of a path set's words, when VALID (R208). -/
def setMember (e : List Word) (m : Nat) : Option Nat :=
  let h := fld (word e (1 + m / 2)) (16 * (m % 2) + 15) (16 * (m % 2))
  if bit h 15 then some (fld h 9 0) else none

/-- The switch id of a quadrant (R205). -/
def Chip.switchId (c : Chip) (q : Nat) : Nat := fld (c.reg (regAddr q 0x41 0x200)) 15 0

/-- PEG_PORT_OUT of a port: the owning quadrant's bit (R230). -/
def pegOutReg (p : Nat) : Nat := regAddr (p / 256) 0x42 (0x200 + 4 * (p % 256 / 32))

/-- The out bit of a port (R210). -/
def Chip.pegOut (c : Chip) (p : Nat) : Bool := c.regBit (pegOutReg p) (p % 32)

/-- A member is live: its port is ACTIVE and not out (R209). -/
def Chip.live (c : Chip) (p : Nat) : Bool := c.active p && !c.pegOut p

/-- The port that a path set gives a hash: the bucket's member when live, otherwise the bucket number modulo the live
members (R208, R209, R229). -/
def Chip.peg (c : Chip) (q : Nat) (bank : Bool) (set h : Nat) : Option Nat :=
  let e := c.look q 4 bank set
  if !bit (word e 0) 31 then none else
  let b := h % 2 ^ min (fld (word e 0) 3 0) 10
  let m := fld (word (c.look q 5 bank (256 * set + b / 4)) 0) (8 * (b % 4) + 5) (8 * (b % 4))
  let lives := (List.range 64).filterMap (fun i => (setMember e i).filter c.live)
  match (setMember e m).filter c.live with
  | some p => some p
  | none => if lives.isEmpty then none else lives[b % lives.length]?

/-- A target resolves to a port (R204). -/
def Chip.resolve (c : Chip) (q : Nat) (bank : Bool) (t h : Nat) : Option Nat :=
  if tgtKind t = 1 then (if c.active (tgtId t) then some (tgtId t) else none)
  else if tgtKind t = 2 then c.peg q bank (tgtId t) h
  else none

/-- The words of the group that a packet names, or none: DEST at or above 16,384, invalid, or of another job (R216). -/
def Chip.group (c : Chip) (q : Nat) (bank : Bool) (dest job : Nat) : Option (List Word) :=
  let g := c.look q 6 bank dest
  if dest < 16384 ∧ bit (word g 0) 31 ∧ fld (word g 0) 11 0 = job then some g else none

/-- A group's mask holds a port. -/
def groupHas (g : List Word) (p : Nat) : Bool := bit (word g (4 + p / 32)) (p % 32)

/-- The mask ports of a group in one quadrant, ascending. -/
def groupPorts (g : List Word) (q : Nat) : List Nat :=
  ((List.range 256).map (· + 256 * q)).filter (groupHas g)

/-- A port is the PARENT port of a group or of a counter, or a member of its PARENT path set (R218, R381). -/
def Chip.isParent (c : Chip) (q : Nat) (bank : Bool) (t p : Nat) : Bool :=
  (tgtKind t == 1 && tgtId t == p) ||
  (tgtKind t == 2 && bit (word (c.look q 4 bank (tgtId t)) 0) 31 &&
    (List.range 64).any (fun i => setMember (c.look q 4 bank (tgtId t)) i == some p))

/-- A press die is reachable: its seam not in FAULT and both SEM pages ON (R217). -/
def Chip.pressUp (c : Chip) (d : Nat) : Bool := !c.seamFaulted (6 + d) && c.semOn (6 + d)

/-- A seam path from quadrant `q` to `r`: the quadrants it visits (R213, R214); none when no path is usable. -/
def Chip.seamPath (c : Chip) (q r h : Nat) : Option (List Nat) :=
  if q = r then some [] else
  let third := (List.range 4).filter (fun k => k != q && k != r)
  let lo := third.getD 0 0
  let hi := third.getD 1 0
  let w := c.reg (regAddr q 0x41 (0x210 + 4 * seamTo q r))
  let v := fld h 23 16
  let all := [[r], [lo, r], [hi, r]]
  let ok (p : List Nat) : Bool := match p with
    | [a] => c.seamUsable (quadSeam q a)
    | [a, b] => c.seamUsable (quadSeam q a) && c.seamUsable (quadSeam a b)
    | _ => false
  let chosen := if v < fld w 8 0 then 0 else if v < fld w 8 0 + fld w 17 9 then 1 else 2
  if ok (all.getD chosen []) then all[chosen]? else
  let us := all.filter ok
  match us with
  | [] => none
  | [a] => some a
  | a :: b :: _ => some (if bit h 15 then b else a)

/-! ### Job banks (R403 to R406) -/

/-- Number of an island that holds the selected banks: 16q + d for QDd, 64 + q for the injection path of Qq, 68 + p for
PS of Pp, 72 for CS. -/
def islandKey : Island → Nat
  | .qd q d => 16 * q.val + d.val
  | .qx q => 64 + q.val
  | .ps p => 68 + p.val
  | .cs => 72

/-- The islands that hold a copy of the selected banks. -/
def islands : Nat := 73

/-- The bank of a job in an island. -/
def Job.bankIn (j : Job) (isl : Nat) : Bool := if j.moved.contains isl then !j.sel else j.sel

/-- The datapath island of a port (R60). -/
def portIsland (p : Nat) : Nat := p / 16

/-- IN(j, b) (R405). -/
def Chip.inFlight (c : Chip) (j : Nat) (b : Bool) : Nat :=
  (c.pkts.filter (fun p => p.counted && p.hdr.job == j && p.hdr.bank == b)).length

/-- D(j): requests of the job in flight other than MGMT_REQ (R405). -/
def Chip.drain (c : Chip) (j : Nat) : Nat :=
  (c.pkts.filter (fun p => p.counted && p.hdr.job == j && p.hdr.net == 0 && p.hdr.op != 6)).length

/-- Job `j` references bank `b`, templates apart (R406). -/
def Chip.refs (c : Chip) (j : Nat) (b : Bool) : Bool :=
  let jb := c.job j
  jb.sel == b || !jb.moved.isEmpty || (match jb.pend with | some (b', _) => b' == b | none => false) || jb.prev == some b

/-- A job that drains its previous bank stops referencing it once IN is 0 (R406). -/
def Chip.unref (c : Chip) (j : Nat) : Chip :=
  match (c.job j).prev with
  | some b => if c.inFlight j b = 0 then c.onJob j (fun x => { x with prev := none }) else c
  | none => c

/-- The keys of jobs that hold anything but the reset value, and those only. -/
def Chip.jobKeys (c : Chip) : List Nat := c.jobs.map Prod.fst

/-- Some job references bank `b`: every job selects bank A until it is moved (R406). -/
def Chip.anyRefs (c : Chip) (b : Bool) : Bool :=
  (!b && c.jobs.length < 4096) || c.jobKeys.any (fun j => c.refs j b)

end Sys2Proof.Machine
end

