-- ==== Sys2Proof/Machine/Buffer.lean ====
section
/-! DEFINITION. The buffer pool manager (chapter 7): cells, handles, hampers, taking and freeing, the reservation, the
rebuild and the boundary moves, with the commands that carry them out. -/
namespace Sys2Proof.Machine

/-! ### Cells and pools -/

/-- Packet cells of a quadrant (R232). -/
def packetCells : Nat := 647168

/-- Cells per buffer of a pool (R235). -/
def unitCells (p : Nat) : Nat := if p = 0 then 1 else if p = 1 then 4 else if p = 2 then 16 else 33

/-- The fit of a packet: the smallest pool that holds LEN + 24 bytes (R235). -/
def fitOf (len : Nat) : Nat := if len ≤ 232 then 0 else if len ≤ 1000 then 1 else if len ≤ 4072 then 2 else 3

/-- Cells of a chain that holds a packet (R239). -/
def chainCells (len : Nat) : Nat := (len + 24 + 247) / 248

/-- BASE of a pool. -/
def Chip.poolBase (c : Chip) (q p : Nat) : Nat := c.reg (bufPage q + 0x110 + 0x10 * p)

/-- LIMIT of a pool. -/
def Chip.poolLimit (c : Chip) (q p : Nat) : Nat := c.reg (bufPage q + 0x114 + 0x10 * p)

/-- RING_BASE of a pool. -/
def Chip.ringBase (c : Chip) (q p : Nat) : Nat := c.reg (bufPage q + 0x118 + 0x10 * p)

/-- RING_LEN of a pool. -/
def Chip.ringLen (c : Chip) (q p : Nat) : Nat := c.reg (bufPage q + 0x11C + 0x10 * p)

/-- Buffers of a pool. -/
def Chip.poolCount (c : Chip) (q p : Nat) : Nat := (c.poolLimit q p - c.poolBase q p) / unitCells p

/-- The cells of a quadrant that are not FREE: those of its stored packets, of chains being freed, those lost under R240, and
those whose REF cannot be read, which are held forever (R251). -/
def Chip.heldCells (c : Chip) (q : Nat) : List Nat :=
  (c.stores.filter (·.q == q)).flatMap (·.cells) ++ (c.buf q).lost ++ (c.buf q).freeing.flatMap (·.2) ++ (c.buf q).badRef

/-- The number of packet cells with FREE set. -/
def Chip.freeCount (c : Chip) (q : Nat) : Nat := packetCells - (c.heldCells q).eraseDups.length

/-- A cell lies in a unit of a pool. -/
def Chip.inPool (c : Chip) (q p cell : Nat) : Bool :=
  c.poolBase q p ≤ cell && cell < c.poolBase q p + c.poolCount q p * unitCells p

/-- The pools a cell lies in: more than one where a layout that pool mode would refuse lets pools overlap (R257). -/
def Chip.poolsAt (c : Chip) (q cell : Nat) : List Nat := (List.range 4).filter (fun p => c.inPool q p cell)

/-- The first cell of the unit of pool `p` that holds a cell. -/
def Chip.unitOf (c : Chip) (q p cell : Nat) : Nat :=
  c.poolBase q p + (cell - c.poolBase q p) / unitCells p * unitCells p

/-- BUF_POOL_HELD: units of a pool of which some cell is not FREE (R252). -/
def Chip.poolHeld (c : Chip) (q p : Nat) : Nat :=
  (((c.heldCells q).filter (c.inPool q p)).map (c.unitOf q p)).eraseDups.length

/-- A handle (R234). -/
def handleOf (p cell : Nat) : Nat := put p 20 + cell

/-- A handle passes R236. Of a chain, `pooled` is the mode it was taken in: one held from chained-cell mode stays valid outside
pool 0 (R260). -/
def Chip.handleOk (c : Chip) (q h : Nat) (chain pooled : Bool) : Bool :=
  let p := fld h 21 20
  let x := fld h 19 0
  if chain then
    p == 0 && x < packetCells && (!pooled || (c.poolBase q 0 ≤ x && x < c.poolLimit q 0))
  else
    c.poolBase q p ≤ x && x + unitCells p ≤ c.poolLimit q p && (x - c.poolBase q p) % unitCells p == 0

/-! ### Hampers (R247 to R250) -/

/-- The hamper of a pool. -/
def Buf.hamper (b : Buf) (p : Nat) : Hamper := b.hamp.getD p {}

/-- A change of one hamper. -/
def Chip.onHamper (c : Chip) (q p : Nat) (f : Hamper → Hamper) : Chip :=
  c.onBuf q (fun b => { b with hamp := upd b.hamp p f })

/-- The entries in a ring of `n`: from HEAD to TAIL, empty when both are equal with equal lap bits, full with different ones
(R248). -/
def Hamper.count (h : Hamper) (n : Nat) : Nat :=
  if h.headLap = h.tailLap then h.tail - h.head else h.tail + n - h.head

/-- BUF_POOL_FREE: handles in cache and ring. -/
def Chip.poolFree (c : Chip) (q p : Nat) : Nat :=
  ((c.buf q).hamper p).cache.length + ((c.buf q).hamper p).count (c.ringLen q p)

/-- Where entry `i` of a ring that starts at cell `base` stands in the quadrant's cells (R247). -/
def ringKey (base i : Nat) : Nat := 64 * (base + i / 64) + i % 64

/-- An index of a ring of `n` entries, with its lap bit, advanced by `k` (R248). -/
def ringStep (n : Nat) (i : Nat × Bool) (k : Nat) : Nat × Bool :=
  if n = 0 then i else ((i.1 + k) % n, i.2 != ((i.1 + k) / n % 2 == 1))

/-- The automatic rebuild is at work: an event that occurs while it is not triggers nothing, now or later (R263, R517). -/
def Chip.rebuildOn (c : Chip) (q : Nat) : Bool := c.policy 3 && c.regBit (bufPage q + 0x100) 8

/-- The automatic rebuild is triggered; within 10 ms of the last rebuild the trigger raises HANDLE_ERR again instead (R263). -/
def Chip.rebuildTrigger (c : Chip) (q : Nat) : Chip :=
  if c.rebuildOn q = false then c
  else if (match (c.buf q).lastRebuild with | some t => decide (c.now < t + 10000000) | none => false) then c.raise (bufPage q) 1
  else c.onBuf q (fun b => { b with trigger := true })

/-- BUF_HAMPER_DROP goes up by `n`, HAMPER_DROP is raised, and the automatic rebuild is triggered (R248, R263). -/
def Chip.hamperDrop (c : Chip) (q n : Nat) : Chip :=
  if n = 0 then c else ((c.bump (bufPage q + 0x1CC) n).raise (bufPage q) 0x10).rebuildTrigger q

/-- BUF_HANDLE_ERR goes up by 1 and HANDLE_ERR is raised, a fence-class event; ERR_THR failures within 1 ms trigger the
automatic rebuild (R240, R250, R263, R436). -/
def Chip.handleErr (c : Chip) (q : Nat) : Chip :=
  let c := ((c.bump (bufPage q + 0x1C0) 1).raise (bufPage q) 1).fenceEvent
  let at_ := c.now :: (c.buf q).errAt.filter (fun t => c.now < t + 1000000)
  let c := c.onBuf q (fun b => { b with errAt := at_ })
  if fld (c.reg (bufPage q + 0x100)) 23 16 ≤ at_.length then c.rebuildTrigger q else c

/-- One handle is pushed to the ring: written at TAIL with TAIL's lap bit, or dropped when the ring is full. Answers whether it
was dropped (R248). -/
def Chip.ringPut (c : Chip) (q p : Nat) (e : HEnt) : Bool × Chip :=
  let n := c.ringLen q p
  let h := (c.buf q).hamper p
  if n ≤ h.count n then (true, c)
  else
    let t := ringStep n (h.tail, h.tailLap) 1
    let w := fld e.w 21 0 + put (b2n h.tailLap) 31
    (false, (c.onBuf q (fun b => { b with ringMem := SMap.set b.ringMem (ringKey (c.ringBase q p) h.tail) { e with w := w } })).onHamper
      q p (fun h => { h with tail := t.1, tailLap := t.2 }))

/-- Handles are pushed to the ring, oldest first (R248). -/
def Chip.ringPush (c : Chip) (q p : Nat) (l : List HEnt) : Chip :=
  let r := l.foldl (fun (x : Nat × Chip) e => let y := x.2.ringPut q p e; (x.1 + b2n y.1, y.2)) (0, c)
  r.2.hamperDrop q r.1

/-- The 128 oldest handles of a cache go to the ring (R249). -/
def Chip.spill (c : Chip) (q p : Nat) : Chip :=
  let cache := ((c.buf q).hamper p).cache
  let keep := cache.length - 128
  (c.onHamper q p (fun h => { h with cache := cache.take keep })).ringPush q p (cache.drop keep).reverse

/-- A freed handle enters its pool's cache; a cache of 512 spills first (R249). -/
def Chip.pushHandle (c : Chip) (q p cell : Nat) : Chip :=
  let c := if 512 ≤ ((c.buf q).hamper p).cache.length then c.spill q p else c
  c.onHamper q p (fun h => { h with cache := { w := handleOf p cell } :: h.cache })

/-- The ring entry at HEAD enters the cache and HEAD advances; an entry whose LAP differs from HEAD's is kept as one that
fails the take check (R248, R250). -/
def Chip.ringPop (c : Chip) (q p : Nat) : Chip :=
  let n := c.ringLen q p
  let h := (c.buf q).hamper p
  if h.count n = 0 then c
  else
    let e := SMap.getD (c.buf q).ringMem (ringKey (c.ringBase q p) h.head) { w := 0 }
    let t := ringStep n (h.head, h.headLap) 1
    c.onHamper q p (fun h => { h with
      cache := { e with w := fld e.w 30 0, stale := e.stale || bit e.w 31 != h.headLap } :: h.cache, head := t.1, headLap := t.2 })

/-- Up to 128 ring entries enter the cache (R249). -/
def Chip.refill (c : Chip) (q p : Nat) : Chip := c.each (List.range 128) (fun c _ => c.ringPop q p)

/-- The cells that a move in progress takes from one pool: from, and up to (R259). -/
def Chip.movingRegion (c : Chip) (q : Nat) : Option (Nat × Nat) :=
  match (c.buf q).move with
  | none => none
  | some m =>
    let b := c.poolBase q m.p
    if 0 ≤ m.delta then some (b, b + m.delta.toNat) else some (b - m.delta.natAbs, b)

/-- A unit of a pool lies in a region being moved, or in one that a completed move took out of the pool (R250). -/
def Chip.inMoved (c : Chip) (q p cell : Nat) : Bool :=
  let n := unitCells p
  (match c.movingRegion q with | some r => cell < r.2 && r.1 < cell + n | none => false) ||
  (c.buf q).gone.any (fun g => g.1 == p && cell < g.2.2 && g.2.1 < cell + n)

/-- A handle of a pool fails the take check before the reference store is read (R250, R251). -/
def Chip.handleBad (c : Chip) (q p : Nat) (e : HEnt) : Bool :=
  let h := fld e.w 21 0
  e.bad || e.stale || fld e.w 30 22 != 0 || fld h 21 20 != p || !c.handleOk q h false false

/-- The cells of a handle's unit whose REF the take check meets and cannot read (R251). -/
def Chip.takeRefs (c : Chip) (q p : Nat) (e : HEnt) : List Nat :=
  let x := fld e.w 19 0
  if c.inMoved q p x || c.handleBad q p e then []
  else (c.buf q).badRef.filter (fun y => decide (x ≤ y) && decide (y < x + unitCells p))

/-- What the take check finds: 0 good, 1 discarded without a count, 2 a counted failure (R250, R251). -/
def Chip.takeCheck (c : Chip) (q p : Nat) (e : HEnt) : Nat :=
  let x := fld e.w 19 0
  if c.inMoved q p x then 1
  else if c.handleBad q p e then 2
  else
    let held := c.heldCells q
    if (List.range (unitCells p)).any (fun i => held.contains (x + i)) then 2 else 0

/-- The words of the reference store that a read meets and cannot correct are counted (R251, R563). -/
def Chip.countRefs (c : Chip) (q : Nat) (l : List Nat) : Chip := c.each l (fun c x => c.countUe q 1 x)

/-- A buffer is taken from a pool: the newest handle that passes the take check (R249, R250). The first argument bounds
the handles tried. Reading an entry, or a REF, whose word is bad counts its error (R563). -/
def Chip.takeLoop : Nat → Chip → Nat → Nat → Option Nat × Chip
  | 0, c, _, _ => (none, c)
  | n + 1, c, q, p =>
    let h := (c.buf q).hamper p
    match h.cache with
    | [] => if h.count (c.ringLen q p) = 0 then (none, c) else Chip.takeLoop n (c.refill q p) q p
    | e :: t =>
      let c' := c.onHamper q p (fun h => { h with cache := t })
      let c' := (if e.bad then c'.countUe q 2 p else c').countRefs q (c.takeRefs q p e)
      match c.takeCheck q p e with
      | 0 => (some (fld e.w 19 0), c'.pmc q 17 0x3001 (some p) none)
      | 1 => Chip.takeLoop n c' q p
      | _ => Chip.takeLoop n ((c'.handleErr q).pmc q 17 0x3004 none none) q p

/-- POOL_LOW is raised when BUF_POOL_FREE falls below BUF_POOL_LOW in pool mode. -/
def Chip.lowCheck (c : Chip) (q p before : Nat) : Chip :=
  let low := c.reg (bufPage q + 0x1A0 + 4 * p)
  if (c.buf q).mode && low ≤ before && c.poolFree q p < low then c.raise (bufPage q) 4 else c

/-- A buffer is taken from a pool, if it has a free one. -/
def Chip.takeUnit (c : Chip) (q p : Nat) : Option Nat × Chip :=
  let before := c.poolFree q p
  let r := Chip.takeLoop (2 * before + 2) c q p
  (r.1, r.2.lowCheck q p before)

/-- The first FREE packet cell at or after `x`, wrapping (R238). -/
def findFree (held : List Nat) : Nat → Nat → Option Nat
  | 0, _ => none
  | n + 1, x => if held.contains x then findFree held n ((x + 1) % packetCells) else some x

/-- A cell for a chain: a pool-0 buffer for one begun in pool mode, any FREE cell in ascending order for one begun in
chained-cell mode (R237, R238, R260). -/
def Chip.takeCell (c : Chip) (q : Nat) (pooled : Bool) : Option Nat × Chip :=
  if pooled then c.takeUnit q 0
  else
    match findFree (c.heldCells q) ((c.heldCells q).length + 1) (c.buf q).finder with
    | none => (none, c)
    | some x => (some x, (c.onBuf q (fun b => { b with finder := (x + 1) % packetCells })).pmc q 17 0x3001 (some 4) none)

/-! ### Cell links (R239, R240) -/

/-- The link of a chained cell when `rest` packet bytes remain from this cell on: USED, LAST and NEXT. -/
def cellLink (rest next : Nat) : Nat :=
  (if 248 < rest then next else 0) + put (b2n (decide (rest ≤ 248))) 32 + put (min 248 rest) 48

/-- The next cell of a chain of `size` packet bytes: its own link is written, and the cell before it names it. -/
def Chip.chainCell (c : Chip) (q size : Nat) (cells : List Nat) (x : Nat) : Chip :=
  let k := cells.length
  c.onBuf q (fun b =>
    let l := SMap.set b.links x (cellLink (size - 248 * k) 0)
    { b with
      badLink := b.badLink.filter (fun y => y != x && some y != cells.getLast?)
      links := match cells.getLast? with
        | some y => SMap.set l y (cellLink (size - 248 * (k - 1)) x)
        | none => l })

/-- The link of a cell with `rest` packet bytes from it on is bad: a reserved bit at 1, a NEXT that is no packet cell, USED or
LAST against LEN, or an uncorrectable error (R240). -/
def Chip.linkBad (c : Chip) (q cell rest : Nat) : Bool :=
  let w := SMap.getD (c.buf q).links cell 0
  (c.buf q).badLink.contains cell || fld w 63 56 != 0 || fld w 47 33 != 0 || fld w 31 20 != 0 ||
    packetCells ≤ fld w 19 0 || fld w 55 48 != min 248 rest || bit w 32 != decide (rest ≤ 248)

/-! ### Freeing -/

/-- The handles of a pool's units from number `a` up to `b` whose cells are all FREE, ascending. -/
def Chip.freeUnits (c : Chip) (q p a b : Nat) : List HEnt :=
  let held := ((c.heldCells q).filter (c.inPool q p)).map (c.unitOf q p)
  (((List.range (b - a)).map (fun i => c.poolBase q p + (a + i) * unitCells p)).filter (fun u => !held.contains u)).map
    (fun u => { w := handleOf p u })

/-- A rebuild visits the units of a pool up to number `b`: it pushes those whose cells are all FREE in ascending order, the
cache spilling 128 to the ring each time it exceeds CACHE_HIGH (R249, R261). `skip` is a unit that was not yet FREE when the
rebuild came past it. -/
def Chip.visit (c : Chip) (q p b : Nat) (skip : Option Nat) : Chip :=
  let a := cnt (c.buf q).visited p
  if b ≤ a then c else
  let us := (c.freeUnits q p a b).filter (fun e => skip != some (fld e.w 19 0))
  let all := ((c.buf q).hamper p).cache.reverse ++ us
  let k := 128 * ((all.length - fld (c.reg (bufPage q + 0x108)) 24 16 + 127) / 128)
  ((c.onBuf q (fun x => { x with visited := upd (fit 0 4 x.visited) p (fun _ => b) })).onHamper q p
    (fun h => { h with cache := (all.drop k).reverse })).ringPush q p (all.take k)

/-- Pushing is on for unit number `i` of pool `p`, whose first cell is `u`: in pool mode, in chained-cell mode while BUILT is 1,
and during a rebuild once it has visited the unit. How far a rebuild has come is a free value (log entry 67) (R244, R261). -/
def Chip.pushOn (c : Chip) (q p i u : Nat) : Bool × Chip :=
  if (c.buf q).rebuilding then
    let r := c.draw Config.rebuildAt
    let c := r.2.visit q p (r.1 % (c.poolCount q p + 1)) (some u)
    (decide (i < cnt (c.buf q).visited p), c)
  else ((c.buf q).mode || (c.buf q).built, c)

/-- A cell of a unit of pool `p` has become FREE: when that completes the unit, its handle is pushed (R244, R259). -/
def Chip.unitFreed (c : Chip) (q x p : Nat) : Chip :=
  let u := c.unitOf q p x
  let held := c.heldCells q
  if !(List.range (unitCells p)).any (fun i => held.contains (u + i)) &&
      !(match c.movingRegion q with | some r => u < r.2 && r.1 < u + unitCells p | none => false)
  then
    let r := c.pushOn q p ((u - c.poolBase q p) / unitCells p) u
    if r.1 then r.2.pushHandle q p u else r.2
  else c

/-- A cell has become FREE, in every pool that it lies in (R244). -/
def Chip.cellFreed (c : Chip) (q x : Nat) : Chip := c.each (c.poolsAt q x) (fun c p => c.unitFreed q x p)

/-- The storage of a packet whose REF has reached 0 is freed: a pool buffer at once, a chain cell by cell (R243, R244). The
store is already out of the list; `size` is the packet's length. A buffer whose REF cannot be read is held forever, and the read
counts its error (R251, R262, R563). -/
def Chip.freeStore (c : Chip) (s : Store) (size : Nat) : Chip :=
  let c := c.onBuf s.q (fun b => { b with badData := b.badData.filter (fun x => !s.cells.contains (x / 32)) })
  let bad := s.cells.filter (c.buf s.q).badRef.contains
  if !bad.isEmpty then (c.countRefs s.q bad).onBuf s.q (fun b => { b with lost := b.lost ++ s.cells })
  else if s.chain then c.onBuf s.q (fun b => { b with freeing := b.freeing ++ [(size, s.cells)] })
  else match s.cells with
    | x :: _ => c.cellFreed s.q x
    | [] => c

/-! ### The reservation (R253 to R255) -/

/-- The credits a port advertises: private of each virtual channel, and shared, scaled by its width (R138). -/
def Chip.advert (c : Chip) (port width : Nat) : List Nat × Nat :=
  let r := c.reg (regAddr (port / 256) (0x20 + port % 256 / 16) 0x400)
  let sc (v : Nat) : Nat := if width ≤ 2 then v / 2 else if width = 8 then v * 2 else v
  ((List.range 10).map (fun v => if v < 8 then sc (fld r 15 8) else sc (fld r 7 0)), sc (fld r 27 16))

/-- Credits of the five fixed links of R253. -/
def fixedCredits : Nat := 3 * 12288 + 16384 + 512

/-- NEED of a quadrant: the fixed links and every port whose advertisement is in it, with 340 cells a link (R254). -/
def Chip.need (c : Chip) (q : Nat) : Nat :=
  let ps := c.ports.filter (fun kv => decide (kv.1 / 256 = q) && !kv.2.held &&
    (kv.2.st == .init || kv.2.st == .quarantine || kv.2.st == .active))
  fixedCredits + 5 * 340 + (ps.map (fun kv => kv.2.advPriv.sum + kv.2.advShared + 340)).sum

/-- The buffers of pool 0 that the reservation counts. The cells that a move under way is taking from pool 0 no longer count, so that
NEED never comes to exceed HAVE when the move completes. DESIGN CHOICE; log entry 68. -/
def Chip.pool0Count (c : Chip) (q : Nat) : Nat :=
  c.poolCount q 0 - (match (c.buf q).move with
    | some m => if m.p = 1 ∧ m.delta < 0 then m.delta.natAbs else 0
    | none => 0)

/-- HAVE of a quadrant (R254). -/
def Chip.have_ (c : Chip) (q : Nat) : Nat := if (c.buf q).mode then c.pool0Count q else packetCells

/-! ### Layout, mode, rebuild and moves -/

/-- Two ranges do not overlap. -/
def apart (a n b m : Nat) : Bool := a + n ≤ b || b + m ≤ a

/-- The pool and ring layout passes R257. -/
def Chip.layoutOk (c : Chip) (q : Nat) : Bool :=
  let ps := List.range 4
  ps.all (fun p =>
    let b := c.poolBase q p
    let l := c.poolLimit q p
    b < l && l ≤ packetCells && (l - b) % unitCells p == 0 && unitCells p ≤ l - b &&
    0x9E000 ≤ c.ringBase q p && c.ringBase q p + c.ringLen q p / 64 ≤ 0xA0000 &&
    c.ringLen q p % 64 == 0 && c.poolCount q p ≤ c.ringLen q p) &&
  ps.all (fun p => ps.all (fun r => p == r ||
    (apart (c.poolBase q p) (c.poolLimit q p - c.poolBase q p) (c.poolBase q r) (c.poolLimit q r - c.poolBase q r) &&
     apart (c.ringBase q p) (c.ringLen q p / 64) (c.ringBase q r) (c.ringLen q r / 64))))

/-- A rebuild starts: caches empty, rings reset, no unit visited (R261). -/
def Chip.rebuildStart (c : Chip) (q : Nat) : Chip :=
  c.onBuf q (fun b => { b with rebuilding := true, visited := [0, 0, 0, 0], hamp := [{}, {}, {}, {}], gone := [] })

/-! ### Waiting for pool 0 (R237) -/

/-- The copies that have yet to read a store to its end. -/
def Chip.readers (c : Chip) (sid : Nat) : List Copy :=
  c.copies.filter (fun x => x.sid == sid && !x.tailSent && !x.zeros)

/-- A rinse holds the packet (R412). -/
def Chip.isHeld (c : Chip) (id : Nat) : Bool := c.held.any (·.pkt == id)

/-- Nothing will read a store again, and no rinse holds its packet: what still arrives for it is discarded (R280). -/
def Chip.unread (c : Chip) (s : Store) : Bool := (c.readers s.sid).isEmpty && !c.isHeld s.pkt

/-- Stitches of a quadrant wait for pool 0: those of a packet that waits for storage in pool mode, or those that have outgrown a
chain begun in pool mode while pool 0 has no free buffer (R237, R460). -/
def Chip.awaitsPool0 (c : Chip) (q : Nat) : Bool :=
  c.stores.any (fun s => s.q == q && !c.unread s &&
    ((s.wait && (c.buf q).mode) ||
     (!s.wait && s.chain && s.pooled && !s.tailIn && decide (s.cells.length < s.need) &&
       decide (248 * s.cells.length < s.got) && c.poolFree q 0 == 0)))

/-- Whether stitches of a quadrant wait for pool 0 is looked at again: the condition's counters see it begin and end (R455, R460). -/
def Chip.rewait (c : Chip) (q : Nat) : Chip :=
  let was := (c.buf q).waits
  let is := c.awaitsPool0 q
  if was = is then c
  else (c.onBuf q (fun b => { b with waits := is })).pmcEdge q 17 0x3003 (if was then [0] else []) (if is then [0] else [])

/-- MODE takes effect (R260). -/
def Chip.setMode (c : Chip) (q : Nat) (b : Bool) : Chip := (c.onBuf q (fun x => { x with mode := b })).rewait q

/-- Pool mode may be set (R260). -/
def Chip.poolModeOk (c : Chip) (q : Nat) : Bool :=
  (c.buf q).built && !(c.buf q).rebuilding && c.layoutOk q && c.need q ≤ c.pool0Count q

/-- The cells that the DELTA of a move at boundary `p` is a multiple of (R258). -/
def moveStep (p : Nat) : Nat := if p = 1 then 4 else if p = 2 then 16 else 528

/-- A move of boundary `p` by `delta` is refused (R258). -/
def Chip.moveOk (c : Chip) (q p : Nat) (delta : Int) : Bool :=
  let b := c.buf q
  let low := (c.poolLimit q (p - 1) : Int) - c.poolBase q (p - 1) + delta
  let high := (c.poolLimit q p : Int) - c.poolBase q p - delta
  1 ≤ p && p ≤ 3 && b.mode && b.move.isNone && !b.rebuilding && c.poolLimit q (p - 1) == c.poolBase q p &&
  delta.natAbs % moveStep p == 0 && (unitCells (p - 1) : Int) ≤ low && (unitCells p : Int) ≤ high &&
  (if 0 ≤ delta then low.toNat / unitCells (p - 1) ≤ c.ringLen q (p - 1) else high.toNat / unitCells p ≤ c.ringLen q p) &&
  (p != 1 || 0 ≤ delta || c.need q ≤ low.toNat)

/-- A move starts (R259). -/
def Chip.moveStart (c : Chip) (q p : Nat) (delta : Int) : Chip :=
  c.onBuf q (fun b => { b with move := some { p := p, delta := delta } })

/-- Every cell of the moving region is FREE (R259). -/
def Chip.moveReady (c : Chip) (q : Nat) : Bool :=
  match c.movingRegion q with
  | none => false
  | some r => !(c.heldCells q).any (fun x => r.1 ≤ x && x < r.2)

/-- A move completes: the boundary is written, the growing pool's new units are pushed, GO clears and MOVE_DONE is raised
(R259). -/
def Chip.moveFinish (c : Chip) (q : Nat) (m : Move) (r : Nat × Nat) : Chip :=
  let nb := if 0 ≤ m.delta then r.2 else r.1
  let grow := if 0 ≤ m.delta then m.p - 1 else m.p
  let shrink := if 0 ≤ m.delta then m.p else m.p - 1
  let c := (c.setReg (bufPage q + 0x110 + 0x10 * m.p) nb).setReg (bufPage q + 0x114 + 0x10 * (m.p - 1)) nb
  let c := c.onBuf q (fun b => { b with move := none, gone := (shrink, r.1, r.2) :: b.gone })
  let n := (r.2 - r.1) / unitCells grow
  let c := c.each (List.range n) (fun c i => c.pushHandle q grow (r.1 + i * unitCells grow))
  (c.setRegBit (bufPage q + 0x1B0) 31 false).raise (bufPage q) 0x40

/-- REBUILD_DONE: every pool is rebuilt from the reference store, BUILT is set and REBUILD_DONE raised (R261). A rebuild that the
controller began ends in pool mode, while the automatic rebuild is still at work (R263, R517). -/
def rebuildFinish (q : Nat) (c : Chip) : Chip :=
  if (c.buf q).rebuilding then
    let c := c.each (List.range 4) (fun c p => c.visit q p (c.poolCount q p) none)
    let c := (c.onBuf q (fun b => { b with rebuilding := false, built := true })).raise (bufPage q) 0x20
    if (c.buf q).auto then
      let c := c.onBuf q (fun b => { b with auto := false })
      if c.rebuildOn q && c.poolModeOk q then (c.setMode q true).setRegBit (bufPage q + 0x100) 0 true else c
    else c
  else c

/-- AUTO_REBUILD: after a trigger the controller turns to chained-cell mode and rebuilds. While a move or a rebuild runs, the quadrant
is in chained-cell mode and the rebuild waits for it (R263, R516). -/
def autoRebuild (q : Nat) (c : Chip) : Chip :=
  let b := c.buf q
  if b.trigger ∧ c.rebuildOn q ∧ c.isOn q 0x44 then
    let c := (c.setMode q false).setRegBit (bufPage q + 0x100) 0 false
    if b.rebuilding || b.move.isSome then c
    else (c.rebuildStart q).onBuf q (fun b => { b with trigger := false, auto := true, lastRebuild := some c.now })
  else c

/-- The pool that POOL_BALANCE takes cells from: the one with the most free buffers relative to its size (R259). -/
def Chip.richest (c : Chip) (q p : Nat) : Bool :=
  (List.range 4).all (fun r => c.poolFree q r * c.poolCount q p ≤ c.poolFree q p * c.poolCount q r)

/-- POOL_BALANCE: when holds rise, or spills rise while a pool stays low, the controller moves a boundary (R259, R516). -/
def poolBalance (q p : Nat) (delta : Int) (c : Chip) : Chip :=
  let b := c.buf q
  let low := (List.range 4).any (fun r => decide (c.poolFree q r < c.reg (bufPage q + 0x1A0 + 4 * r)))
  let shrink := if 0 ≤ delta then p else p - 1
  if (b.holdUp ∨ (b.spillUp ∧ low)) ∧ c.policy 2 ∧ delta ≠ 0 ∧ c.richest q shrink ∧ c.moveOk q p delta then
    ((c.moveStart q p delta).setReg (bufPage q + 0x1B0) (2 ^ 31 + put p 20 + toTwos 20 delta)).onBuf q
      (fun b => { b with holdUp := false, spillUp := false })
  else c

/-- CHAIN_FREE_CELL: the next cell of the oldest chain being freed becomes FREE; behind a bad link the rest stays held
(R240, R244); a link that cannot be read counts its error (R563). -/
def chainFree (q : Nat) (c : Chip) : Chip :=
  match (c.buf q).freeing with
  | [] => c
  | (_, []) :: t => c.onBuf q (fun b => { b with freeing := t })
  | (size, x :: rest) :: t =>
    let bad := c.linkBad q x size
    let c := if (c.buf q).badLink.contains x then c.countUe q 0 (32 * x + 31) else c
    let c := c.onBuf q (fun b => { b with
      freeing := if rest.isEmpty || bad then t else (size - 248, rest) :: t
      lost := if bad then b.lost ++ rest else b.lost
      links := SMap.del b.links x
      badLink := b.badLink.filter (· != x) })
    (if bad then c.handleErr q else c).cellFreed q x

end Sys2Proof.Machine
end

