-- ==== Sys2Proof/Machine/Origin.lean ====
section
/-! DEFINITION. What C0 originates (R206) and the twin side of it: side-effect numbers (R435), NOTICE (R173), twin events
(R440), fence-class events (R436). -/
namespace Sys2Proof.Machine

/-- A register of the TWN page. -/
def twn (off : Nat) : Nat := regAddr 24 0x4A off

/-- Own side as the records carry it: 0 A, 1 B (R425); the strap is 1 for side A (R39). Before the strap is sampled the field
reads its reset value, 0. -/
def Chip.sideCode (c : Chip) : Nat := if c.rst.side || !c.rst.strapped then 0 else 1

/-- PAIR_ID. -/
def Chip.pairId (c : Chip) : Nat := fld (c.reg (twn 0x100)) 31 16

/-- FLAGS.PLANE of a packet the part originates (R420). -/
def Chip.plane (c : Chip) : Bool := c.twin.role != 0 && !c.rst.side

/-- The part's switch id, as C0 writes it into SRC: every quadrant holds the same value (R230). -/
def Chip.ownId (c : Chip) : Nat := c.switchId 0

/-- Owned side effects are suppressed: STANDBY, SYNCING or FENCED (R433). -/
def Chip.suppressed (c : Chip) : Bool := c.twin.role == 1 || c.twin.role == 3 || c.twin.role == 4

/-- A packet joins C0's injection queue; while C0 is in reset nothing is sent. -/
def Chip.c0SendAt (c : Chip) (h : Hdr) (pay : List Byte) (via quad : Option Nat) : Chip :=
  if c.rst.c0Up then
    { c with c0Out := c.c0Out ++ [{ hdr := { h with plane := c.plane, len := pay.length }, payload := pay, code := 0,
                                    via := via, quad := quad }] }
  else c

/-- A packet joins C0's injection queue for the quadrant that R206 names. -/
def Chip.c0Send (c : Chip) (h : Hdr) (pay : List Byte) (via : Option Nat) : Chip := c.c0SendAt h pay via none

/-- The next pair-wide side-effect number (R435). -/
def Chip.sseqNow (c : Chip) : Nat :=
  if c.twin.partition then put (2 + c.sideCode) 30 + c.twin.sseq % 2 ^ 30 else c.twin.sseq % 2 ^ 30

/-- A pair-wide side-effect number is taken. -/
def Chip.takeSseq (c : Chip) : Nat × Chip :=
  (c.sseqNow, { c with twin := { c.twin with sseq := (c.twin.sseq + 1) % 2 ^ 30 } })

/-- The number a NOTICE takes: the part's own numbering while STANDBY, SYNCING or FENCED (R435). -/
def Chip.takeNoticeSeq (c : Chip) : Nat × Chip :=
  if c.suppressed then
    (put 1 30 + put c.sideCode 29 + c.twin.ownNotices % 2 ^ 29,
      { c with twin := { c.twin with ownNotices := c.twin.ownNotices + 1 } })
  else c.takeSseq

/-- The 8-byte head of R173 and R435. -/
def sideHead (kind pair sseq : Nat) : List Byte := leBytes 2 kind ++ leBytes 2 pair ++ leBytes 4 sseq

/-- TWIN_PAIR of the head: 0 when the part is not in a twin pair (R173). -/
def Chip.headPair (c : Chip) : Nat := if c.twin.role = 0 then 0 else c.pairId

/-- A NOTICE to `dest` is sent at all: not to 0xFFFF, and by a FENCED part only the one of its entering FENCED, `last` (R173,
R434). While C0 is in reset nothing is sent. -/
def Chip.noticeOk (c : Chip) (dest : Nat) (last : Bool) : Bool :=
  dest != 0xFFFF && (c.twin.role != 4 || last) && c.rst.c0Up

/-- A NOTICE is sent (R173, R434), from the quadrant `quad` where one is named (R223). -/
def Chip.noticeAt (c : Chip) (kind dest tc : Nat) (body : List Byte) (last : Bool) (quad : Option Nat) : Chip :=
  if c.noticeOk dest last then
    let r := c.takeNoticeSeq
    r.2.c0SendAt { net := 1, tc := tc, op := 0x1A, dest := dest, src := c.ownId, seq := r.1 % 2 ^ 24 }
      (sideHead kind c.headPair r.1 ++ body) none quad
  else c

/-- A NOTICE is sent from the quadrant that R206 names. -/
def Chip.notice (c : Chip) (kind dest tc : Nat) (body : List Byte) (last : Bool) : Chip :=
  c.noticeAt kind dest tc body last none

/-- ERR_SEEN: fence-class events within LOOKBACK (R436). -/
def Chip.errSeen (c : Chip) : Nat :=
  let look := fld (c.reg (twn 0x118)) 9 0 * 1000
  (c.twin.errs.filter (fun t => c.now ≤ t + look)).length

/-- A twin event: a NOTICE of KIND 3 with the body of R440, to TWN_NOTIFY. -/
def Chip.twinEvent (c : Chip) (ev test what own peer : Nat) (last : Bool) : Chip :=
  let roles := c.twin.role + put c.twin.peerRole 3 + put c.sideCode 6
  let paths := b2n (c.twin.paths.getD 0 false) + 2 * b2n (c.twin.paths.getD 1 false)
  c.notice 3 (fld (c.reg (twn 0x110)) 15 0) 0
    (leBytes 1 ev ++ leBytes 1 roles ++ leBytes 1 paths ++ leBytes 1 test ++ leBytes 4 c.twin.term ++
      leBytes 4 c.errSeen ++ leBytes 4 c.twin.peerErr ++ leBytes 4 what ++ leBytes 4 own ++ leBytes 4 peer ++
      leBytes 4 0) last

/-- A path bit changes: EVENT 9 (R441). -/
def Chip.twinPath (c : Chip) (i : Nat) (b : Bool) : Chip :=
  if c.twin.paths.getD i false = b then c
  else Chip.twinEvent { c with twin := { c.twin with paths := c.twin.paths.set i b } } 9 0 0 0 0 false

/-- PATHS bit 0: the twin-link port is neither DOWN nor in FAULT, and a beat came on the twin link within 14 µs (R441). -/
def Chip.twinLinkPath (c : Chip) : Chip :=
  c.twinPath 0 ((match (c.port (fld (c.reg (twn 0x104)) 9 0)).st with | .down | .fault => false | _ => true) &&
    (match c.twin.lastLink with | some t => decide (c.now < t + 14000) | none => false))

/-- The port is this part's twin link (R422). -/
def Chip.isTwinLink (c : Chip) (p : Nat) : Bool :=
  c.twin.role != 0 && c.regBit (twn 0x104) 31 && fld (c.reg (twn 0x104)) 9 0 == p

/-- A port count of the digests is disturbed (R437). -/
def Chip.disturb (c : Chip) (p : Nat) : Chip :=
  if c.twin.disturbed.contains p then c else { c with twin := { c.twin with disturbed := p :: c.twin.disturbed } }

/-- Copies that the part severs disturb the counts of their ports (R437). -/
def Chip.disturbed (c : Chip) (xs : List Copy) : Chip :=
  c.each xs (fun c x => match x.goal with | .port p => if x.tailSent then c else c.disturb p | _ => c)

end Sys2Proof.Machine
end

