-- ==== Sys2Proof/Machine/Packets.lean ====
section
/-! DEFINITION. Packets in the part: credits and edge windows, references and copies, partial delivery (R135 to R138, R219
to R224, R241 to R246, R283 to R288, R405). -/
namespace Sys2Proof.Machine

/-! ### Edge windows (R283 to R289) -/

/-- The edge bit of a port (R195). -/
def Chip.isEdge (c : Chip) (p : Nat) : Bool := c.regBit (regAddr (p / 256) 0x40 (0x200 + 4 * (p % 256 / 32))) (p % 32)

/-- The window of a port and TC. -/
def Chip.win (c : Chip) (p t : Nat) : Win := SMap.getD c.wins (4 * p + t) {}

/-- OUT_t: the exact count (R283). -/
def Win.out (w : Win) : Nat := (w.epochs.map Prod.snd).sum

/-- LIMIT_t. -/
def Chip.winLimit (c : Chip) (p t : Nat) : Nat := fld (c.reg (winPage p + 0x100 + 0x40 * t + 4 * (p % 16))) 15 0

/-- P_E in ns: ⌊62.5 × WIN_EXPIRE⌋ (R286). -/
def Chip.epochLen (c : Chip) (p : Nat) : Nat := 125 * fld (c.reg (winPage p + 0x300)) 13 0 / 2

/-- The local ports of a datapath island with a closed window. -/
def Chip.closedPorts (c : Chip) (p : Nat) : List Nat :=
  (List.range 16).filter (fun k => (List.range 4).any (fun t => (c.win (p / 16 * 16 + k) t).closed))

/-- A window opens or closes: closed while LIMIT is above 0 and OUT at least LIMIT, on a port that advertises credits on
VC4 to VC7 (R287, R289). Opening returns every withheld credit. A port that is DOWN advertises nothing, and one whose edge bit is
cleared keeps its windows. DESIGN CHOICE; log entry 113. -/
def Chip.winCheck (c : Chip) (p t : Nat) : Chip :=
  let w := c.win p t
  let lim := c.winLimit p t
  let enforced := (List.range 4).any (fun i => cnt (c.port p).advPriv (4 + i) != 0)
  let closed := decide (0 < lim) && decide (lim ≤ w.out) && enforced
  if closed = w.closed then c else
  let was := c.closedPorts p
  let c := { c with wins := SMap.set c.wins (4 * p + t) { w with closed := closed } }
  let c := c.pmcEdge (p / 256) (p % 256 / 16) 0x1009 was (c.closedPorts p)
  if closed then c.bump (winPage p + 0x308) 1
  else c.onLink p (fun l => { l with
    ret := cntAdd l.ret t (cnt l.withheld t), withheld := cntSet l.withheld t 0 })

/-- A request is counted in the current epoch (R284, R286). -/
def Chip.winAdd (c : Chip) (p t : Nat) : Chip :=
  let w := c.win p t
  let pe := max (c.epochLen p) 1
  let e := match w.epochs with
    | [] => [(c.time.ft / pe * pe, 1)]
    | l => upd l (l.length - 1) (fun x => (x.1, x.2 + 1))
  Chip.winCheck { c with wins := SMap.set c.wins (4 * p + t) { w with epochs := e } } p t

/-- `n` taken from epochs, the oldest first (R286). -/
def winTake : List (Nat × Nat) → Nat → List (Nat × Nat)
  | [], _ => []
  | (s, k) :: t, n => (s, k - n) :: winTake t (n - k)

/-- A reply lowers OUT_t (R285). -/
def Chip.winSub (c : Chip) (p t n : Nat) : Chip :=
  let w := c.win p t
  if w.epochs.isEmpty then c
  else Chip.winCheck { c with wins := SMap.set c.wins (4 * p + t) { w with epochs := winTake w.epochs n } } p t

/-- Every window, epoch and withheld credit of a port is cleared; a window that was closed is closed no more (R288, R455). -/
def Chip.winClear (c : Chip) (p : Nat) : Chip :=
  let was := c.closedPorts p
  let c := { c with wins := SMap.drop c.wins (fun k => k / 4 == p) }.onLink p (fun l => { l with withheld := [] })
  c.pmcEdge (p / 256) (p % 256 / 16) 0x1009 was (c.closedPorts p)

/-! ### Credits of a link end (R135 to R137, R287) -/

/-- The shared credits that are free; VC8 and VC9 have private credits only (R135). -/
def Link.freeShared (x : Link) (v : Nat) : Nat := if v < 8 then x.shared - x.shUse.sum else 0

/-- `n` stitches of a virtual channel may be sent: free private credits, or for VC0 to VC7 free shared ones (R135). -/
def Link.hasCredit (x : Link) (v n : Nat) : Bool := n ≤ cnt x.priv v - cnt x.pvUse v + x.freeShared v

/-- `n` stitches take credits, private ones while they are free, then shared ones (R135). -/
def Link.useCredit (x : Link) (v n : Nat) : Link :=
  let p := min n (cnt x.priv v - cnt x.pvUse v)
  { x with pvUse := cntAdd x.pvUse v p, shUse := cntAdd x.shUse v (n - p) }

/-- `n` credits of a virtual channel come back: shared ones first, up to those it holds in use, then private ones (R136). -/
def Link.freeCredit (x : Link) (v n : Nat) : Link :=
  let s := min n (cnt x.shUse v)
  { x with shUse := cntSet x.shUse v (cnt x.shUse v - s), pvUse := cntSet x.pvUse v (cnt x.pvUse v - (n - s)) }

/-- A cumulative count is learned (R136, R137). -/
def Link.learn (x : Link) (v count : Nat) : Link :=
  { x.freeCredit v ((count + 16384 - cnt x.learned v % 16384) % 16384) with learned := cntSet x.learned v count }

/-- `n` stitches of a virtual channel leave a receiver's buffer: their credits are returned, or withheld by a closed edge
window (R137, R287). Those of C0's injection path, above `localLink`, are free again at once (R253). -/
def Chip.returnCredits (c : Chip) (rx vc n : Nat) : Chip :=
  if n = 0 ∨ rx = localLink then c
  else if localLink < rx then c.onLink rx (fun l => l.freeCredit vc n)
  else if rx < 1024 ∧ vc < 4 ∧ (c.win rx vc).closed then
    c.onLink rx (fun l => { l with withheld := cntAdd l.withheld vc n })
  else c.onLink rx (fun l => { l with ret := cntAdd l.ret vc n })

/-! ### Packets, stores and copies -/

/-- A packet of the part. -/
def Chip.pkt? (c : Chip) (id : Nat) : Option Pkt := c.pkts.find? (·.id == id)

/-- A change of one packet. -/
def Chip.onPkt (c : Chip) (id : Nat) (f : Pkt → Pkt) : Chip :=
  { c with pkts := c.pkts.map (fun p => if p.id = id then f p else p) }

/-- The length of a packet in bytes (R156). -/
def Chip.sizeOf (c : Chip) (id : Nat) : Nat := match c.pkt? id with | some p => p.hdr.size | none => 0

/-- A store. -/
def Chip.store? (c : Chip) (sid : Nat) : Option Store := c.stores.find? (·.sid == sid)

/-- A change of one store. -/
def Chip.onStore (c : Chip) (sid : Nat) (f : Store → Store) : Chip :=
  { c with stores := c.stores.map (fun s => if s.sid = sid then f s else s) }

/-- The store that takes a packet in where it enters the part: over a port, or from C0. -/
def Chip.entryStore? (c : Chip) (id : Nat) : Option Store :=
  c.stores.find? (fun s => s.pkt == id && (decide (s.rx < 1024) || decide (localLink < s.rx)))

/-- A copy. -/
def Chip.copy? (c : Chip) (id : Nat) : Option Copy := c.copies.find? (·.id == id)

/-- A change of one copy. -/
def Chip.onCopy (c : Chip) (id : Nat) (f : Copy → Copy) : Chip :=
  { c with copies := c.copies.map (fun x => if x.id = id then f x else x) }

/-- A copy has ended: nothing holds the packet for it any more. -/
def Chip.removeCopy (c : Chip) (id : Nat) : Chip := { c with copies := c.copies.filter (·.id != id) }

/-- The packet bytes of a store that a copy can read: none while it waits, all once the tail is stored, otherwise those that
have arrived, of a chain those that its cells hold; the trailer leaves only with the tail (R237 to R239, R269). -/
def Store.readable (s : Store) (size : Nat) : Nat :=
  if s.wait then 0
  else if s.tailIn then size
  else min (min s.got (size - 8)) (if s.chain then 248 * s.cells.length else size)

/-- The earlier of two bytes from which a packet is zeros. -/
def minCut : Option Nat → Option Nat → Option Nat
  | some a, some b => some (min a b)
  | some a, none => some a
  | none, b => b

/-- From which byte on a copy goes out as zeros: by its own cut, and by the store it reads (R150, R279). -/
def Chip.cutOf (c : Chip) (x : Copy) : Option Nat :=
  minCut x.cut (match c.store? x.sid with | some s => s.cut | none => none)

/-- The tail code a copy closes with: the highest of its own, its store's and its packet's (R152). -/
def Chip.codeOf (c : Chip) (x : Copy) (p : Pkt) : Nat :=
  max (max x.code (match c.store? x.sid with | some s => s.code | none => 0)) p.code

/-- A packet as its bytes leave: header, payload and trailer (R156, R176); from `cut` on zeros, with SEAL 0 (R150, R279). -/
def imageOf (p : Pkt) (cut : Option Nat) (code : Nat) : List Byte :=
  let body := p.hdr.bytes ++ fit 0 p.hdr.len p.payload
  match cut with
  | none => body ++ leBytes 8 (trailerOf p.sealW code).toNat
  | some k => fit 0 (p.hdr.len + 16) (body.take k) ++ leBytes 8 (trailerOf 0 code).toNat

/-- The bytes that a copy sends. -/
def Chip.image (c : Chip) (x : Copy) (p : Pkt) : List Byte := imageOf p (c.cutOf x) (c.codeOf x p)

/-- How many bytes of a copy could leave now: all of the rest of a copy that has aged, and of a packet that a press die has
made; otherwise what its store holds. -/
def Chip.avail (c : Chip) (x : Copy) (p : Pkt) : Nat :=
  if x.zeros then p.hdr.size
  else match c.store? x.sid with
    | some s => s.readable p.hdr.size
    | none => if p.tailIn then p.hdr.size else 0

/-! ### Credit stall (R449) -/

/-- The entries of a queue, oldest first. -/
def Chip.queue (c : Chip) (link vc : Nat) : List Copy :=
  c.copies.filter (fun x => x.link == link && x.vc == vc && !x.tailSent)

/-- The virtual channels of an output on which the entry at the front has a stitch stored and not yet sent, and no credit for it
(R449). -/
def Chip.stalledVcs (c : Chip) (l : Nat) : List Nat :=
  (List.range 10).filter (fun v => !(c.link l).hasCredit v 1 && (match c.queue l v with
    | [] => false
    | x :: _ => match c.pkt? x.pkt with
      | some p => decide (min (x.sent + 64) p.hdr.size ≤ c.avail x p)
      | none => false))

/-- Some of VC0 to VC7 is stalled: the output's cycles are stalled ones (R449). -/
def Link.stalled (x : Link) : Bool := x.stall.any (· < 8)

/-- The stalled time of a link end up to now. -/
def Link.stallSum (x : Link) (now : Nat) : Nat := x.stallNs + (if x.stalled then now - x.stallAt else 0)

/-- What a link end keeps when it starts anew: the stalled time of its entries, which are still queued (R449). -/
def Link.kept (x : Link) : Link := { stall := x.stall, stallNs := x.stallNs, stallAt := x.stallAt }

/-- The stalled virtual channels of one output are looked at again: its stalled time so far is added up, and the condition's
counters see it begin (R449, R454, R455). -/
def Chip.restallOne (c : Chip) (l : Nat) : Chip :=
  let was := (c.link l).stall
  let is := c.stalledVcs l
  if was = is then c
  else
    let c := c.onLink l (fun x => { x with stall := is, stallNs := x.stallSum c.now, stallAt := c.now })
    if l < 1024 then c.pmcEdgeOf (l / 256) (l % 256 / 16) 0x1006 (some (l % 16)) was is
    else if l < 1040 then c.pmcEdge ((l - 1024) / 4) (19 + (l - 1024) % 4) 0x4004 was is
    else c.pmcEdge (4 + (l - 1040)) 9 0x8001 was is

/-- Every output that has entries, or had a stalled channel, is looked at again, and so is every quadrant's wait for pool 0. -/
def Chip.restall (c : Chip) : Chip :=
  (c.each ((c.copies.map (·.link) ++ (c.links.filter (fun kv => kv.2.stall != [])).map (·.1)).eraseDups.filter (· < 1044))
    Chip.restallOne).each (List.range 4) Chip.rewait

/-- Stitches of a packet of `size` bytes that enters over C0's injection path, which has no frames: ⌈size / 64⌉. -/
def stitchesOf (size : Nat) : Nat := (size + 63) / 64

/-- The bytes at which those stitches end. -/
def stitchEnds (size : Nat) : List Nat := (List.range (stitchesOf size)).map (fun i => min size (64 * (i + 1)))

/-! ### Partial delivery (R219 to R224) -/

/-- Ports join the failed ports of a multicast packet. -/
def Chip.mcFail (c : Chip) (id : Nat) (ports : List Nat) (aged down : Bool) : Chip :=
  c.onPkt id (fun p => match p.mc with
    | none => p
    | some m => { p with mc := some { m with
        failed := m.failed ++ ports.filter (fun x => !m.failed.contains x)
        aged := m.aged || aged
        down := m.down || down } })

/-- The mask ports of a quadrant for a multicast packet, by the entry quadrant's own entry (R219, R221). -/
def Chip.maskPorts (c : Chip) (p : Pkt) (q : Nat) : List Nat :=
  match c.group p.entry p.hdr.bank p.hdr.dest p.hdr.job with
  | none => []
  | some g => (groupPorts g q).filter (fun x => p.origin != .port x)

/-- A bit mask of 1,024 ports as 128 bytes (R224). -/
def portBytes (l : List Nat) : List Byte := leBytes 128 (ofBits l)

/-- When every copy of a multicast packet is resolved and some port has failed, the entry quadrant sends one NOTICE of KIND 1
(R223, R224). -/
def Chip.mcCheck (c : Chip) (id : Nat) : Chip :=
  match c.pkt? id with
  | none => c
  | some p =>
    match p.mc with
    | none => c
    | some m =>
      let open_ := c.copies.any (fun x => x.pkt == id && !x.zeros && !x.counted && (match x.goal with | .repl _ => true | _ => !x.tailSent))
      if open_ || m.failed.isEmpty then c
      else
        let c := c.onPkt id (fun p => { p with mc := none })
        if !c.noticeOk m.notify false then c else
        let status := p.hdr.gen % 4 + put (b2n p.hdr.bank) 2 + put (b2n m.aged) 3 + put (b2n m.down) 4
        (c.noticeAt 1 m.notify p.hdr.tc
          (leBytes 2 p.hdr.dest ++ leBytes 2 p.hdr.job ++ leBytes 1 status ++ leBytes 1 p.hdr.op ++
            leBytes 2 m.failed.length ++ leBytes 4 p.hdr.aux ++ leBytes 4 p.hdr.seq ++ portBytes m.failed) false
          (some p.entry)).bump (regAddr p.entry 0x43 0x208) 1

/-- A packet leaves the part when no store, copy, hold or arrival has it; a job may then stop draining (R405, R406). -/
def Chip.gcPkt (c : Chip) (id : Nat) : Chip :=
  if c.stores.any (·.pkt == id) || c.copies.any (·.pkt == id) || c.isHeld id ||
     c.rx.any (fun kv => match kv.2.cur with | some r => r.pkt == some id | none => false) then c
  else
    let c := c.mcCheck id
    match c.pkt? id with
    | none => c
    | some p => Chip.unref { c with pkts := c.pkts.filter (·.id != id) } p.hdr.job

/-! ### References (R241 to R246) -/

/-- The credits of a store's stitches return as the slowest copy passes them: all when nothing has still to read it, none
while a rinse holds it (R137, R245, R412). -/
def Chip.creditCheck (c : Chip) (sid : Nat) : Chip :=
  match c.store? sid with
  | none => c
  | some s =>
    let passed (e : Nat) : Bool := (c.readers sid).all (fun x => e ≤ x.sent)
    let keep := s.owed.filter (fun e => !passed e)
    if c.isHeld s.pkt ∨ keep.length = s.owed.length then c
    else (c.onStore sid (fun s => { s with owed := keep })).returnCredits s.rx s.vc (s.owed.length - keep.length)

/-- A store goes: its credits return and its storage, if it has any yet, is freed. -/
def Chip.dropStore (c : Chip) (s : Store) : Chip :=
  let c := { c with stores := c.stores.filter (·.sid != s.sid) }
  let c := c.returnCredits s.rx s.vc s.owed.length
  if s.wait then c else c.freeStore s (c.sizeOf s.pkt)

/-- One lowering of REF: refused and recorded below 0 or for a handle that fails R236; at 0 the storage is freed; a REF that cannot be
read stays, and the read counts its error (R242, R243, R246, R251, R563). -/
def Chip.lowerRef (c : Chip) (sid : Nat) : Chip :=
  match c.store? sid with
  | none => c
  | some s =>
    if s.ref = 0 ∨ (s.wait = false ∧ c.handleOk s.q s.handle s.chain s.pooled = false) then
      (((c.bump (bufPage s.q + 0x1C4) 1).recordErr (bufPage s.q) 8 0 s.handle false).raise (bufPage s.q) 2).fenceEvent
    else if s.wait = false ∧ (c.buf s.q).badRef.contains (fld s.handle 19 0) then
      (c.countUe s.q 1 (fld s.handle 19 0)).creditCheck sid
    else if 1 < s.ref then (c.onStore sid (fun s => { s with ref := s.ref - 1 })).creditCheck sid
    else (c.dropStore s).gcPkt s.pkt

/-! ### Reading a store (R239, R240, R251) -/

/-- The cells of a stored chain that hold packet bytes `a` up to `b`, each with the packet bytes from it on. -/
def Store.cellsOf (s : Store) (size a b : Nat) : List (Nat × Nat) :=
  ((List.range s.cells.length).filter (fun k => decide (a < 248 * (k + 1)) && decide (248 * k < b))).map
    (fun k => (s.cells.getD k 0, size - 248 * k))

/-- The packet byte of a store at which a word of a cell stands, if that cell is the store's and the word holds packet bytes: all 32
of a pool buffer's cell, the first 31 of a chained one (R239, R251). -/
def Store.byteOf (s : Store) (w : Nat) : Option Nat :=
  match s.cells.findIdx? (· == w / 32) with
  | none => none
  | some k => if s.chain then (if w % 32 = 31 then none else some (248 * k + 8 * (w % 32))) else some (256 * k + 8 * (w % 32))

/-- The words that cannot be read among packet bytes `a` up to `b` of a store (R251). -/
def Chip.badWords (c : Chip) (s : Store) (a b : Nat) : List Nat :=
  (c.buf s.q).badData.filter (fun w => match s.byteOf w with
    | some k => decide (a < k + 8) && decide (k < b)
    | none => false)

/-- The cells whose links cannot be read among those that hold packet bytes `a` up to `b` of a store (R240). -/
def Chip.deadLinks (c : Chip) (s : Store) (size a b : Nat) : List Nat :=
  if s.chain then ((s.cellsOf size a b).map (·.1)).filter (c.buf s.q).badLink.contains else []

/-- What reading packet bytes `a` up to `b` of a store finds: 0 nothing, 1 packet data that cannot be read, 2 a bad cell link
(R240, R251). -/
def Chip.readFault (c : Chip) (s : Store) (size a b : Nat) : Nat :=
  if s.chain && (s.cellsOf size a b).any (fun e => c.linkBad s.q e.1 e.2) then 2
  else if (c.badWords s a b).isEmpty then 0 else 1

/-- A read of packet bytes `a` up to `b` of a store counts every uncorrectable error that it meets, and a bad cell link in
BUF_HANDLE_ERR (R240, R563). -/
def Chip.readErrors (c : Chip) (s : Store) (size a b : Nat) : Chip :=
  let k := c.readFault s size a b
  let c := c.each ((c.deadLinks s size a b).map (fun y => 32 * y + 31) ++ c.badWords s a b) (fun c w => c.countUe s.q 0 w)
  if k = 2 then c.handleErr s.q else c

/-- A unit of the part reads a stored packet whole: answers whether every byte could be read (R240, R251). -/
def Chip.readWhole (c : Chip) (sid size : Nat) : Bool × Chip :=
  match c.store? sid with
  | none => (true, c)
  | some s => (c.readFault s size 0 size == 0, c.readErrors s size 0 size)

/-! ### Copies that end -/

/-- Why a copy is dropped. -/
inductive Drop where
  | aged | down | seal_ | pushed
deriving DecidableEq, Repr

/-- A copy and all that it feeds, over seams too: the ports they are for count as failed already. The first argument bounds
the seams on the way. -/
def Chip.markFed : Nat → Chip → Copy → Chip
  | 0, c, _ => c
  | n + 1, c, x =>
    let c := c.onCopy x.id (fun x => { x with counted := true })
    match x.into with
    | some t => c.each (c.copies.filter (fun y => y.sid == t)) (Chip.markFed n)
    | none => c

/-- A seam copy is lost: what it feeds counts no more, nor does the seam copy that fed it on the way (R221). -/
def Chip.markLost (c : Chip) (x : Copy) : Chip :=
  (c.each (c.copies.filter (fun y => y.into == some x.sid && (match y.goal with | .repl _ => true | _ => false)))
    (fun c y => c.onCopy y.id (fun y => { y with counted := true }))).markFed 4 x

/-- Ports whose copies a lost seam copy would have fed: each counts in MCG_COPY_DROP of the quadrant where the packet entered, and
each port's count of the digests is disturbed (R221, R437). -/
def Chip.lostPorts (c : Chip) (q : Nat) (ps : List Nat) : Chip :=
  (c.bump (regAddr q 0x43 0x204) ps.length).each ps Chip.disturb

/-- The count and the failed ports of a dropped multicast copy; a lost seam copy counts every mask port of its quadrant, and none of
them counts again (R221). -/
def Chip.dropCount (c : Chip) (x : Copy) (why : Drop) : Chip :=
  match c.pkt? x.pkt with
  | none => c
  | some p =>
    match x.goal with
    | .port port =>
      let c := c.disturb port
      if p.hdr.op = 0x14 && !x.counted then
        (c.bump (regAddr x.q 0x43 0x204) 1).mcFail x.pkt [port] (why == .aged) (why == .down)
      else c
    | .repl r =>
      if x.counted then c
      else
        let ps := c.maskPorts p r
        ((c.lostPorts p.entry ps).mcFail x.pkt ps (why == .aged) true).markLost x
    | _ => c

/-- A copy that crosses a seam. -/
def Copy.overSeam (x : Copy) : Bool := decide (1024 ≤ x.link) && decide (x.link < localLink)

/-- A store whose tail has come and waits to be stored needs no more storage once nothing will read it: the writer's reference ends
(R242, R280). -/
def Chip.tailDead (c : Chip) (sid : Nat) : Chip :=
  match c.store? sid with
  | none => c
  | some s =>
    if s.tailWait && c.unread s then (c.onStore sid (fun s => { s with tailIn := true, tailWait := false })).lowerRef sid else c

/-- A port no longer has a stitch that it had to send: QUIET_DELAY starts again (R96). -/
def Chip.idleFrom (c : Chip) (l : Nat) : Chip :=
  if l < 1024 ∧ (c.port l).st.untrained = false then c.onPort l (fun x => { x with idleAt := c.now }) else c

/-- A copy is dropped whole: its reference ends if it still holds one (R242), and the packet's partial delivery is brought
up to date. A port copy's reference has ended once its tail has left, a seam copy's only on the acknowledgement. The
credits of what a seam copy had at its far end return there. -/
def Chip.dropCopy (c : Chip) (id : Nat) (why : Drop) : Chip :=
  match c.copy? id with
  | none => c
  | some x =>
    let holds := !x.zeros && !x.ended && (!x.tailSent || x.overSeam)
    let counts := !x.zeros && (match x.goal with | .repl _ => true | _ => !x.tailSent)
    let c := if counts then c.dropCount x why else c
    let c := c.removeCopy id
    let c := if x.overSeam then c.returnCredits (farEnd x.link) x.vc x.owed.length else c
    let c := if holds then c.lowerRef x.sid else c
    let c := if x.tailSent then c else (c.idleFrom x.link).tailDead x.sid
    ((c.creditCheck x.sid).gcPkt x.pkt).mcCheck x.pkt

/-- Copies dropped in order. -/
def Chip.dropCopies (c : Chip) (l : List Copy) (why : Drop) : Chip := c.each l (fun c x => c.dropCopy x.id why)

/-- A copy is acknowledged or otherwise over: a seam copy's reference ends (R242), a port copy leaves the counts
(R405). A seam copy whose head has yet to be taken in at the far side stays until it is. -/
def Chip.ackCopy (c : Chip) (id : Nat) : Chip :=
  match c.copy? id with
  | none => c
  | some x =>
    let c := if x.overSeam && !x.arrived then c.onCopy id (fun x => { x with ended := true }) else c.removeCopy id
    let c := if x.overSeam && !x.zeros && !x.ended then c.lowerRef x.sid else c
    (c.gcPkt x.pkt).mcCheck x.pkt

/-- A new copy of a packet at the end of its queue (R264). -/
def Chip.addCopy (c : Chip) (pkt sid q link vc : Nat) (goal : Goal) (path : List Nat) : Chip :=
  let r := c.newId
  { r.2 with copies := r.2.copies ++
      [{ id := r.1, pkt := pkt, sid := sid, q := q, link := link, vc := vc, goal := goal, path := path }] }

/-- The depth of a queue in cells (R266). -/
def Chip.depth (c : Chip) (link vc : Nat) : Nat :=
  ((c.queue link vc).map (fun x => if x.zeros then 0 else match c.store? x.sid with
    | some s => s.cells.length | none => 0)).sum

/-- Entries and packets that a virtual channel discards while they arrive: nothing more of them is stored. -/
def Chip.stopRx (c : Chip) (id : Nat) : Chip :=
  { c with rx := c.rx.map (fun kv => (kv.1, { kv.2 with cur := kv.2.cur.map (fun r =>
      if r.pkt = some id then { r with pkt := none } else r) })) }

end Sys2Proof.Machine
end

