-- ==== Sys2Proof/Machine/Lint.lean ====
section
/-! DEFINITION. Lint taps (R467 to R470): what a tap sees, chooses and records. -/
namespace Sys2Proof.Machine

/-- The LNT page of a quadrant. -/
def lnt (q off : Nat) : Nat := regAddr q 0x49 off

/-- A tap's runtime state. -/
def Chip.tap (c : Chip) (q t : Nat) : Tap := SMap.getD c.tele.taps (32 * q + t) {}

/-- A change of one tap. -/
def Chip.onTap (c : Chip) (q t : Nat) (f : Tap → Tap) : Chip :=
  { c with tele := { c.tele with taps := SMap.set c.tele.taps (32 * q + t) (f (c.tap q t)) } }

/-- A countdown's load value: N, or with JITTER a draw from 1 to 2N − 1 (R468). -/
def Chip.lintLoad (c : Chip) (q t : Nat) : Nat × Chip :=
  let n := fld (c.reg (lnt q (0x180 + 4 * t))) 23 0 + 1
  if c.regBit (lnt q (0x100 + 4 * t)) 1 then
    let r := c.draw Config.jitterDraw
    (1 + r.1 % (2 * n - 1), r.2)
  else (n, c)

/-- A tap is enabled, watches a port at a point, and a header passes its masks (R467). -/
def Chip.lintMatch (c : Chip) (q t port : Nat) (egress : Bool) (h : Hdr) : Bool :=
  let cfg := c.reg (lnt q (0x100 + 4 * t))
  let job := c.reg (lnt q (0x200 + 4 * t))
  bit cfg 0 && c.regBit (lnt q (0x400 + 0x20 * t + 4 * (port % 256 / 32))) (port % 32) && bit job 31 == egress &&
    bit cfg (4 + h.net) && bit cfg (8 + h.tc) && (!bit cfg 12 || fld job 11 0 == h.job)

/-- The enabled taps of a quadrant: those whose configuration a write has set. -/
def Chip.lintTaps (c : Chip) (q : Nat) : List Nat :=
  if c.isOn q 0x49 then
    (c.regs.filter (fun kv => decide (lnt q 0x100 ≤ kv.1) && decide (kv.1 < lnt q 0x180) && kv.2.getLsbD 0)).map
      (fun kv => (kv.1 - lnt q 0x100) / 4)
  else []

/-- TRUNC of a tap in bytes; a record keeps the setting that it began with (R469, R470). -/
def Chip.lintTrunc (c : Chip) (q t : Nat) : Nat :=
  let x := fld (c.reg (lnt q (0x100 + 4 * t))) 3 2
  if x = 0 then 64 else if x = 1 then 128 else 256

/-- A matching packet lowers a tap's countdown, and is chosen when it reaches 0 (R468). -/
def Chip.lintCount (c : Chip) (q t : Nat) (r : LintRec) : Chip :=
  let tp := c.tap q t
  if 1 < tp.count then c.onTap q t (fun x => { x with count := x.count - 1, skipped := min (x.skipped + 1) 0xFFFFFFFF })
  else
    let l := c.lintLoad q t
    l.2.onTap q t (fun x => { x with
      count := l.1, skipped := 0, due := x.due ++ [{ r with skipped := tp.skipped, trunc := c.lintTrunc q t }] })

/-- A packet head passes a point of a port: every tap that matches counts it (R467). -/
def Chip.lintSee (c : Chip) (port : Nat) (egress : Bool) (r : LintRec) : Chip :=
  let q := port / 256
  ((c.lintTaps q).filter (fun t => c.lintMatch q t port egress r.hdr)).foldl (fun c t => c.lintCount q t r) c

/-- The tail of a packet passes the taps that hold it: at ingress `copy` is none. -/
def Chip.lintTail (c : Chip) (pkt : Nat) (copy : Option Nat) (body : List Byte) (tailB sealC : Nat) : Chip :=
  let f (r : LintRec) : LintRec :=
    if r.pkt = pkt ∧ r.copy = copy ∧ r.done = false then
      { r with done := true, body := body.take 256, tailB := tailB, sealC := sealC } else r
  { c with tele := { c.tele with
      taps := c.tele.taps.map (fun kv => (kv.1, { kv.2 with due := kv.2.due.map f, busy := kv.2.busy.map f })) } }

/-- The bytes of a packet that have passed a tap so far: those received of it, or those sent of the copy (R469). -/
def Chip.lintSoFar (c : Chip) (r : LintRec) : List Byte :=
  match r.copy with
  | some id => match c.copy? id with
    | some x => match c.pkt? x.pkt with
      | some p => (c.image x p).take x.sent
      | none => r.hdr.bytes
    | none => r.hdr.bytes
  | none =>
    match (c.rx.map (·.2)).find? (fun x => x.cur.any (·.seen == r.pkt)) with
    | some x => match x.cur with | some k => k.got | none => r.hdr.bytes
    | none => r.hdr.bytes

/-- A lint record: its 32-byte head and its captured bytes, padded to a multiple of 8 (R470). -/
def lintRecord (q t : Nat) (egress : Bool) (r : LintRec) (now : Bool) : List Byte :=
  let body := r.body
  let cap := min (min r.trunc (r.hdr.len + 24)) body.length
  let where_ := t + put q 5 + put (b2n egress) 7
  let len := if 8192 < r.hdr.len then 0xFFFF else r.hdr.len + 24
  let capd := body.take cap
  leBytes 8 r.time ++ leBytes 2 r.port ++ leBytes 1 where_ ++ leBytes 1 (if now then 0xF0 else r.tailB) ++
    leBytes 1 r.disp ++ leBytes 1 (if now then 0 else r.sealC) ++ leBytes 2 cap ++ leBytes 2 len ++ leBytes 2 0 ++
    leBytes 4 r.skipped ++ leBytes 8 0 ++ capd ++ List.replicate ((8 - cap % 8) % 8) 0

/-- A completed record enters the quadrant's lint queue of 64, or is dropped (R469). -/
def Chip.lintQueue (c : Chip) (q : Nat) (bytes : List Byte) : Chip :=
  if (c.tele.lintQ.filter (·.1 == q)).length < 64 then
    { c with tele := { c.tele with lintQ := c.tele.lintQ ++ [(q, bytes)] } }
  else
    Chip.pmc { (c.bump (lnt q 0x304) 1) with tele := { c.tele with dropped := c.tele.dropped + 1 } } q 18 0x5004 (some 1)
      none

/-- LINT_TAKE: while the page is ON, the packet a tap chose starts its record; with 4 in progress it is dropped (R469, R553). -/
def lintTake (q t : Nat) (c : Chip) : Chip :=
  match (c.tap q t).due with
  | [] => c
  | r :: rest =>
    if c.isOn q 0x49 = false then c else
    let c := (c.onTap q t (fun x => { x with due := rest })).bump (lnt q (0x280 + 4 * t)) 1
    let c := c.pmc q 18 0x5003 (some (t / 2)) none
    if 4 ≤ (c.tap q t).busy.length then
      Chip.pmc { (c.bump (lnt q 0x300) 1) with tele := { c.tele with dropped := c.tele.dropped + 1 } } q 18 0x5004
        (some 0) none
    else c.onTap q t (fun x => { x with busy := x.busy ++ [r] })

/-- LINT_RECORD_COMPLETE: the oldest record whose tail has passed the tap enters the queue (R469). -/
def lintComplete (q t : Nat) (c : Chip) : Chip :=
  match (c.tap q t).busy.find? (·.done) with
  | none => c
  | some r =>
    if c.works q 0x49 = false then c else
    (c.onTap q t (fun x => { x with busy := x.busy.erase r })).lintQueue q (lintRecord q t r.copy.isSome r false)

/-- A port leaves ACTIVE: its records in progress complete at once with what has passed the tap and TAIL 0xF0 (R469). -/
def Chip.lintCut (c : Chip) (port : Nat) : Chip :=
  let q := port / 256
  let one (c : Chip) (t : Nat) : Chip :=
    let hit := (c.tap q t).busy.filter (fun r => r.port == port && !r.done)
    hit.foldl (fun c r => c.lintQueue q (lintRecord q t r.copy.isSome { r with body := (c.lintSoFar r).take 256 } true))
      (c.onTap q t (fun x => { x with
        busy := x.busy.filter (fun r => !(r.port == port && !r.done)),
        due := x.due.map (fun r => if r.port = port ∧ r.done = false then
          { r with done := true, body := (c.lintSoFar r).take 256, tailB := 0xF0 } else r) }))
  ((c.tele.taps.filter (fun kv => kv.1 / 32 == q)).map (fun kv => kv.1 % 32)).foldl one c

end Sys2Proof.Machine
end

