-- ==== Sys2Proof/Machine/Ports.lean ====
section
/-! DEFINITION. Ports: their lanes and layout, the states of R142 and what each change of state does (R143 to R151, R210,
R384, R397). -/
namespace Sys2Proof.Machine

/-! ### Layout (R73, R74) -/

/-- The ports of a layout code: offset of the base lane in the fibre pair, and width. -/
def layoutPorts (code : Nat) : List (Nat × Nat) :=
  match code with
  | 0 => [(0, 8)]
  | 1 => [(0, 4), (4, 4)]
  | 2 => [(0, 4), (4, 2), (6, 2)]
  | 3 => [(0, 2), (2, 2), (4, 4)]
  | 4 => [(0, 2), (2, 2), (4, 2), (6, 2)]
  | _ => []

/-- The layout code of a port's fibre pair. -/
def Chip.layoutCode (c : Chip) (p : Nat) : Nat :=
  fld (c.reg (lnePage p + 0x100)) (3 * (p % 16 / 4) + 2) (3 * (p % 16 / 4))

/-- The width of a port under a layout code; 0 when the layout holds no such port. -/
def widthIn (code p : Nat) : Nat :=
  match (layoutPorts code).find? (fun ow => ow.1 == 2 * p % 8) with
  | some ow => ow.2
  | none => 0

/-- The width of a port, in lanes. -/
def Chip.width (c : Chip) (p : Nat) : Nat := widthIn (c.layoutCode p) p

/-- The lanes of a port's layout as a mask of the fibre pair's eight. -/
def Chip.fullLanes (c : Chip) (p : Nat) : Nat := put (ones (c.width p)) (2 * p % 8)

/-- The engine of a port's fibre pair. -/
def portEngine (p : Nat) : Nat := p / 64

/-- The fibre pair of a port on its engine. -/
def portFp (p : Nat) : Nat := p % 64 / 4

/-- A register of an engine's OEN page. -/
def oen (e off : Nat) : Nat := regAddr (8 + e) 0x40 off

/-- The fibre pair of a port is enabled (R85). -/
def Chip.fpOn (c : Chip) (p : Nat) : Bool := c.regBit (oen (portEngine p) 0x100) (portFp p)

/-- Local lane number of wavelength 0 of a port's fibre pair in its island. -/
def fpLane (p : Nat) : Nat := 8 * (p % 16 / 4)

/-- The lanes of a port's fibre pair that an LNE bit register shows at 1, as a mask of eight. -/
def Chip.fpBits (c : Chip) (p off : Nat) : Nat := fld (c.reg (lnePage p + off)) (fpLane p + 7) (fpLane p)

/-- Bits of a port's fibre pair in an LNE bit register are set or cleared. -/
def Chip.setFpBits (c : Chip) (p off mask : Nat) (b : Bool) : Chip :=
  let v := c.fpBits p off
  let v' := if b then v ||| mask else v - (v &&& mask)
  if v' = v then c else c.setRegFld (lnePage p + off) (fpLane p + 7) (fpLane p) v'

/-- The LNE, LNK and WIN pages that serve a port are ON. -/
def Chip.servedOn (c : Chip) (p : Nat) : Bool :=
  let d := p % 256 / 16
  c.isOn (p / 256) (0x10 + d) && c.isOn (p / 256) (0x20 + d) && c.isOn (p / 256) (0x30 + d)

/-- The condition of the DISABLED row of R143 is not met: the pair is enabled, the layout holds the port, the pages are
ON. -/
def Chip.enabled (c : Chip) (p : Nat) : Bool := c.fpOn p && c.width p != 0 && c.servedOn p

/-- Every lane of a port is out of LOS. -/
def Chip.lit (c : Chip) (p : Nat) : Bool := c.fpBits p 0x108 &&& c.fullLanes p == 0

/-- Every lane of a port is in LOS. -/
def Chip.dark (c : Chip) (p : Nat) : Bool := c.fpBits p 0x108 &&& c.fullLanes p == c.fullLanes p

/-! ### Discarding and severing -/

/-- A packet is discarded whole, everywhere in the part, before any of it has left: copies, stores, holds (R149, R150). The
ports it was queued for have dropped a copy (R437). -/
def Chip.discardPkt (c : Chip) (id : Nat) : Chip :=
  let ss := c.stores.filter (·.pkt == id)
  let xs := c.copies.filter (·.pkt == id)
  let c := xs.foldl (fun c x =>
    let c := match x.goal with | .port p => c.disturb p | _ => c
    let c := if x.tailSent then c else c.idleFrom x.link
    if x.overSeam then c.returnCredits (farEnd x.link) x.vc x.owed.length else c) c
  let c := c.onPkt id (fun p => { p with mc := none })
  let c := { c with copies := c.copies.filter (·.pkt != id), held := c.held.filter (·.pkt != id) }
  ((ss.foldl (fun c s => c.dropStore s) c).stopRx id).gcPkt id

/-- Some of a packet has left the part: a port copy's head has gone. -/
def Chip.hasLeft (c : Chip) (id : Nat) : Bool :=
  c.copies.any (fun x => x.pkt == id && x.headSent && (match x.goal with | .port p => x.link == p | _ => false))

/-- A partial packet of a port that goes down is discarded, or every copy of it is completed with zeros, SEAL 0 and SEVERED
(R150). -/
def Chip.severPkt (c : Chip) (port id : Nat) : Chip :=
  if c.hasLeft id then
    let c := c.onPkt id (fun p => { p with tailIn := true, payload := fit 0 p.hdr.len p.payload, sealW := 0, code := 3 })
    let c := ((c.stopRx id).bump (lnkReg port 0x580) 1).disturbed (c.copies.filter (·.pkt == id))
    match c.entryStore? id with
    | none => c
    | some s => ((c.onStore s.sid (fun s => { s with tailIn := true, tailWait := false })).lowerRef s.sid).creditCheck s.sid
  else c.discardPkt id

/-- Every receive virtual channel of a port ends its partial packet, and what waits behind it goes (R150). -/
def Chip.severRx (c : Chip) (p : Nat) : Chip :=
  let mine := (c.rx.filter (fun kv => kv.1 / 16 == p)).filterMap (fun kv => kv.2.cur.bind (·.pkt))
  let c := { c with rx := SMap.drop c.rx (fun k => k / 16 == p) }
  mine.foldl (fun c id => c.severPkt p id) c

/-- Every copy on a port is dropped: the packet being sent, the queued ones, and those not yet acknowledged (R151,
R405). -/
def Chip.dropTx (c : Chip) (p : Nat) : Chip := c.dropCopies (c.copies.filter (·.link == p)) .down

/-- The copies of a port whose head has not left are dropped, and those fully sent leave the counts (R148, R405). -/
def Chip.dropQueued (c : Chip) (p : Nat) : Chip :=
  c.dropCopies (c.copies.filter (fun x => x.link == p && (!x.headSent || x.tailSent))) .down

/-! ### Leaving ACTIVE -/

/-- Every barrier counter loses a port's bit (R384). -/
def Chip.barClear (c : Chip) (p : Nat) : Chip :=
  { c with bars := c.bars.map (fun kv => if kv.2.mask.contains p then
      (kv.1, { kv.2 with mask := kv.2.mask.filter (· != p)
                         arrived := if kv.2.wait then kv.2.arrived else kv.2.arrived - 1 })
    else kv) }

/-- A register of C0's SYN page. -/
def synC (off : Nat) : Nat := regAddr 24 0x47 off

/-- The candidates of SYN_TIME_UP in order (R394). -/
def Chip.timeCands (c : Chip) : List Nat :=
  (List.range 4).filterMap (fun i =>
    let h := fld (c.reg (synC (0x308 + 4 * (i / 2)))) (16 * (i % 2) + 10) (16 * (i % 2))
    if bit h 10 then some (fld h 9 0) else none)

/-- The current upstream port: the first ACTIVE candidate (R394). -/
def Chip.upstream (c : Chip) : Option Nat := c.timeCands.find? c.active

/-- LOCKED takes a value; a change raises LOCK_CHANGE. -/
def Chip.setLocked (c : Chip) (b : Bool) : Chip :=
  if c.time.locked = b then c
  else Chip.raise { c with time := { c.time with locked := b } } (synC 0) 1

/-- A port has left ACTIVE: its out bit, the barrier masks, the upstream port, its lint records, its digest count (R210,
R384, R397, R437, R469). `up` is the upstream port before. -/
def Chip.leftActive (c : Chip) (p : Nat) (up : Option Nat) : Chip :=
  let c := if c.pegOut p then c
    else (c.setRegBit (pegOutReg p) (p % 32) true).bump (regAddr (p / 256) 0x42 0x224) 1
  let c := c.barClear p
  let c := if up = some p ∧ c.regBit (synC 0x300) 31 = false then
      { c.setLocked false with time := { (c.setLocked false).time with good := 0, off := 0 } } else c
  (c.lintCut p).disturb p

/-- A port has entered QUARANTINE: a peer that disagrees with the edge bit is reported (R196). -/
def Chip.edgeCheck (c : Chip) (p : Nat) : Chip :=
  if ((c.port p).peerKind == 0) != c.isEdge p then c.raise (regAddr (p / 256) 0x40 0) 1 else c

/-- A port leaves ACTIVE for QUARANTINE: it completes the packets it has begun and starts none (R148). -/
def Chip.deactivate (c : Chip) (p : Nat) : Chip :=
  if c.active p then
    let up := c.upstream
    let c := c.onPort p (fun x => { x with st := .quarantine })
    (((c.leftActive p up).dropQueued p).edgeCheck p).restall
  else c

/-! ### Down, fault, disabled -/

/-- What a port loses when it stops carrying frames: partial packets, copies, replay buffer, credits, width, training
(R150, R151). `st` is its new state; the twin-link bit of PATHS follows it at once (R441). -/
def Chip.cutPort (c : Chip) (p : Nat) (st : PState) : Chip :=
  let was := c.port p
  let up := c.upstream
  let c := c.onPort p (fun x => { x with
    st := st, darn := none, lanes := 0, trained := 0, rxTrained := 0, cols := 0, peer := none, sentSeen := false, gotSeen := false, held := false,
    advPriv := [], advShared := 0, peerAdm := false, rtts := [] })
  let c := if was.st = .active then c.leftActive p up else c
  let c := ((c.severRx p).dropTx p).restall
  let c := c.onLink p Link.kept
  let c := (c.setFpBits p 0x10C (c.fullLanes p) false).setFpBits p 0x114 (c.fullLanes p) false
  if c.isTwinLink p then c.twinLinkPath else c

/-- DOWN moves on to TRAINING once every lane is out of LOS, and DISABLED to DOWN once its condition holds (R143). After a
FAULT of the quadrant's queue state its ports stay DOWN (R564). -/
def Chip.wake (c : Chip) (p : Nat) : Chip :=
  let went (c : Chip) (st : PState) : Chip :=
    let c := c.onPort p (fun x => { x with st := st })
    if c.isTwinLink p then c.twinLinkPath else c
  let c := if (c.port p).st = .disabled ∧ c.enabled p then went c .down else c
  if (c.port p).st = .down ∧ c.lit p ∧ !c.scarred (p / 256) 0x45 then went c .training else c

/-- A port goes DOWN from a later state; LNK_DOWN_CNT counts it (R143). -/
def Chip.portDown (c : Chip) (p : Nat) : Chip :=
  match (c.port p).st with
  | .disabled | .down => c
  | _ => ((c.cutPort p .down).bump (lnkReg p 0x600) 1).wake p

/-- A port enters FAULT (R130). -/
def Chip.portFault (c : Chip) (p : Nat) : Chip :=
  match (c.port p).st with
  | .quarantine | .active =>
    ((c.cutPort p .fault).bump (lnkReg p 0x600) 1).onPort p (fun x => { x with faults := c.now :: x.faults })
  | _ => c

/-- A port becomes DISABLED (R142, R143). -/
def Chip.portDisable (c : Chip) (p : Nat) : Chip :=
  match (c.port p).st with
  | .disabled => c
  | _ => c.cutPort p .disabled

/-- The ports of a quadrant's datapath island. -/
def islandPorts (q d : Nat) : List Nat := (List.range 16).map (fun i => 256 * q + 16 * d + i)

/-- Ports are disabled or woken as their condition now stands (R142, R143). -/
def Chip.settle (c : Chip) (ps : List Nat) : Chip :=
  c.each ps (fun c p => if c.enabled p then c.wake p else c.portDisable p)

/-! ### Coming up -/

/-- A port enters INIT with its lanes trained: it advertises its credits, or is held while NEED would exceed HAVE (R138,
R143, R255, R288). LNK_RTT keeps what it last showed until the new INIT's first measurement. DESIGN CHOICE; log entry 97. -/
def Chip.enterInit (c : Chip) (p : Nat) : Chip :=
  let q := p / 256
  let adv := c.advert p (c.width p)
  let fits := decide (c.need q + adv.1.sum + adv.2 + 340 ≤ c.have_ q)
  let c := c.onPort p (fun x => { x with
    st := .init, initAt := c.now, goodAt := c.now, lanes := c.fullLanes p, trained := c.fullLanes p, rxTrained := c.fullLanes p,
    cols := 0, held := !fits, advPriv := adv.1, advShared := adv.2,
    sentSeen := false, gotSeen := false, peer := none, rtts := [], peerAdm := false })
  let c := (c.winClear p).onLink p Link.kept
  if fits then c
  else ((c.bump (bufPage q + 0x1D0) 1).raise (bufPage q) 8).onBuf q (fun b => { b with holdUp := b.holdUp || c.policy 2 })

/-- ADMIT of a port. -/
def Chip.isAdmitted (c : Chip) (p : Nat) : Bool := c.regBit (lnkReg p 0x100) 0

/-- The loopback of a port's fibre pair. -/
def Chip.loopback (c : Chip) (p : Nat) : Nat :=
  fld (c.reg (lnePage p + 0x104)) (2 * (p % 16 / 4) + 1) (2 * (p % 16 / 4))

/-- The peer satisfies R145. -/
def Port.peerOk (x : Port) : Bool :=
  match x.peer with
  | none => false
  | some r => r.id != 0xFFFF && (x.latched.isNone || x.latched == some (r.id, r.port, r.kind))

/-- A page that serves a port is in DISABLING (R556). -/
def Chip.leaving (c : Chip) (p : Nat) : Bool :=
  [0x10, 0x20, 0x30].any (fun b => (c.page (pageKey (p / 256) (b + p % 256 / 16))).st == 3)

/-- A port enters ACTIVE when ADMIT is 1, the peer's last ADM is 1 and R145 holds; the first time after ADMIT is written
1, the peer is latched (R143 to R145). A port with a loopback set is not admitted (R100), nor is
any but the twin link of a FENCED part (R429), nor one that a page in DISABLING serves (R556). -/
def Chip.tryActive (c : Chip) (p : Nat) : Chip :=
  let x := c.port p
  if x.st = .quarantine ∧ c.isAdmitted p ∧ x.peerAdm ∧ x.peerOk ∧ c.loopback p = 0 ∧
      (c.twin.role ≠ 4 ∨ c.isTwinLink p) ∧ c.leaving p = false then
    let c := c.onPort p (fun x => { x with
      st := .active, activeAt := c.now
      latched := x.latched.orElse (fun _ => x.peer.map (fun r => (r.id, r.port, r.kind))) })
    match x.latched, x.peer with
    | none, some r => (c.setReg (lnkReg p 0x180) (put r.port 16 + r.id)).setReg (lnkReg p 0x200) r.kind
    | _, _ => c
  else c

/-- A port enters QUARANTINE from INIT: sequence numbers and credit counts start at 0, the peer's advertisement is taken,
a recovery and a NAK not yet sent go on, a peer that disagrees with the edge bit is reported, and the port enters ACTIVE where it
already may (R128, R138, R140, R143, R196). -/
def Chip.initDone (c : Chip) (p : Nat) : Chip :=
  let x := c.port p
  match x.peer with
  | none => c
  | some r =>
    if x.st = .init ∧ x.sentSeen ∧ x.gotSeen then
      let c := c.onPort p (fun x => { x with st := .quarantine, goodAt := c.now, idleAt := c.now })
      ((c.onLink p (fun x => { x.kept with
        priv := r.priv, shared := r.shared, recov := x.recov, recovAt := x.recovAt, nakDue := x.nakDue })).edgeCheck p).tryActive p
    else c

/-- ADMIT of a port becomes 0: it leaves ACTIVE (R143, R148). -/
def Chip.clearAdmit (c : Chip) (p : Nat) : Chip := (c.setRegBit (lnkReg p 0x100) 0 false).deactivate p

/-- The lanes of a port retrain from cold (R75, R94, R102). DESIGN CHOICE (log entry 70): R143 has no row for it, so a port in
INIT, QUARANTINE or ACTIVE goes DOWN, counted in LNK_DOWN_CNT, and trains again from there; one in TRAINING begins again, and
one in FAULT stays in FAULT. -/
def Chip.retrainPort (c : Chip) (p : Nat) : Chip :=
  match (c.port p).st with
  | .training | .fault => (c.onPort p (fun x => { x with trained := 0, rxTrained := 0 })).setFpBits p 0x10C (c.fullLanes p) false
  | _ => c.portDown p

end Sys2Proof.Machine
end

