-- ==== Sys2Proof/Machine/Frames.lean ====
section
/-! DEFINITION. What a transmitter sends: link frames byte for byte, their striping over the lanes of a port, slack columns,
the tack, and the replay of a link's frames (R78, R80, R81, R97, R101, R114 to R119, R125, R129, R137, R144). -/
namespace Sys2Proof.Machine

/-- The port carries frames: INIT, QUARANTINE or ACTIVE. -/
def PState.framed : PState → Bool
  | .init | .quarantine | .active => true
  | _ => false

/-! ### The fibre -/

/-- Something leaves over a port's transmit fibre. Under a far-end loopback the fibre carries the received symbols, and what
the part would send is discarded (R101). -/
def Chip.fibre (c : Chip) (p : Nat) (e : Emit) : Chip := if c.loopback p = 3 then c else c.emit e

/-- The global number of wavelength `w` on a port's fibre pair (R72). -/
def laneOf (p w : Nat) : Nat := 8 * (p / 4) + w

/-- The active lanes of a port, ascending. -/
def Chip.activeLanes (c : Chip) (p : Nat) : List Nat := (bitsOf (c.port p).lanes 8).map (laneOf p)

/-- The transmit direction of a port is quiet. -/
def Chip.isQuiet (c : Chip) (p : Nat) : Bool := c.fpBits p 0x114 &&& c.fullLanes p != 0

/-- Every active lane of a port carries columns: none retrains from cold (R99). -/
def Chip.lanesUp (c : Chip) (p : Nat) : Bool :=
  (c.port p).lanes != 0 && c.fpBits p 0x10C &&& (c.port p).lanes == (c.port p).lanes

/-- A quiet port leaves the quiet state by a tack (R97, R98). -/
def Chip.tack (c : Chip) (p : Nat) : Chip :=
  if c.isQuiet p then
    (((c.setFpBits p 0x114 (c.fullLanes p) false).bump (lnePage p + 0x118) 1).onPort p
      (fun x => { x with idleAt := c.now })).fibre p (.tack p)
  else c

/-- Bytes striped over lanes: blocks of 32 bytes, one on each lane per column, in ascending lane order (R78). -/
def columnsOf (lanes : List Nat) (bytes : List Byte) : List (List (Nat × List Byte)) :=
  let k := lanes.length
  (List.range (bytes.length / (32 * k))).map (fun j =>
    lanes.mapIdx (fun i lane => (lane, (bytes.drop (32 * (j * k + i))).take 32)))

/-- A slack column leaves a port: the column count goes up, and every active lane carries its tag, which is its wavelength,
and the count (R80, R81). It starts the count of 128 data columns again, also where it was sent for want of a stitch. DESIGN CHOICE;
log entry 93. -/
def Chip.slackColumn (c : Chip) (p : Nat) : Chip :=
  let col := ((c.port p).col + 1) % 65536
  (c.onPort p (fun x => { x with col := col, cols := 0 })).fibre p
    (.slack p ((bitsOf (c.port p).lanes 8).map (fun w => (laneOf p w, w, col))))

/-! ### Frames (R114 to R119) -/

/-- Content bytes of stitch `i` (R114). -/
def slotCap (i : Nat) : Nat := if i = 0 ∨ i = 7 then 56 else 64

/-- Where the content area of stitch `i` begins within the 496 content bytes. -/
def slotAt (i : Nat) : Nat := if i = 0 then 0 else 64 * i - 8

/-- STITCH_MAP of a frame whose first stitches are given and whose others are empty (R115, R118). -/
def stitchMap (l : List Stitch) : Nat :=
  ((List.range 8).map (fun i => put (match l[i]? with | some s => s.vc | none => 15) (4 * i))).sum

/-- The 496 content bytes of a frame with the given stitches: unused bytes are zero (R119). -/
def stitchContent (l : List Stitch) : List Byte :=
  (List.range 8).flatMap (fun i => fit 0 (slotCap i) (match l[i]? with | some s => s.bytes | none => []))

/-- A frame: its fields and its content, with the CRC over bytes 0 to 507 (R115 to R117). `a` and `b` are the credit slots as
virtual channel and count. -/
def frameOf (kind fseq map : Nat) (content : List Byte) (ack : Nat) (nak adm : Bool) (a b : Nat × Nat) : Frame :=
  let head := fseq % 4096 + put (map % 2 ^ 32) 12 + put (b.1 % 16) 44 + put (b.2 % 16384) 48 + put (kind % 4) 62
  let low := ack % 4096 + put (b2n nak) 12 + put (b2n adm) 13 + put (a.1 % 16) 14 + put (a.2 % 16384) 18
  let crc := crc32 (leBytes 8 head ++ content ++ leBytes 4 low)
  { head := BitVec.ofNat 64 head, content := content, tail := BitVec.ofNat 64 (low + put crc.toNat 32) }

/-- The 512 bytes of a frame. -/
def frameBytes (f : Frame) : List Byte := leBytes 8 f.head.toNat ++ f.content ++ leBytes 8 f.tail.toNat

/-- A virtual channel's cumulative count differs from the one last reported. -/
def Link.changed (x : Link) (v : Nat) : Bool := cnt x.ret v != cnt x.told v

/-- The two virtual channels whose counts the next frame reports: changed counts first, in rotation (R137). -/
def Link.slots (x : Link) : Nat × Nat :=
  let order := (List.range 10).map (fun i => (x.rot + i) % 10)
  let l := order.filter x.changed ++ order.filter (fun v => !x.changed v)
  (l.getD 0 0, l.getD 1 1)

/-- Something waits to be reported: an acknowledgement, a NAK or a changed count (R96, R131, R137). -/
def Link.reports (x : Link) : Bool := x.nakDue || x.ackDue || (List.range 10).any x.changed

/-- The next frame of a link end with its acknowledgement, ADM and credit reports; an INIT frame has empty credit slots (R116,
R125, R127, R137, R144). The count that comes first in rotation stands in CREDIT_A (DESIGN CHOICE; log entry 71); before any
DATA frame has been accepted ACK is 4,095, the number before the first (DESIGN CHOICE; log entry 72). -/
def Chip.nextFrame (c : Chip) (l kind fseq map : Nat) (content : List Byte) : Frame :=
  let x := c.link l
  let s := x.slots
  let slot (v : Nat) : Nat × Nat := if kind = 2 then (15, 0) else (v, cnt x.ret v)
  frameOf kind fseq map content ((x.rxExp + 4095) % 4096) x.nakDue (decide (l < 1024) && c.isAdmitted l) (slot s.1) (slot s.2)

/-- The slack column that is due after 128 data columns leaves before the next data column (R80). -/
def Chip.slackDue (c : Chip) (p : Nat) : Chip := if 128 ≤ (c.port p).cols then c.slackColumn p else c

/-- A frame leaves a link end; at a port by a tack first where the port is quiet, after a slack column where one is due, and in
columns over its active lanes. What it reports counts as reported; a stitch or a report starts QUIET_DELAY again (R78, R80, R96, R97,
R131, R137). -/
def Chip.sendFrame (c : Chip) (l kind fseq map : Nat) (content : List Byte) : Chip :=
  let c := if l < 1024 then (c.tack l).slackDue l else c
  let x := c.link l
  let s := x.slots
  let f := c.nextFrame l kind fseq map content
  let c := c.onLink l (fun x => if kind = 2 then { x with nakDue := false, ackDue := false } else
    { x with
      nakDue := false, ackDue := false, rot := (s.2 + 1) % 10
      told := cntSet (cntSet x.told s.1 (cnt x.ret s.1)) s.2 (cnt x.ret s.2) })
  if l < 1024 then
    let cols := columnsOf (c.activeLanes l) (frameBytes f)
    ((c.onPort l (fun y => { y with
      cols := y.cols + cols.length, idleAt := if kind = 0 || x.reports then c.now else y.idleAt })).fibre l (.frame l f)).fibre l
        (.columns l cols)
  else c.emit (.frame l f)

/-! ### The replay (R129) -/

/-- Time that `n` frames take on a link, in ns: 20.64 ns divided by the lanes at one frame each; 64 Tb/s on a quadrant seam,
14 TB/s on a press seam (R51, R83, R132). -/
def Chip.frameTime (c : Chip) (l n : Nat) : Nat :=
  if l < 1024 then n * 2064 / (100 * max (bitsOf (c.port l).lanes 8).length 1)
  else match seamOf l with
    | some k => if k < 6 then n * 4096 / 64000 else n * 4096 / 112000
    | none => 0

/-- `n` frames are resent: LNK_REPLAY_CNT or SEM_REPLAY_CNT, and the counter event (R460). -/
def Chip.countReplay (c : Chip) (l n : Nat) : Chip :=
  if l < 1024 then (c.bump (lnkReg l 0x540) n).pmcN n (l / 256) (l % 256 / 16) 0x1005 (some (l % 16)) none
  else if l < 1040 then (c.bump (semPage l + 0x108) n).pmcN n ((l - 1024) / 4) (19 + (l - 1024) % 4) 0x4003 none none
  else c.bump (semPage l + 0x108) n

/-- Every unacknowledged DATA frame is resent, oldest first, with its own number and content and everything else as of now
(R129). While a port's lanes retrain from cold the replay waits for them, and keeps the ACK of the NAK that asked for it (R99). -/
def Chip.resend (c : Chip) (l : Nat) : Chip :=
  if l < 1024 ∧ c.lanesUp l = false then
    c.onLink l (fun x => { x with nakAck := if x.replayDue then x.nakAck else none, replayDue := true }) else
  let fs := (c.link l).replay
  let c := c.each fs (fun c f => c.sendFrame l 0 f.fseq (stitchMap f.stitches) (stitchContent f.stitches))
  let c := c.onLink l (fun x => { x with
    replay := x.replay.map (fun f => { f with resends := f.resends + 1, sentAt := c.now })
    nakAck := none, replayEnd := c.now + c.frameTime l fs.length, replayDue := false })
  c.countReplay l fs.length

/-- A replay that has waited for a port's lanes leaves, as the one that a NAK started where it is (R99, R129). -/
def Chip.resendDue (c : Chip) (p : Nat) : Chip :=
  if (c.link p).replayDue then
    let nak := (c.link p).nakAck
    (c.resend p).onLink p (fun x => { x with nakAck := nak })
  else c

end Sys2Proof.Machine
end

