-- ==== Sys2Proof/Machine/Lanes.lean ====
section
/-! DEFINITION. Optical engines and lanes (chapter 3): LOS, sources, width darning, spares, the quiet state, loopbacks and
PRBS; the commands of the lane side, and the register writes that act on it. -/
namespace Sys2Proof.Machine

/-- What a register write answers: the new state, or the CAUSE of its refusal (R578). -/
abbrev Wr := Except Nat Chip

/-! ### Working lanes -/

/-- The wavelengths of an engine that are dark (R88, R94). -/
def Chip.darkW (c : Chip) (e : Nat) : Nat := SMap.getD c.engLock e 0

/-- The wavelengths of an engine take a dark mask. -/
def Chip.setDarkW (c : Chip) (e m : Nat) : Chip := { c with engLock := SMap.set c.engLock e m }

/-- The lanes of a port's layout that have light in both of the part's directions: out of LOS, and with a source. -/
def Chip.clear (c : Chip) (p : Nat) : Nat :=
  let bad := c.fpBits p 0x108 ||| c.darkW (portEngine p)
  c.fullLanes p - (c.fullLanes p &&& bad)

/-- The lanes of a port's layout that work in both of the part's directions: clear, and trained since. -/
def Chip.working (c : Chip) (p : Nat) : Nat := c.clear p &&& (c.port p).trained

/-- The lanes that a darn request of a port names: those that work in its receive direction (R90). -/
def Chip.rxLanes (c : Chip) (p : Nat) : Nat :=
  (c.port p).rxTrained - ((c.port p).rxTrained &&& c.fpBits p 0x108)

/-- The aligned lane sets of a port's layout, each a mask, by width (R73, R76, R89). -/
def Chip.alignedSets (c : Chip) (p w : Nat) : List Nat :=
  ((List.range 8).filter (fun o => o % w == 0)).map (fun o => put (ones w) o) |>.filter
    (fun m => m &&& c.fullLanes p == m)

/-- The widest aligned set within a working mask; of several the tie is free (R89; log entry 11). -/
def Chip.widest (c : Chip) (p mask : Nat) : Option Nat × Chip :=
  let ok (w : Nat) : List Nat := (c.alignedSets p w).filter (fun m => m &&& mask == m)
  let l := if !(ok 8).isEmpty then ok 8 else if !(ok 4).isEmpty then ok 4 else if !(ok 2).isEmpty then ok 2
    else if c.width p = 2 then ok 1 else []
  match l with
  | [] => (none, c)
  | [a] => (some a, c)
  | l => let r := c.draw Config.darnTie; (l[r.1 % l.length]?, r.2)

/-- A darn request leaves over the slack blocks of a port: the working lanes it names, and its column count (R90). -/
def Chip.darnAsk (c : Chip) (p lanes : Nat) : Chip := c.fibre p (.darnReq p lanes (c.port p).col)

/-- A port has lost lanes: with every lane in LOS, or no aligned set left, it goes down; otherwise it asks its peer for a
narrower set, over the lanes that still work, naming the lanes that it receives (R87, R89, R90). Both sides switch 64 of
their columns after it. -/
def Chip.laneLoss (c : Chip) (p : Nat) : Chip :=
  let x := c.port p
  if x.st = .training ∧ c.dark p then c.portDown p
  else if x.st.framed = false then c
  else if c.dark p then c.portDown p
  else
    let w := c.working p
    let rx := c.rxLanes p
    let c := if w = x.trained ∧ rx = x.rxTrained then c else c.onPort p (fun x => { x with trained := w, rxTrained := rx })
    let hurt := x.lanes &&& w != x.lanes || (match x.darn with | some d => d.set &&& w != d.set | none => false)
    if !hurt then c else
    let r := c.widest p w
    match r.1 with
    | none => r.2.portDown p
    | some s =>
      let c := (r.2.tack p).disturb p
      (c.onPort p (fun x => { x with
        darn := some { set := s, since := c.now, col := (x.col + 64) % 65536, peerCol := none, widen := false } })).darnAsk p
          (c.rxLanes p)

/-- The ports of an engine. -/
def enginePorts (e : Nat) : List Nat := (List.range 64).map (· + 64 * e)

/-- The fibre pairs of an engine with a lane in LOS. -/
def Chip.losPairs (c : Chip) (e : Nat) : List Nat :=
  (List.range 16).filter (fun f => c.fpBits (64 * e + 4 * f) 0x108 != 0)

/-- The port of a lane by the layout, if one holds it. -/
def Chip.lanePort (c : Chip) (l : Nat) : Option Nat :=
  let fp0 := l / 8 * 4
  ((layoutPorts (c.layoutCode fp0)).find? (fun ow => ow.1 ≤ l % 8 && l % 8 < ow.1 + ow.2)).map (fun ow => fp0 + ow.1 / 2)

/-- LOS_ENTER: a receive lane enters LOS (R87). -/
def losEnter (l : Nat) (c : Chip) : Chip :=
  let fp0 := l / 8 * 4
  let was := c.losPairs (l / 128)
  let c := c.setFpBits fp0 0x108 (2 ^ (l % 8)) true
  let c := c.pmcEdge (8 + l / 128) 0 0x9001 was (c.losPairs (l / 128))
  match c.lanePort l with
  | none => c
  | some p => c.laneLoss p

/-- LOS_LEAVE: a receive lane leaves LOS; a DOWN port with every lane lit trains (R87, R143). -/
def losLeave (l : Nat) (c : Chip) : Chip :=
  let fp0 := l / 8 * 4
  let was := c.losPairs (l / 128)
  let c := c.setFpBits fp0 0x108 (2 ^ (l % 8)) false
  let c := c.pmcEdge (8 + l / 128) 0 0x9001 was (c.losPairs (l / 128))
  match c.lanePort l with
  | none => c
  | some p => (c.onPort p (fun x => { x with cleanAt := c.now })).wake p

/-- The wavelength a source serves: a primary its own unless a spare stands in, a spare the one it is mapped to. -/
def Chip.serves (c : Chip) (e s : Nat) : Option Nat :=
  let m := c.reg (oen e 0x10C)
  if s = 8 then (if bit m 3 then some (fld m 2 0) else none)
  else if s = 9 then (if bit m 7 then some (fld m 6 4) else none)
  else if (bit m 3 && fld m 2 0 == s) || (bit m 7 && fld m 6 4 == s) then none else some s

/-- SOURCE_FAIL: FAILED is set and SRC_FAIL raised; the transmit lanes of the wavelength it serves go dark on all 16
fibre pairs, and their ports narrow (R88, R89). -/
def sourceFail (e s : Nat) (c : Chip) : Chip :=
  let c := { c with engBad := SMap.set c.engBad e (setBit (SMap.getD c.engBad e 0) s true) }
  let v := c.reg (oen e 0x108)
  let c := (c.setReg (oen e 0x108) (setBit (setBit v s false) (16 + s) true)).raise (oen e 0) 1
  let c := c.pmc (8 + e) 0 0x9002 (some s) none
  match c.serves e s with
  | none => c
  | some w => (c.setDarkW e (setBit (c.darkW e) w true)).each (enginePorts e) (fun c p => c.laneLoss p)

/-- A port may widen: AUTO_WIDEN is 1, and every lane of its layout has been trained and clear for 1 ms (R92). -/
def Chip.mayWiden (c : Chip) (p : Nat) : Bool :=
  c.regBit (oen (portEngine p) 0x110) 1 && c.working p == c.fullLanes p && (c.port p).cleanAt + 1000000 ≤ c.now

/-- The lane set that two darn requests give a port whose own lanes and the peer's work as `both`: the widest aligned one; while
every lane in use works, a wider set only when the port may widen (R89, R90, R92). -/
def Chip.darnSet (c : Chip) (p both : Nat) : Option Nat × Chip :=
  let now := (c.port p).lanes
  let r := c.widest p both
  match r.1 with
  | none => r
  | some s =>
    if now &&& both = now ∧ ((bitsOf s 8).length ≤ (bitsOf now 8).length ∨ c.mayWiden p = false) then (some now, c) else r

/-- DARN_REQUEST_RECEIVE: a peer names the lanes it receives, as a request of its own or in answer to this part's; both sides switch 64
columns after the request to the widest aligned set that works both ways in both requests, or the port goes down (R90, R92, R98). A
request is answered with this part's own, which names the lanes that it receives also where it may not widen itself. When both sides ask
at once each side counts its own 64 columns from its own request. DESIGN CHOICE; log entry 73. -/
def darnRequest (p lanes col : Nat) (c : Chip) : Chip :=
  if (c.port p).st.framed then
    let r := c.darnSet p (c.working p &&& lanes)
    match r.1 with
    | none => r.2.portDown p
    | some s =>
      let c := (r.2.tack p).disturb p
      let was := (c.port p).lanes
      let widen := decide (was &&& s = was) && s != was
      let c := match (c.port p).darn with
        | some d => c.onPort p (fun x => { x with
            darn := some { d with set := s, peerCol := some ((col + 64) % 65536), widen := widen } })
        | none => (c.onPort p (fun x => { x with
            darn := some { set := s, since := c.now, col := (x.col + 64) % 65536, peerCol := some ((col + 64) % 65536),
                           widen := widen } })).darnAsk p (c.rxLanes p)
      c
  else c

/-- DARN_SWITCH: both sides have asked and the agreed column has come: the port runs on the new set, and mend replays every
frame not acknowledged (R90, R91); the port's digest count is disturbed (R437). The 128 data columns before its next slack column start
anew there. DESIGN CHOICE; log entry 109. -/
def darnSwitch (p : Nat) (c : Chip) : Chip :=
  let x := c.port p
  match x.darn with
  | none => c
  | some d =>
    if d.peerCol.isNone ∨ 32768 ≤ (x.col + 65536 - d.col) % 65536 then c else
    let c := c.onPort p (fun x => { x with darn := none, lanes := d.set, cols := 0, idleAt := c.now })
    let c := (c.setFpBits p 0x10C (c.fullLanes p) false).setFpBits p 0x10C d.set true
    (((c.bump (lnePage p + 0x120) 1).resend p).laneLoss p).disturb p

/-- DARN_TIMEOUT: the peer has not answered a request for 20 µs; the port goes down (R91). -/
def darnTimeout (p : Nat) (c : Chip) : Chip :=
  match (c.port p).darn with
  | some d => if d.peerCol.isNone then (c.till (d.since + 20000)).portDown p else c
  | none => c

/-- DARN_WIDEN: every lane of the layout trained and clear for 1 ms, and AUTO_WIDEN set; the port asks to widen (R92). -/
def darnWiden (p : Nat) (c : Chip) : Chip :=
  let x := c.port p
  if x.st.framed ∧ x.darn.isNone ∧ x.lanes ≠ c.fullLanes p ∧ c.working p = c.fullLanes p ∧
      c.regBit (oen (portEngine p) 0x110) 1 then
    let c := (c.till (x.cleanAt + 1000000)).tack p
    ((c.onPort p (fun x => { x with
      darn := some { set := c.fullLanes p, since := c.now, col := (x.col + 64) % 65536, peerCol := none, widen := true } })).darnAsk
        p (c.rxLanes p)).disturb p
  else c

/-- SPARE_SUBSTITUTE: a policy of the controller gives a free spare to a dark wavelength (R94, R109, R517). Of two free spares it
takes spare 0. DESIGN CHOICE; log entry 94. -/
def spareSubstitute (e w : Nat) (c : Chip) : Chip :=
  let m := c.reg (oen e 0x10C)
  let s? : Option Nat := if !bit m 3 && !bit (SMap.getD c.engBad e 0) 8 then some 0
    else if !bit m 7 && !bit (SMap.getD c.engBad e 0) 9 then some 1 else none
  if c.regBit (oen e 0x110) 0 ∧ c.policy 1 ∧
      bit (c.darkW e) w ∧ c.isOn (8 + e) 0x40 ∧ c.serves e 8 ≠ some w ∧ c.serves e 9 ≠ some w then
    match s? with
    | none => c
    | some s => c.setReg (oen e 0x10C) (setFld m (4 * s + 3) (4 * s) (8 + w))
  else c

/-- SPARE_LOCKED: a spare is tuned and locked; its wavelength is lit again and its lanes retrain (R94). -/
def spareLocked (e s : Nat) (c : Chip) : Chip :=
  match c.serves e (8 + s) with
  | some w =>
    if bit (c.darkW e) w ∧ bit (SMap.getD c.engBad e 0) (8 + s) = false then
      (c.setDarkW e (setBit (c.darkW e) w false)).each (enginePorts e) (fun c p =>
        if bit (c.fullLanes p) w then c.onPort p (fun x => { x with cleanAt := c.now }) else c)
    else c
  | none => c

/-- LANES_TRAINED: every lane of a port that has light is trained; a port in TRAINING enters INIT, and one that carries frames
has its returned lanes trained and its active lanes carrying columns, on which a replay that waited for them leaves (R92, R99, R143). -/
def lanesTrained (p : Nat) (c : Chip) : Chip :=
  let x := c.port p
  if x.st = .training ∧ c.lit p then (c.setFpBits p 0x10C (c.fullLanes p) true).enterInit p
  else if x.st.framed then
    let rx := c.fullLanes p - (c.fullLanes p &&& c.fpBits p 0x108)
    ((c.onPort p (fun x => { x with
      trained := c.clear p, rxTrained := rx
      cleanAt := if c.clear p = x.trained then x.cleanAt else c.now })).setFpBits p 0x10C x.lanes true).resendDue p
  else c

/-- A lane of a port has its PRBS generator enabled. -/
def Chip.prbsGen (c : Chip) (p : Nat) : Bool := c.fpBits p 0x134 &&& c.fullLanes p != 0

/-- The quiet state may be entered: enabled for the fibre pair, no darn, loopback or generator (R96, R98). -/
def Chip.quietOk (c : Chip) (p : Nat) : Bool :=
  (c.port p).st.framed && c.regBit (lnePage p + 0x110) (16 + p % 16 / 4) && (c.port p).darn.isNone &&
    c.loopback p == 0 && !c.prbsGen p && !c.isQuiet p

/-- Nothing of a port waits to be sent: no eligible stitch, no replay that waits for lanes, no credit report, no acknowledgement
(R96, R99). -/
def Chip.portIdle (c : Chip) (p : Nat) : Bool :=
  !c.copies.any (fun x => x.link == p && !x.tailSent) && !(c.link p).reports && !(c.link p).replayDue

/-- QUIET_ENTER: idle for QUIET_DELAY, the transmitter sends 4 notice columns and stops modulating (R96). -/
def quietEnter (p : Nat) (c : Chip) : Chip :=
  if c.quietOk p ∧ c.portIdle p then
    let c := c.till ((c.port p).idleAt + 1000 * fld (c.reg (lnePage p + 0x110)) 9 0)
    (c.fibre p (.quietNotice p)).setFpBits p 0x114 (c.port p).lanes true
  else c

/-- QUIET_ENTRY_ABANDON: a stitch became ready among the notice columns; the port stays out of the quiet state (R97). -/
def quietAbandon (p : Nat) (c : Chip) : Chip :=
  if c.quietOk p then (c.fibre p (.quietNotice p)).onPort p (fun x => { x with idleAt := c.now }) else c

/-- TACK_START: a stitch is ready at a quiet transmitter, which leaves the quiet state by a tack (R97). -/
def tackStart (p : Nat) (c : Chip) : Chip := c.tack p

/-- TACK_END: the receiver has locked, or asks for another tack; after three failures in a row the direction retrains from
cold and TACK_FAIL is raised (R99). -/
def tackEnd (p : Nat) (locked : Bool) (c : Chip) : Chip :=
  if (c.port p).st.framed = false then c
  else if locked then c.onPort p (fun x => { x with tackFails := 0 })
  else
    let c := c.bump (lnePage p + 0x11C) 1
    if 2 ≤ (c.port p).tackFails then
      ((c.onPort p (fun x => { x with tackFails := 0 })).setFpBits p 0x10C (c.fullLanes p) false).raise (lnePage p) 1
    else ((c.tack p).onPort p (fun x => { x with tackFails := x.tackFails + 1 })).fibre p (.tackRepeat p)

/-! ### PRBS -/

/-- PRBS_LOCK: an enabled checker locks after 128 error-free symbols (R104). -/
def prbsLocked (l : Nat) (c : Chip) : Chip :=
  let fp0 := l / 8 * 4
  if bit (c.fpBits fp0 0x138) (l % 8) then c.setFpBits fp0 0x13C (2 ^ (l % 8)) true else c

/-- PRBS_LOCK_LOST: a locked checker has counted its bit errors and loses lock (R104, R105). -/
def prbsLost (l errs : Nat) (c : Chip) : Chip :=
  let fp0 := l / 8 * 4
  if bit (c.fpBits fp0 0x13C) (l % 8) then
    ((c.setFpBits fp0 0x13C (2 ^ (l % 8)) false).setFpBits fp0 0x140 (2 ^ (l % 8)) true).bump
      (lnePage fp0 + 0x200 + 4 * (l % 32)) errs
  else c

/-! ### Optical power -/

/-- Two readings packed into a register, the lower-numbered item low (R108). -/
def packPair (l : List (BitVec 16)) (i : Nat) : Nat :=
  (l.getD (2 * i) 0x8000).toNat + put (l.getD (2 * i + 1) 0x8000).toNat 16

/-- A source's reading lies within 3 dB of its commissioned value (R88). -/
def within3dB (e s : Nat) (r : BitVec 16) : Bool :=
  r != 0x8000 && (r.toInt - Config.commissioned e s).natAbs ≤ 300

/-- OPTICAL_POWER_SAMPLE: the readings of one sample period, and LIT of every source from them (R88, R108). -/
def opticalSample (e : Nat) (rx tx src : List (BitVec 16)) (c : Chip) : Chip :=
  if !c.isOn (8 + e) 0x40 then c else
  let c := c.each (List.range 64) (fun c i => c.setReg (oen e (0x200 + 4 * i)) (packPair rx i))
  let c := c.each (List.range 8) (fun c i => c.setReg (oen e (0x300 + 4 * i)) (packPair tx i))
  let c := c.each (List.range 5) (fun c i => c.setReg (oen e (0x320 + 4 * i)) (packPair src i))
  let lit := (List.range 10).filter (fun s => within3dB e s (src.getD s 0x8000))
  let bad := ofBits ((bitsOf (SMap.getD c.engBad e 0) 10).filter (fun s => !lit.contains s))
  { c.setRegFld (oen e 0x108) 9 0 (ofBits lit) with engBad := SMap.set c.engBad e bad }

/-! ### Register writes -/

/-- Every port of a fibre pair under a layout code is in QUARANTINE or not trained (R75). -/
def Chip.pairQuiesced (c : Chip) (fp0 code : Nat) : Bool :=
  (layoutPorts code).all (fun ow =>
    let st := (c.port (fp0 + ow.1 / 2)).st
    st.untrained || st == .quarantine)

/-- The four fibre pairs of an island: local number and first port number. -/
def islandPairs (q d : Nat) : List (Nat × Nat) := (List.range 4).map (fun k => (k, 256 * q + 16 * d + 4 * k))

/-- OEN_FP_ENABLE is written: gates open and close, ports come up or are DISABLED (R85, R143). -/
def wrFpEnable (e val : Nat) (c : Chip) : Wr :=
  .ok ((c.setReg (oen e 0x100) val).settle (enginePorts e))

/-- LNE_LAYOUT is written, field by field, or refused whole (R75, R111). A reserved code is refused before ports that are trained.
DESIGN CHOICE; log entry 95. -/
def wrLayout (q d val : Nat) (c : Chip) : Wr :=
  let a := regAddr q (0x10 + d) 0x100
  let old := c.reg a
  let code (v k : Nat) := fld v (3 * k + 2) (3 * k)
  let ch := (islandPairs q d).filter (fun kp => code old kp.1 != code val kp.1)
  if (List.range 4).any (fun k => 6 ≤ code val k) then .error 1
  else if !ch.all (fun kp => c.pairQuiesced kp.2 (code old kp.1) && c.pairQuiesced kp.2 (code val kp.1)) then .error 2
  else
    let c := c.each ch (fun c kp => c.each (layoutPorts (code old kp.1)) (fun c ow => c.portDisable (kp.2 + ow.1 / 2)))
    .ok ((c.setReg a val).settle (islandPorts q d))

/-- LNE_LOOPBACK is written: setting one needs ports that carry no traffic, which leave the quiet state by a
tack before it takes effect; clearing one retrains the pair (R98, R100, R102). A change from one loopback to another sets the new one
and retrains nothing. DESIGN CHOICE; log entry 108. -/
def wrLoopback (q d val : Nat) (c : Chip) : Wr :=
  let a := regAddr q (0x10 + d) 0x104
  let old := c.reg a
  let lb (v k : Nat) := fld v (2 * k + 1) (2 * k)
  let setNow := (islandPairs q d).filter (fun kp => lb val kp.1 != 0 && lb val kp.1 != lb old kp.1)
  let cleared := (islandPairs q d).filter (fun kp => lb val kp.1 == 0 && lb old kp.1 != 0)
  if !setNow.all (fun kp => c.pairQuiesced kp.2 (c.layoutCode kp.2)) then .error 2
  else
    let ports (c : Chip) (kp : Nat × Nat) := (layoutPorts (c.layoutCode kp.2)).map (fun ow => kp.2 + ow.1 / 2)
    let c := (c.each setNow (fun c kp => c.each (ports c kp) (fun c p => c.tack p))).setReg a val
    .ok (c.each cleared (fun c kp => c.each (ports c kp) (fun c p => c.retrainPort p)))

/-- Locked checkers of an island, as a mask, stop: what each has counted since its last reading joins its count (R105); a free value,
log entry 69. -/
def Chip.prbsSettle (c : Chip) (q d mask : Nat) : Chip :=
  c.each ((List.range 32).filter (fun i => bit mask i)) (fun c i =>
    let r := c.draw Config.bitErrs
    r.2.bump (regAddr q (0x10 + d) (0x200 + 4 * i)) r.1)

/-- LNE_PRBS_GEN or LNE_PRBS_CHK is written: enabling needs ports that carry no traffic and no near-end parallel loopback; a checker
that is disabled loses its lock and keeps its count (R98, R103, R105). -/
def wrPrbsEnable (q d : Nat) (chk : Bool) (val : Nat) (c : Chip) : Wr :=
  let off := if chk then 0x138 else 0x134
  let a := regAddr q (0x10 + d) off
  let old := c.reg a
  let newIn (k : Nat) : Bool := (List.range 8).any (fun i => bit val (8 * k + i) && !bit old (8 * k + i))
  let on := (islandPairs q d).filter (fun kp => newIn kp.1)
  if !on.all (fun kp => c.pairQuiesced kp.2 (c.layoutCode kp.2) && c.loopback kp.2 != 2) then .error 2
  else
    let c := c.setReg a val
    if chk then
      let lock := c.reg (regAddr q (0x10 + d) 0x13C)
      let off := lock - (lock &&& val)
      .ok (if off = 0 then c else (c.prbsSettle q d off).setReg (regAddr q (0x10 + d) 0x13C) (lock &&& val))
    else .ok (c.each on (fun c kp => c.each ((layoutPorts (c.layoutCode kp.2)).map (fun ow => kp.2 + ow.1 / 2))
      (fun c p => if c.prbsGen p then c.tack p else c)))

/-- Pseudo-registers: when LNE_PRBS_WINDOW was last cleared, low and high half. -/
def prbsClearAt (q d : Nat) : Nat := regAddr q (0x10 + d) 0x148 + 2 ^ 34

/-- LNE_PRBS_CTL is written: a changed PATTERN makes the pair's locked checkers lose lock, each with its count
kept (R105, R112); PRBS_CLEAR clears the
window, the error counts and the lost-lock bits (R106). A write that does both clears last, so that no lost-lock bit survives
it. DESIGN CHOICE; log entry 74. -/
def wrPrbsCtl (q d val : Nat) (c : Chip) : Wr :=
  let b := regAddr q (0x10 + d) 0
  let old := c.reg (b + 0x130)
  let ch := (List.range 4).filter (fun k => bit old k != bit val k)
  let mask := ch.foldl (fun m k => m ||| put 0xFF (8 * k)) 0
  let lost := c.reg (b + 0x13C) &&& mask
  let c := c.setReg (b + 0x130) (val % 16)
  let c := if lost = 0 then c
    else ((c.prbsSettle q d lost).setReg (b + 0x13C) (c.reg (b + 0x13C) - lost)).setReg (b + 0x140) (c.reg (b + 0x140) ||| lost)
  if bit val 4 then
    let c := c.setReg (b + 0x140) 0
    let c := (c.setReg (prbsClearAt q d) (c.now % 2 ^ 32)).setReg (prbsClearAt q d + 4) (c.now / 2 ^ 32)
    .ok (c.each (List.range 32) (fun c i =>
      if c.reg (b + 0x200 + 4 * i) = 0 then c else c.setReg (b + 0x200 + 4 * i) 0))
  else .ok c

/-- LNE_QUIET_CTL is written; a delay of 0 is refused (R111). A direction that is quiet already stays so until a tack. DESIGN CHOICE; log
entry 110. -/
def wrQuietCtl (q d val : Nat) (c : Chip) : Wr :=
  if fld val 9 0 = 0 then .error 1 else .ok (c.setReg (regAddr q (0x10 + d) 0x110) val)

/-- OEN_SPARE_MAP is written: both spares on one wavelength are refused; the lanes of every wavelength whose valid
assignment changes retrain (R95, R109). A wavelength given to a spare is dark until the spare locks; one returned to its
primary is dark while that has failed. -/
def wrSpareMap (e val : Nat) (c : Chip) : Wr :=
  if bit val 3 && bit val 7 && fld val 2 0 == fld val 6 4 then .error 1
  else
    let old := c.reg (oen e 0x10C)
    let asg (v s : Nat) : Option Nat := if bit v (4 * s + 3) then some (fld v (4 * s + 2) (4 * s)) else none
    let ch := (List.range 2).filter (fun s => asg old s != asg val s)
    let ws := (ch.flatMap (fun s => (asg old s).toList ++ (asg val s).toList)).eraseDups
    let c := c.setReg (oen e 0x10C) val
    let now := (c.setDarkW e (ws.foldl (fun m w => setBit m w true) (c.darkW e))).each
      (if ws.isEmpty then [] else enginePorts e) (fun c p => c.laneLoss p)
    let back := ws.filter (fun w => asg val 0 != some w && asg val 1 != some w && !bit (SMap.getD c.engBad e 0) w)
    .ok (now.setDarkW e (back.foldl (fun m w => setBit m w false) (now.darkW e)))

/-- OEN_SRC_STATUS is written: FAILED bits clear, but those of sources that still fail are set again. -/
def wrSrcStatus (e val : Nat) (c : Chip) : Wr :=
  let v := c.reg (oen e 0x108)
  let failed := fld v 25 16 - (fld v 25 16 &&& fld val 25 16)
  let again := fld v 25 16 &&& fld val 25 16 &&& SMap.getD c.engBad e 0
  .ok (c.setReg (oen e 0x108) (setFld v 25 16 (failed ||| again)))

end Sys2Proof.Machine
end

