-- ==== Sys2Proof/Machine/Links.lean ====
section
/-! DEFINITION. The link layer: mend, credit reports, INIT, the timers of a link, seams that come up and fail (R125 to R147,
R57, R58, R70, R153). -/
namespace Sys2Proof.Machine

/-! ### What a link end is -/

/-- A link end carries frames: a port from INIT on, a seam that is UP. -/
def Chip.carries (c : Chip) (l : Nat) : Bool :=
  if l < 1024 then (c.port l).st.framed
  else match seamOf l with
    | some k => (c.seam k).up
    | none => false

/-- The replay timeout of a link end in ns: LNK_REPLAY_CFG in units of 16 ns, or 2 × LNK_RTT + 1 µs; 1 µs on a seam
(R52, R134). -/
def Chip.replayTimeout (c : Chip) (l : Nat) : Nat :=
  if l < 1024 then
    let v := fld (c.reg (regAddr (l / 256) (0x20 + l % 256 / 16) 0x404)) 11 0
    if v ≠ 0 then 16 * v else 2 * fld (c.reg (lnkReg l 0x1C0)) 15 0 + 1000
  else 1000

/-- DATA frames a replay buffer holds (R52, R132). -/
def Chip.replaySize (c : Chip) (l : Nat) : Nat :=
  if l < 1024 then 50 * c.width l
  else match seamOf l with
    | some k => if k < 6 then 1536 else 2048
    | none => 0

/-! ### DATA frames and credits at the sender (R125, R132, R135) -/

/-- A DATA frame of the given stitches leaves: it takes the next number and enters the replay buffer (R125, R132). -/
def Chip.sendData (c : Chip) (l : Nat) (st : List Stitch) : Chip :=
  let seq := (c.link l).txSeq
  let c := c.sendFrame l 0 seq (stitchMap st) (stitchContent st)
  let c := c.onLink l (fun x => { x with
    txSeq := (x.txSeq + 1) % 4096
    replay := x.replay ++ [{ fseq := seq, resends := 0, sentAt := c.now, stitches := st }] })
  if l < 1024 then
    (c.onPort l (fun x => { x with idleAt := c.now })).pmcN st.length (l / 256) (l % 256 / 16) 0x1002 (some (l % 16)) none
  else
    let c := c.add64 (semPage l + 0x110) st.length
    if l < 1040 then c.each st (fun c s => c.pmc ((l - 1024) / 4) (19 + (l - 1024) % 4) 0x4001 (some s.vc) none) else c

/-- The virtual channels without a credit, each with the time since when it has had none (VC_STALL of SEM_LINK_STATUS). -/
def Link.markDry (x : Link) (now : Nat) : Link :=
  { x with dryAt := (List.range 10).map (fun v =>
      if x.hasCredit v 1 then none else some ((x.dryAt.getD v none).getD now)) }

/-! ### Frames received -/

/-- The frames a cumulative ACK covers: those up to and including its number, when it is one of them (R126, R129). -/
def ackedFrames (l : List RepFrame) (ack : Nat) : List RepFrame :=
  if l.any (·.fseq == ack) then l.takeWhile (·.fseq != ack) ++ (l.find? (·.fseq == ack)).toList else []

/-- ACK of a frame: acknowledged frames leave the replay buffer, and the references of seam copies and the counts of port
copies whose tails they hold end (R242, R405). -/
def Chip.takeAck (c : Chip) (l ack : Nat) : Chip :=
  let fs := ackedFrames (c.link l).replay ack
  let c := c.onLink l (fun x => { x with replay := x.replay.drop fs.length })
  c.each (fs.flatMap (fun f => (f.stitches.filter (·.last)).map (·.copy))) (fun c id => c.ackCopy id)

/-- NAK of a frame: a replay, unless one that the same ACK started is in progress, or waits for the port's lanes (R129). -/
def Chip.takeNak (c : Chip) (l ack : Nat) : Chip :=
  let x := c.link l
  if x.nakAck = some ack ∧ (c.now < x.replayEnd ∨ x.replayDue) then c
  else (c.resend l).onLink l (fun x => { x with nakAck := some ack })

/-- A frame is missing: NAK is set in the next frame, once per recovery (R128). -/
def Chip.needNak (c : Chip) (l : Nat) : Chip :=
  let x := c.link l
  if x.recov then c else c.onLink l (fun x => { x with recov := true, recovAt := c.now, nakDue := true })

/-- A frame with a bad CRC is discarded and counted, whatever the port's state (R128). -/
def Chip.badFrame (c : Chip) (l : Nat) : Chip :=
  let c := if l < 1024 then
      (c.bump (lnkReg l 0x500) 1).pmc (l / 256) (l % 256 / 16) 0x1004 (some (l % 16)) none
    else c.bump (semPage l + 0x104) 1
  c.needNak l

/-- The control fields of a frame with a good CRC (R127, R143, R144). -/
def Chip.takeControl (c : Chip) (l : Nat) (f : Frame) : Chip :=
  let t := f.tail.toNat
  let h := f.head.toNat
  let c := c.takeAck l (fld t 11 0)
  let c := if bit t 12 then c.takeNak l (fld t 11 0) else c
  let c := if fld t 17 14 < 10 then c.onLink l (fun x => (x.learn (fld t 17 14) (fld t 31 18)).markDry c.now) else c
  let c := if fld h 47 44 < 10 then c.onLink l (fun x => (x.learn (fld h 47 44) (fld h 61 48)).markDry c.now) else c
  if l < 1024 then
    let c := c.onPort l (fun x => { x with goodAt := c.now, peerAdm := bit t 13 })
    if bit t 13 then c.tryActive l else c.deactivate l
  else c

/-- The FEC counts of the lanes that carried a frame, by wavelength (R79, LNE_FEC_CORR and LNE_FEC_UNCORR). -/
def Chip.takeFec (c : Chip) (p : Nat) (corr uncorr : List Nat) : Chip :=
  let lanes := (List.range 8).filter (fun w => bit (c.fullLanes p) w)
  c.each lanes (fun c w =>
    let i := fpLane p + w
    (((c.bump (lnePage p + 0x280 + 4 * i) (cnt corr w)).bump (lnePage p + 0x300 + 4 * i) (cnt uncorr w))).pmcN
      (cnt corr w) (p / 256) (p % 256 / 16) 0x1008 (some (p % 16 / 4)) none)

/-! ### INIT (R139 to R141, R145) -/

/-- The INIT record in a frame's bytes 8 to 63. -/
def initRecord (f : Frame) (now : Nat) : InitRec :=
  let b := f.content
  { id := leAt b 0 2, port := leAt b 2 2, sw := bit (byteAt b 4) 0, seen := bit (byteAt b 4) 1,
    twin := bit (byteAt b 4) 2, kind := byteAt b 5, stamp := leAt b 8 8,
    priv := (List.range 10).map (fun v => leAt b (28 + 2 * v) 2), shared := leAt b 48 2, at_ := now }

/-- The median of the measurements so far, at most 16: of an even number the mean of the middle two. DEDUCED; log entry
21. -/
def medianOf (l : List Nat) : Nat :=
  let s := l.mergeSort
  (s.getD ((s.length - 1) / 2) 0 + s.getD (s.length / 2) 0) / 2

/-- A round trip from an INIT's ECHO and HOLD (R141). -/
def Chip.measure (c : Chip) (p : Nat) (f : Frame) : Chip :=
  let echo := leAt f.content 16 8
  let hold := leAt f.content 24 4
  if echo = 0 ∨ 16 ≤ (c.port p).rtts.length then c
  else
    let c := c.onPort p (fun x => { x with rtts := x.rtts ++ [c.now - echo - hold] })
    let m := medianOf (c.port p).rtts
    c.setReg (lnkReg p 0x1C0) (if 65534 < m then 0xFFFF else m)

/-- A reserved stitch code in a frame with a good CRC: PROTOCOL_ERR of the LNK or SEM page (R118). -/
def Chip.badStitch (c : Chip) (l : Nat) : Chip := c.raise (if l < 1024 then lnkPage l else semPage l) 2

/-- The record of an INIT is taken: a different peer than the one latched clears ADMIT and raises PEER_CHANGE (R141, R145). -/
def Chip.takeRecord (c : Chip) (p : Nat) (f : Frame) : Chip :=
  let r := initRecord f c.now
  let c := (c.onPort p (fun x => { x with
    peer := some r, gotSeen := x.gotSeen || r.seen, peerKind := r.kind, peerSw := r.sw, peerTwin := r.twin })).measure p f
  match (c.port p).latched with
  | some l => if l ≠ (r.id, r.port, r.kind) then (c.clearAdmit p).raise (lnkPage p) 1 else c
  | none => c

/-- A port has seen its peer's INIT: the record is taken, then the control fields, so that a port enters ACTIVE on the frame that
makes its entry condition true; the frame that completes INIT may admit the port at once (R118, R127, R140, R144, R145). -/
def Chip.takeInit (c : Chip) (p : Nat) (f : Frame) : Chip :=
  if frameBadStitch f then (c.takeControl p f).badStitch p
  else
    let c := (c.takeRecord p f).takeControl p f
    if (c.port p).st = .init then
      let c := (c.initDone p).onPort p (fun x => { x with peerAdm := bit f.tail.toNat 13 })
      c.tryActive p
    else c

/-- A frame that a port under a far-end loopback receives goes back to its sender as it came, over a fibre whose gate is open (R85,
R101). -/
def Chip.loopBack (c : Chip) (l : Nat) (f : Frame) : Chip :=
  if l < 1024 ∧ c.loopback l = 3 ∧ c.fpOn l = true then c.emit (.looped l f) else c

/-- INIT_FRAME_RECEIVE: an INIT frame arrives at a port (R127, R140). -/
def initReceive (p : Nat) (f : Frame) (c : Chip) : Chip :=
  if frameKind f ≠ 2 then c
  else if (c.port p).st.framed = false then c.loopBack p f
  else
    let c := c.loopBack p f
    if frameCrcOk f then c.takeInit p f else c.badFrame p

/-- The 56 bytes of the INIT record that a port sends (R139). -/
def Chip.initBytes (c : Chip) (p : Nat) : List Byte :=
  let x := c.port p
  let flags := 1 + 2 * b2n (x.peer.isSome && !x.held) + 4 * b2n (c.isTwinLink p)
  let echo := match x.peer with | some r => r.stamp | none => 0
  let hold := match x.peer with | some r => c.now - r.at_ | none => 0
  leBytes 2 (c.switchId (p / 256)) ++ leBytes 2 p ++ leBytes 1 flags ++ leBytes 1 1 ++ leBytes 2 0 ++ leBytes 8 c.now ++
    leBytes 8 echo ++ leBytes 4 hold ++ (fit 0 10 x.advPriv).flatMap (leBytes 2) ++ leBytes 2 x.advShared ++ leBytes 6 0

/-- INIT_FRAME_SEND: every 100 ns a port in INIT sends its record in a frame with all stitches empty; SEEN stays clear while the
reservation is held, and nothing leaves while the lanes retrain from cold (R99, R139, R140, R255, R422). -/
def initSend (p : Nat) (c : Chip) : Chip :=
  let x := c.port p
  if x.st = .init ∧ c.lanesUp p then
    let seen := x.peer.isSome && !x.held && c.loopback p != 3
    let c := c.sendFrame p 2 (c.link p).txSeq 0xFFFFFFFF (fit 0 496 (c.initBytes p))
    (c.onPort p (fun x => { x with sentSeen := x.sentSeen || seen })).initDone p
  else c

/-- INIT_TIMEOUT: INIT has not completed within 100 µs (R140). -/
def initTimeout (p : Nat) (c : Chip) : Chip :=
  if (c.port p).st = .init then (c.till ((c.port p).initAt + 100000)).portDown p else c

/-- LINK_SILENCE_TIMEOUT: no frame with a good CRC for 2 µs outside the quiet state (R143). The command itself
reports that the receive direction is not quiet; that the transmit direction is does not excuse it (R96). In TRAINING, where
no frame comes, it does nothing. DEDUCED; log entry 75. -/
def silence (p : Nat) (c : Chip) : Chip :=
  if (c.port p).st.framed then (c.till ((c.port p).goodAt + 2000)).portDown p else c

/-- REPLAY_TIMEOUT: the oldest unacknowledged frame has waited for the replay timeout (R129, R134). -/
def replayTimeout (l : Nat) (c : Chip) : Chip :=
  match (c.link l).replay with
  | [] => c
  | f :: _ => if c.carries l then (c.till (f.sentAt + c.replayTimeout l)).resend l else c

/-- RECOVERY_TIMEOUT: a replay timeout passes in recovery; one more NAK (R128). -/
def recoveryTimeout (l : Nat) (c : Chip) : Chip :=
  let x := c.link l
  if x.recov ∧ c.carries l then
    let c := c.till (x.recovAt + c.replayTimeout l)
    c.onLink l (fun x => { x with nakDue := true, recovAt := c.now })
  else c

/-- Some frame of a link end has been resent 16 times (R130, R70). -/
def Chip.worn (c : Chip) (l : Nat) : Bool := (c.link l).replay.any (fun f => 16 ≤ f.resends)

/-- MEND_FAULT: a DATA frame resent 16 times without acknowledgement (R130). -/
def mendFault (p : Nat) (c : Chip) : Chip := if c.worn p then c.portFault p else c

/-! ### Stitches received at a port (R119, R126, R137) -/

/-- The content of stitch `i` of a frame (R114). -/
def frameSlot (f : Frame) (i : Nat) : List Byte := (f.content.drop (slotAt i)).take (slotCap i)

/-- A receive virtual channel of a port. -/
def Chip.rxOf (c : Chip) (p vc : Nat) : Rx := SMap.getD c.rx (16 * p + vc) {}

/-- A change of one receive virtual channel; one that holds nothing is not listed. -/
def Chip.setRx (c : Chip) (p vc : Nat) (r : Rx) : Chip :=
  { c with rx := if r = {} then SMap.del c.rx (16 * p + vc) else SMap.set c.rx (16 * p + vc) r }

/-- The packet under way still lacks bytes: the next stitch of its virtual channel is its own (R119, R120). -/
def RxCur.open_ (r : RxCur) : Bool := decide (r.got.length < r.need)

/-- A stitch joins the packet that its virtual channel is part way through: a kept packet grows in its store, and the stitch
holds its credit until every copy has passed it; of a discarded packet it is dropped and its credit returns (R119, R137,
R175, R280). The bytes past the packet's end are the zeros that fill its last stitch. -/
def Chip.absorb (c : Chip) (p vc : Nat) (r : RxCur) (bytes : List Byte) : Chip :=
  let got := (r.got ++ bytes).take r.need
  let c := c.setRx p vc { c.rxOf p vc with cur := some { r with got := got } }
  match r.pkt with
  | none => c.returnCredits p vc 1
  | some id =>
    let c := c.onPkt id (fun k => { k with payload := (got.drop 16).take k.hdr.len })
    match c.entryStore? id with
    | none => c.returnCredits p vc 1
    | some s =>
      (c.onStore s.sid (fun s => { s with got := got.length, owed := s.owed ++ [got.length] })).creditCheck s.sid

/-- An accepted stitch: part of the packet under way, or waiting behind it until its own packet's head is taken in. -/
def Chip.takeStitch (c : Chip) (p vc : Nat) (bytes : List Byte) : Chip :=
  let x := c.rxOf p vc
  match x.cur with
  | some r => if r.open_ then c.absorb p vc r bytes else c.setRx p vc { x with queue := x.queue ++ [(c.time.ft, bytes)] }
  | none => c.setRx p vc { x with queue := x.queue ++ [(c.time.ft, bytes)] }

/-- The stitches that wait join the packet under way while it lacks bytes. The first argument bounds them. -/
def Chip.absorbQueue : Nat → Chip → Nat → Nat → Chip
  | 0, c, _, _ => c
  | n + 1, c, p, vc =>
    let x := c.rxOf p vc
    match x.cur, x.queue with
    | some r, b :: t =>
      if r.open_ then Chip.absorbQueue n ((c.setRx p vc { x with queue := t }).absorb p vc r b.2) p vc else c
    | _, _ => c

/-! ### Writes (R143 to R146, R154) -/

/-- A port goes from FAULT to TRAINING, so that the twin link has a path again; a port with every lane in LOS goes on to DOWN
(R143, R441). -/
def Chip.faultToTraining (c : Chip) (p : Nat) : Chip :=
  let c := c.onPort p (fun x => { x with st := .training })
  let c := if c.isTwinLink p then c.twinLinkPath else c
  if c.dark p then c.portDown p else c

/-- AUTO_RETRAIN: 1 ms after a FAULT, with AUTO_RETRAIN 1 and fewer than 3 faults in the last 1 s (R143). -/
def autoRetrain (p : Nat) (c : Chip) : Chip :=
  let x := c.port p
  match x.faults with
  | t :: _ =>
    if x.st = .fault ∧ c.regBit (lnkReg p 0x100) 1 ∧
        (x.faults.filter (fun u => max c.now (t + 1000000) < u + 1000000000)).length < 3 then
      (c.till (t + 1000000)).faultToTraining p
    else c
  | [] => c

/-- LNK_PORT_CTL is written: ADMIT admits or withdraws the port, RETRAIN takes a port in FAULT to TRAINING (R143, R145,
R146). ADMIT cannot be set under a loopback (R100). A write of 1 to an ADMIT that reads 1 leaves the latched peer. DESIGN CHOICE; log
entry 96. -/
def wrPortCtl (p val : Nat) (c : Chip) : Wr :=
  let was := c.isAdmitted p
  if bit val 0 && !was && c.loopback p != 0 then .error 2
  else
    let c := c.setReg (lnkReg p 0x100) (val % 4)
    let c := if bit val 0 && !was then (c.onPort p (fun x => { x with latched := none })).tryActive p
      else if !bit val 0 then c.deactivate p else c
    .ok <| if bit val 2 ∧ (c.port p).st = .fault then c.faultToTraining p else c

/-- LNK_CREDIT_CFG is written (R154). -/
def wrCreditCfg (q d val : Nat) (c : Chip) : Wr :=
  if fld val 7 0 < 2 ∨ (fld val 27 16 = 0 ∧ fld val 15 8 = 0) then .error 1
  else .ok (c.setReg (regAddr q (0x20 + d) 0x400) val)

/-! ### Seams (R57, R58, R70, R153, R253) -/

/-- The link ends of a seam. -/
def seamLinks (k : Nat) : List Nat :=
  if k < 6 then
    let e := seamEnds k
    [seamLink e.1 (seamTo e.1 e.2), seamLink e.2 (seamTo e.2 e.1)]
  else [seamLink (k - 6) 3, ppLink (k - 6)]

/-- A link end of a seam as training leaves it: sequence numbers at 0 and the fixed credits of R253. The press die's own end
of a press seam has the credits that R253 gives the quadrant's end. DESIGN CHOICE; log entry 76. -/
def seamFresh (k : Nat) : Link :=
  { priv := (List.range 10).map (fun v => if v < 8 then 256 else 128), shared := if k < 6 then 9984 else 14080 }

/-- SEAM_UP: both SEM pages ON, the seam trains and reads UP (R70, R153). Frames of an earlier training that were never
acknowledged are gone, and the copies whose tails they held stay unacknowledged. DESIGN CHOICE; log entry 77. -/
def seamTrain (k : Nat) (c : Chip) : Chip :=
  if c.semOn k ∧ (c.seam k).up = false then
    let c := c.onSeam k (fun s => { s with up := true })
    c.each (seamLinks k) (fun c l => c.onLink l (fun x =>
      { x.kept with priv := (seamFresh k).priv, shared := (seamFresh k).shared }))
  else c

/-- A context enters FAILED: its chunks go, its retained copies go, CTX_FAILED is raised (R369). -/
def Chip.ctxFail (c : Chip) (die ctx : Nat) : Chip :=
  ((c.onCtx (24 * die + ctx) (fun x => { x with st := 3, chunks := [], kept := [], noticeAt := none })).raise
    (regAddr (4 + die) 0x41 0) 1).fenceEvent

/-- The port copies that are fed from a store, over seams too. The first argument bounds the seams on the way. -/
def Chip.leaves : Nat → Chip → Nat → List Copy
  | 0, _, _ => []
  | n + 1, c, sid => (c.copies.filter (fun x => x.sid == sid)).flatMap (fun x =>
      if x.overSeam then (match x.into with | some t => Chip.leaves n c t | none => []) else [x])

/-- A store whose packet can no longer arrive whole goes, with every copy it feeds; the ports have dropped a copy, but the
mask ports of a replicated packet are counted with its lost seam copy alone (R57, R150, R221, R437). -/
def Chip.dropBranch : Nat → Chip → Nat → Chip
  | 0, c, _ => c
  | n + 1, c, sid =>
    let c := c.each (c.copies.filter (fun x => x.sid == sid)) (fun c x =>
      let c := match x.into with | some t => Chip.dropBranch n c t | none => c
      let c := match x.goal with | .port p => c.disturb p | _ => c
      (c.onCopy x.id (fun x => { x with goal := .probe })).dropCopy x.id .down)
    match c.store? sid with
    | some s => if s.tailIn then c else c.lowerRef sid
    | none => c

/-- What still arrives in a store over a seam that fails is severed: when nothing of it has left the part it is discarded, a
packet of a press die everywhere; otherwise every copy is completed with zeros from the last byte that came, and closes
SEVERED (R57, R58, R150, R153). What has left is looked at in the copies fed over that seam, and LNK_SEVER_CNT of no port counts it.
DESIGN CHOICE; log entry 111. -/
def Chip.severStore (c : Chip) (sid : Nat) : Chip :=
  match c.store? sid with
  | none => c
  | some s =>
    if s.tailIn then c
    else if (Chip.leaves 4 c sid).any (fun x => x.headSent && x.link < 1024) then
      let c := (c.disturbed (Chip.leaves 4 c sid)).onStore sid (fun s => { s with
        tailIn := true, tailWait := false, cut := minCut s.cut (some s.got), code := 3 })
      (c.lowerRef sid).creditCheck sid
    else if 1040 ≤ farEnd s.rx then c.discardPkt s.pkt
    else Chip.dropBranch 4 c sid

/-- The stores that a seam link end still fills at its far side. -/
def Chip.seamPartial (c : Chip) (l : Nat) : List Nat :=
  (c.copies.filter (fun x => x.link == l && x.got < c.sizeOf x.pkt)).filterMap (·.into)

/-- A copy on a seam that fails: one of which the far end lacks bytes is dropped; one accepted whole there goes on from there, and
its reference here ends; unacknowledged it counts as lost where it is replicated (R150, R221, R242). -/
def Chip.seamLose (c : Chip) (x : Copy) : Chip :=
  if x.got < c.sizeOf x.pkt then c.dropCopy x.id .down
  else if x.ended then c
  else
    let c := match x.goal with | .repl _ => c.dropCount x .down | _ => c
    let c := c.onCopy x.id (fun x => { x with ended := true })
    let c := if x.zeros then c else c.lowerRef x.sid
    ((((if x.arrived then c.removeCopy x.id else c).creditCheck x.sid).gcPkt x.pkt)).mcCheck x.pkt

/-- Both ends of a seam stop: what it was carrying is severed, its copies end (R57, R242). -/
def Chip.seamCut (c : Chip) (k : Nat) : Chip :=
  let ls := seamLinks k
  let c := c.each ls (fun c l => c.each (c.seamPartial l) (fun c sid => c.severStore sid))
  let c := c.each ls (fun c l => c.each (c.copies.filter (·.link == l)) Chip.seamLose)
  let c := c.restall
  (c.each ls (fun c l => c.onLink l Link.kept)).onSeam k
    (fun s => { s with up := false, since := c.now })

/-- A seam enters FAULT: its pages do, SEAM_FAULT is raised at both ends, partial packets are severed, and on a press seam
every context of the die fails (R57, R58, R70, R557). -/
def Chip.seamFail (c : Chip) (k : Nat) : Chip :=
  let c := c.each (semPages k) (fun c dp =>
    let pa := regAddr dp.1 dp.2 0
    let c := { c.setPage (pageKey dp.1 dp.2) { st := 4 } with regs := SMap.set c.regs (scar dp.1 dp.2) 1 }
    (((c.dropPending dp.1 dp.2).recordErr pa 7 0 0 false).raise pa 1))
  let c := (c.seamCut k).fenceEvent
  if k < 6 then c
  else c.each ((List.range 24).filter (fun i => (c.ctx (24 * (k - 6) + i)).st != 0 && (c.ctx (24 * (k - 6) + i)).st != 3))
    (fun c i => c.ctxFail (k - 6) i)

/-- SEAM_FAULT: one frame replayed 16 times, or not UP for 10 µs with both pages ON (R70). -/
def seamFault (k : Nat) (c : Chip) : Chip :=
  if c.seamFaulted k then c
  else if (seamLinks k).any c.worn then c.seamFail k
  else if c.semOn k ∧ (c.seam k).up = false then (c.till ((c.seam k).since + 10000)).seamFail k
  else c

/-- SEAM_UP_LOST: a seam stops being UP without a FAULT; its time not UP counts from now (R70). -/
def seamLost (k : Nat) (c : Chip) : Chip :=
  if (c.seam k).up then c.onSeam k (fun s => { s with up := false, since := c.now }) else c

end Sys2Proof.Machine
end

