-- ==== Sys2Proof/Machine/Press.lean ====
section
/-! DEFINITION. Press arithmetic (chapter 9): element formats, ordered and exact accumulation, the comparison operators,
partials and output conversion. -/
namespace Sys2Proof.Machine

/-! ### Values and floating-point formats (R291 to R298) -/

/-- A floating-point value: NaN, an infinity, or the exact value `m × 2^e` with a sign. -/
inductive Num where
  | nan
  | inf (neg : Bool)
  | fin (neg : Bool) (m : Nat) (e : Int)
deriving DecidableEq, Repr

/-- A layout of R293 and R297: exponent and fraction bits, bias, and which specials it has: 0 infinities and NaNs, 1 the
one NaN of E4M3, 2 none. -/
structure FFmt where
  eb : Nat
  fb : Nat
  bias : Nat
  special : Nat
deriving DecidableEq, Repr

/-- FP32. -/
def f32 : FFmt := { eb := 8, fb := 23, bias := 127, special := 0 }

/-- The layout of a float format code, 0 to 4 (R292, R293). -/
def floatFmt (code : Nat) : FFmt :=
  match code with
  | 0 => f32
  | 1 => { eb := 8, fb := 7, bias := 127, special := 0 }
  | 2 => { eb := 5, fb := 10, bias := 15, special := 0 }
  | 3 => { eb := 4, fb := 3, bias := 7, special := 1 }
  | _ => { eb := 5, fb := 2, bias := 15, special := 0 }

/-- The element layout of an MX format code, 5 to 9 (R292, R297). -/
def mxFmt (code : Nat) : FFmt :=
  match code with
  | 5 => { eb := 4, fb := 3, bias := 7, special := 1 }
  | 6 => { eb := 5, fb := 2, bias := 15, special := 0 }
  | 7 => { eb := 2, fb := 3, bias := 1, special := 2 }
  | 8 => { eb := 3, fb := 2, bias := 3, special := 2 }
  | _ => { eb := 2, fb := 1, bias := 1, special := 2 }

/-- The value of an encoding (R293, R294). -/
def FFmt.value (f : FFmt) (n : Nat) : Num :=
  let s := bit n (f.eb + f.fb)
  let e := fld n (f.eb + f.fb - 1) f.fb
  let m := fld n (f.fb - 1) 0
  let top := ones f.eb
  if f.special = 0 ∧ e = top then (if m = 0 then .inf s else .nan)
  else if f.special = 1 ∧ e = top ∧ m = ones f.fb then .nan
  else if e = 0 then .fin s m (1 - (f.bias : Int) - f.fb)
  else .fin s (2 ^ f.fb + m) ((e : Int) - f.bias - f.fb)

/-- `n / 2^k` rounded to nearest, ties to even. -/
def rneShift (n k : Nat) : Nat :=
  let q := n / 2 ^ k
  let r := n % 2 ^ k
  if 2 ^ k < 2 * r ∨ (2 ^ k = 2 * r ∧ q % 2 = 1) then q + 1 else q

/-- The canonical NaN (R293). -/
def FFmt.canon (f : FFmt) : Nat :=
  if f.special = 1 then ones (f.eb + f.fb) else put (ones f.eb) f.fb + 2 ^ (f.fb - 1)

/-- The encoding of an infinity. -/
def FFmt.infinity (f : FFmt) (neg : Bool) : Nat := put (b2n neg) (f.eb + f.fb) + put (ones f.eb) f.fb

/-- The largest finite value. -/
def FFmt.largest (f : FFmt) (neg : Bool) : Nat :=
  put (b2n neg) (f.eb + f.fb) +
    (if f.special = 1 then ones (f.eb + f.fb) - 1 else put (ones f.eb - 1) f.fb + ones f.fb)

/-- The exact value `m × 2^e` rounded once to nearest even on the grid of a format (R324): the exponent field and the
significand with its hidden bit, or none when it lies above the largest finite value. -/
def FFmt.round (f : FFmt) (neg : Bool) (m : Nat) (e : Int) : Option Nat :=
  let sgn := put (b2n neg) (f.eb + f.fb)
  if m = 0 then some sgn else
  let emin : Int := 1 - (f.bias : Int) - f.fb
  let u := max emin ((Nat.log2 m : Int) + e - f.fb)
  let q0 := if u ≤ e then m * 2 ^ (e - u).toNat else rneShift m (u - e).toNat
  let up := q0 == 2 ^ (f.fb + 1)
  let q := if up then 2 ^ f.fb else q0
  let u := if up then u + 1 else u
  let ex := if q < 2 ^ f.fb then 0 else (u + f.bias + f.fb).toNat
  let top := ones f.eb
  if (f.special = 1 ∧ (top < ex ∨ (ex = top ∧ q = 2 ^ f.fb + ones f.fb))) ∨ (f.special ≠ 1 ∧ top ≤ ex) then none
  else some (sgn + put ex f.fb + (if ex = 0 then q else q - 2 ^ f.fb))

/-- FP32 bits of a value by roundTiesToEven, with infinities on overflow and the canonical NaN (R303). -/
def Num.toF32 : Num → Nat
  | .nan => f32.canon
  | .inf s => f32.infinity s
  | .fin s m e => (f32.round s m e).getD (f32.infinity s)

/-- A magnitude with sign as an integer multiple of `2^w`, where `w ≤ e`. -/
def scaled (neg : Bool) (m : Nat) (e w : Int) : Int :=
  let v : Int := (m * 2 ^ (e - w).toNat : Nat)
  if neg then -v else v

/-- The exact sum of two values under the IEEE 754 rules for zeros, infinities and NaNs. -/
def Num.add : Num → Num → Num
  | .nan, _ => .nan
  | _, .nan => .nan
  | .inf a, .inf b => if a = b then .inf a else .nan
  | .inf a, _ => .inf a
  | _, .inf b => .inf b
  | .fin a m e, .fin b n f =>
    let w := min e f
    let v := scaled a m e w + scaled b n f w
    if v = 0 then .fin (a && b) 0 0 else .fin (decide (v < 0)) v.natAbs w

/-- The exact product of two values (R302, R308). -/
def Num.mul : Num → Num → Num
  | .nan, _ => .nan
  | _, .nan => .nan
  | .inf a, .inf b => .inf (a != b)
  | .inf a, .fin b m _ => if m = 0 then .nan else .inf (a != b)
  | .fin a m _, .inf b => if m = 0 then .nan else .inf (a != b)
  | .fin a m e, .fin b n f => .fin (a != b) (m * n) (e + f)

/-! ### Settings (R299, R300) -/

/-- The fields of PRS_CTX_MODE (R299). -/
structure Mode where
  op : Nat
  exact : Bool
  inF : Nat
  accF : Nat
  outF : Nat
  nanIgnore : Bool
  outSat : Bool
  k : Nat
deriving DecidableEq, Repr

/-- The settings a PRS_CTX_MODE value spells. -/
def modeOf (n : Nat) : Mode :=
  { op := fld n 2 0, exact := bit n 3, inF := fld n 7 4, accF := fld n 11 8, outF := fld n 15 12,
    nanIgnore := bit n 16, outSat := bit n 17, k := fld n 30 24 }

/-- Code 0 to 4. -/
def isFloat (f : Nat) : Bool := f ≤ 4

/-- Code 5 to 9. -/
def isMx (f : Nat) : Bool := 5 ≤ f && f ≤ 9

/-- Code 10 or 11. -/
def isInt (f : Nat) : Bool := f == 10 || f == 11

/-- A PRS_CTX_MODE value is one of the combinations of R300. -/
def modeOk (n : Nat) : Bool :=
  let m := modeOf n
  let floatOrMx := isFloat m.inF || isMx m.inF
  if m.op ≤ 1 then
    if isInt m.inF then m.op == 0 && m.accF == 11 && isInt m.outF
    else floatOrMx && isFloat m.outF &&
      (if !m.exact then m.accF == 0
       else if m.op = 1 then m.accF == 12
       else if m.inF = 2 then m.accF == 13
       else if m.inF = 3 ∨ m.inF = 4 then m.accF == 14
       else m.accF == 12)
  else if m.op ≤ 3 then
    (floatOrMx && m.accF == 0 && isFloat m.outF) || (isInt m.inF && m.accF == 11 && isInt m.outF)
  else if m.op ≤ 6 then
    ((isFloat m.inF && m.accF == 0) || (isInt m.inF && m.accF == 11)) && m.outF == m.inF &&
      (m.op != 6 || (1 ≤ m.k && m.k ≤ 64))
  else false

/-- Bytes of an element of a float or integer format (R292). -/
def fmtBytes (f : Nat) : Nat :=
  if f = 0 ∨ f = 11 then 4 else if f = 1 ∨ f = 2 then 2 else 1

/-- Bytes of a block of 32 elements of an MX format (R292). -/
def mxBytes (f : Nat) : Nat := if f ≤ 6 then 33 else if f ≤ 8 then 25 else 17

/-- Bytes that `e` elements of a contribution take (R337). -/
def Mode.inLen (m : Mode) (e : Nat) : Nat :=
  if m.op = 4 ∨ m.op = 5 then 8 * e else if m.op = 6 then 8 * m.k * e
  else if isMx m.inF then e / 32 * mxBytes m.inF else fmtBytes m.inF * e

/-- Bytes that `e` elements of a result take (R337). -/
def Mode.outLen (m : Mode) (e : Nat) : Nat :=
  if m.op = 4 ∨ m.op = 5 then 8 * e else if m.op = 6 then 8 * m.k * e else fmtBytes m.outF * e

/-- The setting accumulates in an exact state. -/
def Mode.isExact (m : Mode) : Bool := m.op ≤ 1 && m.exact && 12 ≤ m.accF

/-! ### Leaf values and node operations -/

/-- An exact state (R306, R307): A, and the four flags. -/
structure Exact where
  a : Int := 0
  pinf : Bool := false
  ninf : Bool := false
  nan : Bool := false
  nz : Bool := true
deriving DecidableEq, Repr

/-- What one element holds in the accumulation format: a 32-bit word, an exact state, or pairs (word, index). -/
inductive Leaf where
  | word (n : Nat)
  | exact (s : Exact)
  | pairs (l : List (Nat × Nat))
deriving DecidableEq, Repr

/-- Weight of bit 0 of an exact accumulator (R306). -/
def exactW (accF : Nat) : Int := if accF = 12 then -149 else if accF = 13 then -24 else -16

/-- Limbs of an exact accumulator (R306). -/
def exactLimbs (accF : Nat) : Nat := if accF = 12 then 10 else if accF = 13 then 3 else 2

/-- An integer as an accumulator of the format holds it, in two's complement: the sign bit is the top one of its limbs (R306). -/
def exactInt (accF : Nat) (a : Int) : Int := sx (32 * exactLimbs accF) (toTwos (32 * exactLimbs accF) a)

/-- Two exact states merge: their A add as integers of the accumulator's width (R306, R309). -/
def Exact.merge (accF : Nat) (x y : Exact) : Exact :=
  { a := exactInt accF (x.a + y.a), pinf := x.pinf || y.pinf, ninf := x.ninf || y.ninf, nan := x.nan || y.nan, nz := x.nz && y.nz }

/-- One addend of an exact sum that is a multiple of `2^w` already (R308). -/
def Exact.ofNum (w : Int) : Num → Exact
  | .nan => { nan := true, nz := false }
  | .inf s => { pinf := !s, ninf := s, nz := false }
  | .fin s m e => { a := scaled s m e w, nz := m == 0 && s }

/-- One addend of an exact SCALED_SUM: the product is an infinity from 2^152 on, and is otherwise rounded to a multiple of
2^−149 (R308). -/
def Exact.ofProduct : Num → Exact
  | .fin s m e =>
    if m ≠ 0 ∧ 152 ≤ (Nat.log2 m : Int) + e then { pinf := !s, ninf := s, nz := false }
    else
      let q := if -149 ≤ e then m * 2 ^ (e + 149).toNat else rneShift m (-149 - e).toNat
      { a := if s then -(q : Int) else q, nz := q == 0 && s }
  | n => Exact.ofNum (-149) n

/-- The value of an element of a contribution, as float formats and MX blocks give it (R291 to R297). -/
def elemNum (f : Nat) (pay : List Byte) (i : Nat) : Num :=
  if isMx f then
    let b := i / 32 * mxBytes f
    let sc := byteAt pay b
    let j := i % 32
    let w := if f ≤ 6 then 8 else if f ≤ 8 then 6 else 4
    let raw := leAt pay (b + 1 + j * w / 8) 2 / 2 ^ (j * w % 8) % 2 ^ w
    if sc = 0xFF then .nan else
    match (mxFmt f).value raw with
    | .fin s m e => .fin s m (e + sc - 127)
    | n => n
  else (floatFmt f).value (leAt pay (fmtBytes f * i) (fmtBytes f))

/-- An MX value of 2^128 or more is an infinity in FP32 (R302). -/
def Num.clamp128 : Num → Num
  | .fin s m e => if m ≠ 0 ∧ 128 ≤ (Nat.log2 m : Int) + e then .inf s else .fin s m e
  | n => n

/-- An integer element, sign-extended to INT32 (R298). -/
def elemInt (f : Nat) (pay : List Byte) (i : Nat) : Nat :=
  if f = 10 then toTwos 32 (sx 8 (byteAt pay i)) else leAt pay (4 * i) 4

/-- A value of IN_FMT in a pair, converted to ACC_FMT (R317, R319). -/
def pairWord (f v : Nat) : Nat :=
  if f = 10 then toTwos 32 (sx 8 (v % 256)) else if f = 11 then v
  else ((floatFmt f).value (v % 2 ^ (8 * fmtBytes f))).toF32

/-- The leaf value of element `i` of an end point's contribution, under the slot's scale (R302, R308, R316). -/
def Mode.leaf (m : Mode) (scale : Nat) (pay : List Byte) (i : Nat) : Leaf :=
  if m.op = 4 ∨ m.op = 5 ∨ m.op = 6 then
    let k := if m.op = 6 then m.k else 1
    .pairs ((List.range k).map (fun j =>
      (pairWord m.inF (leAt pay (8 * (k * i + j)) 4), leAt pay (8 * (k * i + j) + 4) 4)))
  else if isInt m.inF then .word (elemInt m.inF pay i)
  else
    let v := elemNum m.inF pay i
    let s := f32.value scale
    if m.isExact then .exact (if m.op = 1 then Exact.ofProduct (v.mul s) else Exact.ofNum (exactW m.accF) v)
    else .word (if m.op = 1 then ((f32.value v.clamp128.toF32).mul s).toF32 else v.clamp128.toF32)

/-- The rank key of a word in ACC_FMT: none for NaN; −0 ranks below +0 (R317). -/
def Mode.key (m : Mode) (w : Nat) : Option Int :=
  if m.accF = 11 then some (sx 32 w)
  else match f32.value w with
    | .nan => none
    | _ => some (if bit w 31 then -((w % 2 ^ 31 : Nat) : Int) - 1 else ((w % 2 ^ 31 : Nat) : Int))

/-- Key `x` ranks strictly better than `y` (R317). -/
def Mode.better (m : Mode) (x y : Option Int) : Bool :=
  match x, y with
  | none, none => false
  | none, some _ => !m.nanIgnore
  | some _, none => m.nanIgnore
  | some a, some b => if m.op = 3 ∨ m.op = 5 then decide (a < b) else decide (b < a)

/-- A pair ranks strictly before another: by key, ties to the lower index, empty pairs last (R317, R320, R321). -/
def Mode.pairBefore (m : Mode) (x y : Nat × Nat) : Bool :=
  if x.2 = 0xFFFFFFFF then false
  else if y.2 = 0xFFFFFFFF then true
  else
    let a := m.key x.1
    let b := m.key y.1
    m.better a b || (!m.better b a && decide (x.2 < y.2))

/-- A pair into a list sorted from best to worst. -/
def Mode.insertPair (m : Mode) (x : Nat × Nat) : List (Nat × Nat) → List (Nat × Nat)
  | [] => [x]
  | y :: t => if m.pairBefore x y then x :: y :: t else y :: m.insertPair x t

/-- Pairs sorted from best to worst. -/
def Mode.sortPairs (m : Mode) (l : List (Nat × Nat)) : List (Nat × Nat) := l.foldl (fun a x => m.insertPair x a) []

/-- The node operation of the operator (R303, R309, R318, R320, R321). -/
def Mode.node (m : Mode) : Leaf → Leaf → Leaf
  | .word a, .word b =>
    if m.op = 2 ∨ m.op = 3 then (if m.better (m.key b) (m.key a) then .word b else .word a)
    else if m.accF = 11 then .word ((a + b) % 2 ^ 32)
    else .word ((f32.value a).add (f32.value b)).toF32
  | .exact a, .exact b => .exact (Exact.merge m.accF a b)
  | .pairs a, .pairs b =>
    if m.op = 6 then .pairs ((m.sortPairs (a ++ b)).take m.k)
    else match a, b with
      | x :: _, y :: _ => .pairs [if m.pairBefore y x then y else x]
      | _, _ => .pairs a
  | a, _ => a

/-- One level of the tree of R303: neighbours in pairs, an odd node passing up unchanged. -/
def pairUp {α : Type} (op : α → α → α) : List α → List α
  | a :: b :: t => op a b :: pairUp op t
  | l => l

/-- The tree of R303; the first argument bounds its levels. -/
def treeFold {α : Type} (op : α → α → α) : Nat → List α → List α
  | 0, l => l
  | n + 1, l => if l.length ≤ 1 then l else treeFold op n (pairUp op l)

/-- The reduced elements of slots given in slot order. -/
def Mode.reduce (m : Mode) (slots : List (List Leaf)) : List Leaf :=
  ((treeFold (fun x y => List.zipWith m.node x y) 9 slots).head?).getD []

/-! ### Partials (R304, R310 to R312, R364) -/

/-- The limbs of |A| (R310). -/
def limbsOf (n k : Nat) : List Nat := (List.range k).map (fun j => n / 2 ^ (32 * j) % 2 ^ 32)

/-- A word of ACC_FMT with every NaN as the canonical one (R295). -/
def Mode.canonWord (m : Mode) (w : Nat) : Nat :=
  if m.accF = 11 then w else match f32.value w with | .nan => f32.canon | _ => w

/-- An element of a partial (R304, R310, R311). -/
def Mode.partialBytes (m : Mode) : Leaf → List Byte
  | .word n => leBytes 4 (m.canonWord n)
  | .exact s =>
    let ls := limbsOf s.a.natAbs (exactLimbs m.accF)
    let mask := ofBits ((List.range ls.length).filter (fun j => ls.getD j 0 != 0))
    let head := mask + put (b2n (decide (s.a < 0))) 10 + put (b2n s.pinf) 11 + put (b2n s.ninf) 12 +
      put (b2n s.nan) 13 + put (b2n s.nz) 14
    leBytes 4 head ++ (ls.filter (· != 0)).flatMap (leBytes 4)
  | .pairs l => (m.sortPairs l).flatMap (fun p => if p.2 = 0xFFFFFFFF then leBytes 8 (put 0xFFFFFFFF 32) else
      leBytes 4 (m.canonWord p.1) ++ leBytes 4 p.2)

/-- Bytes of an element of a POISONED partial (R364). -/
def Mode.poisonSize (m : Mode) : Nat := if m.op = 6 then 8 * m.k else if m.op = 4 ∨ m.op = 5 then 8 else 4

/-- `n` exact partial elements read from bytes; none on a fault of R312. A magnitude that reaches the sign bit, for which R312 names
no fault, is taken as the accumulator holds it. DEDUCED; log entry 105. -/
def Mode.readExact (m : Mode) : Nat → List Byte → Option (List Leaf)
  | 0, l => if l.isEmpty then some [] else none
  | n + 1, l =>
    if l.length < 4 then none else
    let h := leAt l 0 4
    let mask := fld h 9 0
    let js := bitsOf mask 10
    let k := js.length
    let limbs := (List.range k).map (fun i => leAt l (4 + 4 * i) 4)
    let mag := ((List.range k).map (fun i => limbs.getD i 0 * 2 ^ (32 * js.getD i 0))).sum
    let bad := decide (2 ^ 15 ≤ h) || decide (2 ^ exactLimbs m.accF ≤ mask) || limbs.any (· == 0) ||
      (bit h 10 && k == 0) || decide (l.length < 4 + 4 * k)
    if bad then none else
    let s : Exact := { a := exactInt m.accF (if bit h 10 then -(mag : Int) else mag), pinf := bit h 11, ninf := bit h 12,
                       nan := bit h 13, nz := bit h 14 }
    (m.readExact n (l.drop (4 + 4 * k))).map (Leaf.exact s :: ·)

/-- The `n` elements of a segment of a partial; none on a fault of R312 (R343). -/
def Mode.readPartial (m : Mode) (n : Nat) (body : List Byte) : Option (List Leaf) :=
  if m.isExact then m.readExact n body
  else if 4 ≤ m.op then
    let k := if m.op = 6 then m.k else 1
    if body.length = 8 * k * n then
      some ((List.range n).map (fun i => .pairs ((List.range k).map (fun j =>
        (leAt body (8 * (k * i + j)) 4, leAt body (8 * (k * i + j) + 4) 4)))))
    else none
  else if body.length = 4 * n then some ((List.range n).map (fun i => .word (leAt body (4 * i) 4)))
  else none

/-! ### Output conversion (R313, R324 to R327) -/

/-- A result element: its bits, whether it is NaN, and whether it overflowed. -/
structure OutEl where
  bits : Nat
  nan : Bool := false
  ovf : Bool := false
deriving DecidableEq, Repr

/-- A value in a float OUT_FMT (R324, R325). -/
def outFloat (f : Nat) (sat : Bool) (v : Num) : OutEl :=
  let g := floatFmt f
  let big (s : Bool) (ovf : Bool) : OutEl :=
    if sat then { bits := g.largest s, ovf := ovf }
    else if g.special = 1 then { bits := g.canon, nan := true, ovf := ovf }
    else { bits := g.infinity s, ovf := ovf }
  match v with
  | .nan => { bits := g.canon, nan := true }
  | .inf s => big s false
  | .fin s m e => match g.round s m e with
    | some n => { bits := n }
    | none => big s true

/-- An INT32 accumulation in an integer OUT_FMT (R326). -/
def outInt (f : Nat) (sat : Bool) (w : Nat) : OutEl :=
  if f = 11 then { bits := w }
  else if sat then { bits := toTwos 8 (max (-128) (min 127 (sx 32 w))) }
  else { bits := w % 256 }

/-- The value of an exact state at the root (R313). -/
def Exact.value (s : Exact) (w : Int) : Num :=
  if s.nan || (s.pinf && s.ninf) then .nan
  else if s.pinf then .inf false
  else if s.ninf then .inf true
  else if s.a = 0 then .fin s.nz 0 0
  else .fin (decide (s.a < 0)) s.a.natAbs w

/-- A word of ACC_FMT in OUT_FMT. -/
def Mode.outWord (m : Mode) (w : Nat) : OutEl :=
  if isInt m.outF then outInt m.outF m.outSat w else outFloat m.outF m.outSat (f32.value w)

/-- The bytes of a result element with its counts of NaN and of overflow (R318 to R327). -/
def Mode.output (m : Mode) : Leaf → List Byte × Nat × Nat
  | .word w => let o := m.outWord w; (leBytes (fmtBytes m.outF) o.bits, b2n o.nan, b2n o.ovf)
  | .exact s => let o := outFloat m.outF m.outSat (s.value (exactW m.accF))
    (leBytes (fmtBytes m.outF) o.bits, b2n o.nan, b2n o.ovf)
  | .pairs l =>
    let one (p : Nat × Nat) : List Byte × Nat × Nat :=
      if p.2 = 0xFFFFFFFF then (leBytes 8 (put 0xFFFFFFFF 32), 0, 0)
      else let o := m.outWord p.1; (leBytes 4 o.bits ++ leBytes 4 p.2, b2n o.nan, b2n o.ovf)
    let os := l.map one
    (os.flatMap (·.1), (os.map (·.2.1)).sum, (os.map (·.2.2)).sum)

/-- The elements that a ROOT computes: its result's bytes, NaN count and overflow count. A TOPK record is sorted and has K
pairs (R321). -/
def Mode.result (m : Mode) (l : List Leaf) : List Byte × Nat × Nat :=
  let l := if m.op = 6 then l.map (fun x => match x with
      | .pairs p => .pairs ((m.sortPairs p).take m.k)
      | x => x) else l
  let os := l.map m.output
  (os.flatMap (·.1), (os.map (·.2.1)).sum, (os.map (·.2.2)).sum)

end Sys2Proof.Machine
end

