-- ==== Sys2Proof/Machine/Collect.lean ====
section
/-! DEFINITION. Collective contexts (chapter 10): templates and their check, the chunk protocol, partials, retention and
resend, late chunks, revoke, context states; with the commands of the press die. -/
namespace Sys2Proof.Machine

/-! ### Templates (R336 to R349) -/

/-- A register of a press die's PRS page. -/
def prs (d off : Nat) : Nat := regAddr (4 + d) 0x40 off

/-- A register of a press die's COL page. -/
def col (d off : Nat) : Nat := regAddr (4 + d) 0x41 off

/-- The RWB register at `a` in a bank: bank B stands 2^32 above bank A. -/
def banked (a : Nat) (b : Bool) : Nat := a + put (b2n b) 32

/-- Key of an entry of a slot table (0) or member table (1) of context `x` of press die `d`. -/
def colKey (d x t : Nat) (b : Bool) (i : Nat) : Nat := 2 ^ 26 + (((d * 32 + x) * 2 + t) * 2 + b2n b) * 2 ^ 17 + i

/-- The entries of a table that have been written, with their indices. -/
def Chip.colEntries (c : Chip) (d x t : Nat) (b : Bool) : List (Nat × List Word) :=
  let lo := colKey d x t b 0
  (c.tables.filter (fun kv => decide (lo ≤ kv.1) && decide (kv.1 < lo + 2 ^ 17))).map (fun kv => (kv.1 - lo, kv.2))

/-- The template of a context in a bank, with its valid slots and members. -/
def Chip.tmpl (c : Chip) (d x : Nat) (b : Bool) : Tmpl :=
  let r (off : Nat) : Nat := c.reg (banked (prs d (0x400 + 0x20 * x + off)) b)
  { mode := c.reg (banked (prs d (0x200 + 4 * x)) b), bind := r 0, window := r 4, chunk := r 8, ops := r 0xC,
    members := r 0x10, ownRun := r 0x14, timers := r 0x18,
    slots := ((c.colEntries d x 0 b).filter (fun e => bit (word e.2 0) 31)).map (fun e => (e.1, word e.2 0, word e.2 1)),
    mems := ((c.colEntries d x 1 b).filter (fun e => bit (word e.2 0) 31)).map (fun e => (e.1, word e.2 0)) }

/-- VALID of a template. -/
def Tmpl.valid (t : Tmpl) : Bool := bit t.bind 31
/-- KIND. -/
def Tmpl.kind (t : Tmpl) : Nat := fld t.bind 30 29
/-- ROLE. -/
def Tmpl.role (t : Tmpl) : Nat := fld t.bind 28 27
/-- GEN. -/
def Tmpl.gen (t : Tmpl) : Nat := fld t.bind 26 25
/-- TC. -/
def Tmpl.tc (t : Tmpl) : Nat := fld t.bind 24 23
/-- SLOTS. -/
def Tmpl.nslots (t : Tmpl) : Nat := fld t.bind 22 14
/-- GROUP. -/
def Tmpl.group (t : Tmpl) : Nat := fld t.bind 13 0
/-- OPEN_MAX. -/
def Tmpl.openMax (t : Tmpl) : Nat := fld t.window 8 0
/-- RETAIN_MAX. -/
def Tmpl.retainMax (t : Tmpl) : Nat := fld t.window 27 16
/-- CHUNK_ELEMS. -/
def Tmpl.chunkElems (t : Tmpl) : Nat := fld t.chunk 13 0
/-- LAST_ELEMS. -/
def Tmpl.lastElems (t : Tmpl) : Nat := fld t.chunk 29 16
/-- CONTRIB_TIMEOUT in ns. -/
def Tmpl.timeout (t : Tmpl) : Nat := fld t.timers 9 0 * 1000
/-- RETAIN_TIME in ns. -/
def Tmpl.retainTime (t : Tmpl) : Nat := fld t.timers 25 16 * 1000
/-- The arithmetic settings. -/
def Tmpl.m (t : Tmpl) : Mode := modeOf t.mode

/-- E(c) (R336). -/
def Tmpl.elems (t : Tmpl) (c : Nat) : Nat :=
  if c % fld t.ops 23 0 + 1 = fld t.ops 23 0 then t.lastElems else t.chunkElems

/-- The owner of a chunk (R336). -/
def Tmpl.owner (t : Tmpl) (c : Nat) : Nat := c % fld t.ops 23 0 / fld t.ownRun 23 0 % fld t.members 16 0

/-- The member table entry of a chunk's owner, when valid. -/
def Tmpl.ownerEntry (t : Tmpl) (c : Nat) : Option Nat := (t.mems.find? (·.1 == t.owner c)).map (·.2)

/-- The length that R337 gives for an opcode; none where it gives none for the template's KIND. -/
def Tmpl.lenFor (t : Tmpl) (op c : Nat) : Option Nat :=
  if (op = 3 ∧ (t.kind = 0 ∨ t.kind = 2)) ∨ (op = 4 ∧ t.kind = 1) then some (t.m.inLen (t.elems c)) else none

/-- The lengths of R338. -/
def Tmpl.lenOk (t : Tmpl) (op c n : Nat) : Bool :=
  match t.lenFor op c with
  | none => true
  | some w => n == w || (op == 3 && 2 ≤ t.role && 20 ≤ n && n ≤ 8192 && n % 4 == 0)

/-- The check of R338 in the ingress island: passes where the group has no home, or its template is not VALID. -/
def Chip.chunkLenOk (c : Chip) (q : Nat) (h : Hdr) : Bool :=
  if h.op ≠ 3 ∧ h.op ≠ 4 then true else
  match c.group q h.bank h.dest h.job with
  | none => true
  | some g =>
    let w := word g 1
    if !bit w 31 then true
    else
      let t := c.tmpl (fld w 9 8) (fld w 4 0) h.bank
      !t.valid || t.lenOk h.op h.aux h.len

/-- The slot whose ID is a packet's SRC (R340): its index, CHILD and SCALE. -/
def Tmpl.slotOf (t : Tmpl) (src : Nat) : Option (Nat × Bool × Nat) :=
  (t.slots.find? (fun s => fld s.2.1 15 0 == src)).map (fun s => (s.1, bit s.2.1 30, s.2.2))

/-- The press SRAM a template needs, in bytes (R349). -/
def Tmpl.need (t : Tmpl) : Nat :=
  let m := t.m
  let e := t.chunkElems
  let root := t.role == 3
  let exactS := if m.accF = 12 then (40, 44) else if m.accF = 13 then (12, 16) else (8, 12)
  let wq :=
    if t.kind = 1 then (0, if root then m.inLen e else 0)
    else if 4 ≤ m.op then (m.outLen e, m.outLen e)
    else if m.isExact then (e * exactS.1, if root then m.outLen e else e * exactS.2)
    else if 2 ≤ m.op ∨ m.accF = 11 then (e * 4, if root then m.outLen e else e * 4)
    else (t.nslots * e * 4, if root then m.outLen e else e * 4)
  t.openMax * wq.1 + t.retainMax * wq.2

/-- A value lies in a range. -/
def within (v lo hi : Nat) : Bool := lo ≤ v && v ≤ hi

/-- A template passes R348, with `units` of SRAM. -/
def Tmpl.ok (t : Tmpl) (units : Nat) : Bool :=
  if !t.valid then true else
  let m := t.m
  let n := fld t.members 16 0
  let e := t.chunkElems
  t.kind != 3 && t.role != 0 && within t.nslots 1 256 && within t.openMax 1 256 && within e 1 8192 &&
  within t.lastElems 1 e && within (fld t.ops 23 0) 1 0xFFFFFF && within n 1 65536 &&
  within (fld t.ownRun 23 0) 1 0xFFFFFF && within (fld t.timers 25 16) 1 1000 && within (fld t.timers 9 0) 1 1023 &&
  m.inLen e ≤ 8192 && (t.kind == 1 || m.outLen e ≤ 8192) &&
  (!isMx m.inF || (e % 32 == 0 && t.lastElems % 32 == 0)) &&
  t.slots.length == t.nslots && t.slots.all (fun s => s.1 < t.nslots) &&
  (t.slots.map (fun s => fld s.2.1 15 0)).eraseDups.length == t.slots.length &&
  (t.role != 1 || t.slots.all (fun s => !bit s.2.1 30)) &&
  (t.role != 3 || (t.retainMax != 0 &&
    (t.mems.filter (fun x => x.1 < n)).length == n &&
    (t.mems.filter (fun x => x.1 < n)).all (fun x => fld x.2 23 16 < t.nslots))) &&
  t.need ≤ units * 65536

/-- UNITS of a context's SRAM region (R349). -/
def Chip.sramUnits (c : Chip) (d x : Nat) : Nat := fld (c.reg (col d (0x380 + 4 * x))) 28 16

/-- The template check of a context in a bank; the need is the larger of the two banks' (R348, R349). -/
def Chip.tmplOk (c : Chip) (d x : Nat) (b : Bool) : Bool :=
  let t := c.tmpl d x b
  let o := c.tmpl d x (!b)
  t.ok (c.sramUnits d x) && (!t.valid || !o.valid || o.need ≤ c.sramUnits d x * 65536)

/-- The job of a context (R402). -/
def Chip.ctxJob (c : Chip) (d x : Nat) : Nat := fld (c.reg (prs d (0x41C + 0x20 * x))) 11 0

/-- The template that the job of a context selects in the press die's island. -/
def Chip.curTmpl (c : Chip) (d x : Nat) : Tmpl := c.tmpl d x ((c.job (c.ctxJob d x)).bankIn (68 + d))

/-! ### What the press sends -/

/-- A press die emits a packet: it waits for the press seam on its virtual channel (R588); its queue may stall (R449). No store of a
quadrant holds it yet; the copy's `sid` is the packet's own name. Answers that name. -/
def Chip.pressSendId (c : Chip) (d : Nat) (p : PressPkt) : Nat × Chip :=
  let r := c.newId
  let pk : Pkt := { id := r.1, hdr := p.hdr, oldDest := p.hdr.dest, origin := .press d, entry := d, vc := p.hdr.vc,
                    stamp := c.time.ft, rate := 0, payload := p.payload, tailIn := true, sealW := p.sealW, code := p.code }
  (r.1, ({ r.2 with pkts := r.2.pkts ++ [pk] }.addCopy r.1 r.1 16 (ppLink d) p.hdr.vc (.press d 0) []).restallOne (ppLink d))

/-- A press die emits a packet. -/
def Chip.pressSend (c : Chip) (d : Nat) (p : PressPkt) : Chip := (c.pressSendId d p).2

/-- A packet that the press originates, with its seal (R183). -/
def Chip.pressPkt (c : Chip) (h : Hdr) (pay : List Byte) (code : Nat) : PressPkt :=
  let h := { h with len := pay.length, plane := c.plane }
  { hdr := h, payload := pay, sealW := sealOf h pay, code := code }

/-- The segments of a partial: whole elements in order, at most 8,176 bytes each, as (FIRST, elements) (R342). -/
def segsOf : Nat → List (List Byte) → Nat → List (List Byte) → Nat → List (Nat × List (List Byte))
  | _, [], first, acc, _ => if acc.isEmpty then [] else [(first, acc.reverse)]
  | i, e :: t, first, acc, used =>
    if !acc.isEmpty && 8176 < used + e.length then (first, acc.reverse) :: segsOf (i + 1) t i [e] e.length
    else segsOf (i + 1) t first (e :: acc) (used + e.length)

/-- The payloads of the segments of a partial (R342). -/
def partialPayloads (elems : List (List Byte)) : List (List Byte) :=
  let ss := segsOf 0 elems 0 [] 0
  (List.range ss.length).map (fun j =>
    let s := ss.getD j (0, [])
    leBytes 2 j ++ leBytes 2 ss.length ++ leBytes 4 s.1 ++ leBytes 4 s.2.length ++ leBytes 4 0 ++ s.2.flatten)

/-! ### Chunks (R350 to R354) -/

/-- The slots that complete a chunk: the owner's alone in an AG context, otherwise all (R344, R354). -/
def Chunk.expect (k : Chunk) : List Nat :=
  if k.tmpl.kind = 1 then ((k.tmpl.ownerEntry k.c).map (fun e => fld e 23 16)).toList else List.range k.tmpl.nslots

/-- A slot of a chunk is complete. -/
def Chunk.has (k : Chunk) (s : Nat) : Bool := k.slots.any (fun r => r.slot == s && r.full)

/-- The leaf values of a slot: an end point's contribution under the slot's scale, or a child's segments in element
order. -/
def Chunk.leaves (k : Chunk) (s : Nat) : List Leaf :=
  let t := k.tmpl
  match k.slots.find? (·.slot == s), t.slots.find? (·.1 == s) with
  | some r, some e =>
    if bit e.2.1 30 then
      ((List.range (t.elems k.c)).flatMap (fun i => r.segs.filter (fun g => g.2.1 == i))).flatMap (fun g =>
        (t.m.readPartial g.2.2.1 g.2.2.2).getD [])
    else match r.segs with
      | g :: _ => (List.range (t.elems k.c)).map (t.m.leaf e.2.2 g.2.2.2)
      | [] => []
  | _, _ => []

/-- The digest entry of an emitted chunk (R437). -/
def Chip.digestEntry (c : Chip) (d x : Nat) (k : Chunk) (pays : List (List Byte)) : Chip :=
  if c.twin.role = 0 then c else
  let e : DigEnt := { chunk := k.c + put x 24 + put d 29, cstate := k.tmpl.gen + put (b2n k.poisoned) 2,
                      crc := (crc32c 0xFFFFFFFF pays.flatten).toNat, at_ := c.now, sent := false, matched := false }
  { c with twin := { c.twin with own := c.twin.own ++ [e] } }

/-- The packets of a completed chunk with the counts of R333: at the root a result, below it a partial (R327, R334, R341,
R342, R354, R364). -/
def Chip.chunkPkts (c : Chip) (d x : Nat) (k : Chunk) : List PressPkt × Chip :=
  let t := k.tmpl
  let m := t.m
  let code := if k.poisoned then 1 else 0
  let job := c.ctxJob d x
  let base : Hdr := { tc := t.tc, gen := t.gen, job := job, seq := k.c, aux := k.c }
  let leaves := m.reduce ((List.range t.nslots).map k.leaves)
  if t.role = 3 then
    let agPay := match k.slots with
      | r :: _ => (match r.segs with | g :: _ => g.2.2.2 | [] => [])
      | [] => []
    let len := if t.kind = 1 then m.inLen (t.elems k.c) else m.outLen (t.elems k.c)
    let res := if k.poisoned then (List.replicate len 0, 0, 0) else if t.kind = 1 then (agPay, 0, 0) else m.result leaves
    let c := ((c.bump (prs d 0x300) res.2.1).bump (prs d 0x304) res.2.2).bump (prs d 0x30C) code
    if t.kind = 0 then
      match t.ownerEntry k.c with
      | none => ([], c)
      | some e => ([c.pressPkt { base with net := 1, op := 0x13, dest := fld e 15 0, src := t.group } res.1 code], c)
    else ([c.pressPkt { base with net := 1, op := 0x14, mc := true, dest := t.group, src := t.group } res.1 code], c)
  else
    let elems := if k.poisoned then List.replicate (t.elems k.c) (List.replicate m.poisonSize 0)
      else leaves.map m.partialBytes
    ((partialPayloads elems).map (fun pay =>
      c.pressPkt { base with op := 3, mc := true, dest := t.group, src := c.switchId d } pay code), c)

/-- A retained copy is made; with every entry in use the oldest is freed early (R354, R358). -/
def Chip.retain (c : Chip) (d x : Nat) (k : Chunk) (pkts : List PressPkt) : Chip :=
  let t := k.tmpl
  if t.retainMax = 0 ∨ pkts.isEmpty then c else
  let r : Retained := { gen := t.gen, c := k.c, bank := k.bank, tmpl := t, pkts := pkts, at_ := c.now, resentAt := none, resends := [] }
  let kept := ((c.ctx (24 * d + x)).kept).filter (fun y => !(y.gen == t.gen && y.c == k.c))
  let early := kept.length + 1 - t.retainMax
  let c := c.onCtx (24 * d + x) (fun y => { y with kept := kept.drop early ++ [r] })
  if early = 0 then c else (c.bump (col d 0x420) early).raise (col d 0) 8

/-- FLOOR advances past every consecutive completed chunk, and their records go (R350). The first argument bounds the
advance. -/
def Chip.advance : Nat → Chip → Nat → Nat → Chip
  | 0, c, _, _ => c
  | n + 1, c, d, x =>
    let y := c.ctx (24 * d + x)
    if y.chunks.any (fun k => k.c == y.floor && k.done) then
      Chip.advance n (c.onCtx (24 * d + x) (fun y => { y with
        chunks := y.chunks.filter (·.c != y.floor), floor := (y.floor + 1) % 2 ^ 24,
        openMax := (c.curTmpl d x).openMax })) d x
    else c

/-- With no late chunk left the next starts afresh (R357). -/
def Chip.lateEnd (c : Chip) (d x : Nat) : Chip :=
  if (c.ctx (24 * d + x)).chunks.any (·.late) then c else c.onCtx (24 * d + x) (fun y => { y with noticeAt := none })

/-- A change of one chunk record of a context. -/
def Chip.onChunk (c : Chip) (d x n : Nat) (f : Chunk → Chunk) : Chip :=
  c.onCtx (24 * d + x) (fun y => { y with chunks := y.chunks.map (fun k => if k.c = n then f k else k) })

/-- The arithmetic lanes of a press die work on a chunk: qualifier 0 the ordered, 1 the exact lanes (R460). For how many cycles they
are busy, and whether they were on the cycle before, is timing: free values (log entry 38). -/
def Chip.lanesBusy (c : Chip) (d qual : Nat) : Chip :=
  c.each (List.range 8) (fun c i =>
    let pa := regAddr (4 + d) (0x60 + i) 0
    if c.isOn (4 + d) (0x60 + i) then
      c.each ((c.pmcSet pa).filter (c.pmcMatch pa 0x6001 (some qual) none)) (fun c j =>
        let r := c.draw Config.cycleCount
        if c.regBit (pa + 0x400 + 4 * j) 1 then (if r.1 % 2 = 0 then r.2 else r.2.pmcCount pa j)
        else r.2.pmcAdd pa j (1 + r.1 % 2 ^ 16))
    else c)

/-- A chunk completes: computed, retained, emitted, DONE; FLOOR advances (R354). The comparison and merge units of island PS serve
operations 4 to 6, the arithmetic lanes the others. -/
def Chip.chunkComplete (c : Chip) (d x : Nat) (k : Chunk) : Chip :=
  let c := if k.tmpl.m.op ≤ 3 then c.lanesBusy d (b2n k.tmpl.m.isExact) else c
  let r := c.chunkPkts d x k
  let c := r.2.retain d x k r.1
  let c := c.each r.1 (fun c p => c.pressSend d p)
  let c := c.digestEntry d x k (r.1.map (·.payload))
  let c := c.onChunk d x k.c (fun k => { k with done := true, late := false, slots := [] })
  let c := c.pmc (4 + d) 8 0x7002 (some (x % 16)) (some (x / 16))
  (Chip.advance ((c.ctx (24 * d + x)).chunks.length + 1) c d x).lateEnd d x

/-- A retained copy is sent again: its packets are emitted anew, and the copy notes when, and their names (R359, R361). -/
def Chip.resendCopy (c : Chip) (d x : Nat) (r : Retained) : Chip :=
  let s := r.pkts.foldl (fun (s : List Nat × Chip) p => let y := s.2.pressSendId d p; (s.1 ++ [y.1], y.2)) ([], c)
  s.2.onCtx (24 * d + x) (fun y => { y with
    kept := y.kept.map (fun z => if z.c = r.c ∧ z.gen = r.gen then { z with resentAt := some c.now, resends := s.1 } else z) })

/-- A duplicate: counted, and at a non-root part the retained partial is sent again, at most once per µs (R351, R361). -/
def Chip.duplicate (c : Chip) (d x : Nat) (a : Arr) : Chip :=
  let c := c.bump (col d 0x40C) 1
  match (c.ctx (24 * d + x)).kept.find? (fun r => r.c == a.hdr.aux && r.gen == a.hdr.gen && r.tmpl.role != 3) with
  | none => c
  | some r =>
    let again := match r.resentAt with | none => true | some t => t + 1000 ≤ c.now
    if again then c.resendCopy d x r else c

/-- A segment of a child's partial is well formed for a slot (R312, R343); the elements of a POISONED one are not read, so that an
exact one, poisoned where it was made or on its way, may have any length (R351, R364). -/
def segOk (t : Tmpl) (ch : Nat) (r : SlotRec) (pay : List Byte) (poisoned : Bool) : Bool :=
  let sg := leAt pay 0 2
  let n := leAt pay 2 2
  let first := leAt pay 4 4
  let el := leAt pay 8 4
  let body := pay.drop 16
  16 ≤ pay.length && sg < n && n ≤ 64 && (r.segs.isEmpty || r.count == n) && 1 ≤ el && first + el ≤ t.elems ch &&
  r.segs.all (fun g => first + el ≤ g.2.1 || g.2.1 + g.2.2.1 ≤ first) && leAt pay 12 4 == 0 &&
  (if poisoned then t.m.isExact || body.length == el * t.m.poisonSize else (t.m.readPartial el body).isSome)

/-- A contribution or segment is taken into its slot; one that R312 discards is a fence-class event (R343, R364, R436). -/
def Chip.takeSlot (c : Chip) (d x ch s : Nat) (child : Bool) (a : Arr) : Chip :=
  match (c.ctx (24 * d + x)).chunks.find? (·.c == ch) with
  | none => c
  | some k =>
    let old := (k.slots.find? (·.slot == s)).getD { slot := s, segs := [], count := 0, full := false, refused := false }
    let put_ (c : Chip) (r : SlotRec) (bad : Bool) : Chip :=
      c.onChunk d x ch (fun k => { k with
        slots := k.slots.filter (·.slot != s) ++ [r], poisoned := k.poisoned || bad })
    let bad := a.code == 1
    if !child then
      put_ c { old with segs := [(0, 0, k.tmpl.elems ch, a.payload)], count := 1, full := true } bad
    else if old.refused || !segOk k.tmpl ch old a.payload bad then
      put_ (c.bump (prs d 0x308) 1).fenceEvent { old with refused := true } false
    else
      let g := (leAt a.payload 0 2, leAt a.payload 4 4, leAt a.payload 8 4, a.payload.drop 16)
      let segs := old.segs ++ [g]
      put_ c { old with segs := segs, count := leAt a.payload 2 2,
                        full := (segs.map (fun g => g.2.2.1)).sum == k.tmpl.elems ch } bad

/-- A slot or a segment has been taken already. -/
def Chunk.already (k : Chunk) (s : Nat) (child : Bool) (a : Arr) : Bool :=
  k.has s || (child && 16 ≤ a.payload.length &&
    k.slots.any (fun r => r.slot == s && r.segs.any (fun g => g.1 == leAt a.payload 0 2)))

/-- The slot a contribution is for: none when no slot matches, or in an AG root another than the owner's (R340, R344). -/
def Tmpl.slotFor (t : Tmpl) (ch src : Nat) : Option (Nat × Bool × Nat) :=
  match t.slotOf src with
  | none => none
  | some s => if t.kind = 1 ∧ (t.ownerEntry ch).map (fun e => fld e 23 16) ≠ some s.1 then none else some s

/-- The check of R351 that leads to COL_TMPL_DROP. A contribution to an end-point slot has the whole contribution's
length: DEDUCED; log entry 22. -/
def Tmpl.accepts (t : Tmpl) (job : Nat) (h : Hdr) : Bool :=
  t.valid && h.gen == t.gen && h.job == job && (if h.op = 3 then t.kind == 0 || t.kind == 2 else t.kind == 1) &&
  t.lenOk h.op h.aux h.len &&
  (match t.slotOf h.src with
   | some s => t.kind == 1 || s.2.1 || some h.len == t.lenFor h.op h.aux
   | none => true)

/-- AG_CONTRIB relayed to the parent with payload and tail code unchanged, in the job of the context (R165, R344). -/
def Chip.agRelay (c : Chip) (d x : Nat) (b : Tmpl) (a : Arr) : Chip :=
  if (b.slotOf a.hdr.src).isNone then c.bump (col d 0x408) 1
  else
    let h : Hdr := { tc := b.tc, op := 4, mc := true, gen := a.hdr.gen, dest := a.hdr.dest, src := c.switchId d,
                     job := c.ctxJob d x, seq := a.hdr.aux, aux := a.hdr.aux }
    c.pressSend d (c.pressPkt h a.payload a.code)

/-- A contribution reaches a context (R351). -/
def Chip.contribution (c : Chip) (d x : Nat) (a : Arr) : Chip :=
  let y := c.ctx (24 * d + x)
  let h := a.hdr
  if y.st ≠ 1 then c.bump (col d 0x400) 1
  else if 2 ≤ a.code then c
  else
    let b := c.tmpl d x h.bank
    if h.op = 4 ∧ b.valid ∧ b.kind = 1 ∧ b.role ≠ 3 then c.agRelay d x b a
    else
      let dd := (h.aux + 2 ^ 24 - y.floor) % 2 ^ 24
      if 2 ^ 23 ≤ dd then c.duplicate d x a
      else if y.openMax ≤ dd then
        ((c.bump (col d 0x410) 1).onCtx (24 * d + x) (fun y => { y with ahead := true })).raise (col d 0) 0x10
      else
        let k? := y.chunks.find? (·.c == h.aux)
        if (match k? with | some k => k.done | none => false) then c.duplicate d x a
        else
          let t := match k? with | some k => k.tmpl | none => b
          if !t.accepts (c.ctxJob d x) h then c.bump (col d 0x404) 1
          else match t.slotFor h.aux h.src with
            | none => c.bump (col d 0x408) 1
            | some s =>
              let child := s.2.1 && t.kind != 1
              if (match k? with | some k => k.already s.1 child a | none => false) then c.bump (col d 0x40C) 1
              else
                let c := if k?.isSome then c else
                  (c.onCtx (24 * d + x) (fun y => { y with chunks := y.chunks ++
                    [{ c := h.aux, done := false, bank := h.bank, tmpl := b, slots := [], openAt := c.now, late := false,
                       poisoned := false }] })).pmc (4 + d) 8 0x7001 (some (x % 16)) (some (x / 16))
                let c := c.takeSlot d x h.aux s.1 child a
                match (c.ctx (24 * d + x)).chunks.find? (·.c == h.aux) with
                | some k => if k.expect.all k.has then c.chunkComplete d x k else c
                | none => c

/-- The front packet for a press die: its context and the packet. -/
def Chip.pressFront (c : Chip) (d : Nat) : Option (Nat × Arr) :=
  (c.pressIn.find? (fun e => e.1 / 32 == d)).map (fun e => (e.1 % 32, e.2))

/-- The front packet for a press die is taken: its stitches leave the die's buffer, and their credits return (R69, R137). -/
def Chip.pressPop (c : Chip) (d : Nat) : Chip :=
  match c.pressFront d with
  | none => c
  | some (_, a) =>
    Chip.returnCredits { c with pressIn := c.pressIn.eraseP (fun e => e.1 / 32 == d) } (ppLink d) a.vc a.stitches

/-- A press die does the work of a context: its COL page works, and for a context that is ON its PRS page, which holds the chunks and
computes them (R553, R556). -/
def Chip.pressWorks (c : Chip) (d x : Nat) : Bool :=
  c.works (4 + d) 0x41 && ((c.ctx (24 * d + x)).st != 1 || c.works (4 + d) 0x40)

/-- CONTRIBUTION_TAKE (R351); while the die's pages do not work the packet waits (R553). DESIGN CHOICE; log entry 115. -/
def contributionTake (d : Nat) (c : Chip) : Chip :=
  match c.pressFront d with
  | some (x, a) => if a.hdr.op = 5 ∨ c.pressWorks d x = false then c else (c.pressPop d).contribution d x a
  | none => c

/-! ### Late chunks (R357) -/

/-- A NOTICE of KIND 2 for the late chunk with the lowest d. -/
def Chip.lateNotice (c : Chip) (d x : Nat) : Chip :=
  let y := c.ctx (24 * d + x)
  let far (k : Chunk) : Nat := (k.c + 2 ^ 24 - y.floor) % 2 ^ 24
  let late := y.chunks.filter (·.late)
  match late.find? (fun k => late.all (fun z => far k ≤ far z)) with
  | none => c
  | some k =>
    let t := k.tmpl
    let job := c.ctxJob d x
    let c := c.onCtx (24 * d + x) (fun y => { y with noticeAt := some c.now })
    match c.group d k.bank t.group job with
    | none => c
    | some g =>
      let dst := fld (word g 3) 15 0
      if dst = 0xFFFF ∨ c.twin.role = 4 then c else
      let miss := k.expect.filter (fun s => !k.has s)
      let st := t.gen + put (b2n k.bank) 2 + put t.role 3 + put (b2n y.ahead) 5
      ((c.notice 2 dst t.tc (leBytes 2 t.group ++ leBytes 2 job ++ leBytes 1 st ++ leBytes 1 (x + put d 5) ++
        leBytes 2 (min late.length 0xFFFF) ++ leBytes 4 k.c ++ leBytes 2 miss.length ++ leBytes 2 t.nslots ++
        leBytes 32 (ofBits miss)) false).bump (col d 0x414) 1).onCtx (24 * d + x) (fun y => { y with ahead := false })

/-- CHUNK_LATE: an OPEN chunk has stayed so for CONTRIB_TIMEOUT (R357). -/
def chunkLate (d x ch : Nat) (c : Chip) : Chip :=
  match (c.ctx (24 * d + x)).chunks.find? (·.c == ch) with
  | none => c
  | some k =>
    if k.done || k.late || !c.pressWorks d x then c else
    let c := c.till (k.openAt + k.tmpl.timeout)
    let first := !(c.ctx (24 * d + x)).chunks.any (·.late)
    let c := (c.onChunk d x ch (fun k => { k with late := true })).raise (col d 0) 2
    let c := c.pmc (4 + d) 8 0x7003 (some (x % 16)) (some (x / 16))
    if first then c.lateNotice d x else c

/-- LATE_NOTICE_REPEAT: 1 ms after the last NOTICE, while a chunk remains late (R357). -/
def lateRepeat (d x : Nat) (c : Chip) : Chip :=
  let y := c.ctx (24 * d + x)
  match y.noticeAt with
  | some t => if y.chunks.any (·.late) && c.pressWorks d x then (c.till (t + 1000000)).lateNotice d x else c
  | none => c

/-! ### Retention, resend and revoke (R358 to R361, R365) -/

/-- RETAIN_EXPIRE: a retained copy has stayed for RETAIN_TIME (R358). -/
def retainExpire (d x gen ch : Nat) (c : Chip) : Chip :=
  match (c.ctx (24 * d + x)).kept.find? (fun r => r.gen == gen && r.c == ch) with
  | none => c
  | some r =>
    if c.pressWorks d x = false then c else
    (c.till (r.at_ + r.tmpl.retainTime)).onCtx (24 * d + x) (fun y => { y with
      kept := y.kept.filter (fun z => !(z.gen == gen && z.c == ch)) })

/-- A resend of a retained copy stops with an error that its reading finds: a packet whose head has not left is not sent, one
whose head has left ends POISONED (R366). -/
def Chip.resendStop (c : Chip) (d : Nat) (r : Retained) : Chip :=
  (c.each (c.copies.filter (fun x => x.link == ppLink d && r.resends.contains x.pkt && !x.tailSent)) (fun c x =>
    if x.headSent then c.onCopy x.id (fun x => { x with code := max x.code 1 }) else c.dropCopy x.id .pushed)).restallOne (ppLink d)

/-- An uncorrectable error is found in a retained copy: what is being resent of it stops, REVOKE is sent and the copy freed
(R365, R366). -/
def Chip.revoke (c : Chip) (d x : Nat) (r : Retained) : Chip :=
  let t := r.tmpl
  let job := c.ctxJob d x
  let h : Hdr := { net := 1, tc := t.tc, op := 0x19, gen := r.gen, src := t.group, job := job, seq := r.c, aux := r.c }
  let members := if t.role = 3 then
      (t.mems.filter (fun e => e.1 < fld t.members 16 0)).map (fun e => fld e.2 15 0) else []
  let note := match c.group d r.bank t.group job with
    | some g => if fld (word g 3) 15 0 = 0xFFFF then [] else [fld (word g 3) 15 0]
    | none => []
  let c := c.resendStop d r
  let c := c.onCtx (24 * d + x) (fun y => { y with kept := y.kept.filter (fun z => !(z.gen == r.gen && z.c == r.c)) })
  let dests := if c.twin.role = 4 then [] else members ++ note
  let c := (c.each dests (fun c e => c.pressSend d (c.pressPkt { h with dest := e } [] 0))).bump (col d 0x424) dests.length
  if dests.isEmpty then c else c.raise (col d 0) 4

/-- RESEND_REQ_ROOT: a RESEND_REQ at a root, at a context that is not ON, or under a template that is not VALID (R359,
R368). `bad` tells that the read of the copy finds an uncorrectable error, before the resend's head has left (`some false`) or
after (`some true`): no resend then, or one that ends POISONED, and REVOKE (R365, R366). -/
def resendRoot (d : Nat) (bad : Option Bool) (c : Chip) : Chip :=
  match c.pressFront d with
  | none => c
  | some (x, a) =>
    if a.hdr.op ≠ 5 ∨ c.pressWorks d x = false then c else
    let y := c.ctx (24 * d + x)
    let t := c.tmpl d x a.hdr.bank
    if y.st ≠ 1 then (c.pressPop d).bump (col d 0x400) 1
    else if 2 ≤ a.code then c.pressPop d
    else if t.valid ∧ t.role ≠ 3 then c
    else if !t.valid then (c.pressPop d).bump (col d 0x41C) 1
    else
      let c := c.pressPop d
      match y.kept.find? (fun r => r.gen == a.hdr.gen && r.c == a.hdr.aux) with
      | none => c.bump (col d 0x41C) 1
      | some r =>
        let absorb := match r.resentAt with | some t => decide (c.now < t + 1000) | none => false
        if absorb then c
        else if bad = some false then (c.countUe (4 + d) 6 x).revoke d x r
        else
          let late := bad == some true
          let pkts := r.pkts.map (fun p => if late then { p with code := max p.code 1 } else p)
          let c := ((c.resendCopy d x { r with pkts := pkts }).bump (col d 0x418) 1).pmc (4 + d) 8 0x7004 (some (x % 16)) (some (x / 16))
          if late then (c.countUe (4 + d) 6 x).revoke d x r else c

/-- RESEND_REQ_RELAY: below the root a RESEND_REQ goes on to the parent, every field unchanged (R361). -/
def resendRelay (d : Nat) (c : Chip) : Chip :=
  match c.pressFront d with
  | none => c
  | some (x, a) =>
    let t := c.tmpl d x a.hdr.bank
    if a.hdr.op = 5 ∧ c.pressWorks d x = true ∧ (c.ctx (24 * d + x)).st = 1 ∧ a.code < 2 ∧ t.valid ∧ t.role ≠ 3 then
      (c.pressPop d).pressSend d { hdr := a.hdr, payload := [], sealW := sealOf a.hdr [], code := a.code }
    else c

/-! ### Context states, commands, flips (R363, R368 to R370) -/

/-- Chunk records and retained copies are cleared. -/
def Chip.ctxClearState (c : Chip) (d x : Nat) : Chip :=
  c.onCtx (24 * d + x) (fun y => { y with chunks := [], kept := [], noticeAt := none, ahead := false })

/-- A region of SRAM overlaps that of a context that is ON or STOPPING. -/
def Chip.regionTaken (c : Chip) (d x : Nat) : Bool :=
  let r (y : Nat) : Nat × Nat := (fld (c.reg (col d (0x380 + 4 * y))) 12 0, c.sramUnits d y)
  (List.range 24).any (fun y => y != x && ((c.ctx (24 * d + y)).st == 1 || (c.ctx (24 * d + y)).st == 2) &&
    !apart (r x).1 (r x).2 (r y).1 (r y).2)

/-- COL_CTX_CMD_STATUS takes a result. -/
def Chip.ctxResult (c : Chip) (d res : Nat) (bank : Bool) : Chip := c.setReg (col d 0x184) (res + put (b2n bank) 2)

/-- A context command (R370): 1 START, 2 STOP, 3 CHECK, 4 CLEAR. -/
def Chip.ctxCommand (c : Chip) (d x cmd : Nat) (bank : Bool) : Chip :=
  let y := c.ctx (24 * d + x)
  if cmd = 1 then
    if y.st ≠ 0 then c.ctxResult d 1 false
    else if !c.tmplOk d x false then c.ctxResult d 2 false
    else if !c.tmplOk d x true then c.ctxResult d 2 true
    else if c.sramUnits d x = 0 ∨ c.regionTaken d x then c.ctxResult d 3 false
    else
      ((c.ctxClearState d x).onCtx (24 * d + x) (fun y => { y with
        st := 1, floor := fld (c.reg (col d (0x300 + 4 * x))) 23 0, openMax := (c.curTmpl d x).openMax })).ctxResult d 0
        false
  else if cmd = 2 then
    if y.st ≠ 1 then c.ctxResult d 1 false
    else (c.onCtx (24 * d + x) (fun y => { y with st := 2, chunks := [], noticeAt := none })).ctxResult d 0 false
  else if cmd = 3 then c.ctxResult d (if c.tmplOk d x bank then 0 else 2) (bank && !c.tmplOk d x bank)
  else
    if y.st ≠ 3 then c.ctxResult d 1 false
    else ((c.ctxClearState d x).onCtx (24 * d + x) (fun y => { y with st := 0 })).ctxResult d 0 false

/-- CTX_STOP_DONE: everything of a STOPPING context is discarded (R369). -/
def ctxStopDone (d x : Nat) (c : Chip) : Chip :=
  if (c.ctx (24 * d + x)).st = 2 ∧ c.pressWorks d x = true then
    (c.ctxClearState d x).onCtx (24 * d + x) (fun y => { y with st := 0 })
  else c

/-- A flip of the job makes a template of another generation current: whatever the context's state, its chunk records go, retained
partials are freed, retained results stay, and FLOOR is COL_CTX_RESUME (R358, R363). -/
def Chip.ctxRenew (c : Chip) (d x : Nat) (new : Tmpl) : Chip :=
  c.onCtx (24 * d + x) (fun y => { y with
    chunks := [], noticeAt := none, floor := fld (c.reg (col d (0x300 + 4 * x))) 23 0, openMax := new.openMax,
    kept := y.kept.filter (fun r => r.tmpl.role == 3) })

/-- A flip of the job makes the template of the other bank current: one of another generation starts the context afresh, and one that
fails R348 fails a context that is ON or STOPPING (R363, R369). `b` is the bank it leaves. -/
def Chip.ctxFlip (c : Chip) (d x : Nat) (b : Bool) : Chip :=
  let new := c.tmpl d x (!b)
  let st := (c.ctx (24 * d + x)).st
  let c := if (c.tmpl d x b).gen = new.gen then c else c.ctxRenew d x new
  if (st = 1 ∨ st = 2) ∧ c.tmplOk d x (!b) = false then c.ctxFail d x else c

/-- The contexts of a job on a press die see a flip from bank `b`. -/
def Chip.ctxFlips (c : Chip) (d j : Nat) (b : Bool) : Chip :=
  c.each ((List.range 24).filter (fun x => c.ctxJob d x == j)) (fun c x => c.ctxFlip d x b)

end Sys2Proof.Machine
end

