-- ==== Sys2Proof/Machine/Forward.lean ====
section
/-! DEFINITION. Forwarding: the header checks, the lookup, storage and queueing of a packet, the arrival of heads and
tails, seam copies, what C0 injects, and the answers to probes (R52 to R55, R65, R147 to R152, R174 to R184, R195 to R224,
R237 to R245, R264 to R275, R284, R372 to R375, R412). -/
namespace Sys2Proof.Machine

/-! ### Header checks (R123, R174, R200, R372, R374) -/

/-- A sync packet breaks R372 or R374. -/
def syncBad (h : Hdr) : Bool :=
  h.mc || h.sw || h.gen != 0 || h.len != 40 ||
  (if h.op = 0x22 then h.dest != 0 || fld h.aux 15 0 != 0 || h.job != 0 else 4096 ≤ h.dest)

/-- FLAGS.MC and FLAGS.SW do not match the opcode of a packet of NET 0 or NET 1 (R200). -/
def flagsBad (h : Hdr) : Bool := h.net ≤ 1 && (h.mc != opGroup h.op || h.sw != (h.op == 6))

/-- The header is discarded as a protocol error under R123 and R174. -/
def Chip.headerBad (c : Chip) (p vc : Nat) (h : Hdr) : Bool :=
  8192 < h.len || opNet h.op != some h.net || (2 ≤ h.net && h.tc != 0) || h.rsv != 0 || (h.mc && h.sw) ||
  !opLen h.op h.len || h.hops == 15 || (h.net == 2 && syncBad h) || (c.isEdge p && !opByEndPoint h.op) ||
  (c.isEdge p && h.net ≤ 2 && h.src != fld (c.reg (lnkReg p 0x180)) 15 0) || h.vc != vc

/-- A QUARANTINE port carries the packet (R147). -/
def Chip.quarOk (c : Chip) (p : Nat) (h : Hdr) : Bool :=
  h.net == 3 || (h.op == 6 && h.sw && h.dest == c.switchId (p / 256))

/-! ### The lookup (R201) -/

/-- What the lookup of a packet answers: a discard with its PMC reason and the register that counts it, or the copies with
the partial-delivery record of a replicated packet. -/
inductive Looked where
  | drop (why reg : Nat)
  | plan (l : List (Nat × Goal × List Nat)) (mc : Option Mc)
deriving DecidableEq, Repr

/-- RTE_NO_ROUTE of a quadrant. -/
def noRoute (q : Nat) : Looked := .drop 2 (regAddr q 0x41 0x220)
/-- RTE_NO_PATH of a quadrant. -/
def noPath (q : Nat) : Looked := .drop 3 (regAddr q 0x41 0x224)
/-- MCG_GROUP_MISS of a quadrant. -/
def groupMiss (q : Nat) : Looked := .drop 4 (regAddr q 0x43 0x200)

/-- A copy towards a unit or port of quadrant `r`, whose own link is `last`, over a seam path (R213). -/
def Chip.toQuad (c : Chip) (q r h last : Nat) (g : Goal) : Option (Nat × Goal × List Nat) :=
  match c.seamPath q r h with
  | none => none
  | some [] => some (last, g, [])
  | some (a :: t) => some (seamLink q (seamTo q a), g, t)

/-- A target taken to a port and to a copy (R203, R204). -/
def Chip.planTarget (c : Chip) (q t h : Nat) (bank : Bool) : Looked :=
  if tgtKind t = 0 then noRoute q else
  match c.resolve q bank t h with
  | none => noPath q
  | some p => match c.toQuad q (p / 256) h p (.port p) with
    | none => noPath q
    | some x => .plan [x] none

/-- A contribution or RESEND_REQ towards its press die and the context its group's entry names (R216, R217). -/
def Chip.planPress (c : Chip) (q h : Nat) (g : List Word) : Looked :=
  let w := word g 1
  let d := fld w 9 8
  if !bit w 31 || !c.pressUp d then groupMiss q
  else match c.toQuad q d h (seamLink d 3) (.press d (fld w 4 0)) with
    | none => noPath q
    | some x => .plan [x] none

/-- Copies of a replicated packet for a quadrant's own ports (R219): the copies, and the ports that failed. -/
def Chip.portCopies (c : Chip) (ps : List Nat) : List (Nat × Goal × List Nat) × List Nat :=
  ((ps.filter c.active).map (fun p => (p, Goal.port p, [])), ps.filter (fun p => !c.active p))

/-- An AG_RESULT is replicated (R218, R219); `inPort` is the port it arrived on, none from the quadrant's press die, which must
be the group's home press die. Answers the plan and the mask ports of seam copies that no path can carry: those are failed and
count in MCG_COPY_DROP, as for a seam copy that is lost. DESIGN CHOICE; log entry 78. -/
def Chip.planReplicate (c : Chip) (q h : Nat) (inPort : Option Nat) (bank : Bool) (g : List Word) : Looked × List Nat :=
  let t := fld (word g 2) 11 0
  let okIn := match inPort with
    | some p => c.isParent q bank t p
    | none => tgtKind t == 0 && bit (word g 1) 31 && fld (word g 1) 9 8 == q
  if !okIn then (groupMiss q, []) else
  let ports (r : Nat) : List Nat := (groupPorts g r).filter (fun p => some p != inPort)
  let mine := c.portCopies (ports q)
  let others := (peers q).filter (fun r => !(ports r).isEmpty)
  let seams := others.filterMap (fun r => (c.toQuad q r h 0 (.repl r)))
  let lost := (others.filter (fun r => (c.seamPath q r h).isNone)).flatMap ports
  let failed := mine.2 ++ lost
  (.plan (mine.1 ++ seams)
    (some { failed := failed, aged := false, down := !failed.isEmpty, notify := fld (word g 3) 15 0 }), lost)

/-- The lookup of a packet from the step after translation, in quadrant `q` (R201, R206, R375). `fromPress` names a press
die that originates towards its parent (R341). -/
def Chip.lookup (c : Chip) (q : Nat) (inPort : Option Nat) (fromPress : Bool) (h : Hdr) : Looked × List Nat :=
  let k := pegHash (c.reg (regAddr q 0x41 0x204)) h
  if h.net = 2 then
    if h.op = 0x22 then (.plan [(localLink, .time, [])] none, [])
    else match c.toQuad q (h.dest / 1024) k localLink .sync with
      | none => (noPath q, [])
      | some x => (.plan [x] none, [])
  else if h.sw then
    if h.dest = c.switchId q then (.plan [(localLink, .ctl, [])] none, [])
    else (c.planTarget q (c.switchRoute q h.dest) k h.bank, [])
  else if h.mc then
    match c.group q h.bank h.dest h.job with
    | none => (groupMiss q, [])
    | some g =>
      if h.op = 0x14 then c.planReplicate q k inPort h.bank g
      else if fromPress then (c.planTarget q (fld (word g 2) 11 0) k h.bank, [])
      else (c.planPress q k g, [])
  else (c.planTarget q (c.route q h.bank h.dest) k h.bank, [])

/-! ### Storage (R237 to R241) -/

/-- The cells a packet takes when its head arrives: pool, handle, cells, CHAIN; none when it must wait (R237, R238). -/
def Chip.takeStore (c : Chip) (q len : Nat) : Option (Nat × Nat × Bool) × Chip :=
  if (c.buf q).mode then
    let f := fitOf len
    let r := c.takeUnit q f
    match r.1 with
    | some x => (some (f, x, false), r.2)
    | none =>
      if f = 0 then (none, r.2)
      else
        let s := r.2.takeUnit q 0
        match s.1 with
        | some x => (some (0, x, true), s.2)
        | none => (none, s.2)
  else
    let r := c.takeCell q false
    (r.1.map (fun x => (0, x, true)), r.2)

/-- Stitches find no storage: POOL0_WAIT is raised in pool mode (R237). -/
def Chip.pool0Wait (c : Chip) (q : Nat) : Chip := if (c.buf q).mode then c.raise (bufPage q) 0x80 else c

/-- The copies of a plan are queued (R264, R265); each multicast port copy is counted. -/
def Chip.queuePlan (c : Chip) (id sid q vc : Nat) (plan : List (Nat × Goal × List Nat)) (multi : Bool) : Chip :=
  plan.foldl (fun c x =>
    let c := c.addCopy id sid q x.1 vc x.2.1 x.2.2
    if multi && x.1 < 1024 then c.pmc q 16 0x2004 none none else c) c

/-- Held packet cells of a quadrant. -/
def Chip.heldCount (c : Chip) (q : Nat) : Nat := packetCells - c.freeCount q

/-- A packet that is replicated under R219; every other one has one copy (R241, R271). -/
def Hdr.multi (h : Hdr) : Bool := h.op == 0x14

/-- The entries that push-out may evict from a queue, newest first (R274). -/
def Chip.evictable (c : Chip) (link vc : Nat) : List Copy :=
  ((c.queue link vc).filter (fun x => !x.headSent && !x.zeros &&
    (match c.pkt? x.pkt with | some p => !p.hdr.multi | none => false) &&
    (match c.store? x.sid with | some s => s.tailIn | none => false))).reverse

/-- Entries are evicted in order until `need` cells have been freed or four entries are gone (R273, R275). -/
def Chip.evict : Nat → Chip → Nat → Nat → List Copy → Chip
  | 0, c, _, _, _ => c
  | _, c, _, _, [] => c
  | n + 1, c, q, need, x :: t =>
    if need = 0 then c else
    let cells := match c.store? x.sid with | some s => s.cells.length | none => 0
    let c := ((c.dropCopy x.id .pushed).bump (quePage q + 0x214) 1).pmc q 16 0x2003 none none
    Chip.evict n c q (need - cells) t

/-- Push-out (R273, R274). -/
def Chip.pushOut (c : Chip) (q : Nat) (h : Hdr) : Chip :=
  if c.regBit (quePage q + 0x100) 2 && h.tc < 3 && h.net ≤ 1 && fld (c.reg (quePage q + 0x120)) 19 0 ≤ c.heldCount q then
    let qs := ((c.copies.filter (fun x => x.link / 256 == q && x.link < 1024 && (x.vc == 3 || x.vc == 7) &&
      !x.tailSent)).map (fun x => (x.link, x.vc))).eraseDups
    let order := qs.mergeSort (fun a b =>
      let da := c.depth a.1 a.2
      let db := c.depth b.1 b.2
      decide (db < da) || (da == db && (decide (a.1 < b.1) || (a.1 == b.1 && decide (a.2 ≤ b.2)))))
    Chip.evict 4 c q (unitCells (fitOf h.len)) (order.flatMap (fun a => c.evictable a.1 a.2))
  else c

/-- What enqueueing a head on its queues brings about: the port queues' push-out and the edge window's count (R273,
R284). -/
def Chip.enqueued (c : Chip) (q : Nat) (h : Hdr) (plan : List (Nat × Goal × List Nat)) (inPort : Option Nat) : Chip :=
  let c := if plan.any (fun x => x.1 < 1024) then c.pushOut q h else c
  match inPort with
  | some p => if c.isEdge p && h.op ≤ 2 then c.winAdd p h.tc else c
  | none => c

/-- A store takes its buffer: pool, first cell and CHAIN as the take gave them; a packet that pool 0 takes in for a larger fit
is a spill (R237, R241). -/
def Chip.placeStore (c : Chip) (s : Store) (len : Nat) (t : Nat × Nat × Bool) : Chip :=
  let q := s.q
  let pooled := (c.buf q).mode
  let c := if t.2.2 && pooled && fitOf len != 0 then
      ((c.bump (bufPage q + 0x1C8) 1).pmc q 17 0x3002 none none).onBuf q (fun b => { b with spillUp := b.spillUp || c.policy 2 })
    else c
  let cells := if t.2.2 then [t.2.1] else (List.range (unitCells t.1)).map (· + t.2.1)
  let c := if t.2.2 then c.chainCell q (len + 24) [] t.2.1 else c
  c.onStore s.sid (fun s => { s with
    wait := false, handle := handleOf t.1 t.2.1, chain := t.2.2, pooled := pooled, cells := cells
    need := if t.2.2 then chainCells len else cells.length })

/-- A packet is queued, and stored or set to wait for storage in the ingress island; `hold` adds the reference of a copy that
its lookup will make (R237, R241, R265, R412). `got` of its bytes are there already, in stitches `owed`. Answers the name of
the store. -/
def Chip.storePkt (c : Chip) (id q rx vc : Nat) (h : Hdr) (plan : List (Nat × Goal × List Nat)) (inPort : Option Nat)
    (got : Nat) (owed : List Nat) (hold : Bool) : Nat × Chip :=
  let i := c.newId
  let s : Store := { sid := i.1, q := q, pkt := id, wait := true, ref := 1 + plan.length + b2n hold, rx := rx, vc := vc,
                     got := got, owed := owed }
  let r := i.2.takeStore q h.len
  let c := match r.1 with
    | none => { (r.2.pool0Wait q) with stores := (r.2.pool0Wait q).stores ++ [s] }
    | some t => Chip.placeStore { r.2 with stores := r.2.stores ++ [s] } s h.len t
  (i.1, (c.queuePlan id i.1 q vc plan h.multi).enqueued q h plan inPort)

/-! ### Arrival of a head -/

/-- A receive virtual channel begins a packet. -/
def Chip.beginRx (c : Chip) (p vc : Nat) (pkt : Option Nat) (id len : Nat) : Chip :=
  c.setRx p vc { c.rxOf p vc with cur := some { pkt := pkt, seen := id, need := len + 24, got := [] } }

/-- A record for the lint taps of what passes at a port: at ingress its TIME is the arrival stamp (R467, R470). -/
def lintRec (id p disp time : Nat) (copy : Option Nat) (h : Hdr) : LintRec :=
  { pkt := id, copy := copy, port := p, time := time, hdr := h, disp := disp, skipped := 0 }

/-- When the stitch at the front of a virtual channel came: the arrival stamp of the packet that it begins (R276). -/
def Chip.rxAt (c : Chip) (p vc : Nat) : Nat :=
  match (c.rxOf p vc).queue with
  | b :: _ => b.1
  | [] => c.time.ft

/-- A head is discarded whole: the stitches that its LEN gives are dropped as they arrive (R175). `why` 8 has no performance
event. -/
def Chip.headDrop (c : Chip) (p vc id why disp : Nat) (h : Hdr) : Chip :=
  let c := c.beginRx p vc none id h.len
  let c := if why < 8 then c.pmcDiscard p why else c
  c.lintSee p false (lintRec id p disp (c.rxAt p vc) none h)

/-- The job is held in a port's island (R412). -/
def Chip.holds (c : Chip) (j isl : Nat) : Bool := c.rinses.any (·.job == j) && !(c.job j).moved.contains isl

/-- The packet a rinse holds, or that waits behind one (R412). -/
def Chip.mustHold (c : Chip) (p vc : Nat) (h : Hdr) : Bool :=
  c.held.any (fun x => x.port == p && x.vc == vc) ||
  (c.isEdge p && h.net == 0 && h.op != 6 && c.holds h.job (portIsland p))

/-- A packet's bank is selected in its ingress island (R65, R201). -/
def Chip.selectBank (c : Chip) (isl : Nat) (h : Hdr) : Hdr := { h with bank := (c.job h.job).bankIn isl }

/-- The check of the TC3 limit of the port queue of an entry that is no multicast copy (R271). -/
def Chip.tc3Full (c : Chip) (q vc : Nat) (h : Hdr) (plan : List (Nat × Goal × List Nat)) : Bool :=
  !h.multi && h.tc == 3 && (vc == 3 || vc == 7) &&
  plan.any (fun x => x.1 < 1024 && fld (c.reg (quePage q + 0x124)) 19 0 ≤ c.depth x.1 vc)

/-- A packet of a port is looked up: its bank selected, its flags checked, translated, resolved, and either discarded or given its
copies (R197, R200, R201, R338). The discard answers (reason, lint disposition). -/
def Chip.resolveHead (c : Chip) (p vc : Nat) (h : Hdr) : (Nat × Nat ⊕ (Hdr × List (Nat × Goal × List Nat) × Option Mc)) × Chip :=
  let q := p / 256
  let h := c.selectBank (portIsland p) h
  if flagsBad h || !c.chunkLenOk q h then (.inl (0, 1), c) else
  let edge := c.isEdge p && !h.mc && !h.sw && h.net ≤ 1
  let tr := if edge then c.translate q h.bank h.job h.dest else some h.dest
  match tr with
  | none => (.inl (1, 2), c.bump (regAddr q 0x40 0x220) 1)
  | some dst =>
    let h := { h with dest := dst }
    let l := c.lookup q (some p) false h
    let c := c.lostPorts q l.2
    match l.1 with
    | .drop why reg => (.inl (why, 2), c.bump reg 1)
    | .plan pl mc =>
      if c.tc3Full q vc h pl then (.inl (8, 3), c.bump (quePage q + 0x218) 1)
      else (.inr (h, pl, mc), c)

/-- A request of a job joins D(j): its rinse notes that the count rose (R413, R418). -/
def Chip.noteRise (c : Chip) (h : Hdr) : Chip :=
  if h.net == 0 && h.op != 6 then
    { c with rinses := c.rinses.map (fun (r : Rinse) => if r.job = h.job then { r with rose := true } else r) }
  else c

/-- A packet that a port takes in, with the stamp of its first stitch (R276). -/
def Chip.portPkt (c : Chip) (p vc id : Nat) (h : Hdr) (oldDest : Nat) (counted : Bool) (mc : Option Mc) : Chip :=
  { c with pkts := c.pkts ++ [{ id := id, hdr := h, oldDest := oldDest, origin := .port p, entry := p / 256, vc := vc,
                                stamp := c.rxAt p vc, rate := c.width p, counted := counted, mc := mc }] }

/-- A packet of a port once its lookup is due: its bank has been selected, and it is discarded, or stored and queued (R201,
R237, R405). -/
def Chip.lookHead (c : Chip) (p vc id : Nat) (h0 : Hdr) : Chip :=
  let q := p / 256
  let r := c.resolveHead p vc h0
  match r.1 with
  | .inl (why, disp) => (r.2.headDrop p vc id why disp h0).noteRise h0
  | .inr (h, pl, mc) =>
    let c := (r.2.portPkt p vc id h h0.dest (decide (h.net ≤ 1)) mc).beginRx p vc (some id) id h.len
    let c := (c.storePkt id q p vc h pl (some p) 0 [] false).2
    ((c.lintSee p false (lintRec id p 0 (c.rxAt p vc) none h)).mcCheck id).noteRise h

/-- The link-local packets (R147, R170, R171, R422): a twin packet goes to the twin unit, a probe or tack packet to its own
answer. -/
def Chip.localHead (c : Chip) (p vc id : Nat) (h : Hdr) : Chip :=
  let g : Goal := if h.op ≤ 0x32 then .twin else .probe
  let h := c.selectBank (portIsland p) h
  let c := (c.portPkt p vc id h h.dest false none).beginRx p vc (some id) id h.len
  let c := (c.storePkt id (p / 256) p vc h [(localLink, g, [])] none 0 [] false).2
  c.lintSee p false (lintRec id p 0 (c.rxAt p vc) none h)

/-- The TC3 gate of a quadrant is open (R272); `gate` follows QUE_CTL and TC3_HOLD within 1 µs. -/
def Chip.gateOpen (c : Chip) (q : Nat) : Bool := c.gate.getD q true

/-- A held packet is stored without a lookup, with REF 2 (R412). -/
def Chip.holdHead (c : Chip) (p vc id : Nat) (h : Hdr) : Chip :=
  let c := (c.portPkt p vc id h h.dest false none).beginRx p vc (some id) id h.len
  let c := { c with held := c.held ++ [({ port := p, vc := vc, pkt := id, island := portIsland p } : Held)] }
  let c := (c.storePkt id (p / 256) p vc h [] none 0 [] true).2
  c.lintSee p false (lintRec id p 4 (c.rxAt p vc) none h)

/-- What a port does with a head (R147, R174, R201, R272, R412). The TC3 gate of the quadrant is tested before the chunk length
that the lookup checks. DESIGN CHOICE; log entry 79. -/
def Chip.judgeHead (c : Chip) (p vc id : Nat) (h0 : Hdr) : Chip :=
  if (c.port p).st = .quarantine ∧ !c.quarOk p h0 then
    (c.bump (lnkReg p 0x5C0) 1).headDrop p vc id 5 1 h0
  else if c.headerBad p vc h0 then c.headDrop p vc id 0 1 h0
  else
    let h := { h0 with hops := h0.hops + 1 }
    let c := c.pmc (p / 256) (p % 256 / 16) 0x1003 (some (p % 16)) none
    if h.net = 3 then c.localHead p vc id h
    else if c.isEdge p ∧ h.tc = 3 ∧ !c.gateOpen (p / 256) then
      (c.bump (quePage (p / 256) + 0x21C) 1).headDrop p vc id 6 3 h
    else if c.mustHold p vc h then c.holdHead p vc id h
    else c.lookHead p vc id h

/-- The header at the front of a virtual channel's stitches, when no packet is under way on it: the 16 bytes that begin a
packet (R119, R157). -/
def Chip.rxHead (c : Chip) (p vc : Nat) : Option Hdr :=
  match (c.rxOf p vc).cur, (c.rxOf p vc).queue with
  | none, b :: _ => some (Hdr.ofBits (BitVec.ofNat 128 (ofLe (b.2.take 16))))
  | _, _ => none

/-- PACKET_HEAD_ARRIVE: the head at the front of a virtual channel is taken in, with the stitches of its packet that have
arrived; the packet's stamp is the time at which its first stitch came (R119, R201, R276, R394). -/
def headArrive (p vc : Nat) (c : Chip) : Chip :=
  let st := (c.port p).st
  match c.rxHead p vc with
  | none => c
  | some h =>
    if st ≠ .active ∧ st ≠ .quarantine then c
    else
      let i := c.newId
      Chip.absorbQueue (c.rxOf p vc).queue.length (i.2.judgeHead p vc i.1 h) p vc

/-! ### Delivery inside the part -/

/-- A local copy's packet, whole and with its seal good, is handed to its unit (R170, R171, R388, R425); one that is not GOOD
is discarded: a MEND_PROBE or TACK_REQ among them goes unanswered (DESIGN CHOICE; log entry 100). -/
def Chip.handOver (c : Chip) (x : Copy) (sealOk : Bool) : Chip :=
  match c.pkt? x.pkt with
  | none => c
  | some p =>
    let a : Arr := { hdr := p.hdr, payload := p.payload, port := (match p.origin with | .port k => k | _ => 1024),
                     code := c.codeOf x p, sealOk := sealOk, vc := p.vc, stamp := p.stamp }
    let good := sealOk && a.code == 0
    match x.goal with
    | .sync => if good then { c with syncIn := c.syncIn ++ [(x.q, a)] } else c
    | .time => if good then { c with timeIn := c.timeIn ++ [(24, a)] } else c
    | .twin => if good then { c with twinIn := c.twinIn ++ [(a.port, a)] } else c
    | .ctl => if good then { c with c0In := c.c0In ++ [(a.port, a)] } else c
    | .probe => if good then { c with probeIn := c.probeIn ++ [(a.port, a)] } else c
    | _ => c

/-- The local copies of a store whose tail is stored are read and handed over, and their references end; what cannot be read whole
is not GOOD (R251). -/
def Chip.deliver (c : Chip) (sid : Nat) (sealOk : Bool) : Chip :=
  let xs := c.copies.filter (fun x => x.sid == sid && x.link == localLink)
  xs.foldl (fun c x =>
    let r := c.readWhole sid (c.sizeOf x.pkt)
    (((r.2.handOver x (sealOk && r.1)).removeCopy x.id).lowerRef sid).gcPkt x.pkt) c

/-! ### Arrival of a tail (R149, R177, R184, R242) -/

/-- A store takes one more cell of its chain, if there is one: in the mode its chain was begun in (R237 to R239, R260). -/
def Chip.growChain (c : Chip) (s : Store) : Bool × Chip :=
  let r := c.takeCell s.q s.pooled
  match r.1 with
  | none => (false, r.2.pool0Wait s.q)
  | some x => (true, (r.2.chainCell s.q (c.sizeOf s.pkt) s.cells x).onStore s.sid (fun s => { s with cells := s.cells ++ [x] }))

/-- The last cells of a chain are taken as its bytes arrive, while cells are FREE; otherwise the chain waits (R237 to
R239). The first argument bounds the cells. -/
def Chip.takeRest : Nat → Chip → Nat → Chip
  | 0, c, _ => c
  | n + 1, c, sid =>
    match c.store? sid with
    | none => c
    | some s =>
      if s.cells.length < s.need then
        let r := c.growChain s
        if r.1 then Chip.takeRest n r.2 sid else r.2.onStore sid (fun s => { s with tailWait := true })
      else c.onStore sid (fun s => { s with tailWait := false })

/-- The tail of a packet has arrived in a quadrant. Once all of it is stored, and at once when nothing will read it, the
writer's reference ends (R242, R280) and local copies are handed over. -/
def Chip.tailStored (c : Chip) (sid : Nat) (sealOk : Bool) : Chip :=
  match c.store? sid with
  | none => c
  | some s =>
    let c := if c.unread s then c.onStore sid (fun s => { s with tailWait := false })
      else if s.wait then c.onStore sid (fun s => { s with tailWait := true })
      else Chip.takeRest 40 c sid
    match c.store? sid with
    | none => c
    | some s =>
      if s.tailWait then c
      else
        let c := (c.onStore sid (fun s => { s with tailIn := true })).deliver sid sealOk
        ((c.lowerRef sid).creditCheck sid).gcPkt s.pkt

/-- The seal of a packet has failed: every copy whose head has not left is discarded, and with it what fed nothing else, so that its
partial delivery is reported (R149, R221, R223); with no head out the packet is discarded whole, held or waiting as it may be;
otherwise the copies whose head has left close STOMPED. Answers whether the packet goes on. A seam copy that is discarded so counts as one
that cannot reach its quadrant. DESIGN CHOICE; log entry 112. -/
def Chip.sealFailed (c : Chip) (id : Nat) : Bool × Chip :=
  let mine := c.copies.filter (fun x => x.pkt == id)
  let early := mine.filter (fun x => x.link < 1024 && !x.headSent)
  let unborn := mine.filter (fun x => x.overSeam && !x.arrived)
  let c' := c.dropCopies (early ++ unborn) .seal_
  let dead := mine.filter (fun x => match x.into with
    | some t => (Chip.leaves 4 c' t).isEmpty
    | none => false)
  let c' := dead.foldl (fun c x => match x.into with
    | some t => ((Chip.dropBranch 4 c t).onCopy x.id (fun x => { x with goal := .probe })).dropCopy x.id .seal_
    | none => c) c'
  if c.hasLeft id then (true, c') else (false, c'.discardPkt id)

/-- A packet whose header the part has changed under the seal gets a new one, if the seal it came with is good (R178, R184,
R198). -/
def resealed (k : Pkt) (sealOk : Bool) (sw : Word) : Word :=
  if sealOk && k.hdr.dest != k.oldDest then sealOf k.hdr k.payload else sw

/-- What the tail of a kept packet brings: the seal check, which counts a failure whether or not the head has left, and the packet
discarded, stomped, or whole; the lint taps see its bytes as they were received (R149, R177, R184, R282, R470). -/
def Chip.tailKept (c : Chip) (p : Nat) (k : Pkt) (raw : List Byte) (trailer : Nat) : Chip :=
  let tb := fld trailer 39 32
  let sw : Word := BitVec.ofNat 32 trailer
  let code := tailCode tb
  let came : Hdr := { k.hdr with dest := k.oldDest }
  let sealOk := sealOf came k.payload == sw
  let c := if tailKnown tb then c else c.pmcDiscard p 0
  let c := c.lintTail k.id none raw tb
    (if 2 ≤ code then 0 else if sealOk then 1 else 2)
  let bad := code ≤ 1 && !sealOk
  let sf := if bad then (c.onPort p (fun x => { x with sealDrop := x.sealDrop + 1 })).sealFailed k.id else (true, c)
  if !sf.1 then sf.2
  else
    let c := sf.2.onPkt k.id (fun k => { k with
      tailIn := true, sealW := resealed k sealOk sw, code := if bad then 2 else code })
    match c.entryStore? k.id with
    | none => c.gcPkt k.id
    | some s => c.tailStored s.sid (sealOk && !bad)

/-- PACKET_TAIL_ARRIVE: every byte of the packet under way on a virtual channel has come, its trailer last (R149, R177,
R184). -/
def tailArrive (p vc : Nat) (c : Chip) : Chip :=
  let x := c.rxOf p vc
  match x.cur with
  | none => c
  | some r =>
    if r.open_ then c
    else
      let trailer := leAt r.got (r.need - 8) 8
      let c := c.setRx p vc { x with cur := none }
      match r.pkt.bind c.pkt? with
      | none => c.lintTail r.seen none r.got (fld trailer 39 32) 0
      | some k => c.tailKept p k r.got trailer

/-! ### Waiting for storage (R237 to R239) -/

/-- The tail that waited for storage is stored. -/
def Chip.tailResume (c : Chip) (s : Store) : Chip :=
  c.tailStored s.sid (match c.pkt? s.pkt with | some k => k.code != 2 | none => false)

/-- POOL0_WAIT_RESUME: the packet that has waited longest for storage is stored, in the mode in force now (DESIGN CHOICE; log entry
102), or the oldest chain whose tail waits goes on. What nothing will read needs no storage (R280). -/
def pool0Resume (q : Nat) (c : Chip) : Chip :=
  match c.stores.find? (fun s => s.q == q && s.wait && !c.unread s) with
  | some s =>
    let len := c.sizeOf s.pkt - 24
    let r := c.takeStore q len
    match r.1 with
    | none => c
    | some t =>
      let c := r.2.placeStore s len t
      if s.tailWait then c.tailResume s else c
  | none =>
    match c.stores.find? (fun s => s.q == q && s.tailWait) with
    | some s => c.tailResume s
    | none => c

/-- CHAIN_CELL_TAKE: the next cell of the oldest chain whose bytes have outgrown its cells is taken (R238). -/
def chainCellTake (q : Nat) (c : Chip) : Chip :=
  match c.stores.find? (fun s => s.q == q && s.chain && !s.wait && !s.tailIn && !c.unread s &&
      decide (s.cells.length < s.need) && decide (248 * s.cells.length < s.got)) with
  | none => c
  | some s => (c.growChain s).2

/-! ### Over the seams (R53, R55, R206, R212, R217, R219) -/

/-- The oldest copy on a seam whose head has been accepted at the far end and has yet to be taken in there. -/
def Chip.seamFront (c : Chip) (l vc : Nat) : Option Copy :=
  c.copies.find? (fun x => x.link == l && x.vc == vc && decide (0 < x.got) && !x.arrived)

/-- A packet is whole at a press die: it joins the die's contributions under the context its lookup resolved, and its stitches
hold their credits until it is taken (R69, R137, R217, R330, R351). -/
def Chip.pressTake (c : Chip) (d : Nat) (x : Copy) : Chip :=
  match c.pkt? x.pkt with
  | none => c.returnCredits (ppLink d) x.vc x.owed.length
  | some p =>
    let ctx := match x.goal with | .press _ k => k | _ => 0
    let a : Arr := { hdr := p.hdr, payload := p.payload, port := (match p.origin with | .port k => k | _ => 1024),
                     code := c.codeOf x p, sealOk := true, vc := x.vc, stamp := p.stamp, stitches := x.owed.length }
    { (c.onCopy x.id (fun x => { x with owed := [] })) with pressIn := c.pressIn ++ [(32 * d + ctx, a)] }

/-- What the far quadrant of a seam does with an arriving head: the copies it makes, or none when it discards the packet
there (R55, R212, R217, R219). A packet that reaches its detour quadrant after the onward seam has entered FAULT is discarded;
it counts nowhere but for a seam copy, which is lost (R221). DESIGN CHOICE; log entry 80. -/
def Chip.onward (c : Chip) (r : Nat) (x : Copy) (p : Pkt) : List (Nat × Goal × List Nat) × Chip :=
  match x.path with
  | a :: t =>
    if !c.seamFaulted (quadSeam r a) then ([(seamLink r (seamTo r a), x.goal, t)], c)
    else ([], match x.goal with
      | .repl _ => c.dropCount x .down
      | _ => c)
  | [] =>
    match x.goal with
    | .port k => if c.active k then ([(k, .port k, [])], c) else ([], c)
    | .press d k => if c.pressUp d then ([(seamLink d 3, .press d k, [])], c) else ([], c.bump (regAddr r 0x43 0x200) 1)
    | .sync => ([(localLink, .sync, [])], c)
    | .repl _ =>
      match c.group r p.hdr.bank p.hdr.dest p.hdr.job with
      | none => (([] : List (Nat × Goal × List Nat)), (c.bump (regAddr r 0x43 0x200) 1).dropCount x .down)
      | some g =>
        let ps := (groupPorts g r).filter (fun k => p.origin != .port k)
        let pc := c.portCopies ps
        (pc.1, c.mcFail p.id pc.2 false (!pc.2.isEmpty))
    | g => ([(localLink, g, [])], c)

/-- A copy that has both arrived and been acknowledged is over. -/
def Chip.seamOver (c : Chip) (id : Nat) : Chip :=
  match c.copy? id with
  | some x => if x.ended && x.arrived then (c.removeCopy id).gcPkt x.pkt else c
  | none => c

/-- A packet that is discarded where it arrives over a seam: the credits of what has come return, those of the rest as it
comes (R137). -/
def Chip.seamDiscard (c : Chip) (l vc : Nat) (x : Copy) : Chip :=
  ((c.onCopy x.id (fun x => { x with arrived := true, goal := .probe, owed := [] })).returnCredits l vc x.owed.length).mcCheck
    x.pkt

/-- A copy's head is taken in over a seam: it is queued in quadrant `r` and what has come of it is stored there, zeros where it came as
zeros; the copies it feeds count as lost with it (R150, R221, R265, R279). -/
def Chip.seamKeep (c : Chip) (l vc r : Nat) (x : Copy) (h : Hdr) (plan : List (Nat × Goal × List Nat)) : Chip :=
  let s := c.storePkt x.pkt r l vc h plan none x.got x.owed false
  let c := s.2.onStore s.1 (fun s => { s with cut := x.cut, code := x.code })
  let c := c.onCopy x.id (fun x => { x with arrived := true, into := some s.1, owed := [] })
  (if x.counted then c.each (c.copies.filter (fun y => y.sid == s.1)) (Chip.markFed 4) else c).mcCheck x.pkt

/-- A copy arrives at quadrant `r` over a seam and is stored and queued there, or discarded (R265, R271). -/
def Chip.seamStore (c : Chip) (l vc r : Nat) (x : Copy) (p : Pkt) : Chip :=
  let o := c.onward r x p
  if o.1.isEmpty then o.2.seamDiscard l vc x
  else if o.2.tc3Full r vc p.hdr o.1 then (o.2.bump (quePage r + 0x218) 1).seamDiscard l vc x
  else o.2.seamKeep l vc r x p.hdr o.1

/-- A packet of a press die enters its home quadrant: its bank is selected and it is resolved there (R206, R341). It is
stamped there. DESIGN CHOICE; log entry 114. -/
def Chip.pressHead (c : Chip) (l vc q : Nat) (x : Copy) (p : Pkt) : Chip :=
  let h := c.selectBank (64 + q) p.hdr
  let lk := c.lookup q none true h
  let c := (c.lostPorts q lk.2).noteRise h
  match lk.1 with
  | .drop _ reg => (c.bump reg 1).seamDiscard l vc x
  | .plan pl mc =>
    if c.tc3Full q vc h pl then (c.bump (quePage q + 0x218) 1).seamDiscard l vc x
    else
      (c.onPkt p.id (fun p => { p with hdr := h, entry := q, stamp := c.time.ft, counted := h.net ≤ 1, mc := mc })).seamKeep
        l vc q x h pl

/-- The last stitch of a copy has come over a seam and its head has been taken in: at a press die the packet is whole; in a
quadrant its tail is stored, with the code and the zeros it came with (R152, R242, R351). -/
def Chip.seamTail (c : Chip) (rx id : Nat) : Chip :=
  match c.copy? id with
  | none => c
  | some x =>
    let c := if 1040 ≤ rx then c.pressTake (rx - 1040) x
      else match x.into, c.pkt? x.pkt with
        | some t, some p =>
          (c.onStore t (fun s => { s with cut := minCut s.cut (c.cutOf x), code := max s.code (c.codeOf x p) })).tailStored t true
        | _, _ => c
    c.seamOver id

/-- The queues of an output work: the QUE page of its quadrant is not in FAULT (R553, R564). With that page OFF no port and no seam of
the quadrant carries packets. -/
def Chip.queWorks (c : Chip) (l : Nat) : Bool := decide (1040 ≤ l) || (c.page (pageKey (linkQuad l) 0x45)).st != 4

/-- SEAM_COPY_ARRIVE: the head of a copy, accepted at the far end of a seam, is taken in (R53, R55, R265). `rx` is the receiving
end. While the queues of its quadrant do not work the copy waits there (R553). DESIGN CHOICE; log entry 115. -/
def seamArrive (rx vc : Nat) (c : Chip) : Chip :=
  if rx < 1024 ∨ c.queWorks rx = false then c else
  let l := farEnd rx
  match c.seamFront l vc with
  | none => c
  | some x =>
    let c' := match c.pkt? x.pkt with
      | none => c.seamDiscard rx vc x
      | some p =>
        if 1040 ≤ rx then c.onCopy x.id (fun x => { x with arrived := true })
        else if 1040 ≤ l then c.pressHead rx vc ((rx - 1024) / 4) x p
        else c.seamStore rx vc ((rx - 1024) / 4) x p
    if c.sizeOf x.pkt ≤ x.got then c'.seamTail rx x.id else c'.seamOver x.id

/-! ### Frames received (R118, R126 to R128, R137) -/

/-- A stitch of a copy comes over a seam: the copy's bytes grow at the far end, in the store that takes it in or waiting for
its head to be taken in, zeros from where it is cut; of a copy that is gone or was discarded its credit returns (R119, R126, R137,
R150, R279). Stitches that were lost when a seam trained again without a FAULT are not missed: the copy goes on whole. DESIGN CHOICE;
log entry 98. -/
def Chip.seamTake (c : Chip) (rx : Nat) (st : Stitch) : Chip :=
  match c.copy? st.copy with
  | none => c.returnCredits rx st.vc 1
  | some x =>
    let cut := c.cutOf x
    let code := match c.pkt? x.pkt with | some p => c.codeOf x p | none => x.code
    let c := c.onCopy x.id (fun x => { x with got := st.upto, cut := cut, code := if st.last then code else x.code })
    let c :=
      if !x.arrived || 1040 ≤ rx then c.onCopy x.id (fun x => { x with owed := x.owed ++ [st.upto] })
      else match x.into.bind c.store? with
        | none => c.returnCredits rx st.vc 1
        | some s => (c.onStore s.sid (fun s => { s with
            got := st.upto, owed := s.owed ++ [st.upto], cut := minCut s.cut cut })).creditCheck s.sid
    if st.last && x.arrived then c.seamTail rx x.id else c

/-- The content of an accepted DATA frame goes to its quadrant: at a port its stitches, at a seam end those that the far end
put into the frame of this number (DESIGN CHOICE; log entry 81). With a reserved code it is discarded, and its credits
return (R118, R126, R137). -/
def Chip.takeContent (c : Chip) (l : Nat) (f : Frame) : Chip :=
  let slots := (List.range 8).filter (fun i => frameStitch f i < 10)
  if l < 1024 then
    if frameBadStitch f then (c.badStitch l).each slots (fun c i => c.returnCredits l (frameStitch f i) 1)
    else
      (c.pmcN slots.length (l / 256) (l % 256 / 16) 0x1001 (some (l % 16)) none).each slots
        (fun c i => c.takeStitch l (frameStitch f i) (frameSlot f i))
  else
    let st := match (c.link (farEnd l)).replay.find? (fun r => r.fseq == frameFseq f) with
      | some r => r.stitches
      | none => []
    if frameBadStitch f then (c.badStitch l).each st (fun c s => c.returnCredits l s.vc 1)
    else
      let c := c.add64 (semPage l + 0x118) st.length
      let c := if l < 1040 then c.each st (fun c s => c.pmc ((l - 1024) / 4) (19 + (l - 1024) % 4) 0x4002 (some s.vc) none) else c
      c.each st (fun c s => c.seamTake l s)

/-- A frame with a good CRC: its control fields, whatever its kind; then a DATA frame in order is accepted, a duplicate is
discarded, and one ahead calls for a replay (R118, R126 to R128). A port in INIT, whose expected number is yet to be set,
accepts none (R140; log entry 82). -/
def Chip.goodFrame (c : Chip) (l : Nat) (f : Frame) : Chip :=
  let init := decide (l < 1024) && (c.port l).st == .init
  let c := c.takeControl l f
  let bad (c : Chip) : Chip := if frameBadStitch f then c.badStitch l else c
  if frameKind f ≠ 0 ∨ init then bad c
  else
    let exp := (c.link l).rxExp
    let d := (exp + 4096 - frameFseq f) % 4096
    if d = 0 then
      (c.onLink l (fun x => { x with rxExp := (exp + 1) % 4096, recov := false, ackDue := true })).takeContent l f
    else if d ≤ 2048 then bad c
    else (bad c).needNak l

/-- LINK_FRAME_RECEIVE: a frame arrives at a port or a seam end (R79, R101, R117, R126 to R128). A port that carries no frames but is
under a far-end loopback returns it, and counts what its FEC found. -/
def frameReceive (l : Nat) (f : Frame) (corr uncorr : List Nat) (c : Chip) : Chip :=
  if !c.carries l then
    if l < 1024 ∧ c.loopback l = 3 then (c.takeFec l corr uncorr).loopBack l f else c
  else
    let c := (if l < 1024 then c.takeFec l corr uncorr else c).loopBack l f
    let good := frameCrcOk f && (decide (1024 ≤ l) || uncorr.all (· == 0))
    if !good then c.badFrame l
    else if l < 1024 ∧ frameKind f = 2 then c.takeInit l f
    else c.goodFrame l f

/-! ### What C0 injects (R65, R206) -/

/-- The quadrant C0 injects into. -/
def Chip.injectQuad (c : Chip) (o : OutPkt) : Option Nat :=
  match o.via with
  | some p => some (p / 256)
  | none => o.quad.orElse (fun _ => (List.range 4).find? (fun q => c.isOn q 0x45 && c.isOn q 0x46))

/-- The injection path into a quadrant, a link of its own: 32 private credits on each virtual channel and 192 shared ones
(R253). -/
def injectLink (q : Nat) : Nat := localLink + 1 + q

/-- The credits of an injection path. -/
def Chip.injectCredits (c : Chip) (q : Nat) : Link :=
  (SMap.get? c.links (injectLink q)).getD { priv := List.replicate 10 32, shared := 192 }

/-- C0_INJECT: the oldest packet of C0 enters a quadrant, once the injection path has credits for all its stitches; through a
named port it is queued without a lookup (R135, R206, R253). It is stamped there. DESIGN CHOICE; log entry 114. -/
def c0Inject (c : Chip) : Chip :=
  match c.c0Out with
  | [] => c
  | o :: rest =>
    match c.injectQuad o with
    | none => c
    | some q =>
      let ends := stitchEnds o.hdr.size
      let v := o.hdr.vc
      if (c.injectCredits q).hasCredit v ends.length = false then c else
      let h := c.selectBank (64 + q) o.hdr
      let i := c.newId
      let c := { i.2 with c0Out := rest }
      let lk : Looked × List Nat := match o.via with
        | some p => (if (c.port p).st.framed then .plan [(p, .port p, [])] none else .plan [] none, [])
        | none => c.lookup q none false h
      let c := (c.lostPorts q lk.2).noteRise h
      match lk.1 with
      | .drop _ reg => c.bump reg 1
      | .plan pl mc =>
        if pl.isEmpty ∧ mc.isNone then c
        else if c.tc3Full q v h pl then c.bump (quePage q + 0x218) 1
        else
          let pk : Pkt := { id := i.1, hdr := h, oldDest := h.dest, origin := .ctl, entry := q, vc := v,
                            stamp := c.time.ft, rate := 0, payload := o.payload, tailIn := true,
                            sealW := sealOf h o.payload, code := o.code, counted := h.net ≤ 1, mc := mc }
          let c := { c with
            pkts := c.pkts ++ [pk]
            links := SMap.set c.links (injectLink q) ((c.injectCredits q).useCredit v ends.length) }
          let s := c.storePkt i.1 q (injectLink q) v h pl none h.size ends false
          (s.2.tailStored s.1 true).mcCheck i.1

/-! ### Answers on a link (R170, R171) -/

/-- A link-local packet leaves through the port it answers. -/
def Chip.answer (c : Chip) (p op aux : Nat) (pay : List Byte) : Chip :=
  let st := (c.port p).st
  if st = .active ∨ st = .quarantine then
    c.c0Send { net := 3, op := op, aux := aux } pay (some p)
  else c

/-- The oldest link-local packet of an opcode, as it is wanted, that a port has received and not yet answered, and the state
without it. -/
def Chip.popProbe (c : Chip) (p op : Nat) (want : Arr → Bool) : Option Arr × Chip :=
  match c.probeIn.find? (fun e => e.1 == p && e.2.hdr.op == op && want e.2) with
  | some e => (some e.2, { c with probeIn := c.probeIn.erase e })
  | none => (none, c)

/-- MEND_PROBE_ANSWER: the MEND_PROBE with this AUX and payload is answered on its link with the same (R170). -/
def probeAnswer (p aux : Nat) (payload : List Byte) (c : Chip) : Chip :=
  let r := c.popProbe p 0x38 (fun a => a.hdr.aux == aux && a.payload == payload)
  match r.1 with
  | some a => r.2.answer p 0x39 a.hdr.aux a.payload
  | none => c

/-- TACK_REQ_ANSWER: a TACK_REQ is answered with a TACK_ACK; a quiet transmit direction wakes (R97, R171). -/
def tackAnswer (p : Nat) (c : Chip) : Chip :=
  let r := c.popProbe p 0x3C (fun _ => true)
  match r.1 with
  | some _ => (r.2.tack p).answer p 0x3D 0 []
  | none => c

end Sys2Proof.Machine
end

