-- ==== Sys2Proof/Machine/Queues.lean ====
section
/-! DEFINITION. Output queues (chapter 8): the grant of a head, the sending of a tail, ageing, the TC3 gate, edge windows,
the return of pegged flows, and the release of held packets. -/
namespace Sys2Proof.Machine

/-! ### The scheduler (R267 to R270, R588) -/

/-- The weight of a virtual channel at an output: QUE_SCHED_W, and 1 on a press die (R267, R588). -/
def Chip.weight (c : Chip) (l v : Nat) : Nat :=
  if 1040 ≤ l then 1 else fld (c.reg (quePage (linkQuad l) + 0x130)) (4 * v + 3) (4 * v)

/-- An entry of a port queue may leave: it cuts through, or its tail is stored (R270). Seam entries always do. -/
def Chip.mayLeave (c : Chip) (l : Nat) (x : Copy) : Bool :=
  if 1024 ≤ l || x.zeros then true else
  match c.pkt? x.pkt, c.store? x.sid with
  | some p, some s =>
    let through := c.regBit (quePage (linkQuad l) + 0x100) 0 &&
      (match p.origin with | .port _ => decide ((bitsOf (c.port l).lanes 8).length ≤ p.rate) | _ => true)
    through || s.tailIn
  | _, _ => false

/-- The output sends packets: an ACTIVE port; a QUARANTINE port for the packets of R147; a seam that is UP (R144, R147, R148). -/
def Chip.outOpen (c : Chip) (l : Nat) (x : Copy) : Bool :=
  if l < 1024 then
    c.active l || ((c.port l).st == .quarantine &&
      (match c.pkt? x.pkt with | some p => p.origin == .ctl && (p.hdr.net == 3 || p.hdr.op == 0x15) | none => false))
  else match seamOf l with
    | some k => (c.seam k).up
    | none => false

/-- A transmitter may send DATA frames at all: it carries frames, its replay buffer has room (R132), and at a port no darn is in
progress (R91), no lane retrains from cold (R99), and the slack column after 128 data columns is not due (R80). -/
def Chip.txOpen (c : Chip) (l : Nat) : Bool :=
  c.carries l && decide ((c.link l).replay.length < c.replaySize l) &&
    (decide (1024 ≤ l) || ((c.port l).darn.isNone && c.lanesUp l && decide ((c.port l).cols < 128)))

/-- The stitch that a virtual channel could send next, in a content area of `cap` bytes: the entry at the front of its queue, if
the stitch is stored, the entry has begun or may leave now, and a credit is free (R135, R267 to R270). -/
def Chip.ready (c : Chip) (l cap v : Nat) : Option (Copy × Pkt) :=
  match c.queue l v with
  | [] => none
  | x :: _ =>
    match c.pkt? x.pkt with
    | none => none
    | some p =>
      if min (x.sent + cap) p.hdr.size ≤ c.avail x p && (x.headSent || (c.mayLeave l x && c.outOpen l x)) &&
          (c.link l).hasCredit v 1 && c.queWorks l
      then some (x, p) else none

/-- The first of VC0 to VC7, from `turn` on, that is eligible and has some of its quantum left. -/
def drrPick (turn : Nat) (elig : List Nat) (d : List Nat) : Option Nat :=
  ((List.range 8).map (fun i => (turn + i) % 8)).find? (fun v => elig.contains v && 0 < cnt d v)

/-- Deficit round robin among VC0 to VC7: the virtual channel whose turn it is keeps the output while it is eligible and has
some of its quantum left; when no eligible one has, a new round gives each eligible one 16 × W_v stitches (R267). DESIGN
CHOICE; log entry 83: a channel that is not eligible when a round begins gets no quantum in it. -/
def Chip.drr (c : Chip) (l : Nat) (elig : List Nat) : Option Nat × Chip :=
  let x := c.link l
  match drrPick x.turn elig x.deficit with
  | some v => (some v, c.onLink l (fun x => { x with turn := v }))
  | none =>
    let d := (List.range 8).map (fun v => if elig.contains v then 16 * c.weight l v else 0)
    match drrPick (x.turn + 1) elig d with
    | some v => (some v, c.onLink l (fun x => { x with turn := v, deficit := d }))
    | none => (elig.head?, c)

/-- The virtual channel that sends the next stitch: VC9, else VC8, else one of VC0 to VC7 (R124, R267). -/
def Chip.pick (c : Chip) (l cap : Nat) : Option Nat × Chip :=
  let r (v : Nat) : Bool := (c.ready l cap v).isSome
  if r 9 then (some 9, c) else if r 8 then (some 8, c) else c.drr l ((List.range 8).filter r)

/-- A copy sends zeros from its next byte on: it reads nothing any more (R150, R240, R279). -/
def Chip.readsZeros (c : Chip) (x : Copy) : Bool :=
  x.zeros || (match c.cutOf x with | some k => decide (k ≤ x.sent) | none => false)

/-- A copy whose next stitch, up to packet byte `e`, cannot be read: its head not yet gone, it is discarded; otherwise a bad
cell link, which BUF_HANDLE_ERR counts, ends it with zeros and SEVERED, and bad packet data makes it POISONED; the read counts every
uncorrectable error it meets (R240, R251, R563). A multicast copy discarded here counts as dropped. DESIGN CHOICE; log entry 112. Answers
whether the copy goes on. -/
def Chip.readCheck (c : Chip) (x : Copy) (p : Pkt) (e : Nat) : Bool × Chip :=
  if c.readsZeros x then (true, c) else
  match c.store? x.sid with
  | none => (true, c)
  | some s =>
    match c.readFault s p.hdr.size x.sent e with
    | 0 => (true, c)
    | k =>
      let c := c.readErrors s p.hdr.size x.sent e
      if !x.headSent then (false, c.dropCopy x.id .pushed)
      else if k = 1 then (true, c.onCopy x.id (fun x => { x with code := max x.code 1 }))
      else (true, (c.disturbed [x]).onCopy x.id (fun x => { x with cut := minCut x.cut (some x.sent), code := 3 }))

/-- One stitch of a copy goes into a frame: a credit and one of the quantum are used, and the copy has advanced to byte `e`. -/
def Chip.putStitch (c : Chip) (l v e : Nat) (x : Copy) (p : Pkt) : Stitch × Chip :=
  let x := (c.copy? x.id).getD x
  let st : Stitch := { vc := v, copy := x.id, upto := e, last := decide (p.hdr.size ≤ e),
                       bytes := ((c.image x p).drop x.sent).take (e - x.sent) }
  (st, (c.onCopy x.id (fun x => { x with sent := e, headSent := true, tailSent := decide (p.hdr.size ≤ e) })).onLink l
    (fun k => { k.useCredit v 1 with deficit := if v < 8 then cntSet k.deficit v (cnt k.deficit v - 1) else k.deficit }))

/-- A trace of what leaves over a link end; at a port the fibre may discard it (R101). -/
def Chip.leave (c : Chip) (l : Nat) (e : Emit) : Chip := if l < 1024 then c.fibre l e else c.emit e

/-- A head has gone into a frame (R269). -/
def Chip.headGone (c : Chip) (l v : Nat) (x : Copy) (p : Pkt) : Chip :=
  let c := c.leave l (.head l v p.hdr.toBits)
  let c := if l < 1040 then c.pmc (linkQuad l) 16 0x2001 (some v) none else c
  if l < 1024 then c.lintSee l true (lintRec p.id l 0 c.time.ft (some x.id) p.hdr) else c

/-- TX_TIME of a TIME_SYNC is the fabric time at which its first bit leaves (R393). -/
def Chip.stampTime (c : Chip) (id : Nat) : Chip :=
  c.onPkt id (fun p =>
    if p.hdr.op = 0x22 ∧ p.origin = .ctl then
      let b := leBytes 8 c.time.ft ++ p.payload.drop 8
      { p with payload := b, sealW := sealOf p.hdr b }
    else p)

/-- The stitches of the next frame, from stitch `i` on: each time the scheduler picks, until no stitch is ready or the frame is full.
An entry whose head has yet to leave begins when it is picked, and one whose bytes cannot be read is discarded (R120, R121, R124, R240,
R251, R267 to R270). The first argument bounds the picks. -/
def Chip.fill : Nat → Chip → Nat → Nat → List Stitch × Chip
  | 0, c, _, _ => ([], c)
  | n + 1, c, l, i =>
    if 8 ≤ i then ([], c) else
    let k := c.pick l (slotCap i)
    match k.1.bind (fun v => (k.2.ready l (slotCap i) v).map (fun xp => (v, xp.1))) with
    | none => ([], c)
    | some (v, x) =>
      let c := if x.headSent then k.2 else k.2.stampTime x.pkt
      match c.pkt? x.pkt with
      | none => ([], c)
      | some p =>
        let e := min (x.sent + slotCap i) p.hdr.size
        let r := c.readCheck x p e
        if !r.1 then Chip.fill n r.2 l i
        else
          let s := r.2.putStitch l v e x p
          let t := Chip.fill n (if x.headSent then s.2 else s.2.headGone l v x p) l (i + 1)
          (s.1 :: t.1, t.2)

/-- The next DATA frame of a link end, as far as stitches are ready. -/
def Chip.nextData (c : Chip) (l : Nat) : List Stitch × Chip := Chip.fill (8 + c.copies.length) c l 0

/-- Nothing is ready to be sent at a port: the frame that would leave now is empty. -/
def Chip.nothingReady (c : Chip) (p : Nat) : Bool :=
  !c.txOpen p || (c.pick p 56).1.isNone

/-- SLACK_INSERT: after 128 data columns, or with no stitch ready to send, a slack column with the next column count (R80,
R81). -/
def slackInsert (p : Nat) (c : Chip) : Chip :=
  if (c.port p).st.framed ∧ c.isQuiet p = false ∧ c.lanesUp p ∧ (128 ≤ (c.port p).cols ∨ c.nothingReady p) then
    c.slackColumn p
  else c

/-! ### The tail (R242, R285, R437) -/

/-- The packets that the port counts of a digest count (R437). -/
def digestCounts (h : Hdr) : Bool :=
  h.net ≤ 1 && h.tc ≤ 2 && !(h.op == 0x16 || h.op == 0x17 || h.op == 0x18 || h.op == 0x1A || h.op == 0x15)

/-- A reply's tail leaves towards an end point (R285). -/
def Chip.replyLeft (c : Chip) (p : Nat) (h : Hdr) : Chip :=
  if c.isEdge p then
    if h.op = 0x10 ∨ h.op = 0x11 then c.winSub p h.tc 1
    else if h.op = 0x12 then c.winSub p h.tc (fld h.aux 15 0)
    else c
  else c

/-- The tail of a copy has gone into a frame. At a port its reference ends, the packet is counted, and a reply lowers the edge
window; over a seam its reference ends with the acknowledgement (R242, R245, R285, R437). -/
def Chip.tailGone (c : Chip) (l id : Nat) : Chip :=
  match c.copy? id with
  | none => c
  | some x =>
    match c.pkt? x.pkt with
    | none => c
    | some p =>
      let b := c.image x p
      let code := c.codeOf x p
      let trailer := leAt b (p.hdr.len + 16) 8
      let c := c.leave l (.tail l x.vc ((b.drop 16).take p.hdr.len) (BitVec.ofNat 64 trailer))
      if 1024 ≤ l then c.creditCheck x.sid
      else
        let c := c.lintTail p.id (some x.id) b (tailByte code) 0
        let c := if digestCounts p.hdr then
            { c with twin := { c.twin with count := SMap.set c.twin.count l ((SMap.getD c.twin.count l 0 + 1) % 2 ^ 31) } }
          else c
        let c := c.replyLeft l p.hdr
        let c := if x.zeros then c else c.lowerRef x.sid
        ((c.creditCheck x.sid).gcPkt x.pkt).mcCheck x.pkt

/-- A DATA frame of what is ready leaves, with the effects of the stitches in it: credits of stored stitches that every copy
has passed return, and tails are gone. -/
def Chip.frameOut (c : Chip) (l : Nat) (st : List Stitch) : Chip :=
  let c := (c.onLink l (fun k => k.markDry c.now)).sendData l st
  let c := c.each st (fun c s => match c.copy? s.copy with | some x => c.creditCheck x.sid | none => c)
  c.each (st.filter (·.last)) (fun c s => c.tailGone l s.copy)

/-- HEAD_GRANT: the scheduler grants a virtual channel to the head of its queue: the DATA frame that it begins in leaves, with
everything else that is ready, heads that are granted after it among them (R120, R121, R124, R267 to R270). While the next frame would
not hold this head, nothing happens; a head whose bytes cannot be read is discarded (R240, R251). -/
def headGrant (l v : Nat) (c : Chip) : Chip :=
  match c.queue l v with
  | [] => c
  | x :: _ =>
    if x.headSent || !c.txOpen l then c
    else
      let r := c.nextData l
      if r.1.any (·.copy == x.id) then r.2.frameOut l r.1
      else if (r.2.copy? x.id).isSome then c
      else if r.1.isEmpty then r.2 else r.2.frameOut l r.1

/-- DATA frames of what is ready leave until copy `id` is sent to its end, nothing more is ready, or the transmitter must stop.
The first argument bounds the frames. -/
def Chip.sendRest : Nat → Chip → Nat → Nat → Chip
  | 0, c, _, _ => c
  | n + 1, c, l, id =>
    if !c.txOpen l || !(c.copies.any (fun x => x.id == id && !x.tailSent)) then c
    else
      let r := c.nextData l
      if r.1.isEmpty then r.2 else Chip.sendRest n (r.2.frameOut l r.1) l id

/-- COPY_TAIL_SENT: the rest of the packet that a virtual channel is sending leaves with its tail, stitch by stitch as its bytes
are stored and credits allow, in at most `n` frames (R121, R132, R135, R242, R245, R268). -/
def copyTailSent (l v n : Nat) (c : Chip) : Chip :=
  match c.queue l v with
  | [] => c
  | x :: _ => if x.headSent then Chip.sendRest n c l x.id else c

/-- IDLE_FRAME_SEND: a frame leaves, within 40 ns of an acceptance and at least every 500 ns: a DATA frame when stitches are
ready, a CONTROL frame otherwise. A quiet port leaves the quiet state only for something to report
(R97, R121, R131, R137). -/
def idleSend (l : Nat) (c : Chip) : Chip :=
  if !c.carries l || (decide (l < 1024) && ((c.port l).st == .init || !c.lanesUp l || (c.isQuiet l && !(c.link l).reports))) then c
  else
    let r := if c.txOpen l then c.nextData l else ([], c)
    if r.1.isEmpty then r.2.sendFrame l 1 (r.2.link l).txSeq 0xFFFFFFFF (List.replicate 496 0)
    else r.2.frameOut l r.1

/-! ### Ageing (R276 to R282) -/

/-- The age limit of a TC in ns. -/
def Chip.ageLimit (c : Chip) (q tc : Nat) : Nat := fld (c.reg (quePage q + 0x110 + 4 * tc)) 13 0 * 1000

/-- An entry of an output has aged: counts and events (R278, R279). -/
def Chip.agedCount (c : Chip) (l tc : Nat) (stomp : Bool) : Chip :=
  if 1040 ≤ l then c else
  let q := linkQuad l
  let c := (c.bump (quePage q + 0x200 + 4 * tc) 1).pmc q 16 0x2002 (some tc) none
  if stomp then (c.bump (quePage q + 0x210) 1).raise (quePage q) 3 else c.raise (quePage q) 1

/-- ENTRY_AGED: an entry whose head has not left reaches its age limit and is discarded whole (R278). Entries of the press
die's own seam queue do not age (R277), nor those of a QUE page that does not work (R553). -/
def entryAged (l v i : Nat) (c : Chip) : Chip :=
  match (c.queue l v)[i]? with
  | none => c
  | some x =>
    match c.pkt? x.pkt with
    | none => c
    | some p =>
      if x.headSent || 1040 ≤ l || !c.works (linkQuad l) 0x45 then c
      else
        let c := c.untilFabric (p.stamp + c.ageLimit (linkQuad l) p.hdr.tc)
        (c.agedCount l p.hdr.tc false).dropCopy x.id .aged

/-- ENTRY_AGED_STOMP: an entry whose head has left reaches its age limit: its reference ends, and the rest goes out as
zeros that close with SEAL 0 and STOMPED (R279). -/
def entryAgedStomp (l v : Nat) (c : Chip) : Chip :=
  match c.queue l v with
  | [] => c
  | x :: _ =>
    match c.pkt? x.pkt with
    | none => c
    | some p =>
      if !x.headSent || x.zeros || 1040 ≤ l || !c.works (linkQuad l) 0x45 then c
      else
        let c := c.untilFabric (p.stamp + c.ageLimit (linkQuad l) p.hdr.tc)
        let c := c.agedCount l p.hdr.tc true
        let c := c.dropCount x .aged
        let c := c.onCopy x.id (fun x => { x with
          zeros := true, cut := minCut (c.cutOf x) (some x.sent), code := max (c.codeOf x p) 2 })
        let c := (c.lowerRef x.sid).tailDead x.sid
        ((c.creditCheck x.sid).gcPkt x.pkt).mcCheck x.pkt

/-- A held packet whose hold has ended is looked up in the bank of its island, and queued or discarded (R412, R414). -/
def Chip.releaseOne (c : Chip) (h : Held) : Chip :=
  let c := { c with held := c.held.erase h }
  match c.pkt? h.pkt with
  | none => c
  | some k =>
    let q := h.port / 256
    let r := c.resolveHead h.port h.vc k.hdr
    match r.1 with
    | .inl (why, _) => ((if why < 8 then r.2.pmcDiscard h.port why else r.2).discardPkt h.pkt).noteRise k.hdr
    | .inr (hd, pl, mc) =>
      let sealOk := sealOf { k.hdr with dest := k.oldDest } k.payload == k.sealW
      let c := r.2.onPkt h.pkt (fun k =>
        let k := { k with hdr := hd, counted := hd.net ≤ 1, mc := mc }
        if k.tailIn then { k with sealW := resealed k sealOk k.sealW } else k)
      match c.entryStore? h.pkt with
      | none => c
      | some s =>
        let c := c.onStore s.sid (fun s => { s with ref := s.ref + pl.length - 1 })
        let c := (c.queuePlan h.pkt s.sid q h.vc pl hd.multi).enqueued q hd pl (some h.port)
        ((if s.tailIn then c.deliver s.sid (k.code != 2) else c).creditCheck s.sid).noteRise hd

/-- Every packet at the front of a port and channel's line that no rinse holds any more is looked up, in arrival order
(R412, R414). The first argument bounds the packets. -/
def Chip.releaseHeld : Nat → Chip → Chip
  | 0, c => c
  | n + 1, c =>
    let free (h : Held) : Bool :=
      (match c.held.find? (fun g => g.port == h.port && g.vc == h.vc) with | some g => g == h | none => false) &&
      (match c.pkt? h.pkt with
       | some k => !(c.isEdge h.port && k.hdr.net == 0 && k.hdr.op != 6 && c.holds k.hdr.job h.island)
       | none => true)
    match c.held.find? free with
    | none => c
    | some h => Chip.releaseHeld n (c.releaseOne h)

/-- The held packets are reconsidered. -/
def Chip.release (c : Chip) : Chip := (Chip.releaseHeld (c.held.length + 1) c).restall

/-- HELD_PACKET_AGED: the packet that a rinse holds on a port and channel reaches its age limit and is
discarded; what waited behind it goes on (R412). -/
def heldAged (p v : Nat) (c : Chip) : Chip :=
  match c.held.find? (fun h => h.port == p && h.vc == v) with
  | none => c
  | some h =>
    match c.pkt? h.pkt with
    | none => Chip.release { c with held := c.held.erase h }
    | some k =>
      let q := p / 256
      let c := c.untilFabric (k.stamp + c.ageLimit q k.hdr.tc)
      let c := ((c.bump (regAddr 24 0x40 0x148) 1).raise (regAddr 24 0x40 0) 8).pmcDiscard p 7
      (c.discardPkt h.pkt).release

/-! ### The TC3 gate (R272) -/

/-- The gate that QUE_CTL and TC3_HOLD call for. -/
def Chip.gateWanted (c : Chip) (q : Nat) : Bool := c.regBit (quePage q + 0x100) 1 && !c.regBit (quePage q + 0x104) 0

/-- TC3_GATE_CHANGE: the gate of a QUE page that works follows a change of TC3_ADMIT or TC3_HOLD (R272, R553). -/
def gateChange (q : Nat) (c : Chip) : Chip :=
  if c.gateOpen q = c.gateWanted q ∨ c.works q 0x45 = false then c
  else Chip.raise { c with gate := c.gate.set q (c.gateWanted q) } (quePage q) 4

/-! ### Edge windows (R286, R287) -/

/-- The windows of a port work: its WIN page is ON or in DISABLING (R553). -/
def Chip.winWorks (c : Chip) (p : Nat) : Bool := c.works (p / 256) (0x30 + p % 256 / 16)

/-- WINDOW_EPOCH_START: fabric time reaches a tick of P_E, and the next counted request enters a new epoch; the oldest of
16 is merged into the next (R286). -/
def epochStart (p t : Nat) (c : Chip) : Chip :=
  if c.winWorks p = false then c else
  let pe := max (c.epochLen p) 1
  let w := c.win p t
  let c := match w.epochs.getLast? with
    | some e => c.untilFabric (e.1 / pe * pe + pe)
    | none => c
  let now := c.time.ft / pe * pe
  let es := match w.epochs with
    | a :: b :: rest => if 16 ≤ w.epochs.length then (b.1, a.2 + b.2) :: rest else w.epochs
    | l => l
  if es.any (·.1 == now) then c
  else { c with wins := SMap.set c.wins (4 * p + t) { w with epochs := es ++ [(now, 0)] } }

/-- The epochs of a window that have expired (R286). -/
def Chip.expireEpochs (c : Chip) (p t : Nat) : Chip :=
  let w := c.win p t
  let pe := c.epochLen p
  let dead := w.epochs.filter (fun e => e.1 + 16 * pe ≤ c.time.ft)
  if dead.isEmpty then c
  else
    let c := c.bump (winPage p + 0x304) (dead.map Prod.snd).sum
    let left : Win := { w with epochs := w.epochs.filter (fun e => !(e.1 + 16 * pe ≤ c.time.ft)) }
    Chip.winCheck { c with wins := SMap.set c.wins (4 * p + t) left } p t

/-- WINDOW_EPOCH_EXPIRE: fabric time reaches the oldest epoch's start plus 16 × P_E (R286). -/
def epochExpire (p t : Nat) (c : Chip) : Chip :=
  match (c.win p t).epochs with
  | [] => c
  | e :: _ => if c.winWorks p then (c.untilFabric (e.1 + 16 * c.epochLen p)).expireEpochs p t else c

/-! ### Peg (R211) -/

/-- PEG_RETURN: a port ACTIVE for RETURN_DELAY without interruption has its out bit cleared, with AUTO_RETURN 1, while the PEG page
of its quadrant is ON (R211, R553). -/
def pegReturn (p : Nat) (c : Chip) : Chip :=
  let pol := c.reg (regAddr (p / 256) 0x42 0x220)
  if c.active p ∧ c.pegOut p ∧ bit pol 16 ∧ c.isOn (p / 256) 0x42 then
    (c.till ((c.port p).activeAt + fld pol 9 0 * 1000000)).setRegBit (pegOutReg p) (p % 32) false
  else c

/-! ### The hampers and moves that run by themselves (R249, R259, R261, R263) -/

/-- HAMPER_REFILL: a cache below CACHE_LOW takes up to 128 handles from its ring (R249). -/
def hamperRefill (q p : Nat) (c : Chip) : Chip :=
  if ((c.buf q).hamper p).cache.length < fld (c.reg (bufPage q + 0x108)) 8 0 ∧ c.works q 0x44 then c.refill q p
  else c

/-- HAMPER_SPILL: a cache above CACHE_HIGH gives its 128 oldest handles to its ring (R249). -/
def hamperSpill (q p : Nat) (c : Chip) : Chip :=
  if fld (c.reg (bufPage q + 0x108)) 24 16 < ((c.buf q).hamper p).cache.length ∧ c.works q 0x44 then c.spill q p else c

/-- MOVE_DONE: every cell of the moving region is FREE (R259). -/
def moveDone (q : Nat) (c : Chip) : Chip :=
  match (c.buf q).move, c.movingRegion q with
  | some m, some r => if c.moveReady q && c.works q 0x44 then c.moveFinish q m r else c
  | _, _ => c

end Sys2Proof.Machine
end

