-- ==== Sys2Proof/Machine/Sync.lean ====
section
/-! DEFINITION. The sync network: barrier counters (R372 to R388), fabric time (R390 to R397), the scheduling and taking of
flips (R363, R369, R398, R399, R403), and the rinse sequencer's side of the barriers (R413, R414). -/
namespace Sys2Proof.Machine

/-! ### Registers and pages -/

/-- A register of a quadrant's SYN page. -/
def synQ (q off : Nat) : Nat := regAddr q 0x47 off

/-- A register of the BNK page. -/
def bnk (off : Nat) : Nat := regAddr 24 0x40 off

/-- An event of island QM of a quadrant (PMC instance 18). -/
def Chip.pmcQM (c : Chip) (q code : Nat) : Chip := c.pmc q 18 code none none

/-! ### Payloads (R373) -/

/-- The payload of a barrier packet. -/
def barPayload (vote stamp rel swap action bank : Nat) : List Byte :=
  leBytes 4 vote ++ leBytes 4 0 ++ leBytes 8 stamp ++ leBytes 8 rel ++ leBytes 8 swap ++ leBytes 1 action ++
  leBytes 1 bank ++ leBytes 6 0

/-- VOTE of a barrier payload. -/
def payVote (l : List Byte) : Nat := leAt l 0 4
/-- STAMP of a barrier payload. -/
def payStamp (l : List Byte) : Nat := leAt l 8 8
/-- SWAP_TIME of a release. -/
def paySwapTime (l : List Byte) : Nat := leAt l 24 8
/-- ACTION of a release. -/
def payAction (l : List Byte) : Nat := byteAt l 32
/-- SWAP_BANK of a release. -/
def paySwapBank (l : List Byte) : Bool := bit (byteAt l 33) 0

/-! ### Packets of the barrier units (R374, R375) -/

/-- Header of a sync packet that a quadrant originates: SEQ equal to EPOCH, flow label 0 (R374). FLAGS.BANK is 0, DESIGN CHOICE;
log entry 99. -/
def Chip.syncHdr (c : Chip) (q op b job epoch : Nat) : Hdr :=
  { net := 2, op := op, dest := b, src := c.switchId q, job := job, len := 40, seq := epoch, aux := epoch,
    plane := c.plane }

/-- A packet that island QM of a quadrant originates is stored and queued there on one link, where it may lack a credit (R449). -/
def Chip.originate (c : Chip) (q : Nat) (h : Hdr) (pay : List Byte) (x : Nat × Goal × List Nat) : Chip :=
  let i := c.newId
  let pk : Pkt := { id := i.1, hdr := h, oldDest := h.dest, origin := .ctl, entry := q, vc := h.vc,
                    stamp := c.time.ft, rate := 0, payload := pay, tailIn := true, sealW := sealOf h pay }
  let s := Chip.storePkt { i.2 with pkts := i.2.pkts ++ [pk] } i.1 q localLink h.vc h [x] none h.size [] false
  let c := s.2.tailStored s.1 true
  if x.1 < 1044 then c.restallOne x.1 else c

/-- A packet of island QM for one port: over a seam path where the port is another quadrant's (R375); with no usable path
it is discarded as R204 counts it. Answers whether it was sent. -/
def Chip.toPort? (c : Chip) (q p : Nat) (h : Hdr) (pay : List Byte) : Bool × Chip :=
  match c.toQuad q (p / 256) (pegHash (c.reg (regAddr q 0x41 0x204)) h) p (.port p) with
  | some x => (true, c.originate q h pay x)
  | none => (false, c.bump (regAddr q 0x41 0x224) 1)

/-- The same, where nothing hangs on whether it was sent. -/
def Chip.toPort (c : Chip) (q p : Nat) (h : Hdr) (pay : List Byte) : Chip := (c.toPort? q p h pay).2

/-- The bank under which a barrier unit resolves its counter's PARENT: the job's, in the injection path of the quadrant
(DEDUCED; log entry 23). -/
def Chip.parentBank (c : Chip) (q job : Nat) : Bool := (c.job job).bankIn (64 + q)

/-- The combined arrival of a counter goes up through PARENT (R379). -/
def Chip.sendUp (c : Chip) (b : Nat) : Chip :=
  let q := b / 1024
  let k := c.bar b
  let h := c.syncHdr q 0x20 b k.job k.epoch
  let pay := barPayload k.vote k.stamp 0 0 0 0
  match c.planTarget q k.parent (pegHash (c.reg (regAddr q 0x41 0x204)) h) (c.parentBank q k.job) with
  | .plan (x :: _) _ => c.originate q h pay x
  | .plan [] _ => c
  | .drop _ reg => c.bump reg 1

/-! ### Items of a resync (R424, R442 to R444) -/

/-- A packet of the twin link: NET 3, FLAGS 0, AUX and SEQ the count of its opcode on the link, from 0 (R424). -/
def Chip.twinSend (c : Chip) (op : Nat) (pay : List Byte) : Chip :=
  if c.rst.c0Up then
    let n := c.twin.linkCnt.getD (op - 0x30) 0
    { c with
      c0Out := c.c0Out ++ [{ hdr := { net := 3, op := op, len := pay.length, seq := n, aux := n }, payload := pay, code := 0,
                             via := some (fld (c.reg (twn 0x104)) 9 0) }],
      twin := { c.twin with linkCnt := upd c.twin.linkCnt (op - 0x30) (fun k => (k + 1) % 2 ^ 24) } }
  else c

/-- A TWIN_RESYNC payload: KIND, the records sent since START up to and with this packet's, and the records (R443). -/
def Chip.rsPayload (c : Chip) (kind count : Nat) (recs : List Byte) : List Byte :=
  leBytes 2 c.pairId ++ leBytes 1 kind ++ leBytes 1 0 ++ leBytes 4 count ++ leBytes 8 0 ++ recs

/-- One record (R443). -/
def rsRec (block where_ idx : Nat) (ws : List Word) : List Byte :=
  leBytes 1 block ++ leBytes 1 where_ ++ leBytes 3 idx ++ leBytes 1 ws.length ++ leBytes 2 0 ++
    ws.flatMap (fun w => leBytes 4 w.toNat)

/-- An item written while the active part's resync runs is sent, until the end of the tail (R444). -/
def Chip.rsItem (c : Chip) (r : List Byte) : Chip :=
  if c.twin.txOn then
    let n := c.twin.txCount + 1
    Chip.twinSend { c with twin := { c.twin with txCount := n } } 0x32 (c.rsPayload 2 n r)
  else c

/-- BNK_SELECT register `i`: the selected banks of jobs 32i to 32i + 31 in C0's copy. -/
def Chip.selectWord (c : Chip) (i : Nat) : Nat := ofBits ((List.range 32).filter (fun k => (c.job (32 * i + k)).bankIn 72))

/-! ### Flips (R64, R398, R399, R403) -/

/-- The rinse of a job, if one is in progress. -/
def Chip.rinseOf (c : Chip) (j : Nat) : Option Rinse := c.rinses.find? (·.job == j)

/-- A change of a job's rinse. -/
def Chip.onRinse (c : Chip) (j : Nat) (f : Rinse → Rinse) : Chip :=
  { c with rinses := c.rinses.map (fun r => if r.job = j then f r else r) }

/-- A rinse ends in the part: its hold is over, and the held packets are looked up; a rinse that ends under R414 is
counted and reported (R414, R417). -/
def Chip.endRinse (c : Chip) (j : Nat) (done : Bool) : Chip :=
  if c.rinses.any (·.job == j) then
    let c := { c with rinses := c.rinses.filter (·.job != j) }
    let c := if done then (c.bump (bnk 0x140) 1).raise (bnk 0) 1 else c
    c.release
  else c

/-- Every island has flipped a job to bank `b`: the other bank is the previous one while packets of it remain, and the
job's rinse ends (R406, R414). -/
def Chip.flipped (c : Chip) (j : Nat) (b : Bool) : Chip :=
  let left := c.inFlight j (!b)
  let c := c.onJob j (fun _ =>
    { sel := b, pend := none, moved := [], prev := if left = 0 then none else some (!b), was := true })
  c.endRinse j true

/-- One island flips a job to bank `b` (R64): in C0 the flip is reported, and the selection sent on while a resync runs (R444), on
a press die its contexts see it (R363, R369, R403), and the packets held in the island are looked up (R414). -/
def Chip.flipIsland (c : Chip) (isl j : Nat) (b : Bool) : Chip :=
  if (c.job j).bankIn isl == b then c
  else
    let c := c.onJob j (fun k => { k with moved := isl :: k.moved })
    let c := if isl = 72 then (c.raise (bnk 0) 2).rsItem (rsRec 7 0 (j / 32) [BitVec.ofNat 32 (c.selectWord (j / 32))]) else c
    let c := if 68 ≤ isl ∧ isl < 72 then c.ctxFlips (isl - 68) j (!b) else c
    if islands ≤ (c.job j).moved.length then c.flipped j b else c.release

/-- Every island that has yet to flip a job does so. -/
def Chip.flipAll (c : Chip) (j : Nat) (b : Bool) : Chip :=
  c.each (List.range islands) (fun c isl => c.flipIsland isl j b)

/-- A flip that some islands have taken is completed in the rest. -/
def Chip.flipRest (c : Chip) (j : Nat) : Chip :=
  if (c.job j).moved.isEmpty then c else c.flipAll j (!(c.job j).sel)

/-- A release with ACTION 1 is handled: a flip is scheduled, or taken at once and counted when its time has passed; one to
the bank that the job selects does nothing (R398, R399). -/
def Chip.schedule (c : Chip) (j : Nat) (b : Bool) (t : Nat) : Chip :=
  if (c.job j).bankIn 72 == b then c
  else
    let c := c.flipRest j
    if (c.job j).sel == b then c
    else if c.time.ft < t then c.onJob j (fun k => { k with pend := some (b, t) })
    else
      let c := ((c.bump (synC 0x3A8) 1).raise (synC 0) 8).onJob j (fun k => { k with pend := none })
      c.flipAll j b

/-- BANK_FLIP: an island's fabric time reaches the swap time of a scheduled flip (R64, R391). -/
def bankFlip (isl j : Nat) (c : Chip) : Chip :=
  match (c.job j).pend with
  | none => c
  | some (b, t) => (c.untilFabric t).flipIsland isl j b

/-! ### Releases reach C0 (R380, R413, R414) -/

/-- A round starts on the drain counter (R413). -/
def Chip.startRound (c : Chip) (j : Nat) : Chip :=
  (c.onRinse j (fun r => { r with phase := 2, round := r.round + 1, reported := none })).bump (bnk 0x144) 1

/-- A release handed to C0: the rinse that waits for it goes on. A drain release with REFILL starts a round, one without it
arrives on the swap counter through `place`; the swap release ends the wait, and ends the rinse when it names the job's
bank (R413, R414). -/
def Chip.seqRelease (place : Chip → Nat → Chip) (c : Chip) (b : Nat) (pay : List Byte) : Chip :=
  match c.rinses.find? (fun r => (r.drain == b && r.phase == 2) || (r.swap == b && r.phase == 3)) with
  | none => c
  | some r =>
    if r.phase = 2 then
      if bit (payVote pay) 0 then c.startRound r.job
      else place (c.onRinse r.job (fun r => { r with phase := 3, reported := none })) r.job
    else if payAction pay = 1 ∧ (c.job r.job).bankIn 72 ≠ paySwapBank pay then
      c.onRinse r.job (fun r => { r with phase := 4 })
    else if payAction pay = 1 then c.endRinse r.job true
    else c

/-- The part handles a release of counter `b`: C0 takes it when LOCAL is set, and its swap is scheduled (R380, R398). -/
def Chip.takeRelease (place : Chip → Nat → Chip) (c : Chip) (b job : Nat) (loc : Bool) (pay : List Byte) : Chip :=
  let c := if loc then Chip.seqRelease place c b pay else c
  if payAction pay = 1 then c.schedule job (paySwapBank pay) (paySwapTime pay) else c

/-- A counter sends a release down and advances: one copy to every ACTIVE port of its mask, C0 when LOCAL is set; the
payload is kept, the runtime state cleared (R380). -/
def Chip.releaseDown (place : Chip → Nat → Chip) (c : Chip) (b : Nat) (pay : List Byte) : Chip :=
  let q := b / 1024
  let k := c.bar b
  let h := c.syncHdr q 0x21 b k.job k.epoch
  let ports := ((List.range 1024).filter k.mask.contains).filter c.active
  let c := c.each ports (fun c p => c.toPort q p h pay)
  let c := c.onBar b (fun k => { k with
    record := some pay, epoch := (k.epoch + 1) % 65536, mask := [], loc := false, arrived := 0, vote := 0, stamp := 0,
    wait := false, upAt := none, since := c.now, late := false })
  let c := (c.bump (synQ q 0x214) 1).pmcQM q 0x5002
  Chip.takeRelease place c b k.job k.loc pay

/-- An epoch completes: a root releases, any other counter waits and sends its combined arrival (R379, R380). -/
def Chip.complete (place : Chip → Nat → Chip) (c : Chip) (b : Nat) : Chip :=
  let k := c.bar b
  if k.root then
    let ft := c.time.ft
    let swap := if k.action = 1 then (ft + 1000 * k.lead) % 2 ^ 64 else 0
    Chip.releaseDown place c b (barPayload k.vote k.stamp ft swap k.action (b2n (k.action == 1 && k.swapBank)))
  else
    (c.onBar b (fun k => { k with wait := true, since := c.now, upAt := some c.now })).sendUp b

/-! ### Arrivals (R377, R378, R382) -/

/-- An arrival: the port it entered on (1,024 for LOCAL), EPOCH, JOB, VOTE and STAMP. -/
structure Arrival where
  port : Nat
  epoch : Nat
  job : Nat
  vote : Nat
  stamp : Nat
deriving DecidableEq, Repr

/-- The counter already holds the port's bit. -/
def Bar.has (k : Bar) (p : Nat) : Bool := if p = 1024 then k.loc else k.mask.contains p

/-- The last resend to a port lies within 1 µs (R382). -/
def Bar.resentNear (k : Bar) (p now : Nat) : Bool := k.resent.any (fun x => x.1 == p && decide (now < x.2 + 1000))

/-- The combined arrival is sent again, at most once per 1 µs (R378). -/
def Chip.resendUp (c : Chip) (b : Nat) : Chip :=
  match (c.bar b).upAt with
  | some t => if c.now < t + 1000 then c else (c.onBar b (fun k => { k with upAt := some c.now })).sendUp b
  | none => (c.onBar b (fun k => { k with upAt := some c.now })).sendUp b

/-- The stored release is sent again on the port that asked, or to C0, at most once per counter and port in 1 µs; SYN_RESEND_CNT
counts what is sent (R382). Handling it may schedule its flip (R398, R399). -/
def Chip.resendDown (place : Chip → Nat → Chip) (c : Chip) (b p : Nat) (pay : List Byte) : Chip :=
  let q := b / 1024
  let k := c.bar b
  if k.resentNear p c.now then c
  else
    let h := c.syncHdr q 0x21 b k.job ((k.epoch + 65535) % 65536)
    let r : Bool × Chip := if p = 1024 then (true, c) else if c.active p then c.toPort? q p h pay else (false, c)
    if !r.1 then r.2
    else
      let c := (r.2.onBar b (fun k => { k with resent := (p, c.now) :: k.resent.filter (·.1 != p) })).bump (synQ q 0x224) 1
      Chip.takeRelease place c b k.job (p == 1024) pay

/-- A counter takes an arrival (R378). -/
def Chip.arriveWith (place : Chip → Nat → Chip) (c : Chip) (b : Nat) (a : Arrival) : Chip :=
  let q := b / 1024
  let k := c.bar b
  if !k.valid || k.bad || k.job != a.job then (c.bump (synQ q 0x21C) 1).raise (synQ q 0) 2
  else
    let c := (c.bump (synQ q 0x210) 1).pmcQM q 0x5001
    if a.epoch = k.epoch then
      let c := c.onBar b (fun k => { k with vote := k.vote ||| a.vote, stamp := max k.stamp a.stamp })
      if k.has a.port then (if k.wait then c.resendUp b else c)
      else
        let c := c.onBar b (fun k => if a.port = 1024 then { k with loc := true } else { k with mask := a.port :: k.mask })
        if k.wait then c
        else
          let c := c.onBar b (fun k => { k with arrived := k.arrived + 1, since := if k.arrived = 0 then c.now else k.since })
          if k.arrived + 1 = k.expect then Chip.complete place c b else c
    else if a.epoch = (k.epoch + 65535) % 65536 then
      match k.record with
      | some pay => Chip.resendDown place c b a.port pay
      | none => c.bump (synQ q 0x218) 1
    else c.bump (synQ q 0x218) 1

/-- The LOCAL arrival of a rinse's report is placed on a counter, which may complete it. -/
def Chip.placeReport (place : Chip → Nat → Chip) (c : Chip) (b j : Nat) (r : Report) : Chip :=
  if c.isOn (b / 1024) 0x47 then
    Chip.arriveWith place c b { port := 1024, epoch := r.epoch, job := j, vote := r.vote, stamp := r.stamp }
  else c

/-- The sequencer arrives on the swap counter, with VOTE 0 and the counter's EPOCH (R414). STAMP is the fabric time or 0, as
R373 allows: a free choice (log entry 16). The release that this arrival may bring about places no other. -/
def Chip.placeSwap (c : Chip) (j : Nat) : Chip :=
  match c.rinseOf j with
  | none => c
  | some r =>
    let n := c.fresh
    let c := n.2
    let rep : Report := { epoch := (c.bar r.swap).epoch, vote := 0,
                          stamp := if Config.pick n.1 % 2 = 0 then 0 else c.time.ft, at_ := c.now }
    Chip.placeReport (fun c _ => c) (c.onRinse j (fun r => { r with reported := some rep })) r.swap j rep

/-- A counter takes an arrival. -/
def Chip.arrive (c : Chip) (b : Nat) (a : Arrival) : Chip := Chip.arriveWith Chip.placeSwap c b a

/-- The first packet of an opcode that waits at a quadrant's barrier unit. -/
def Chip.syncFront (c : Chip) (q op : Nat) : Option (Nat × Arr) :=
  c.syncIn.find? (fun x => x.1 == q && x.2.hdr.op == op)

/-- BARRIER_ARRIVE_TAKE: the barrier unit takes the oldest BARRIER_ARRIVE it holds (R377, R378, R388). -/
def barrierArriveTake (q : Nat) (c : Chip) : Chip :=
  match c.syncFront q 0x20 with
  | none => c
  | some x =>
    let c := { c with syncIn := c.syncIn.erase x }
    let h := x.2.hdr
    if c.isOn q 0x47 then
      c.arrive h.dest { port := x.2.port, epoch := fld h.aux 15 0, job := h.job, vote := payVote x.2.payload,
                        stamp := payStamp x.2.payload }
    else c

/-- BARRIER_RELEASE_RECEIVE: a counter in WAIT takes a release of its epoch from its parent; any other is discarded and
counted (R381). -/
def barrierReleaseReceive (q : Nat) (c : Chip) : Chip :=
  match c.syncFront q 0x21 with
  | none => c
  | some x =>
    let c := { c with syncIn := c.syncIn.erase x }
    let h := x.2.hdr
    let k := c.bar h.dest
    if !c.isOn q 0x47 then c
    else if k.valid && !k.bad && !k.root && k.wait && k.job == h.job && fld h.aux 15 0 == k.epoch &&
        c.isParent q (c.parentBank q k.job) k.parent x.2.port then
      Chip.releaseDown Chip.placeSwap c h.dest x.2.payload
    else c.bump (synQ q 0x218) 1

/-- BARRIER_LATE: a counter has stayed in COLLECT with arrivals, or in WAIT, for SYN_BAR_TIMEOUT (R385). -/
def barrierLate (b : Nat) (c : Chip) : Chip :=
  let q := b / 1024
  let k := c.bar b
  if k.valid && !k.late && (k.wait || decide (0 < k.arrived)) && c.isOn q 0x47 then
    let c := c.till (k.since + 1000 * fld (c.reg (synQ q 0x200)) 9 0)
    ((c.onBar b (fun k => { k with late := true })).bump (synQ q 0x220) 1).raise (synQ q 0) 1
  else c

/-! ### Fabric time (R390 to R397) -/

/-- The part is the time root (R392). -/
def Chip.timeRoot (c : Chip) : Bool := c.regBit (synC 0x300) 31

/-- PERIOD in ns. -/
def Chip.period (c : Chip) : Nat := 1000 * fld (c.reg (synC 0x300)) 6 0

/-- The payload of TIME_SYNC (R393). -/
def Chip.timePayload (c : Chip) (p : Nat) : List Byte :=
  let id := if c.timeRoot then c.ownId else c.time.rootId
  let stage := if c.timeRoot then 0 else c.time.stage
  leBytes 8 c.time.ft ++ leBytes 2 id ++ leBytes 1 stage ++ leBytes 1 (b2n c.time.holdover) ++
    leBytes 4 (SMap.getD c.time.seqs p 0) ++ leBytes 24 0

/-- The ports that TIME_SYNC goes to: set in SYN_TIME_DOWN and ACTIVE (R393). -/
def Chip.timeDown (c : Chip) : List Nat :=
  ((List.range 1024).filter (fun p => c.regBit (synC (0x310 + 4 * (p / 32))) (p % 32))).filter c.active

/-- TIME_SYNC_SEND: a tick of PERIOD on a root or a LOCKED follower with SEND_EN 1 (R391, R393). -/
def timeSyncSend (c : Chip) : Chip :=
  if c.isOn 24 0x47 && (c.timeRoot || c.time.locked) && c.regBit (synC 0x300) 30 then
    let c := c.tick 0 c.period
    c.each c.timeDown (fun c p =>
      let c := c.c0Send { net := 2, op := 0x22, src := c.ownId } (c.timePayload p) (some p)
      { c with time := { c.time with seqs := SMap.set c.time.seqs p ((SMap.getD c.time.seqs p 0 + 1) % 2 ^ 32) } })
  else c

/-- The one-way delay of a port: half of the round trip measured at INIT (R394). With no measurement the spec gives none, and
the delay is the free value `n` (log entry 17). -/
def Chip.delay (c : Chip) (p n : Nat) : Nat :=
  match (c.port p).rtts with
  | [] => (Config.anyWord n).toNat
  | l => medianOf l / 2

/-- The count of consecutive offsets of a follower, and LOCKED with it (R394). -/
def Chip.servoLock (c : Chip) (o : Int) : Chip :=
  let good := if o.natAbs ≤ 10 then c.time.good + 1 else 0
  let off := if 20 < o.natAbs then c.time.off + 1 else 0
  let c := { c with time := { c.time with good := good, off := off } }
  if !c.time.locked && decide (16 ≤ good) then c.setLocked true
  else if c.time.locked && decide (4 ≤ off) then c.setLocked false
  else c

/-- TIME_SYNC_RECEIVE: a follower takes a TIME_SYNC from its upstream port: step, servo, lock and STAGE (R394, R395). The
size of the slew is free within 200 ppm (log entry 13). -/
def timeSyncReceive (c : Chip) : Chip :=
  match c.timeIn with
  | [] => c
  | x :: rest =>
    let c := { c with timeIn := rest }
    let p := x.2.port
    if c.timeRoot || c.upstream != some p || !c.isOn 24 0x47 then c
    else
      let l := x.2.payload
      let n := c.fresh
      let o : Int := ((leAt l 0 8 + c.delay p n.1 : Nat) : Int) - (x.2.stamp : Int)
      let step := !c.time.locked && decide (1000 < o.natAbs)
      let mag : Int := ((Config.slewPpm n.1).val : Int)
      let c := n.2
      let c := { c with time := { c.time with
        ft := if step then ((c.time.ft : Int) + o).toNat else c.time.ft,
        slew := if step || o == 0 then 0 else if 0 < o then mag else -mag,
        stage := (byteAt l 10 + 1) % 256, rootId := leAt l 8 2, lastSync := c.now, holdover := false, offset := o } }
      let c := if step then c.raise (synC 0) 4 else c
      (c.bump (synC 0x3AC) 1).servoLock o

/-- TIME_HOLDOVER: a follower has taken no TIME_SYNC for 10 × PERIOD (R397). -/
def timeHoldover (c : Chip) : Chip :=
  if c.timeRoot || c.time.holdover || !c.isOn 24 0x47 then c
  else
    let c := c.till (c.time.lastSync + 10 * c.period)
    Chip.raise { c with time := { c.time with holdover := true } } (synC 0) 2

end Sys2Proof.Machine
end

