-- ==== Sys2Proof/Machine/TableCmd.lean ====
section
/-! DEFINITION. Table commands of the EDG, RTE, PEG, MCG, COL and SYN pages (R199, R203, R208, R226 to R229, R371, R386,
R400), what makes an entry in use (R401, R406, R407), and the bank that RWB registers reach (R402, R408). -/
namespace Sys2Proof.Machine

/-! ### Entry layouts (R226 to R229) -/

/-- The table of a page: 0 job rank, 1 rank, 2 route, 3 switch route, 4 path set, 5 bucket words, 6 group; by page number
and the TABLE field. -/
def tblOf (page n : Nat) : Option Nat :=
  if page = 0x40 then (if n = 0 then some 0 else if n = 1 then some 1 else none)
  else if page = 0x41 then (if n = 0 then some 2 else if n = 1 then some 3 else none)
  else if page = 0x42 then (if n = 0 then some 4 else if n = 1 then some 5 else none)
  else if page = 0x43 then (if n = 0 then some 6 else none)
  else none

/-- Entries of a table per bank (R228). -/
def tblSize (t : Nat) : Nat :=
  if t = 0 then 4096 else if t = 1 then 65536 else if t = 2 then 65536 else if t = 3 then 4096 else if t = 4 then 1024
  else if t = 5 then 262144 else 16384

/-- The named bits of each word of an entry; a table's length is the number of its words. -/
def tblMask (t : Nat) : List Nat :=
  if t = 0 then [0xFFFF, 0x8001FFFF]
  else if t = 1 then [0x8000FFFF]
  else if t = 2 then [0xFFF]
  else if t = 3 then [0xFFFF]
  else if t = 4 then 0x8000000F :: List.replicate 32 0x83FF83FF
  else if t = 5 then [0x3F3F3F3F]
  else [0x80000FFF, 0x8000031F, 0xFFF, 0xFFFF] ++ List.replicate 32 0xFFFFFFFF

/-- No word carries 1 outside its mask. -/
def maskOk : List Nat → List Word → Bool
  | [], _ => true
  | m :: ms, ws => ((ws.headD 0).toNat &&& m == (ws.headD 0).toNat) && maskOk ms ws.tail

/-- The value of an entry is accepted (R199, R203, R208, R226, R229). -/
def tblValueOk (t : Nat) (ws : List Word) : Bool :=
  maskOk (tblMask t) ws &&
  (if t = 0 then !bit (word ws 1) 31 || (fld (word ws 1) 16 0 != 0 &&
      decide (fld (word ws 0) 15 0 + fld (word ws 1) 16 0 ≤ 65536))
   else if t = 2 ∨ t = 3 then tgtKind (fld (word ws 0) 11 0) != 3
   else if t = 4 then decide (fld (word ws 0) 3 0 ≤ 10)
   else if t = 6 then tgtKind (fld (word ws 2) 11 0) != 3 && decide (fld (word ws 1) 4 0 ≤ 23)
   else true)

/-! ### In use (R401, R406, R407) -/

/-- The entry is invalid, as last written: a fill is always accepted (R407). -/
def Chip.tblInvalid (c : Chip) (q t : Nat) (bank : Bool) (idx : Nat) : Bool :=
  let e := c.entry q t bank idx
  if t = 0 then !bit (word e 1) 31
  else if t = 2 then tgtKind (fld (word e 0) 11 0) == 0
  else if t = 5 then !bit (word (c.entry q 4 bank (idx / 256)) 0) 31
  else !bit (word e 0) 31

/-- The jobs whose VALID job rank entry in a bank covers a rank index (R401). -/
def Chip.rankOwners (c : Chip) (q : Nat) (bank : Bool) (idx : Nat) : List Nat :=
  let lo := tblKey q 0 bank 0
  ((c.tables.filter (fun kv => decide (lo ≤ kv.1) && decide (kv.1 < lo + 4096) && bit (word kv.2 1) 31 &&
    decide (fld (word kv.2 0) 15 0 ≤ idx) && decide (idx < fld (word kv.2 0) 15 0 + fld (word kv.2 1) 16 0))).map
    (fun kv => kv.1 - lo))

/-- A write to an entry is refused as in use: some job that owns it references the bank, and the entry is not invalid
(R401, R407). The switch route table is not banked. -/
def Chip.tblInUse (c : Chip) (q t : Nat) (bank : Bool) (idx : Nat) (ws : List Word) : Bool :=
  if t = 3 || c.tblInvalid q t bank idx then false
  else if t = 0 then c.refs idx bank
  else if t = 1 then (c.rankOwners q bank idx).any (fun j => c.refs j bank)
  else if t = 6 then c.refs (fld (word (c.entry q 6 bank idx) 0) 11 0) bank || c.refs (fld (word ws 0) 11 0) bank
  else c.anyRefs bank

/-- An entry takes a value; the write clears a bad mark (R564). -/
def Chip.putEntry (c : Chip) (q t : Nat) (bank : Bool) (idx : Nat) (ws : List Word) : Chip :=
  let k := tblKey q t (bank && t != 3) idx
  { c with tables := SMap.set c.tables k ws, badEnt := c.badEnt.filter (· != k) }

/-! ### Items of a resync (R424, R442 to R444) -/

/-- WHERE: table, bank, press die (R443). -/
def rsWhere (t : Nat) (bank : Bool) (d : Nat) : Nat := t + put (b2n bank) 4 + put d 5

/-- The record of a quadrant table entry: the block and TABLE number of table `t`. -/
def tblRec (t : Nat) (bank : Bool) (idx : Nat) (ws : List Word) : List Byte :=
  let bt := [(0, 0), (0, 1), (1, 0), (1, 1), (2, 0), (2, 1), (3, 0)].getD t (0, 0)
  rsRec bt.1 (rsWhere bt.2 (bank && t != 3) 0) idx (fit 0 (tblMask t).length ws)

/-- The record of a slot or member table entry. -/
def colRec (d x t : Nat) (bank : Bool) (idx : Nat) (ws : List Word) : List Byte :=
  rsRec 4 (rsWhere t bank d) (65536 * x + idx) (fit 0 (if t = 0 then 2 else 1) ws)

/-- The record of a template in a bank: PRS_CTX_MODE and the seven RWB registers of R346. -/
def Chip.tmplRec (c : Chip) (d x : Nat) (bank : Bool) : List Byte :=
  rsRec 5 (rsWhere 0 bank d) x ((prs d (0x200 + 4 * x) :: (List.range 7).map (fun i => prs d (0x400 + 0x20 * x + 4 * i))).map
    (fun a => BitVec.ofNat 32 (c.reg (banked a bank))))

/-- The record of a register. -/
def regRec (a v : Nat) : List Byte := rsRec 8 0 0 [BitVec.ofNat 32 a, BitVec.ofNat 32 v]

/-- A part in SYNCING refuses management writes to the items of R442, as in use (R444). -/
def Chip.syncing (c : Chip) : Bool := c.twin.role == 3

/-! ### Commands -/

/-- The data registers of a table page at `base`, `n` words. -/
def Chip.dataWords (c : Chip) (base n : Nat) : List Word :=
  (List.range n).map (fun i => BitVec.ofNat 32 (c.reg (base + 4 * i)))

/-- Data registers take words; those beyond the entry's length read 0 (R226). -/
def Chip.fillData (c : Chip) (base n : Nat) (ws : List Word) : Chip :=
  c.each (List.range n) (fun c i => c.setReg (base + 4 * i) (word ws i))

/-- A table command of a quadrant page (R226 to R228); GO reads 0 once it has completed. DESIGN CHOICE: a TABLE that names no table of
the block completes with RESULT 2; log entry 101. -/
def Chip.tblCommand (c : Chip) (q page v : Nat) : Chip :=
  let pa := regAddr q page 0
  let c := c.setReg (pa + 0x100) (v % 2 ^ 31)
  let bank := bit v 29
  let idx := fld v 19 0
  let done (c : Chip) (r : Nat) : Chip := c.setReg (pa + 0x104) r
  match tblOf page (fld v 27 24) with
  | none => done c 2
  | some t =>
    if tblSize t ≤ idx then done c 2
    else if bit v 30 then
      let ws := c.dataWords (pa + 0x140) (tblMask t).length
      if !tblValueOk t ws then done c 2
      else if c.syncing || c.tblInUse q t bank idx ws then done c 1
      else
        let c := c.putEntry q t bank idx ws
        done (if q = 0 then c.rsItem (tblRec t bank idx ws) else c) 0
    else
      let e := if c.badEnt.contains (tblKey q t (bank && t != 3) idx) then [] else c.entry q t bank idx
      done (c.fillData (pa + 0x140) 36 e) 0

/-- The slot or member table of a context in a bank is in use (R371, R406, R407). -/
def Chip.ctxBankInUse (c : Chip) (d x : Nat) (bank : Bool) : Bool :=
  let y := c.ctx (24 * d + x)
  if y.st = 0 ∨ y.st = 3 then false
  else c.refs (c.ctxJob d x) bank || y.chunks.any (fun k => !k.done && k.bank == bank)

/-- A table command of a COL page (R347, R371). -/
def Chip.colCommand (c : Chip) (d v : Nat) : Chip :=
  let c := c.setReg (col d 0x100) (v % 2 ^ 31)
  let x := fld v 27 23
  let t := fld v 28 28
  let bank := bit v 29
  let idx := fld v 16 0
  let mask := if t = 0 then [0xC000FFFF, 0xFFFFFFFF] else [0x80FFFFFF]
  let done (c : Chip) (r : Nat) : Chip := c.setReg (col d 0x104) r
  if 23 < x || (if t = 0 then 256 else 65536) ≤ idx then done c 2
  else if bit v 30 then
    let ws := c.dataWords (col d 0x140) mask.length
    if !maskOk mask ws then done c 2
    else if c.syncing || c.ctxBankInUse d x bank then done c 1
    else done (Chip.rsItem { c with tables := SMap.set c.tables (colKey d x t bank idx) ws } (colRec d x t bank idx ws)) 0
  else done (c.fillData (col d 0x140) 2 (SMap.getD c.tables (colKey d x t bank idx) [])) 0

/-- A barrier configuration is refused for its value (R386, R400). -/
def barValueOk (ws : List Word) : Bool :=
  let w0 := word ws 0
  let ex := fld (word ws 1) 26 16
  let lead := fld (word ws 2) 9 0
  let kind := tgtKind (fld (word ws 1) 11 0)
  maskOk [0xF8000FFF, 0x07FF0FFF, 0x3FF, 0xFFFF] ws && decide (fld w0 29 28 ≤ 1) &&
  !(bit w0 31 && (ex == 0 || decide (1025 < ex))) &&
  !(bit w0 31 && !bit w0 30 && (kind == 0 || kind == 3)) &&
  !(bit w0 30 && fld w0 29 28 == 1 && (lead == 0 || decide (1000 < lead)))

/-- The words of a counter's entry (R400). -/
def Bar.words (k : Bar) : List Word :=
  let w (n : Nat) : Word := BitVec.ofNat 32 n
  [w (put (b2n k.valid) 31 + put (b2n k.root) 30 + put k.action 28 + put (b2n k.swapBank) 27 + k.job),
   w (put k.expect 16 + k.parent), w k.lead, w k.epoch,
   w (put (b2n k.wait) 30 + put (b2n k.loc) 16 + k.arrived), w k.vote, w (k.stamp % 2 ^ 32), w (k.stamp / 2 ^ 32)] ++
  (List.range 32).map (fun i => w (ofBits ((k.mask.filter (fun p => p / 32 == i)).map (· % 32))))

/-- The counter that a configuration write makes: runtime state cleared (R386). -/
def Bar.ofWords (ws : List Word) : Bar :=
  let w0 := word ws 0
  { valid := bit w0 31, root := bit w0 30, action := fld w0 29 28, swapBank := bit w0 27, job := fld w0 11 0,
    expect := fld (word ws 1) 26 16, parent := fld (word ws 1) 11 0, lead := fld (word ws 2) 9 0,
    epoch := fld (word ws 3) 15 0 }

/-- A barrier table command (R386, R400): another quadrant than the counter's home changes nothing. A counter marked bad
reads as invalid (R564). -/
def Chip.synCommand (c : Chip) (q v : Nat) : Chip :=
  let c := c.setReg (synQ q 0x100) (v % 2 ^ 31)
  let b := fld v 11 0
  let k := c.bar b
  let done (c : Chip) (r : Nat) : Chip := c.setReg (synQ q 0x104) r
  if b / 1024 ≠ q then done c 0
  else if bit v 30 then
    let ws := c.dataWords (synQ q 0x140) 4
    if !barValueOk ws then done c 2
    else if c.syncing || (!bit v 29 && (decide (0 < k.arrived) || k.wait)) then done c 1
    else done ((c.onBar b (fun _ => Bar.ofWords ws)).rsItem (rsRec 6 0 b ws)) 0
  else done (c.fillData (synQ q 0x140) 40 (if k.bad then [] else k.words)) 0

/-! ### RWB registers (R401, R402, R408) -/

/-- The context of an RWB register of a PRS page: PRS_CTX_MODE at 0x200, the templates at 0x400. -/
def rwbCtx (off : Nat) : Nat := if off < 0x400 then (off - 0x200) / 4 else (off - 0x400) / 0x20

/-- The bank that a write of an RWB register reaches: the shadow bank in C0's copy, or READ_BANK (R408). -/
def Chip.rwbTarget (c : Chip) (d off : Nat) : Bool :=
  let v := c.reg (prs d 0x30)
  if bit v 8 then bit v 0 else !(c.job (c.ctxJob d (rwbCtx off))).bankIn 72

/-- The bank that a read of an RWB register returns (R408). -/
def Chip.rwbSource (c : Chip) (d off : Nat) : Bool :=
  let v := c.reg (prs d 0x30)
  if bit v 1 then (c.job (c.ctxJob d (rwbCtx off))).bankIn 72 else bit v 0

end Sys2Proof.Machine
end

