-- ==== Sys2Proof/Machine/Banks.lean ====
section
/-! DEFINITION. The BNK commands (R404, R411, R417, R419) and the rinse sequencer (R412 to R414, R417). -/
namespace Sys2Proof.Machine

/-- A SET of the job is accepted: no rinse, no flip scheduled or under way, both in-flight counts 0
(R404); a part in SYNCING takes its selections from the resync alone (R444). -/
def Chip.setOk (c : Chip) (j : Nat) : Bool :=
  !c.syncing && (c.rinseOf j).isNone && (c.job j).pend.isNone && (c.job j).moved.isEmpty && c.inFlight j false == 0 &&
    c.inFlight j true == 0

/-- An accepted SET moves a job to a bank in every island (R403, R404). -/
def Chip.setBank (c : Chip) (j : Nat) (b : Bool) : Chip :=
  if (c.job j).sel == b then c else c.flipAll j b

/-- BNK_CMD_STATUS takes a result. -/
def Chip.bnkResult (c : Chip) (r : Nat) : Chip := c.setReg (bnk 0x104) r

/-- SET (R404). -/
def Chip.bnkSet (c : Chip) (j : Nat) (b : Bool) : Chip :=
  if c.setOk j then (c.setBank j b).bnkResult 0 else c.bnkResult 1

/-- SET_IDLE: SET for every job that meets its conditions (R404). -/
def Chip.bnkSetIdle (c : Chip) (b : Bool) : Chip :=
  (c.each (List.range 4096) (fun c j => if c.setOk j then c.setBank j b else c)).bnkResult 0

/-- A counter serves a rinse of the job: VALID with its JOB (R411). -/
def Chip.rinseBar (c : Chip) (b j : Nat) : Bool := (c.bar b).valid && !(c.bar b).bad && (c.bar b).job == j

/-- The result of RINSE for a job (R411). -/
def Chip.rinseResult (c : Chip) (j : Nat) : Nat :=
  let arg := c.reg (bnk 0x108)
  let drain := fld arg 11 0
  let swap := fld arg 27 16
  if (c.rinseOf j).isSome || (c.job j).pend.isSome then 1
  else if 64 ≤ c.rinses.length then 3
  else if c.rinseBar drain j && c.rinseBar swap j && (c.bar drain).action != 1 && drain != swap then 0
  else 2

/-- RINSE (R411, R412): the job is held from its acceptance on. -/
def Chip.bnkRinse (c : Chip) (j : Nat) : Chip :=
  let r := c.rinseResult j
  let arg := c.reg (bnk 0x108)
  let c := c.bnkResult r
  if r = 0 then
    { c with rinses := c.rinses ++ [({ job := j, drain := fld arg 11 0, swap := fld arg 27 16, start := c.now, phase := 1,
                                       round := 0, reported := none, rose := false, late := false } : Rinse)] }
  else c

/-- ABORT: hold ends and the rinse ends without a flip; without a rinse it completes with RESULT 1 (R417, R419). -/
def Chip.bnkAbort (c : Chip) (j : Nat) : Chip :=
  if (c.rinseOf j).isSome then (c.endRinse j false).bnkResult 0 else c.bnkResult 1

/-- A BNK_CMD with GO (R404, R411, R417, R419). The caller has checked CMD. -/
def Chip.bnkCommand (c : Chip) (v : Nat) : Chip :=
  let c := c.setReg (bnk 0x100) (v % 2 ^ 31)
  let j := fld v 11 0
  if fld v 27 24 = 1 then c.bnkSet j (bit v 20)
  else if fld v 27 24 = 2 then c.bnkRinse j
  else if fld v 27 24 = 3 then c.bnkAbort j
  else c.bnkSetIdle (bit v 20)

/-- HOLD_EFFECTIVE: hold is in effect in every island, and round 1 starts (R412, R413). -/
def holdEffective (j : Nat) (c : Chip) : Chip :=
  match c.rinseOf j with
  | some r => if r.phase = 1 then c.startRound j else c
  | none => c

/-- DRAINED_REPORT: D(j) is 0, and the drained report is placed on the drain counter (R413). -/
def drainedReport (j : Nat) (c : Chip) : Chip :=
  match c.rinseOf j with
  | none => c
  | some r =>
    if r.phase = 2 ∧ r.reported.isNone ∧ c.drain j = 0 then
      let rep : Report := { epoch := (c.bar r.drain).epoch, vote := if r.round = 1 ∨ r.rose then 1 else 0,
                            stamp := c.time.ft, at_ := c.now }
      Chip.placeReport Chip.placeSwap (c.onRinse j (fun r => { r with reported := some rep, rose := false })) r.drain j rep
    else c

/-- A report is placed again 5 µs after it was last placed, while its release has not come (R413, R414). -/
def Chip.repeatReport (c : Chip) (j phase : Nat) : Chip :=
  match c.rinseOf j with
  | none => c
  | some r =>
    match r.reported with
    | none => c
    | some rep =>
      if r.phase = phase then
        let c := c.till (rep.at_ + 5000)
        let rep := { rep with at_ := c.now }
        Chip.placeReport Chip.placeSwap (c.onRinse j (fun r => { r with reported := some rep }))
          (if phase = 2 then r.drain else r.swap) j rep
      else c

/-- DRAINED_REPORT_REPEAT (R413). -/
def drainedRepeat (j : Nat) (c : Chip) : Chip := c.repeatReport j 2

/-- SWAP_ARRIVAL_REPEAT (R414). -/
def swapRepeat (j : Nat) (c : Chip) : Chip := c.repeatReport j 3

/-- RINSE_LATE: a rinse has not ended BNK_RINSE_LIMIT after its acceptance (R417). -/
def rinseLate (j : Nat) (c : Chip) : Chip :=
  match c.rinseOf j with
  | some r =>
    if r.late then c
    else
      let c := c.till (r.start + 1000 * fld (c.reg (bnk 0x10C)) 15 0)
      ((c.onRinse j (fun r => { r with late := true })).bump (bnk 0x14C) 1).raise (bnk 0) 4
  | none => c

end Sys2Proof.Machine
end

