-- ==== Sys2Proof/Machine/Twin.lean ====
section
/-! DEFINITION. The twin unit (chapter 13): pairing, beats and their two paths, roles and the lease, digests and fencing,
resynchronisation. -/
namespace Sys2Proof.Machine

/-- LEASE in ns (R430). -/
def lease : Nat := 20000

/-- The twin unit works: twin mode on, its page ON, C0 out of reset (R432, R553). -/
def Chip.twinOn (c : Chip) : Bool := c.twin.role != 0 && c.isOn 24 0x4A && c.rst.c0Up

/-- The twin link carries packets: its port is in QUARANTINE or ACTIVE (R426). -/
def Chip.twinLinkUp (c : Chip) : Bool :=
  c.regBit (twn 0x104) 31 &&
    (match (c.port (fld (c.reg (twn 0x104)) 9 0)).st with | .quarantine | .active => true | _ => false)

/-- A change of the twin unit. -/
def Chip.onTwin (c : Chip) (f : Twin → Twin) : Chip := { c with twin := f c.twin }

/-- A beat of the wrong side or pair was taken within LEASE (R423). -/
def Chip.recent (c : Chip) (o : Option Nat) : Bool := match o with | some t => decide (c.now < t + lease) | none => false

/-- SIDE_CLASH and PAIR_MISMATCH clear once no such beat has come for LEASE; the unit looks at its own steps (R423, R441). -/
def Chip.flagsExpire (c : Chip) : Chip :=
  let keep (o : Option Nat) : Option Nat := if c.recent o then o else none
  let t := c.twin
  if t.clashAt = keep t.clashAt ∧ t.mismatchAt = keep t.mismatchAt then c
  else (c.onTwin (fun t => { t with clashAt := keep t.clashAt, mismatchAt := keep t.mismatchAt })).raise (twn 0) 4

/-! ### Beat records (R425 to R427) -/

/-- The part's beat record; BEAT_SEQ counts the records before it. -/
def Chip.beat (c : Chip) (relayed : Bool) (target : Nat) : List Byte :=
  let t := c.twin
  leBytes 2 c.pairId ++ leBytes 1 (c.sideCode + put t.role 1 + put (b2n relayed) 4 + put (b2n t.partition) 5) ++
  leBytes 1 0 ++ leBytes 4 t.term ++ leBytes 4 t.beatSeq ++ leBytes 4 (min c.errSeen 0xFFFFFFFF) ++
  leBytes 4 (t.sseq % 2 ^ 30) ++ leBytes 2 target ++ leBytes 10 0

/-- A beat record has been originated. -/
def Chip.beatSent (c : Chip) : Chip := c.onTwin (fun t => { t with beatSeq := (t.beatSeq + 1) % 2 ^ 32 })

/-- A beat record goes in-band in a MGMT_REQ of code 0x7B01; each pair of DEST and TC has a SEQ stream of its own (R166, R426). -/
def Chip.inband (c : Chip) (dest : Nat) (record : List Byte) : Chip :=
  let tc := fld (c.reg (twn 0x108)) 17 16
  let k := put tc 16 + dest
  let n := SMap.getD c.twin.ibSeq k 0
  let h : Hdr := { op := 6, sw := true, dest := dest, src := fld (c.reg (twn 0x10C)) 15 0, tc := tc, seq := n }
  (c.c0Send h (leBytes 2 0x7B01 ++ leBytes 2 c.ownId ++ leBytes 4 0 ++ record) none).onTwin
    (fun t => { t with ibSeq := SMap.set t.ibSeq k ((n + 1) % 2 ^ 24) })

/-- TWIN_BEAT_SEND: every 1 µs a beat record goes out on the twin link (R426). -/
def twinBeatSend (c : Chip) : Chip :=
  if c.twinOn && c.twinLinkUp then
    let c := (c.tick 1 1000).flagsExpire
    (c.twinSend 0x30 (c.beat false 0)).beatSent
  else c

/-- INBAND_BEAT_SEND: every 4 µs a beat record goes out by the in-band path (R426). -/
def inbandBeatSend (c : Chip) : Chip :=
  if c.twinOn && c.regBit (twn 0x108) 31 then
    let c := (c.tick 2 4000).flagsExpire
    (c.inband (fld (c.reg (twn 0x108)) 15 0) (c.beat true c.ownId)).beatSent
  else c

/-! ### Roles (R429, R430) -/

/-- The part takes another role; every change but that to FENCED is reported with EVENT 8 (R430, R441).
A dump that is being sent is cut off where the role suppresses it (R465). -/
def Chip.setRole (c : Chip) (r : Nat) : Chip :=
  let c := c.onTwin (fun t => { t with role := r, armedAt := c.now, partition := false, txOn := false, rsOn := false })
  let c := if c.suppressed then { c with c0Out := c.c0Out.filter (fun o => o.hdr.op != 0x17) } else c
  let c := c.raise (twn 0) 1
  if r = 4 then c else c.twinEvent 8 0 0 0 0 false

/-- Promotion to ACTIVE; `part` when no beat has come for LEASE, and PARTITION begins with it (R430, R432, R435). -/
def Chip.promote (c : Chip) (part : Bool) : Chip :=
  let t := c.twin
  let c := c.onTwin (fun t => { t with
    term := (max t.term t.peerTerm + 1) % 2 ^ 32, sseq := max (t.sseq % 2 ^ 30) (t.peerSseq % 2 ^ 30), role := 2,
    armedAt := c.now, partition := part, partAt := c.now, txOn := false, rsOn := false })
  let c := (c.bump (twn 0x154) 1).raise (twn 0) (if part then 9 else 1)
  let c := if part then c.twinEvent 3 0 0 0 0 false else c
  if t.role = 2 then c else c.twinEvent 8 0 0 0 0 false

/-- The part enters FENCED: one last NOTICE, of EVENT 2 (R439). -/
def Chip.fence (c : Chip) : Chip :=
  let c := (c.setRole 4).onTwin (fun t => { t with fenceAt := none, fencedAt := some c.now })
  c.twinEvent 2 0 0 0 0 true

/-- The part enters SYNCING and waits for records (R444). -/
def Chip.startSync (c : Chip) : Chip :=
  (c.setRole 3).onTwin (fun t => { t with rsCount := 0, rsAt := c.now, rsFloors := [] })

/-- A resync fails: EVENT 7, then FENCED (R430, R444). -/
def Chip.syncFail (c : Chip) : Chip := ((c.raise (twn 0) 16).twinEvent 7 0 0 0 0 false).fence

/-! ### What the active part sends (R442 to R444) -/

/-- The registers that a resync copies, in the order of R442. -/
def rsRegs : List Nat :=
  (List.range 4).flatMap (fun q => (List.range 8).map (fun i => regAddr q 0x40 (0x200 + 4 * i))) ++
  (List.range 4).flatMap (fun q => [0x204, 0x210, 0x214, 0x218].map (regAddr q 0x41)) ++
  (List.range 4).map (fun q => regAddr q 0x42 0x220) ++
  (List.range 4).flatMap (fun d => (List.range 24).flatMap (fun x => [prs d (0x41C + 0x20 * x), col d (0x380 + 4 * x)]))

/-- The records of the quadrants' tables, as Q0 holds them. -/
def Chip.rsTables (c : Chip) : List (List Byte) :=
  (List.range 7).flatMap (fun t => (if t = 3 then [false] else [false, true]).flatMap (fun b =>
    (List.range (tblSize t)).map (fun i => tblRec t b i (c.entry 0 t b i))))

/-- The records of the press dies' tables and templates. -/
def Chip.rsPress (c : Chip) : List (List Byte) :=
  (List.range 4).flatMap (fun d => (List.range 24).flatMap (fun x => [false, true].flatMap (fun b =>
    c.tmplRec d x b ::
      ((List.range 256).map (fun i => colRec d x 0 b i (SMap.getD c.tables (colKey d x 0 b i) [])) ++
       (List.range 65536).map (fun i => colRec d x 1 b i (SMap.getD c.tables (colKey d x 1 b i) []))))))

/-- The records of the barrier counters, the selections and the registers. -/
def Chip.rsRest (c : Chip) : List (List Byte) :=
  (List.range 4096).map (fun b => rsRec 6 0 b ((c.bar b).words.take 4)) ++
  (List.range 128).map (fun i => rsRec 7 0 i [BitVec.ofNat 32 (c.selectWord i)]) ++
  rsRegs.map (fun a => regRec a (c.reg a))

/-- The FLOOR of each context that is ON. -/
def Chip.rsFloorRecs (c : Chip) : List (List Byte) :=
  ((List.range 96).filter (fun k => (c.ctx k).st == 1)).map (fun k =>
    regRec (col (k / 24) (0x280 + 4 * (k % 24))) (c.ctx k).floor)

/-- Records packed into payloads of at most 8,176 bytes: each payload with its number of records (DESIGN CHOICE; log entry
24). -/
def packRecs (l : List (List Byte)) : List (List Byte × Nat) :=
  (l.foldl (fun acc r => match acc with
    | [] => [(r, 1)]
    | (p, n) :: t => if p.length + r.length ≤ 8176 then (p ++ r, n + 1) :: t else (r, 1) :: (p, n) :: t) []).reverse

/-- Records leave in ENTRY packets (R443). -/
def Chip.rsSend (c : Chip) (l : List (List Byte)) : Chip :=
  c.each (packRecs l) (fun c p =>
    let n := c.twin.txCount + p.2
    Chip.twinSend { c with twin := { c.twin with txCount := n } } 0x32 (c.rsPayload 2 n p.1))

/-- The active part answers a part in SYNCING: START, then every item; not while a rinse is in progress (R444, R445). -/
def Chip.rsStart (c : Chip) : Chip :=
  if c.twin.txOn || !c.rinses.isEmpty then c
  else
    let c := c.onTwin (fun t => { t with txOn := true, txCount := 0, txTail := none })
    let c := c.twinSend 0x32 (c.rsPayload 1 0 [])
    c.rsSend (c.rsTables ++ c.rsPress ++ c.rsRest)

/-- RESYNC_END_SEND: every item has been sent; the FLOOR of every context that is ON goes out, then END (R444). -/
def resyncEndSend (c : Chip) : Chip :=
  if c.twinOn && c.twin.txOn && c.twin.txTail.isNone then
    let c := c.rsSend c.rsFloorRecs
    (c.twinSend 0x32 (c.rsPayload 3 c.twin.txCount [])).onTwin (fun t => { t with txTail := some c.now })
  else c

/-- RESYNC_TAIL_END: 1 ms after END (R444). -/
def resyncTailEnd (c : Chip) : Chip :=
  match c.twin.txTail with
  | some t => if c.twin.txOn then (c.till (t + 1000000)).onTwin (fun t => { t with txOn := false, txTail := none }) else c
  | none => c

/-! ### Taking a beat (R423, R428, R430, R432, R435, R441) -/

/-- A record with the wrong pair or side: its flag, PAIRING and a twin event when the flag rises (R423, R441). -/
def Chip.beatBad (c : Chip) (clash : Bool) : Chip :=
  let was := c.recent (if clash then c.twin.clashAt else c.twin.mismatchAt)
  let c := c.onTwin (fun t => if clash then { t with clashAt := some c.now } else { t with mismatchAt := some c.now })
  if was then c else (c.raise (twn 0) 4).twinEvent (if clash then 4 else 5) 0 0 0 0 false

/-- What a beat taken from the peer does to the role (R430). `first` is the first beat after pairing. -/
def Chip.beatRole (c : Chip) (first : Bool) : Chip :=
  let t := c.twin
  if t.role = 2 then
    if t.peerRole = 2 ∧ (t.term < t.peerTerm ∨ (t.term = t.peerTerm ∧ c.sideCode = 1)) then c.setRole 1
    else if t.peerRole = 3 then c.rsStart
    else c
  else if t.role = 1 then
    if t.peerRole = 4 ∨ t.peerRole = 3 ∨ (c.sideCode = 0 ∧ t.peerRole = 1) then
      let c := c.promote false
      if t.peerRole = 3 then c.rsStart else c
    else if first ∧ t.peerRole = 2 ∧ c.regBit (twn 0x100) 3 then c.startSync
    else c
  else c

/-- A beat record arrives by a path, 0 the twin link and 1 in-band, and is taken or discarded (R428). -/
def Chip.takeBeat (c : Chip) (path : Nat) (l : List Byte) : Chip :=
  let c := c.flagsExpire
  let st := byteAt l 2
  if leAt l 0 2 ≠ c.pairId then c.beatBad false
  else if fld st 0 0 = c.sideCode then c.beatBad true
  else
    let seq := leAt l 8 4
    if (match c.twin.peerSeq with | some k => decide (seq ≤ k) | none => false) then c
    else
      let first := !c.twin.paired
      let c := c.bump (twn (if path = 0 then 0x140 else 0x144)) 1
      let c := c.onTwin (fun t => { t with
        peerSeq := some seq, peerRole := fld st 3 1, peerTerm := leAt l 4 4, peerErr := leAt l 12 4,
        peerSseq := leAt l 16 4, paired := true, partition := false, lastBeat := some c.now,
        lastLink := if path = 0 then some c.now else t.lastLink, lastIb := if path = 0 then t.lastIb else some c.now,
        sseq := if t.role = 2 then t.sseq else leAt l 16 4 % 2 ^ 30,
        fenceAt := if fld st 3 1 = 4 then none else t.fenceAt,
        count := if first then [] else t.count })
      let c := if first then c.raise (twn 0) 4 else c
      (if path = 0 then c.twinLinkPath else c.twinPath path true).beatRole first

/-- A record is passed on in-band to the pair it is bound for (R427). -/
def Chip.relayIn (c : Chip) (l : List Byte) : Chip := (c.inband (leAt l 20 2) l).bump (twn 0x158) 1

/-- The oldest packet at the twin unit of an opcode. -/
def Chip.twinFront (c : Chip) (op : Nat) : Option (Nat × Arr) := c.twinIn.find? (fun x => x.2.hdr.op == op)

/-- TWIN_BEAT_RECEIVE: a TWIN_BEAT of the twin link is taken, or passed on in-band (R427, R428). -/
def twinBeatReceive (c : Chip) : Chip :=
  match c.twinFront 0x30 with
  | none => c
  | some x =>
    let c := { c with twinIn := c.twinIn.erase x }
    let l := x.2.payload
    if !c.twinOn || !c.isTwinLink x.2.port || l.length != 32 then c
    else if bit (byteAt l 2) 4 then
      if leAt l 20 2 = c.ownId then c.takeBeat 1 l else c.relayIn l
    else c.takeBeat 0 l

/-- A management request carries a beat record (R427). -/
def beatRequest (a : Arr) : Bool := a.hdr.op == 6 && leAt a.payload 0 2 == 0x7B01

/-- INBAND_BEAT_RECEIVE: a MGMT_REQ of code 0x7B01 is taken as a beat, or relayed over the twin link (R427). -/
def inbandBeatReceive (c : Chip) : Chip :=
  match c.c0In.find? (fun x => beatRequest x.2) with
  | none => c
  | some x =>
    if !c.twinOn then c
    else
      let c := { c with c0In := c.c0In.erase x }
      let l := fit 0 32 (x.2.payload.drop 8)
      if leAt l 20 2 = c.ownId then c.takeBeat 1 l
      else if c.twinLinkUp then (c.twinSend 0x30 l).bump (twn 0x158) 1
      else c

/-! ### Time (R430, R432, R441) -/

/-- No beat has been taken for LEASE since the role was entered: STANDBY promotes, SYNCING is FENCED, ACTIVE is in PARTITION (R430,
R432). -/
def Chip.leaseRole (c : Chip) : Chip :=
  let r := c.twin.role
  if r = 1 then c.promote true
  else if r = 3 then c.fence
  else if r = 2 ∧ !c.twin.partition then
    let c := (c.onTwin (fun t => { t with partition := true, partAt := c.now })).raise (twn 0) 8
    c.twinEvent 3 0 0 0 0 false
  else c

/-- LEASE_EXPIRE: LEASE after the last beat taken PAIRED ends; the role follows once LEASE has also passed since it was entered
(R423, R430, R432; DESIGN CHOICE, log entry 88). -/
def leaseExpire (c : Chip) : Chip :=
  if !c.twinOn || (c.twin.partition && !c.twin.paired) then c.flagsExpire
  else
    let last := c.twin.lastBeat.getD 0
    let was := c.twin.paired
    let c := (c.till (if was then last + lease else max last c.twin.armedAt + lease)).flagsExpire
    let c := if was then (c.onTwin (fun t => { t with paired := false })).raise (twn 0) 4 else c
    if c.now < c.twin.armedAt + lease then c else c.leaseRole

/-- PARTITION_NOTICE_REPEAT: 1 ms of PARTITION has passed since the last notice (R432). -/
def partitionRepeat (c : Chip) : Chip :=
  if c.twinOn && c.twin.partition then
    let c := c.till (c.twin.partAt + 1000000)
    Chip.twinEvent (c.onTwin (fun t => { t with partAt := c.now })) 3 0 0 0 0 false
  else c

/-- PATH_STALE: no beat has been taken on a path for 14 µs (R441). -/
def pathStale (i : Nat) (c : Chip) : Chip :=
  if c.twinOn && c.twin.paths.getD i false then
    let last := if i = 0 then c.twin.lastLink else c.twin.lastIb
    (c.till (last.getD 0 + 14000)).twinPath i false
  else c

/-! ### Digests (R437, R438) -/

/-- DIGEST_HOLD in ns. -/
def Chip.digestHold (c : Chip) : Nat := 1000 * fld (c.reg (twn 0x118)) 25 16

/-- CMP_WIN. -/
def Chip.cmpWin (c : Chip) : Nat := fld (c.reg (twn 0x114)) 23 16

/-- The first `n` entries not yet sent are marked sent. -/
def markSent : Nat → List DigEnt → List DigEnt
  | _, [] => []
  | 0, l => l
  | n + 1, e :: t => if e.sent then e :: markSent (n + 1) t else { e with sent := true } :: markSent n t

/-- One chunk entry of a digest. -/
def DigEnt.bytes (e : DigEnt) : List Byte :=
  leBytes 4 e.chunk ++ leBytes 1 e.cstate ++ leBytes 3 0 ++ leBytes 4 e.crc

/-- A count joins a history of CMP_WIN counts. -/
def histAdd (n : Nat) (m : SMap (List (Nat × Bool))) (p : Nat) (v : Nat × Bool) : SMap (List (Nat × Bool)) :=
  let l := SMap.getD m p [] ++ [v]
  SMap.set m p (l.drop (l.length - n))

/-- TWIN_DIGEST_SEND: every 1 µs the part sends a digest over the twin link (R437). -/
def twinDigestSend (c : Chip) : Chip :=
  if c.twinOn && c.twinLinkUp then
    let c := c.tick 3 1000
    let t := c.twin
    let ents := (t.own.filter (fun e => !e.sent)).take 596
    let ports := (List.range 256).map (· + 256 * (t.digestSeq % 4))
    let counts := ports.map (fun p => (p, SMap.getD t.count p 0, t.disturbed.contains p))
    let pay := leBytes 2 c.pairId ++ leBytes 1 c.sideCode ++ leBytes 1 0 ++ leBytes 4 t.digestSeq ++
      leBytes 2 ents.length ++ leBytes 6 0 ++ counts.flatMap (fun x => leBytes 4 (x.2.1 + put (b2n x.2.2) 31)) ++
      ents.flatMap DigEnt.bytes
    let c := c.onTwin (fun t => { t with
      own := markSent 596 t.own, digestSeq := (t.digestSeq + 1) % 2 ^ 32,
      disturbed := t.disturbed.filter (fun p => !ports.contains p),
      ownHist := counts.foldl (fun m x => histAdd c.cmpWin m x.1 x.2) t.ownHist })
    c.twinSend 0x31 pay
  else c

/-- A fence decision (R439): side B acts at once, side A 2 µs later. -/
def Chip.fenceDecide (c : Chip) : Chip :=
  let t := c.twin
  if c.regBit (twn 0x100) 2 && decide (0 < c.errSeen) && t.peerErr == 0 && (t.peerRole == 1 || t.peerRole == 2) &&
      (t.role == 1 || t.role == 2) then
    if c.sideCode = 1 then c.fence
    else c.onTwin (fun t => { t with fenceAt := t.fenceAt.orElse (fun _ => some (c.now + 2000)) })
  else c

/-- A digest test fails (R438, R439, R441). -/
def Chip.mismatch (c : Chip) (test what own peer : Nat) : Chip :=
  let c := (c.bump (twn 0x148) 1).raise (twn 0) 2
  let near := match c.twin.lastTest with | some t => decide (c.now < t + 1000000) | none => false
  let c := if near then c else
    (c.onTwin (fun t => { t with lastTest := some c.now })).twinEvent 1 test what own peer false
  c.fenceDecide

/-- The same press die, context, generation and chunk. -/
def DigEnt.same (a b : DigEnt) : Bool := a.chunk == b.chunk && fld a.cstate 1 0 == fld b.cstate 1 0

/-- One own entry is compared with the peer's entry of the same chunk, within DIGEST_HOLD (R438). -/
def Chip.digestMatch (c : Chip) (e : DigEnt) : Chip :=
  if e.matched || decide (e.at_ + c.digestHold < c.now) then c
  else match c.twin.peer.find? (fun p => !p.matched && p.same e && decide (c.now ≤ p.at_ + c.digestHold)) with
    | none => c
    | some p =>
      let c := c.onTwin (fun t => { t with
        own := t.own.map (fun x => if x = e then { x with matched := true } else x),
        peer := t.peer.map (fun x => if x = p then { x with matched := true } else x) })
      if e.crc = p.crc ∧ bit e.cstate 2 = bit p.cstate 2 then c else c.mismatch 1 e.chunk e.crc p.crc

/-- The increase over a window of counts of 31 bits. -/
def histRise (l : List (Nat × Bool)) : Nat :=
  ((l.getLast?.map Prod.fst).getD 0 + 2 ^ 31 - (l.head?.map Prod.fst).getD 0) % 2 ^ 31

/-- The port test (R438): both windows full and undisturbed. -/
def Chip.portTest (c : Chip) (p : Nat) : Chip :=
  let a := SMap.getD c.twin.ownHist p []
  let b := SMap.getD c.twin.peerHist p []
  let v := c.reg (twn 0x114)
  if a.length = c.cmpWin ∧ b.length = c.cmpWin ∧ !a.any (·.2) ∧ !b.any (·.2) then
    let da := histRise a
    let db := histRise b
    if fld v 15 0 + max da db / 2 ^ fld v 27 24 < max da db - min da db then c.mismatch 2 p da db else c
  else c

/-- TWIN_DIGEST_RECEIVE: the peer's digest is compared with the part's own (R438). -/
def twinDigestReceive (c : Chip) : Chip :=
  match c.twinFront 0x31 with
  | none => c
  | some x =>
    let c := { c with twinIn := c.twinIn.erase x }
    let l := x.2.payload
    if !c.twinOn || !c.isTwinLink x.2.port || leAt l 0 2 != c.pairId || byteAt l 2 == c.sideCode then c
    else
      let n := leAt l 8 2
      let base := 256 * (leAt l 4 4 % 4)
      let ents := (List.range n).map (fun i =>
        let o := 1040 + 12 * i
        ({ chunk := leAt l o 4, cstate := byteAt l (o + 4), crc := leAt l (o + 8) 4, at_ := c.now, sent := true,
           matched := false } : DigEnt))
      let hist := (List.range 256).foldl (fun m i =>
        let v := leAt l (16 + 4 * i) 4
        histAdd c.cmpWin m (base + i) (v % 2 ^ 31, bit v 31)) c.twin.peerHist
      let c := c.onTwin (fun t => { t with peer := t.peer ++ ents, peerHist := hist })
      let c := c.each c.twin.own (fun c e => c.digestMatch e)
      c.each (List.range 256) (fun c i => c.portTest (base + i))

/-- DIGEST_ENTRY_EXPIRE: the entry that has waited longest reaches DIGEST_HOLD: unsent, it is counted as skipped; without a
partner, as unmatched (R437, R438). -/
def digestExpire (c : Chip) : Chip :=
  let all := c.twin.own ++ c.twin.peer
  match all.foldl (fun o e => match o with | none => some e | some k => if e.at_ < k.at_ then some e else some k) none with
  | none => c
  | some (e : DigEnt) =>
    let c := c.till (e.at_ + c.digestHold)
    let c := if e.sent then c else c.bump (twn 0x150) 1
    let c := if e.matched then c else c.bump (twn 0x14C) 1
    c.onTwin (fun t => if t.own.contains e then { t with own := t.own.erase e } else { t with peer := t.peer.erase e })

/-- FENCE_ACT: side A acts on its decision, unless a beat has shown the peer FENCED (R439). -/
def fenceAct (c : Chip) : Chip :=
  match c.twin.fenceAt with
  | some t => if c.twinOn && (c.twin.role == 1 || c.twin.role == 2) then (c.till t).fence else c
  | none => c

/-- FENCE_ADMIT_CLEAR: the NOTICE has left, or 2 µs have passed since FENCED was entered: ADMIT is cleared on every port but
the twin link (R439). -/
def fenceAdmitClear (c : Chip) : Chip :=
  match c.twin.fencedAt with
  | none => c
  | some t =>
    let waits := c.c0Out.any (fun o => o.hdr.op == 0x1A) || c.pkts.any (fun p => p.hdr.op == 0x1A && p.origin == .ctl)
    let c := if waits then c.till (t + 2000) else c
    let c := c.onTwin (fun t => { t with fencedAt := none })
    c.each ((List.range 1024).filter (fun p => c.isAdmitted p && !c.isTwinLink p)) (fun c p => c.clearAdmit p)

/-! ### Receiving a resync (R443, R444) -/

/-- One record takes effect in a part that is SYNCING, or that joined in the last one: block, WHERE, index, words. -/
def Chip.rsApply (c : Chip) (block where_ idx : Nat) (ws : List Word) : Chip :=
  let t := fld where_ 3 0
  let bank := bit where_ 4
  let d := fld where_ 6 5
  if block ≤ 3 then
    match tblOf (0x40 + block) t with
    | some k => if idx < tblSize k then c.each (List.range 4) (fun c q => c.putEntry q k bank idx ws) else c
    | none => c
  else if block = 4 then
    { c with tables := SMap.set c.tables (colKey d (idx / 65536 % 24) (t % 2) bank (idx % 65536)) ws }
  else if block = 5 then
    let regs := prs d (0x200 + 4 * idx) :: (List.range 7).map (fun i => prs d (0x400 + 0x20 * idx + 4 * i))
    if idx < 24 then c.each (regs.zip ws) (fun c x => c.setReg (banked x.1 bank) x.2.toNat) else c
  else if block = 6 then (if idx < 4096 then c.onBar idx (fun _ => Bar.ofWords ws) else c)
  else if block = 7 then
    if idx < 128 then
      c.each (List.range 32) (fun c k =>
        let b := bit (word ws 0) k
        if (c.job (32 * idx + k)).sel == b then c else c.flipAll (32 * idx + k) b)
    else c
  else
    let a := word ws 0
    if rsRegs.contains a then c.setReg a (word ws 1)
    else
      match ((List.range 96).filter (fun k => col (k / 24) (0x280 + 4 * (k % 24)) == a)).head? with
      | some k => c.onTwin (fun tw => { tw with rsFloors := (k, word ws 1) :: tw.rsFloors.filter (·.1 != k) })
      | none => c

/-- The records of an ENTRY payload, applied in order; the first argument bounds them. -/
def Chip.rsEntries : Nat → Chip → List Byte → Chip
  | 0, c, _ => c
  | n + 1, c, l =>
    if l.length < 8 then c
    else
      let k := byteAt l 5
      let ws := (List.range k).map (fun i => BitVec.ofNat 32 (leAt l (8 + 4 * i) 4))
      let c := (c.rsApply (byteAt l 0) (byteAt l 1) (leAt l 2 3) ws).onTwin (fun t => { t with rsCount := t.rsCount + 1 })
      Chip.rsEntries n c (l.drop (8 + 4 * k))

/-- A resync completes: the contexts that the active part holds ON start, each with its FLOOR plus OPEN_MAX (R444). -/
def Chip.syncDone (c : Chip) : Chip :=
  let c := c.each c.twin.rsFloors (fun c kf =>
    let d := kf.1 / 24
    let x := kf.1 % 24
    let om := (c.curTmpl d x).openMax
    (c.ctxClearState d x).onCtx kf.1 (fun y => { y with st := 1, floor := (kf.2 + om) % 2 ^ 24, openMax := om }))
  let c := (c.setRole 1).onTwin (fun t => { t with rsOn := true, rsFloors := [] })
  (c.raise (twn 0) 16).twinEvent 6 0 0 0 0 false

/-- TWIN_RESYNC_RECEIVE (R443, R444). -/
def twinResyncReceive (c : Chip) : Chip :=
  match c.twinFront 0x32 with
  | none => c
  | some x =>
    let c := { c with twinIn := c.twinIn.erase x }
    let l := x.2.payload
    let kind := byteAt l 2
    if !c.twinOn || !c.isTwinLink x.2.port || leAt l 0 2 != c.pairId then c
    else if c.twin.role = 3 then
      let c := c.onTwin (fun t => { t with rsAt := c.now })
      if kind = 1 then c.onTwin (fun t => { t with rsCount := 0 })
      else if kind = 2 then Chip.rsEntries 1024 c (l.drop 16)
      else if kind = 3 then (if leAt l 4 4 = c.twin.rsCount then c.syncDone else c.syncFail)
      else if kind = 4 then c.syncFail
      else c
    else if c.twin.role = 1 ∧ c.twin.rsOn ∧ kind = 2 then Chip.rsEntries 1024 c (l.drop 16)
    else if c.twin.role = 2 ∧ kind = 1 then c.rsStart
    else c

/-- RESYNC_GAP_TIMEOUT: 1 ms without a TWIN_RESYNC fails the resync (R444). -/
def resyncGap (c : Chip) : Chip :=
  if c.twinOn && c.twin.role == 3 then (c.till (c.twin.rsAt + 1000000)).syncFail else c

/-! ### TWN_CMD and TWN_CTL (R420 to R422, R430, R445) -/

/-- TWN_CMD_STATUS takes a result. -/
def Chip.twnResult (c : Chip) (r : Nat) : Chip := c.setReg (twn 0x124) r

/-- UNFENCE: a FENCED part goes to SYNCING or STANDBY, and its ports may be admitted again (R430). -/
def Chip.unfence (c : Chip) : Chip :=
  if c.twin.role = 4 then
    let c := if c.regBit (twn 0x100) 3 then c.startSync else c.setRole 1
    (c.each ((List.range 1024).filter c.isAdmitted) (fun c p => c.tryActive p)).twnResult 0
  else c.twnResult 1

/-- RESYNC: accepted in STANDBY with an ACTIVE peer, with no rinse in progress (R430, R445). -/
def Chip.resync (c : Chip) : Chip :=
  if c.twin.role = 1 ∧ c.twin.peerRole = 2 ∧ c.twin.paired ∧ c.rinses.isEmpty then c.startSync.twnResult 0
  else c.twnResult 1

/-- RELINQUISH: accepted in ACTIVE with a STANDBY peer (R430). -/
def Chip.relinquish (c : Chip) : Chip :=
  if c.twin.role = 2 ∧ c.twin.peerRole = 1 ∧ c.twin.paired then (c.setRole 1).twnResult 0 else c.twnResult 1

/-- A TWN_CMD with GO; a CMD that is none of the three completes with RESULT 2 (DEDUCED; log entry 25). -/
def Chip.twnCommand (c : Chip) (v : Nat) : Chip :=
  let c := c.setReg (twn 0x120) (v % 2 ^ 31)
  let k := fld v 27 24
  if k = 1 then c.unfence else if k = 2 then c.resync else if k = 3 then c.relinquish else c.twnResult 2

/-- Twin mode goes off (R430); the paths that worked are reported gone (R441). -/
def Chip.twinOff (c : Chip) : Chip :=
  if c.twin.role = 0 then c
  else
    let was := c.twin.paired
    let c := (c.twinPath 0 false).twinPath 1 false
    let c := c.onTwin (fun t => { t with
      paired := false, lastBeat := none, clashAt := none, mismatchAt := none, fenceAt := none, fencedAt := none,
      own := [], peer := [], ownHist := [], peerHist := [], disturbed := [] })
    let c := if was then c.raise (twn 0) 4 else c
    c.setRole 0

/-- A write of TWN_CTL (R420 to R422, R430). -/
def wrTwnCtl (v : Nat) (c : Chip) : Wr :=
  let l := c.reg (twn 0x104)
  if bit v 0 && fld v 31 16 == 0 then .error 1
  else if bit v 0 && !(bit l 31 && c.width (fld l 9 0) == 2) then .error 2
  else
    let on := c.regBit (twn 0x100) 0
    let c := c.setReg (twn 0x100) v
    if bit v 0 && !on then .ok (c.setRole 1) else if !bit v 0 && on then .ok c.twinOff else .ok c

/-- A write of TWN_LINK (R422). -/
def wrTwnLink (v : Nat) (c : Chip) : Wr :=
  if c.regBit (twn 0x100) 0 then .error 2 else .ok (c.setReg (twn 0x104) v)

end Sys2Proof.Machine
end

