-- ==== Sys2Proof/Machine/Telemetry.lean ====
section
/-! DEFINITION. Congestion maps, performance counter registers, dumps and the lint forwarder (chapter 14). -/
namespace Sys2Proof.Machine

/-- A register of C0's CGM, DMP or LNT page. -/
def cgmC (off : Nat) : Nat := regAddr 24 0x48 off
/-- A register of the DMP page. -/
def dmp (off : Nat) : Nat := regAddr 24 0x4B off
/-- A register of C0's LNT page. -/
def lntC (off : Nat) : Nat := regAddr 24 0x49 off

/-- A change of the telemetry state. -/
def Chip.onTele (c : Chip) (f : Tele → Tele) : Chip := { c with tele := f c.tele }

/-- The channel of the check-value engine that seals a packet of an opcode: 29 MAP, 30 LINT, 31 DUMP (R473). -/
def sealChannel (op : Nat) : Nat := if op = 0x16 then 29 else if op = 0x18 then 30 else 31

/-- An owned side effect is sent: JOB 0, SRC the switch id, flow label 0, SEQ from its SSEQ (R435, R447). The channel that
seals it is left with the STATE of the seal (R473, R484; DEDUCED, log entry 26). -/
def Chip.sideSend (c : Chip) (op kind dest tc : Nat) (body : List Byte) : Chip :=
  let r := c.takeSseq
  let pay := sideHead kind c.headPair r.1 ++ body
  let h : Hdr := { net := 1, tc := tc, op := op, dest := dest, src := c.ownId, seq := r.1 % 2 ^ 24, plane := c.plane,
                   len := pay.length }
  (r.2.c0Send h pay none).setReg (regAddr 24 0x4C (0x130 + 0x40 * sealChannel op)) (~~~ (sealOf h pay)).toNat

/-! ### Congestion maps (R448 to R452) -/

/-- The occupancy level of a depth under U (R448). -/
def occLevel (u depth : Nat) : Nat := if depth < 2 ^ u then 0 else min 15 (Nat.log2 (depth / 2 ^ u) + 1)

/-- The link of output `i` of a quadrant: local port i, or seam instance i − 256. -/
def outLink (q i : Nat) : Nat := if i < 256 then 256 * q + i else seamLink q (i - 256)

/-- Held levels joined with a sample's: the larger of each nibble (R450). -/
def levelMax (held stall occ : Nat) : Nat := put (max (fld held 7 4) stall) 4 + max (fld held 3 0) occ

/-- The held levels of output `i` of a quadrant. -/
def Chip.level (c : Chip) (q i : Nat) : Nat := SMap.getD c.tele.cgm (260 * q + i) 0

/-- The credit-stall level of an interval of `cycles` cycles (R449). -/
def stallLevel (stalled cycles : Nat) : Nat := min 15 (16 * stalled / max cycles 1)

/-- The stalled cycles of an interval of `len` ns and `cycles` cycles that was stalled for `ns`. DESIGN CHOICE; log entry 84. -/
def stalledCycles (ns len cycles : Nat) : Nat := ns * cycles / max len 1

/-- One output's sample and interval are graded, and its next interval begins (R448, R449). `since` is when the interval began,
`cycles` what the clocks of the islands counted in it. -/
def Chip.grade (c : Chip) (q since cycles i : Nat) : Chip :=
  let l := outLink q i
  let depth := ((List.range 8).map (fun v => c.depth l v)).sum
  let u := fld (c.reg (regAddr q 0x48 0x100)) 3 0
  let stall := stallLevel (stalledCycles ((c.link l).stallSum c.now) (c.now - since) cycles) cycles
  let v := levelMax (c.level q i) stall (occLevel u depth)
  let c := if (c.link l).stallSum c.now = 0 then c
    else c.onLink l (fun x => { x with stallNs := 0, stallAt := c.now })
  if v = 0 then c else c.onTele (fun t => { t with cgm := SMap.set t.cgm (260 * q + i) v })

/-- CGM_SAMPLE: a 1 µs tick of island QM (R448, R449). -/
def cgmSample (q cycles : Nat) (c : Chip) : Chip :=
  if c.isOn q 0x48 then
    let c := c.restall.tick (16 + q) 1000
    let since := SMap.getD c.tele.cgmAt q 0
    (c.each (List.range 260) (fun c i => c.grade q since cycles i)).onTele (fun t => { t with cgmAt := SMap.set t.cgmAt q c.now })
  else c

/-- The level bytes of a MAP: the ports, then the seams (R452). A port that the layout does not assign has byte 0. -/
def Chip.levelBytes (c : Chip) : List Nat :=
  (List.range 1024).map (fun p => if c.width p = 0 then 0 else c.level (p / 256) (p % 256)) ++
  (List.range 16).map (fun k => c.level (k / 4) (256 + k % 4))

/-- MAP_WINDOW_END: fabric time reaches a multiple of W; the held levels are cleared, and a written WINDOW takes effect
(R450, R451). -/
def mapWindowEnd (c : Chip) : Chip :=
  if c.isOn 24 0x48 then
    let w := c.tele.winW
    let c := c.tick 4 (1000 * w)
    let e : WinEnd := { time := c.time.ft / (1000 * max w 1) * (1000 * w), w := w, active := (List.range 1024).filter c.active,
                        levels := c.levelBytes, shift := fld (c.reg (regAddr 0 0x48 0x100)) 3 0,
                        flags := put (b2n c.time.holdover) 1 + put (b2n (!c.time.locked)) 2 }
    c.onTele (fun t => { t with winEnd := some e, cgm := [], winW := fld (c.reg (cgmC 0x100)) 13 0 })
  else c

/-- The body of a MAP after its head (R452). -/
def WinEnd.body (e : WinEnd) (gap : Bool) : List Byte :=
  leBytes 8 e.time ++ leBytes 4 (e.time / (1000 * max e.w 1)) ++ leBytes 2 e.w ++ leBytes 1 (e.flags + b2n gap) ++
  leBytes 1 e.shift ++ portBytes e.active ++ e.levels.map (BitVec.ofNat 8)

/-- MAP_PUBLISH: the ended window's MAP is sent, or counted as a gap while the role suppresses it or the cores are halted (R451). With
the policy's bit or its block switch at 0, or its page not ON, C0 publishes nothing (R516, R553). -/
def mapPublish (c : Chip) : Chip :=
  match c.tele.winEnd with
  | none => c
  | some e =>
    let ctl := c.reg (cgmC 0x100)
    let ep := fld (c.reg (cgmC 0x104)) 15 0
    let c := c.onTele (fun t => { t with winEnd := none })
    if !bit ctl 31 ∨ ep = 0xFFFF ∨ !c.regBit (regAddr 24 1 0x108) 4 ∨ !c.isOn 24 (adPage (cgmC 0)) then c
    else if c.suppressed || !c.policy 4 then (c.onTele (fun t => { t with gap := true })).bump (cgmC 0x10C) 1
    else
      ((c.sideSend 0x16 0x10 ep (fld ctl 25 24) (e.body c.tele.gap)).onTele (fun t => { t with gap := false })).bump
        (cgmC 0x108) 1

/-- A write of CGM_CTL (R450). -/
def wrCgmCtl (v : Nat) (c : Chip) : Wr :=
  if within (fld v 13 0) 8 10000 then .ok (c.setReg (cgmC 0x100) v) else .error 1

/-! ### Performance counter registers (R453 to R460) -/

/-- The event class of an island (R460), by die and PMC instance. -/
def pmcClass (die inst : Nat) : Nat :=
  match dieKind die with
  | some .quad => if inst < 16 then 1 else if inst = 16 then 2 else if inst = 17 then 3 else if inst = 18 then 5 else 4
  | some .press => if inst < 8 then 6 else if inst = 8 then 7 else 8
  | some .engine => 9
  | some .ctrl => if inst < 4 then 0xA else if inst = 4 then 0xB else 0xC
  | none => 0

/-- The qualifiers of an event; 0 for one that has none, `none` for a code outside the event table (R460). -/
def evtQuals (code : Nat) : Option Nat :=
  if code = 0x0000 ∨ code = 0x0001 then some 0
  else if (0x1001 ≤ code ∧ code ≤ 0x1005) ∨ code = 0x1009 then some 0xFFFF
  else if code = 0x1006 then some 0x3FF
  else if code = 0x1007 then some 0xFF
  else if code = 0x1008 then some 0xF
  else if code = 0x2001 then some 0x3FF
  else if code = 0x2002 then some 0xF
  else if code = 0x2003 ∨ code = 0x2004 then some 0
  else if code = 0x3001 then some 0x1F
  else if 0x3002 ≤ code ∧ code ≤ 0x3004 then some 0
  else if code = 0x4001 ∨ code = 0x4002 ∨ code = 0x4004 then some 0x3FF
  else if code = 0x4003 then some 0
  else if code = 0x5001 ∨ code = 0x5002 then some 0
  else if code = 0x5003 then some 0xFFFF
  else if code = 0x5004 ∨ code = 0x6001 then some 3
  else if 0x7001 ≤ code ∧ code ≤ 0x7004 then some 0xFFFF
  else if code = 0x7005 then some 0
  else if code = 0x8001 then some 0x3FF
  else if code = 0x9001 then some 0xFFFF
  else if code = 0x9002 then some 0x3FF
  else if code = 0xA001 ∨ code = 0xA002 ∨ code = 0xB001 ∨ code = 0xB002 ∨ code = 0xC001 ∨ code = 0xC002 then some 0
  else none

/-- The qualifiers for which a lasting condition of an island holds now (R460). -/
def Chip.condNow (c : Chip) (die inst code sub : Nat) : List Nat :=
  if code = 0x1009 then c.closedPorts (256 * die + 16 * inst)
  else if code = 0x3003 then
    (if (c.buf die).waits then [0] else [])
  else if code = 0x1006 then (c.link (256 * die + 16 * inst + sub)).stall
  else if code = 0x4004 then (c.link (seamLink die (inst - 19))).stall
  else if code = 0x8001 then (c.link (ppLink (die - 4))).stall
  else if code = 0x9001 then
    (List.range 16).filter (fun f =>
      let p := 64 * (die - 8) + 4 * f
      c.fpBits p 0x108 != 0)
  else if code = 0xC001 then (if c.power.cause = 0 then [] else [0])
  else []

/-- The event that counter `i` selects is a lasting condition and holds now, for a qualifier that it names (R454). -/
def Chip.condHolds (c : Chip) (pa i : Nat) : Bool :=
  let e := c.reg (pa + 0x200 + 4 * i)
  let code := fld e 15 0
  code == 1 || (c.condNow (adDie pa) (adPage pa - 0x60) code (fld (c.reg (pa + 0x400 + 4 * i)) 7 4)).any (fun k =>
    (evtQuals code).getD 0 == 0 || bit e (16 + k))

/-- Counter `i` is enabled, counts events of its own (R457), and the condition it selects holds. -/
def Chip.condCounts (c : Chip) (pa i : Nat) : Bool :=
  c.regBit (pa + 0x400 + 4 * i) 0 && !c.pmcChained pa i && c.condHolds pa i

/-- Counter `i` adds a cycle on every cycle now: level mode, and its condition holds (R455). -/
def Chip.levelRuns (c : Chip) (pa i : Nat) : Bool := c.condCounts pa i && !c.regBit (pa + 0x400 + 4 * i) 1

/-- The cycles of counter `i` up to now are added, and it counts on if it runs. -/
def Chip.pmcLevel (c : Chip) (pa i : Nat) : Chip :=
  if (c.levelAt pa i).isSome then
    let run := c.levelRuns pa i
    let c := c.levelAdd pa i run
    if run then c.levelFrom pa i else c
  else c

/-- The cycles of every counter of a page up to now are added (R455). -/
def Chip.pmcSettle (c : Chip) (pa : Nat) : Chip := c.each (c.pmcSet pa) (fun c i => c.pmcLevel pa i)

/-- Every counter of a page that runs in level mode counts from now on: its island begins to work (R553). -/
def Chip.pmcArm (c : Chip) (pa : Nat) : Chip :=
  c.each (c.pmcSet pa) (fun c i => if c.levelRuns pa i then c.levelFrom pa i else c)

/-- The registers of counter `i` change: its cycles so far are added first; in edge mode it counts an event that is true now and
was false before, EN at 0 taken as false; in level mode it counts on from now (R455). -/
def Chip.pmcRewrite (c : Chip) (pa i : Nat) (f : Chip → Chip) : Chip :=
  if c.isOn (adDie pa) (adPage pa) then
    let was := c.condCounts pa i
    let c := f (c.levelAdd pa i (c.levelRuns pa i))
    let c := if c.condCounts pa i && c.regBit (pa + 0x400 + 4 * i) 1 && !was then c.pmcCount pa i else c
    if c.levelRuns pa i then c.levelFrom pa i else c
  else f c

/-- A write of PMC_EVT at an address (R455, R456). -/
def wrPmcEvt (a v : Nat) (c : Chip) : Wr :=
  let code := fld v 15 0
  match evtQuals code with
  | none => .error 1
  | some m =>
    if code / 4096 ≠ 0 ∧ code / 4096 ≠ pmcClass (adDie a) (adPage a - 0x60) then .error 1
    else if m ≠ 0 ∧ fld v 31 16 &&& m ≠ fld v 31 16 then .error 1
    else .ok (c.pmcRewrite (pageBase a) ((adOff a - 0x200) / 4) (fun c => c.setReg a v))

/-- A write of PMC_CFG at an address (R455, R457): CHAIN on an even counter is refused. -/
def wrPmcCfg (a v : Nat) (c : Chip) : Wr :=
  let i := (adOff a - 0x400) / 4
  if i % 2 = 0 ∧ bit v 2 then .error 1 else .ok (c.pmcRewrite (pageBase a) i (fun c => c.setReg a v))

/-- A write of PMC_VAL at an address: only while the counter's EN is 0 (R459). -/
def wrPmcVal (a v : Nat) (c : Chip) : Wr :=
  let i := (adOff a - 0x800) / 8
  if c.regBit (pageBase a + 0x400 + 4 * i) 0 then .error 2 else .ok (c.setReg a v)

/-- A write of PMC_CTL: FREEZE clears every EN, CLEAR every value (R459). -/
def wrPmcCtl (a v : Nat) (c : Chip) : Wr :=
  let pa := pageBase a
  let n := pmcCount (adDie a) (adPage a - 0x60)
  let c := c.pmcSettle pa
  let c := if bit v 0 then c.each (List.range n) (fun c i =>
      let k := pa + 0x400 + 4 * i
      if c.regBit k 0 then
        Chip.setRegBit { c with tele := { c.tele with lvl := SMap.del c.tele.lvl k } } k 0 false
      else c) else c
  let c := if bit v 1 then c.each (List.range n) (fun c i => if c.pmcVal pa i = 0 then c else c.setPmcVal pa i 0) else c
  .ok c

/-- PMC_WRAP: a counter that holds its largest value counts once more; the high half of a chain counts carries alone (R457, R458). -/
def pmcWrap (pa i : Nat) (c : Chip) : Chip :=
  if c.isOn (adDie pa) (adPage pa) && c.regBit (pa + 0x400 + 4 * i) 0 && !c.pmcChained pa i && c.pmcVal pa i == 2 ^ 48 - 1 &&
      decide (0x60 ≤ adPage pa) && decide (i < pmcCount (adDie pa) (adPage pa - 0x60)) then c.pmcCount pa i
  else c

/-! ### Dumps (R461 to R465) -/

/-- The first 64-bit word of a range of C0's SRAM that carries an uncorrectable error (R564). -/
def Chip.badWord? (c : Chip) (o n : Nat) : Option Nat :=
  c.mgmt.badSram.find? (fun w => decide (o < 8 * w + 8) && decide (8 * w < o + n))

/-- `n` bytes of C0's SRAM are written from `o`: a word that is written whole is good again (R563). -/
def Chip.sramWritten (c : Chip) (o n : Nat) : Chip :=
  { c with mgmt := { c.mgmt with badSram := c.mgmt.badSram.filter (fun w => !(decide (o ≤ 8 * w) && decide (8 * w + 8 ≤ o + n))) } }

/-- The PMC pages in the order of g: die select and instance (R453). -/
def pmcPages : List (Nat × Nat) :=
  (List.range 4).flatMap (fun q => (List.range 23).map (fun i => (q, i))) ++
  (List.range 4).flatMap (fun p => (List.range 10).map (fun i => (4 + p, i))) ++
  (List.range 16).map (fun e => (8 + e, 0)) ++ (List.range 6).map (fun i => (24, i))

/-- The counters of a PMC page (R453). -/
def counters (die inst : Nat) : Nat := pmcCount die inst

/-- The pages that DMP_PAGE_SEL selects, in ascending g. -/
def Chip.dumpPages (c : Chip) : List (Nat × Nat) :=
  ((List.range 154).filter (fun g => c.regBit (dmp (0x120 + 4 * (g / 32))) (g % 32))).filterMap (fun g => pmcPages[g]?)

/-- DMP_RECORD_LEN (R463). -/
def Chip.recordLen (c : Chip) : Nat := 64 + 8 * (c.dumpPages.map (fun p => counters p.1 p.2)).sum

/-- S, the slots of the dump ring (R464). -/
def Chip.dumpSlots (c : Chip) : Nat := c.reg (dmp 0x110) / c.recordLen

/-- A page's counters are copied into PMC_SNAP (R461). -/
def Chip.snap (c : Chip) (die inst : Nat) : Chip :=
  let pa := regAddr die (0x60 + inst) 0
  if c.isOn die (0x60 + inst) then
    (c.pmcSettle pa).each (List.range (counters die inst)) (fun c i =>
      let v := c.pmcVal pa i
      let o := c.regBit (pa + 0x104 + 4 * (i / 32)) (i % 32)
      (c.setReg (pa + 0xC00 + 8 * i) (v % 2 ^ 32)).setReg (pa + 0xC04 + 8 * i) (v / 2 ^ 32 + put (b2n o) 31))
  else c

/-- The value word of a counter in a record (R463). -/
def Chip.dumpWord (c : Chip) (die inst i : Nat) : Nat :=
  let pa := regAddr die (0x60 + inst) 0
  let hi := c.reg (pa + 0xC04 + 8 * i)
  c.reg (pa + 0xC00 + 8 * i) + put (fld hi 15 0) 32 + put (b2n (c.regBit (pa + 0x400 + 4 * i) 2)) 62 + put (fld hi 31 31) 63

/-- The record of a capture at a tick (R463). -/
def Chip.dumpRecord (c : Chip) (tick : Nat) : List Byte :=
  let pages := c.dumpPages
  leBytes 8 tick ++ leBytes 4 (c.reg (dmp 0x140)) ++ leBytes 4 (min c.tele.dumpSkipped 0xFFFFFFFF) ++
  leBytes 4 (fld (c.reg (dmp 0x104)) 19 0) ++ leBytes 4 ((pages.map (fun p => counters p.1 p.2)).sum) ++
  leBytes 2 c.ownId ++
  leBytes 1 (b2n c.time.locked + put (b2n c.time.holdover) 1 + put (b2n c.tele.dumpFirst) 2) ++ leBytes 1 0 ++
  (List.range 5).flatMap (fun i => leBytes 4 (if i = 4 then fld (c.reg (dmp 0x130)) 25 0 else c.reg (dmp (0x120 + 4 * i)))) ++
  leBytes 16 0 ++
  pages.flatMap (fun p => (List.range (counters p.1 p.2)).flatMap (fun i => leBytes 8 (c.dumpWord p.1 p.2 i)))

/-- DUMP_CAPTURE: a tick of DMP_PERIOD; a tick before the previous record is written is missed (R461, R462). -/
def dumpCapture (c : Chip) : Chip :=
  if c.isOn 24 0x4B && c.regBit (dmp 0x100) 0 then
    let p := 1000 * fld (c.reg (dmp 0x104)) 19 0
    let c := c.tick 5 p
    if c.tele.dumpRec.isSome then
      (c.bump (dmp 0x144) 1).onTele (fun t => { t with dumpSkipped := t.dumpSkipped + 1 })
    else
      let c := c.each c.dumpPages (fun c d => c.snap d.1 d.2)
      let r := c.dumpRecord (c.time.ft / max p 1 * p)
      c.onTele (fun t => { t with dumpRec := some r, dumpSkipped := 0, dumpFirst := false })
  else c

/-- A record is cut into segments of 8,176 bytes; the first argument bounds them (R465). -/
def segments : Nat → List Byte → List (List Byte)
  | 0, _ => []
  | n + 1, l => if l.length ≤ 8176 then [l] else l.take 8176 :: segments n (l.drop 8176)

/-- A record is pushed as DUMP segments, or counted as not pushed (R465). -/
def Chip.dumpPush (c : Chip) (seq : Nat) (r : List Byte) : Chip :=
  let ctl := c.reg (dmp 0x100)
  let ep := fld (c.reg (dmp 0x108)) 15 0
  if !bit ctl 1 ∨ ep = 0xFFFF then c
  else if c.suppressed then c.bump (dmp 0x150) 1
  else if c.c0Out.any (fun o => o.hdr.op == 0x17) then c.bump (dmp 0x14C) 1
  else
    let ss := segments 32 r
    (ss.zip (List.range ss.length)).foldl (fun c x =>
      c.sideSend 0x17 0x20 ep (fld ctl 5 4) (leBytes 4 seq ++ leBytes 1 x.2 ++ leBytes 1 ss.length ++ leBytes 2 0 ++ x.1)) c

/-- DUMP_RECORD_WRITTEN: the record is written into the dump ring, and pushed (R462, R464, R465). -/
def dumpWritten (s : State) : State :=
  let c := s.chip
  match c.tele.dumpRec with
  | none => s
  | some r =>
    let n := max c.dumpSlots 1
    let wr := c.reg (dmp 0x118) % n
    let rd := c.reg (dmp 0x11C)
    let full := (wr + 1) % n == rd % n
    let seq := c.reg (dmp 0x140)
    let c := c.onTele (fun t => { t with dumpRec := none })
    let c := (c.setReg (dmp 0x118) ((wr + 1) % n)).setReg (dmp 0x140) ((seq + 1) % 2 ^ 32)
    let c := if full then (c.setReg (dmp 0x11C) ((rd + 1) % n)).bump (dmp 0x148) 1 else c
    let c := (c.pmc 24 4 0xB001 none none).dumpPush seq r
    { s with chip := c.sramWritten (c.reg (dmp 0x10C) + wr * c.recordLen) r.length,
             sram := s.sram.putAll (c.reg (dmp 0x10C) + wr * c.recordLen) r }

/-- Two ranges share a byte. -/
def overlap (a n b m : Nat) : Bool := decide (a < b + m) && decide (b < a + n)

/-- A write of DMP_CTL: EN is refused with a ring that does not fit (R464). -/
def wrDmpCtl (v : Nat) (c : Chip) : Wr :=
  let base := c.reg (dmp 0x10C)
  let size := c.reg (dmp 0x110)
  if bit v 0 && (decide (sramSize < base + size) || decide (c.dumpSlots < 2) ||
      overlap base size (c.reg (lntC 0x110)) (c.reg (lntC 0x114))) then .error 1
  else
    let rise := bit v 0 && !c.regBit (dmp 0x100) 0
    let c := c.setReg (dmp 0x100) v
    .ok (if rise then c.onTele (fun t => { t with dumpFirst := true }) else c)

/-- A write of DMP_PERIOD, DMP_PAGE_SEL, DMP_RING_BASE or DMP_RING_SIZE: refused while EN is 1 (R464). -/
def wrDmpSetup (off v : Nat) (c : Chip) : Wr :=
  if c.regBit (dmp 0x100) 0 then .error 2
  else if off = 0x104 ∧ !within v 1 1000000 then .error 1
  else if (off = 0x10C ∨ off = 0x110) ∧ v % 4096 ≠ 0 then .error 1
  else
    let c := c.setReg (dmp off) v
    .ok (if 0x120 ≤ off then c.onTele (fun t => { t with dumpFirst := true }) else c)

/-- A write of DMP_RING_RD: refused at or above S (R464). -/
def wrDmpRd (v : Nat) (c : Chip) : Wr := if c.dumpSlots ≤ v then .error 1 else .ok (c.setReg (dmp 0x11C) v)

/-! ### The lint ring and forwarder (R471, R472) -/

/-- The bytes of the lint ring in use: from the oldest record to the next one written. -/
def Chip.ringUsed (c : Chip) : Nat :=
  match c.tele.ring with
  | [] => 0
  | r :: _ =>
    let size := max (c.reg (lntC 0x114)) 1
    let d := (c.tele.ringWr + size - r.1) % size
    if d = 0 then size else d

/-- Bytes into the lint ring from an offset, wrapping at its end. -/
def Chip.lintPut (c : Chip) (m : Memory) : Nat → List Byte → Memory
  | _, [] => m
  | o, b :: t => Chip.lintPut c (m.put (c.reg (lntC 0x110) + o % max (c.reg (lntC 0x114)) 1) b) (o + 1) t

/-- `n` bytes of the lint ring from an offset. -/
def Chip.lintGet (c : Chip) (m : Memory) (o n : Nat) : List Byte :=
  (List.range n).map (fun i => m.byte (c.reg (lntC 0x110) + (o + i) % max (c.reg (lntC 0x114)) 1))

/-- LINT_RING_WRITE: the oldest record of a quadrant's queue is written into the ring, or dropped (R471). -/
def lintRingWrite (q : Nat) (s : State) : State :=
  let c := s.chip
  match c.tele.lintQ.find? (·.1 == q) with
  | none => s
  | some x =>
    if !c.isOn 24 0x49 || !c.rst.c0Up then s
    else
      let size := c.reg (lntC 0x114)
      let c := c.onTele (fun t => { t with lintQ := t.lintQ.erase x })
      if size < c.ringUsed + x.2.length then
        { s with chip := (c.onTele (fun t => { t with dropped := t.dropped + 1 })).bump (lntC 0x134) 1 }
      else
        let o := c.tele.ringWr
        let base := c.reg (lntC 0x110)
        let room := max size 1 - o % max size 1
        let c := (c.sramWritten (base + o % max size 1) (min x.2.length room)).sramWritten base (x.2.length - room)
        { s with sram := c.lintPut s.sram o x.2,
                 chip := c.onTele (fun t => { t with
                   ring := t.ring ++ [(o, x.2.length, c.now)], ringWr := (o + x.2.length) % max size 1 }) }

/-- The oldest records that fit one batch (R472). -/
def batchOf : Nat → List (Nat × Nat × Nat) → List (Nat × Nat × Nat)
  | _, [] => []
  | room, r :: t => if r.2.1 ≤ room then r :: batchOf (room - r.2.1) t else []

/-- The tokens accrue, up to 4,096 (R472). -/
def Chip.lintTokens (c : Chip) : Chip :=
  c.onTele (fun t => { t with
    tokens := min (4096 * 10 ^ 9) (t.tokens + c.reg (lntC 0x108) * (c.now - t.tokenAt)), tokenAt := c.now })

/-- LINT_BATCH_SEND: the oldest records leave as one LINT once the batch is full, or has waited, and the tokens are there, each record
500 ns after the one before, which is 2,000,000 a second (R472). -/
def lintBatchSend (s : State) : State :=
  let c := s.chip
  let ctl := c.reg (lntC 0x100)
  let ep := fld (c.reg (lntC 0x104)) 15 0
  match c.tele.ring with
  | [] => s
  | r0 :: _ =>
    if !c.isOn 24 0x49 || !c.rst.c0Up || !bit ctl 0 || ep == 0xFFFF then s
    else
      let b := batchOf 8176 c.tele.ring
      let n := b.length
      let c := if n < c.tele.ring.length then c else c.till (r0.2.2 + 1000 * fld (c.reg (lntC 0x10C)) 9 0)
      let free (c : Chip) : Chip := c.onTele (fun t => { t with
        ring := t.ring.drop n, ringRd := match t.ring.drop n with | r :: _ => r.1 | [] => t.ringWr })
      if c.suppressed then { s with chip := (free c).bump (lntC 0x138) n }
      else
        let c := (c.till c.tele.batchAt).lintTokens
        let rate := max (c.reg (lntC 0x108)) 1
        let c := (c.pass ((n * 10 ^ 9 - c.tele.tokens + rate - 1) / rate)).lintTokens
        let body := leBytes 2 n ++ leBytes 2 0 ++ leBytes 4 (min c.tele.dropped 0xFFFFFFFF) ++
          b.flatMap (fun r => c.lintGet s.sram r.1 r.2.1)
        let c := (free c).onTele (fun t =>
          { t with tokens := t.tokens - n * 10 ^ 9, dropped := 0, batchAt := c.now + 500 * n })
        { s with chip := (((c.sideSend 0x18 0x30 ep (fld ctl 5 4) body).bump (lntC 0x130) n).pmcN n 24 4 0xB002 none none) }

/-- Some tap of a quadrant is enabled. -/
def Chip.anyTap (c : Chip) : Bool :=
  (List.range 128).any (fun k => c.regBit (lnt (k / 32) (0x100 + 4 * (k % 32))) 0)

/-- A write of LNT_RING_BASE or LNT_RING_SIZE: refused while FWD_EN is 1 or a tap is enabled. -/
def wrLntRing (off v : Nat) (c : Chip) : Wr :=
  if c.regBit (lntC 0x100) 0 || c.anyTap then .error 2
  else if v % 4096 ≠ 0 then .error 1
  else .ok (c.setReg (lntC off) v)

/-- A write of LNT_RATE: the tokens so far accrue at the old rate. -/
def wrLntRate (v : Nat) (c : Chip) : Wr :=
  if within v 1 2000000 then .ok (c.lintTokens.setReg (lntC 0x108) v) else .error 1

/-- A write of LNT_TAP_CFG: TRUNC 3 is refused; EN becoming 1 loads the countdown (R468). -/
def wrTapCfg (q t v : Nat) (c : Chip) : Wr :=
  if fld v 3 2 = 3 then .error 1
  else
    let rise := bit v 0 && !c.regBit (lnt q (0x100 + 4 * t)) 0
    let c := c.setReg (lnt q (0x100 + 4 * t)) v
    if rise then
      let l := c.lintLoad q t
      .ok (l.2.onTap q t (fun x => { x with count := l.1 }))
    else .ok c

end Sys2Proof.Machine
end

