-- ==== Sys2Proof/Machine/Cve.lean ====
section
/-! DEFINITION. The check-value engine (chapter 15). -/
namespace Sys2Proof.Machine

/-- A register of a channel: offset `o` within channel `k` of the CVE page. -/
def cve (k o : Nat) : Nat := regAddr 24 0x4C (0x100 + 0x40 * k + o)

/-- The settings of a channel. -/
structure Cve where
  width : Nat
  poly : Nat
  init : Nat
  xorout : Nat
  refin : Bool
  refout : Bool
  swap : Bool
  seed : Nat
  shift : Nat
deriving DecidableEq, Repr

/-- A 64-bit register pair at `a`. -/
def Chip.pair (c : Chip) (a : Nat) : Nat := c.reg a + 2 ^ 32 * c.reg (a + 4)

/-- The settings of channel `k`. -/
def Chip.cveOf (c : Chip) (k : Nat) : Cve :=
  let g := c.reg (cve k 0x18)
  { width := fld g 6 0, poly := c.pair (cve k 0), init := c.pair (cve k 8), xorout := c.pair (cve k 0x10),
    refin := bit g 8, refout := bit g 9, swap := bit g 10, seed := c.reg (cve k 0x1C), shift := fld g 21 16 }

/-- The low `w` bits of `x` reversed (R475). -/
def reflect (w x : Nat) : Nat := (List.range w).foldl (fun a i => 2 * a + b2n (bit x i)) 0

/-- One bit of a byte, `i` of 8, into STATE (R475). -/
def Cve.feedBit (k : Cve) (b : Nat) (s i : Nat) : Nat :=
  if k.refin then
    let t := bit s 0 != bit b i
    if t then s / 2 ^^^ reflect k.width k.poly else s / 2
  else
    let t := bit s (k.width - 1) != bit b (7 - i)
    let s := 2 * s % 2 ^ k.width
    if t then s ^^^ k.poly else s

/-- A byte into STATE (R475). -/
def Cve.feedByte (k : Cve) (s b : Nat) : Nat := (List.range 8).foldl (k.feedBit b) s

/-- The bytes of a feed of `n` bytes in the order in which they are fed (R480). -/
def Cve.feedOrder (k : Cve) (n v : Nat) : List Nat :=
  let l := (List.range n).map (fun i => fld v (8 * i + 7) (8 * i))
  if k.swap then l.reverse else l

/-- STATE after START (R476). -/
def Cve.start (k : Cve) : Nat := if k.refin then reflect k.width k.init else k.init

/-- STATE after FOLD (R476). -/
def Cve.fold (k : Cve) (s : Nat) : Nat := s ^^^ (k.seed * 2 ^ k.shift % 2 ^ k.width)

/-- RESULT (R477). -/
def Cve.result (k : Cve) (s : Nat) : Nat := (if k.refin == k.refout then s else reflect k.width s) ^^^ k.xorout

/-- STATE of a channel; bits at or above WIDTH read 0 (R479). -/
def Chip.cveState (c : Chip) (k : Nat) : Nat := c.pair (cve k 0x30) % 2 ^ (c.cveOf k).width

/-- STATE of a channel takes a value. -/
def Chip.setCveState (c : Chip) (k s : Nat) : Chip :=
  (c.setReg (cve k 0x30) (s % 2 ^ 32)).setReg (cve k 0x34) (s / 2 ^ 32)

/-- A feed of `n` bytes (R480). -/
def wrCveFeed (k n v : Nat) (c : Chip) : Wr :=
  let s := c.cveOf k
  .ok (c.setCveState k ((s.feedOrder n v).foldl s.feedByte (c.cveState k)))

/-- A write of CVE_CMD: START, then FOLD (R476, R482). -/
def wrCveCmd (k v : Nat) (c : Chip) : Wr :=
  let s := c.cveOf k
  let st := if bit v 0 then s.start else c.cveState k
  .ok (c.setCveState k (if bit v 1 then s.fold st else st))

/-- Where the written low half of a 64-bit setting waits for its high half (R478). -/
def lowHalf (a : Nat) : Nat := a + 2 ^ 34

/-- A write of the high half of POLY, INIT or XOROUT at `a`, the address of the low half: checked and taken with the low
half that waits (R478). -/
def wrCvePair (k a v : Nat) (c : Chip) : Wr :=
  let lo := match SMap.get? c.regs (lowHalf a) with | some w => w.toNat | none => c.reg a
  let x := lo + 2 ^ 32 * v
  if 2 ^ (c.cveOf k).width ≤ x ∨ (a = cve k 0 ∧ x % 2 = 0) then .error 1
  else
    let c := (c.setReg a lo).setReg (a + 4) v
    .ok { c with regs := SMap.del c.regs (lowHalf a) }

/-- A write of CVE_CFG (R478). -/
def wrCveCfg (k v : Nat) (c : Chip) : Wr :=
  let w := fld v 6 0
  let s := c.cveOf k
  if !within w 8 64 || decide (w ≤ fld v 21 16) || decide (2 ^ w ≤ s.poly) || decide (2 ^ w ≤ s.init) ||
      decide (2 ^ w ≤ s.xorout) then .error 1
  else .ok (c.setReg (cve k 0x18) v)

/-- A write of a register of a channel (R475 to R480). -/
def wrCve (k o v : Nat) (c : Chip) : Wr :=
  if o = 0x00 ∨ o = 0x08 ∨ o = 0x10 then .ok (c.setReg (lowHalf (cve k o)) v)
  else if o = 0x04 ∨ o = 0x0C ∨ o = 0x14 then wrCvePair k (cve k (o - 4)) v c
  else if o = 0x18 then wrCveCfg k v c
  else if o = 0x20 then wrCveFeed k 1 v c
  else if o = 0x24 then wrCveFeed k 2 v c
  else if o = 0x28 then wrCveFeed k 4 v c
  else if o = 0x2C then wrCveCmd k v c
  else .ok (c.setReg (cve k o) v)

/-- What a read of a channel's register returns, but for the latched high halves (R477, R479). -/
def Chip.cveRead (c : Chip) (k o : Nat) : Nat :=
  let s := c.cveState k
  let r := (c.cveOf k).result s
  if o = 0x30 then s % 2 ^ 32
  else if o = 0x34 then s / 2 ^ 32
  else if o = 0x38 then r % 2 ^ 32
  else if o = 0x3C then r / 2 ^ 32
  else if o = 0x20 ∨ o = 0x24 ∨ o = 0x28 ∨ o = 0x2C then 0
  else c.reg (cve k o)

end Sys2Proof.Machine
end

