-- ==== Sys2Proof/Machine/Power.lean ====
section
/-! DEFINITION. Input power, the cap, the brake and temperature (chapter 17), but for what a shutdown does to the rest of
the part. -/
namespace Sys2Proof.Machine

/-- A register of the PWR page. -/
def pwr (off : Nat) : Nat := regAddr 24 3 off
/-- A register of the THM page. -/
def thm (off : Nat) : Nat := regAddr 24 4 off

/-- A change of the power state. -/
def Chip.onPower (c : Chip) (f : Power → Power) : Chip := { c with power := f c.power }

/-- The highest input power of a throttle level, in W (R523). -/
def levelW (t : Nat) : Nat := [3400, 3213, 3025, 2838, 2650, 2463, 2275, 2088, 1900].getD t 1900

/-- Brake causes: CAP, VIN, THERMAL, SHUTDOWN (R531). -/
def causeCap : Nat := 1
/-- Cause VIN. -/
def causeVin : Nat := 2
/-- Cause THERMAL. -/
def causeThermal : Nat := 4
/-- Cause SHUTDOWN. -/
def causeShutdown : Nat := 8

/-- A brake is in force (R531). -/
def Chip.braking (c : Chip) : Bool := c.power.cause != 0

/-- CAP. -/
def Chip.cap (c : Chip) : Nat := fld (c.reg (pwr 0x100)) 11 0
/-- LIMIT_NOW. -/
def Chip.limitNow (c : Chip) : Nat := fld (c.reg (pwr 0x104)) 11 0
/-- BRAKE_T. -/
def Chip.brakeT (c : Chip) : Nat := fld (c.reg (pwr 0x10C)) 3 0

/-- TC3 admission is held (R525). -/
def Chip.tc3Hold (c : Chip) : Bool := decide (6 ≤ c.power.t) || c.braking || c.power.warn

/-- TC3_HOLD of every quadrant follows (R525). -/
def Chip.setHold (c : Chip) : Chip :=
  c.each (List.range 4) (fun c q =>
    if c.regBit (quePage q + 0x104) 0 = c.tc3Hold then c else c.setRegBit (quePage q + 0x104) 0 c.tc3Hold)

/-- The throttle level takes a value. -/
def Chip.setT (c : Chip) (t : Nat) : Chip := if c.power.t = t then c else (c.onPower (fun p => { p with t := t })).setHold

/-- A brake cause starts (R531, R532): the brake is applied at once. -/
def Chip.brake (c : Chip) (cause : Nat) : Chip :=
  let was := c.braking
  let c := c.onPower (fun p => { p with cause := p.cause ||| cause, t := max p.t c.brakeT })
  let c := (c.setReg (pwr 0x104) (min c.limitNow (levelW c.brakeT))).setHold
  if was then c else ((c.bump (pwr 0x130) 1).raise (pwr 0) 1).pmcEdge 24 5 0xC001 [] [0]

/-- A brake cause ends; the brake ends with its last cause, CAP apart, which ended when the brake was applied (R531,
R533). -/
def Chip.unbrake (c : Chip) (cause : Nat) : Chip :=
  let left := c.power.cause &&& (15 - cause)
  let left := if left = causeCap then 0 else left
  let ends := decide (left = 0) && c.braking
  let c := (c.onPower (fun p => { p with cause := left })).setHold
  if ends then c.pmcEdge 24 5 0xC001 [0] [] else c

/-! ### Samples and the governor (R519, R520, R527) -/

/-- P_in in µW: the mean of the last samples, at most 10 (R520). -/
def Chip.pin (c : Chip) : Nat := c.power.samples.sum / max c.power.samples.length 1

/-- P_in in W, rounded up (R528). -/
def Chip.pinUp (c : Chip) : Nat := (c.pin + 999999) / 1000000

/-- The effective limit in µW at a VIN in mV (R519). -/
def Chip.effLimit (c : Chip) (vinMv : Nat) : Nat := min (c.limitNow * 1000000) (142000 * vinMv)

/-- POWER_SAMPLE: a 1 µs input sample, and the governor's comparison (R520, R527). -/
def powerSample (vinMv iinMa : Nat) (c : Chip) : Chip :=
  if c.power.off then c
  else
    let c := c.tick 6 1000
    let p := vinMv * iinMa
    let c := c.onPower (fun w => { w with samples := (p :: w.samples).take 10, energy := w.energy + p })
    let c := ((c.setReg (pwr 0x114) (min vinMv 0xFFFF)).setReg (pwr 0x118) (min (iinMa / 10) 0xFFFF)).setReg (pwr 0x11C)
      (min (c.pin / 1000000) 0x1FFF)
    let c := if c.reg (pwr 0x120) < c.reg (pwr 0x11C) then c.setReg (pwr 0x120) (c.reg (pwr 0x11C)) else c
    let lim := c.effLimit vinMv
    if lim < p then (c.onPower (fun w => { w with under := 0 })).setT (min 8 (c.power.t + 1))
    else if p + 200000000 ≤ lim then
      if c.power.under + 1 < 10 then c.onPower (fun w => { w with under := w.under + 1 })
      else
        let floor := max c.power.tTh (if c.braking then c.brakeT else 0)
        (c.onPower (fun w => { w with under := 0 })).setT (if floor < c.power.t then c.power.t - 1 else c.power.t)
    else c.onPower (fun w => { w with under := 0 })

/-! ### The cap (R528 to R530) -/

/-- ⌊LIMIT × STEP_PCT / 100⌋. -/
def Chip.stepOf (c : Chip) (l : Nat) : Nat := l * fld (c.reg (pwr 0x108)) 2 0 / 100

/-- LIMIT_NOW takes a step (R528, R529). -/
def Chip.limitStep (c : Chip) (l : Nat) : Chip :=
  ((c.setReg (pwr 0x104) l).bump (pwr 0x138) 1).pmc 24 5 0xC002 none none

/-- LIMIT_STEP_DOWN: a 10 µs tick while LIMIT_NOW exceeds CAP (R528). -/
def limitStepDown (c : Chip) : Chip :=
  if c.cap < c.limitNow ∧ !c.power.off then
    let c := c.tick 7 10000
    c.limitStep (max c.cap (c.limitNow - c.stepOf c.limitNow))
  else c

/-- LIMIT_STEP_UP: a 10 µs tick on which the POWER_STEP policy raises LIMIT_NOW (R529). -/
def limitStepUp (c : Chip) : Chip :=
  if c.limitNow < c.cap ∧ !c.braking ∧ c.policy 0 ∧ !c.power.off then
    let c := c.tick 7 10000
    c.limitStep (min c.cap (c.limitNow + c.stepOf c.limitNow))
  else c

/-- The value that `n` steps of R528 give, CAP ignored (R530). -/
def Chip.reach (c : Chip) : Nat → Nat → Nat
  | 0, l => l
  | n + 1, l => c.reach n (l - c.stepOf l)

/-- A write of PWR_CAP: one that lowers it below LIMIT_NOW drops LIMIT_NOW to P_in, and brakes below its reach; another leaves
LIMIT_NOW to step toward it (R528, R530, R547). -/
def wrCap (v : Nat) (c : Chip) : Wr :=
  if !within v 1900 3400 then .error 1
  else
    let lower := decide (v < c.cap) && decide (v < c.limitNow)
    let l := if lower then min c.limitNow c.pinUp else c.limitNow
    let c := (c.setReg (pwr 0x100) v).setReg (pwr 0x104) l
    .ok (if lower && !c.braking && decide (v < c.reach 10 l) then c.brake causeCap else c)

/-- A write of PWR_LIMIT_NOW (R529). -/
def wrLimitNow (v : Nat) (c : Chip) : Wr :=
  if c.regBit (regAddr 24 1 0x108) 0 || c.braking then .error 2
  else if !within v 1900 c.cap then .error 1
  else .ok (c.setReg (pwr 0x104) v)

/-- A write of PWR_BRAKE: BRAKE_T from 4 to 8; LEVEL follows it. -/
def wrPwrBrake (v : Nat) (c : Chip) : Wr :=
  let t := fld v 3 0
  if within t 4 8 then .ok (c.setReg (pwr 0x10C) (t + put (levelW t) 16)) else .error 1

/-- BRAKE_END: the brake's last cause has ended: CAP as soon as the brake is applied, THERMAL once the hottest sensor has
been below BRAKE_C − 4 °C for 1 ms with no die counted hot (R531, R533). -/
def brakeEnd (c : Chip) : Chip :=
  if !c.braking then c
  else
    let c := if c.power.cause &&& causeThermal ≠ 0 then
        match c.power.coolAt with
        | some t => (c.till (t + 1000000)).onPower (fun p => { p with cause := p.cause &&& (15 - causeThermal) })
        | none => c
      else c
    let left := c.power.cause &&& (15 - causeCap)
    if left = 0 then ((c.onPower (fun p => { p with cause := 0 })).setHold).pmcEdge 24 5 0xC001 [0] [] else c

/-! ### Bands of VIN (R522, R531) -/

/-- VIN_HIGH_ENTER (R522). -/
def vinHighEnter (c : Chip) : Chip :=
  if c.power.high || c.power.off then c else (c.onPower (fun p => { p with high := true })).raise (pwr 0) 4

/-- VIN_HIGH_LEAVE (R522). -/
def vinHighLeave (c : Chip) : Chip := c.onPower (fun p => { p with high := false })

/-- VIN_LOW_ENTER: brake cause VIN starts (R531). -/
def vinLowEnter (c : Chip) : Chip :=
  if c.power.vinLow || c.power.off then c else (c.onPower (fun p => { p with vinLow := true })).brake causeVin

/-- VIN_LOW_RECOVER: brake cause VIN ends (R531). -/
def vinLowRecover (c : Chip) : Chip :=
  if c.power.vinLow && !c.power.off then (c.onPower (fun p => { p with vinLow := false })).unbrake causeVin else c

/-- INPUT_WARN_END (R522). -/
def inputWarnEnd (c : Chip) : Chip :=
  if c.power.warn then (c.onPower (fun p => { p with warn := false })).setHold else c

/-! ### Orderly shutdown (R536) -/

/-- SHUTDOWN is raised, and an entry of the PWR page with it stands in the owner's event queue, even where the page's signal was up
already or EVT_EN keeps it down (R513, R536). DEDUCED; log entry 92. -/
def Chip.shutdownEvent (c : Chip) : Chip :=
  let rises := (c.setEvt (pwr 0) 16).2
  let c := c.raise (pwr 0) 16
  if rises || !c.rst.c0Up then c
  else
    let r := c.pushEvent 0 { time := c.time.ft, page := pwr 0, evt := c.reg (pwr 0x18) }
    if r.2 then r.1.raise (regAddr 24 1 0) 4 else r.1

/-- An orderly shutdown starts: a brake under cause SHUTDOWN, SHUTDOWN raised, and the cause in the owner's event queue (R536). -/
def Chip.shutdown (c : Chip) : Chip :=
  if c.power.stage.isSome || c.power.off then c
  else ((c.onPower (fun p => { p with stage := some 0, stageAt := c.now })).brake causeShutdown).shutdownEvent

/-- VIN_SHUTDOWN_BAND: VIN has stayed above 29.0 V, or between 17.0 V and 19.0 V, for 10 µs (R522). -/
def vinShutdownBand (c : Chip) : Chip := c.shutdown

/-- RAIL_FAULT: the rail is turned off and an orderly shutdown starts (R521). -/
def railFault (r : Nat) (c : Chip) : Chip :=
  if bit c.power.rails r && !c.power.off then
    ((c.onPower (fun p => { p with rails := setBit p.rails r false })).raise (pwr 0) 8).shutdown
  else c

/-! ### Temperature (R539 to R544) -/

/-- The die of a sensor, in the order quadrants, press dies, engines, C0 (R539). -/
def sensorDie (s : Nat) : Nat :=
  if s < 96 then s / 24 else if s < 144 then 4 + (s - 96) / 12 else if s < 176 then 8 + (s - 144) / 2 else 24

/-- The sensors of a die. -/
def dieSensors (d : Nat) : List Nat := (List.range 180).filter (fun s => sensorDie s == d)

/-- A throttling sensor (R539). -/
def throttling (s : Nat) : Bool := decide (s < 144) || decide (176 ≤ s)

/-- The reading that a sensor shows: 0x8000 in fault or not yet read. -/
def Chip.temp (c : Chip) (s : Nat) : Nat := fld (c.reg (thm (0x200 + 4 * (s / 2)))) (16 * (s % 2) + 15) (16 * (s % 2))

/-- A sensor's reading in units of 1/16 °C, when it has one. -/
def Chip.temp? (c : Chip) (s : Nat) : Option Int := if c.temp s = 0x8000 then none else some (sx 16 (c.temp s))

/-- One sensor is read (R540): none where its self-check failed. -/
def Chip.readSensor (c : Chip) (s : Nat) (r : Option Int) : Chip :=
  let show_ (c : Chip) (v : Nat) : Chip :=
    c.setRegFld (thm (0x200 + 4 * (s / 2))) (16 * (s % 2) + 15) (16 * (s % 2)) v
  let ok : Option Int := r.filter (fun x => decide (-320 ≤ x) && decide (x ≤ 2400))
  match ok with
  | none =>
    let was := c.power.fault.contains s
    let c := show_ (c.onPower (fun p => { p with
      fault := if was then p.fault else s :: p.fault, good := SMap.del p.good s })) 0x8000
    if was then c else c.raise (thm 0) 4
  | some x =>
    if c.power.fault.contains s then
      let n := SMap.getD c.power.good s 0 + 1
      if 100 ≤ n then
        show_ (c.onPower (fun p => { p with fault := p.fault.erase s, good := SMap.del p.good s })) (toTwos 16 x)
      else c.onPower (fun p => { p with good := SMap.set p.good s n })
    else show_ c (toTwos 16 x)

/-- The hottest reading and its sensor (R539). -/
def Chip.hottest (c : Chip) : Option (Int × Nat) :=
  ((List.range 180).filter throttling).foldl (fun o s =>
    match c.temp? s, o with
    | none, _ => o
    | some x, none => some (x, s)
    | some x, some (y, k) => if y < x then some (x, s) else some (y, k)) none

/-- A die is counted hot: more than half of its sensors are in fault (R544). -/
def Chip.dieHot (c : Chip) (d : Nat) : Bool :=
  decide ((dieSensors d).length < 2 * ((dieSensors d).filter c.power.fault.contains).length)

/-- THROTTLE_C and BRAKE_C in units of 1/16 °C. -/
def Chip.throttleC (c : Chip) : Int := ((16 * fld (c.reg (thm 0x100)) 7 0 : Nat) : Int)
/-- BRAKE_C. -/
def Chip.brakeC (c : Chip) : Int := ((16 * fld (c.reg (thm 0x100)) 15 8 : Nat) : Int)

/-- ENGINE_HOT is raised once for each engine sensor at or above THROTTLE_C (R543). -/
def Chip.engineHot (c : Chip) (s : Nat) : Chip :=
  match c.temp? s with
  | none => c
  | some x =>
    if c.power.engHot.contains s then
      if x < c.throttleC - 32 then c.onPower (fun p => { p with engHot := p.engHot.erase s }) else c
    else if c.throttleC ≤ x then (c.onPower (fun p => { p with engHot := s :: p.engHot })).raise (thm 0) 8
    else c

/-- The times since which sensors are at 110 °C and dies are counted hot (R542, R544). -/
def Chip.heatTimes (c : Chip) : Chip :=
  let hot (s : Nat) : Bool := match c.temp? s with | some x => decide (1760 ≤ x) | none => false
  let c := c.onPower (fun p => { p with hotAt := ((List.range 180).filter hot).map (fun s => (s, SMap.getD p.hotAt s c.now)) })
  c.onPower (fun p => { p with overAt := ((List.range 25).filter c.dieHot).map (fun d => (d, SMap.getD p.overAt d c.now)) })

/-- The thermal brake starts, or the time since which it may end is kept (R531, R542, R544). -/
def Chip.thermalBrake (c : Chip) (h : Option (Int × Nat)) : Chip :=
  let die := ((List.range 8) ++ [24]).any c.dieHot
  let any := (List.range 25).any c.dieHot
  let hot := (match h with | some (x, _) => decide (c.brakeC ≤ x) | none => false) || die
  let cool := (match h with | some (x, _) => decide (x < c.brakeC - 64) | none => true) && !any
  let c := c.onPower (fun p => { p with coolAt := if cool then p.coolAt.orElse (fun _ => some c.now) else none })
  if hot ∧ c.power.cause &&& causeThermal = 0 then
    ((c.brake causeThermal).bump (thm 0x124) 1).raise (thm 0) 2
  else c

/-- THERMAL_READ: every sensor is read, and the hottest reading is formed (R539 to R544). -/
def thermalRead (rs : List (Option Int)) (c : Chip) : Chip :=
  if c.power.off then c
  else
    let c := c.tick 8 10000
    let c := c.each (List.range 180) (fun c s => c.readSensor s (rs.getD s none))
    let h := c.hottest
    let c := match h with
      | some (x, s) =>
        let c := c.setReg (thm 0x104) (put (toTwos 16 x) 16 + put s 8)
        if sx 16 (fld (c.reg (thm 0x108)) 15 0) < x then c.setReg (thm 0x108) (toTwos 16 x) else c
      | none => c.setReg (thm 0x104) (put 0x8000 16)
    let c := c.each ((List.range 32).map (· + 144)) (fun c s => c.engineHot s)
    c.heatTimes.thermalBrake h

/-- THROTTLE_FLOOR_RISE: another 100 µs at or above THROTTLE_C (R541). -/
def floorRise (c : Chip) : Chip :=
  match c.hottest with
  | some (x, _) =>
    if c.throttleC ≤ x ∧ c.power.tTh < 8 ∧ !c.power.off then
      let c := c.tick 9 100000
      let first := c.power.tTh == 0
      let c := c.onPower (fun p => { p with tTh := p.tTh + 1 })
      let c := c.setT (max c.power.t c.power.tTh)
      if first then (c.bump (thm 0x120) 1).raise (thm 0) 1 else c
    else c
  | none => c

/-- THROTTLE_FLOOR_FALL: another 1 ms below THROTTLE_C − 2 °C (R541). -/
def floorFall (c : Chip) : Chip :=
  match c.hottest with
  | some (x, _) =>
    if x < c.throttleC - 32 ∧ 0 < c.power.tTh ∧ !c.power.off then
      (c.tick 10 1000000).onPower (fun p => { p with tTh := p.tTh - 1 })
    else c
  | none => c

/-- THERMAL_SHUTDOWN: a sensor has been at or above 110 °C for 100 µs (R542). -/
def thermalShutdown (s : Nat) (c : Chip) : Chip :=
  match SMap.get? c.power.hotAt s with
  | some t => (c.till (t + 100000)).shutdown
  | none => c

/-- DIE_HOT_SHUTDOWN: a die has been counted hot for 10 ms (R544). -/
def dieHotShutdown (d : Nat) (c : Chip) : Chip :=
  match SMap.get? c.power.overAt d with
  | some t => (c.till (t + 10000000)).shutdown
  | none => c

/-- A write of THM_CTL: both points checked as written together. -/
def wrThmCtl (v : Nat) (c : Chip) : Wr :=
  if within (fld v 7 0) 70 95 && within (fld v 15 8) (fld v 7 0 + 2) 102 then
    .ok (c.setReg (thm 0x100) (fld v 15 0 + put 110 16))
  else .error 1

end Sys2Proof.Machine
end

