-- ==== Sys2Proof/Machine/Pages.lean ====
section
/-! DEFINITION. Block state: STATE of the pages, their enabling, disabling and faults (R551 to R557, R587). -/
namespace Sys2Proof.Machine

/-- The quadrant tables that a page holds: 0 to 6 by page number. -/
def pageTables (page : Nat) : List Nat := (List.range 7).filter (fun t => tblPage t == page)

/-- The SRAM that a block owns is cleared (R554): the shared buffer and reference store, the tables of a quadrant, the barrier counters,
the press SRAM and table store, the queue state, of which no bad word is left. A page that a QUADRANT reset has put into ENABLING keeps
its tables (R558). -/
def Chip.clearSram (c : Chip) (die page : Nat) : Chip :=
  if (c.page (pageKey die page)).keep ∧ page ≠ 0x44 then c
  else match pageOf die page with
    | some (.buf, _) => c.onBuf die (fun b => { b with hamp := [{}, {}, {}, {}], ringMem := [], links := [], built := false, lost := [], badRef := [], badLink := [], badData := [], gone := [] })
    | some (.edg, _) | some (.rte, _) | some (.peg, _) | some (.mcg, _) =>
      let mine (k : Nat) : Bool := decide (k < 2 ^ 26) && k / 2 ^ 22 == die && (pageTables page).contains (k / 2 ^ 19 % 8)
      { c with tables := SMap.drop c.tables mine, badEnt := c.badEnt.filter (fun k => !mine k) }
    | some (.synQ, _) => { c with bars := SMap.drop c.bars (fun b => b / 1024 == die) }
    | some (.prs, _) =>
      let mine (k : Nat) : Bool := decide (2 ^ 26 ≤ k) && (k - 2 ^ 26) / 2 ^ 24 == die - 4
      { c with tables := SMap.drop c.tables mine }
    | some (.que, _) => if c.scarred die page then { c with regs := SMap.set c.regs (scar die page) scarClean } else c
    | _ => c

/-- What follows when a page has become ON: its ports may come up (R142), its seam may train (R70), the lease of the twin
unit runs from now. -/
def Chip.cameOn (c : Chip) (die page : Nat) : Chip :=
  match pageOf die page with
  | some (.lne, i) | some (.lnk, i) | some (.win, i) => c.settle (islandPorts die i)
  | some (.semQ, i) =>
    let k := if i = 3 then 6 + die else quadSeam die (((List.range 4).filter (· != die)).getD i 0)
    if c.semOn k then c.onSeam k (fun s => { s with since := c.now }) else c
  | some (.semP, _) => if c.semOn (2 + die) then c.onSeam (2 + die) (fun s => { s with since := c.now }) else c
  | some (.twn, _) => c.onTwin (fun t => { t with armedAt := c.now })
  | some (.pmc, _) => c.pmcArm (regAddr die page 0)
  | _ => c

/-- Every context of a press die that is ON takes STOP (R370, R556). -/
def Chip.stopContexts (c : Chip) (d : Nat) : Chip :=
  c.each ((List.range 24).filter (fun x => (c.ctx (24 * d + x)).st == 1)) (fun c x =>
    c.onCtx (24 * d + x) (fun y => { y with st := 2, chunks := [], noticeAt := none }))

/-- A port is part way through a packet: one whose head has arrived and whose tail has not, or one whose head it has sent (R148). -/
def Chip.midPacket (c : Chip) (p : Nat) : Bool :=
  (List.range 10).any (fun v => (c.rxOf p v).cur.isSome) || c.copies.any (fun x => x.link == p && x.headSent && !x.tailSent)

/-- A port that a page in DISABLING serves leaves ACTIVE. It completes the packets it has begun, and becomes DISABLED at once where it
has begun none, otherwise when the page completes. DEDUCED; log entry 103: R556 disables it, and R148 lets it complete them. -/
def Chip.windDown (c : Chip) (p : Nat) : Chip :=
  let c := c.deactivate p
  if (c.port p).st = .quarantine ∧ c.midPacket p ∧ c.fpOn p then c else c.portDisable p

/-- A page's block stops taking new work: its ports leave ACTIVE and become DISABLED, its contexts take STOP (R556). A seam
stops being usable because a page of it is not ON (R587). -/
def Chip.stopBlock (c : Chip) (die page : Nat) : Chip :=
  match pageOf die page with
  | some (.lne, i) | some (.lnk, i) | some (.win, i) => c.each (islandPorts die i) Chip.windDown
  | some (.prs, _) | some (.col, _) => c.stopContexts (die - 4)
  | some (.pmc, _) => c.pmcSettle (regAddr die page 0)
  | _ => c

/-- A page enters DISABLING: DISABLE is written to every page that needs it and is not OFF, then its block stops (R553,
R556). The first argument bounds the depth of need, which is at most 5. -/
def Chip.enterDisabling : Nat → Chip → Nat → Nat → Chip
  | 0, c, _, _ => c
  | n + 1, c, die, page =>
    let c := c.setPage (pageKey die page) { st := 3 }
    let c := c.each (dependents die page) (fun c dp =>
      let k := pageKey dp.1 dp.2
      let p := c.page k
      if p.st = 1 then c.setPage k {}
      else if p.st = 3 then c.setPage k { p with pe := false }
      else if p.st = 2 ∨ p.st = 4 then Chip.enterDisabling n c dp.1 dp.2
      else c)
    c.stopBlock die page

/-- A page enters DISABLING. -/
def Chip.toDisabling (c : Chip) (die page : Nat) : Chip := Chip.enterDisabling 6 c die page

/-- A write of CTL (R552, R553, R557). -/
def wrCtl (die page v : Nat) (c : Chip) : Wr :=
  let k := pageKey die page
  let p := c.page k
  let on := match pageOf die page with | some (b, _) => alwaysOn b | none => false
  if bit v 0 && bit v 1 then .error 1
  else if bit v 0 then
    if p.st = 4 ∨ (c.scarred die page ∧ page ≠ 0x45) then .error 2
    else if p.st = 0 then .ok (c.setPage k { st := 1 })
    else if p.st = 1 then .ok (c.setPage k { p with pd := false })
    else if p.st = 3 then .ok (c.setPage k { p with pe := true })
    else .ok c
  else if bit v 1 then
    if on then .error 2
    else if p.st = 1 then .ok (if c.needsOn die page then c.setPage k { p with pd := true } else c.setPage k {})
    else if p.st = 2 ∨ p.st = 4 then .ok (c.toDisabling die page)
    else if p.st = 3 then .ok (c.setPage k { p with pe := false })
    else .ok c
  else .ok c

/-- A page in ENABLING completes: ON, then DISABLING at once when PENDING_DISABLE is set (R553, R554). -/
def Chip.enableDone (c : Chip) (die page : Nat) : Chip :=
  let k := pageKey die page
  let p := c.page k
  if p.st = 1 ∧ c.needsOn die page ∧ (pageOf die page).isSome then
    let c := ((c.clearSram die page).setPage k { st := 2 }).cameOn die page
    if p.pd then c.toDisabling die page else c
  else c

/-- PAGE_ENABLE_DONE (R554). -/
def pageEnableDone (a : Nat) (c : Chip) : Chip := c.enableDone (adDie a) (adPage a)

/-- A seam link end still has a packet to send, or a frame to be acknowledged that holds a copy's tail (R587). -/
def Chip.seamBusy (c : Chip) (k : Nat) : Bool :=
  (seamLinks k).any (fun l => c.copies.any (fun x => x.link == l) || (c.link l).replay.any (fun f => f.stitches.any (·.last)))

/-- A block that is being disabled still holds a packet, a chunk or a command, one whose GO reads 1 among them (R556). -/
def Chip.blockBusy (c : Chip) (die page : Nat) : Bool :=
  c.busy.any (fun kv => adDie kv.1 == die && adPage kv.1 == page && decide (c.now < kv.2)) ||
  match pageOf die page with
  | some (.lne, i) | some (.lnk, i) | some (.win, i) => (islandPorts die i).any (fun p => (c.port p).st.framed && c.midPacket p)
  | some (.buf, _) =>
    c.stores.any (·.q == die) || !(c.buf die).freeing.isEmpty || (c.buf die).rebuilding || (c.buf die).move.isSome
  | some (.que, _) | some (.xbr, _) => c.copies.any (fun x => x.q == die && !x.tailSent) || c.held.any (fun h => h.port / 256 == die)
  | some (.semQ, i) => c.seamBusy (if i = 3 then 6 + die else quadSeam die (((List.range 4).filter (· != die)).getD i 0))
  | some (.semP, _) => c.seamBusy (2 + die)
  | some (.prs, _) | some (.col, _) =>
    c.pressIn.any (fun e => e.1 / 32 == die - 4) || (List.range 24).any (fun x =>
      (c.ctx (24 * (die - 4) + x)).st == 1 || (c.ctx (24 * (die - 4) + x)).st == 2)
  | some (.synQ, _) => c.syncIn.any (fun e => e.1 == die)
  | some (.bnk, _) => !c.rinses.isEmpty
  | some (.dmp, _) => c.tele.dumpRec.isSome
  | some (.lntQ, _) => c.tele.lintQ.any (·.1 == die) || c.tele.taps.any (fun kv => kv.1 / 32 == die && !kv.2.busy.isEmpty)
  | _ => false

/-- A page has left: its seam stops being UP, the ports it serves are DISABLED, and what a lint tap has chosen and not taken is gone
(R142, R469, R587). -/
def Chip.wentOff (c : Chip) (die page : Nat) : Chip :=
  let down (c : Chip) (k : Nat) : Chip :=
    (c.each (seamLinks k) (fun c l => c.onLink l Link.kept)).onSeam k
      (fun s => { s with up := false, since := c.now })
  match pageOf die page with
  | some (.semQ, i) => down c (if i = 3 then 6 + die else quadSeam die (((List.range 4).filter (· != die)).getD i 0))
  | some (.semP, _) => down c (2 + die)
  | some (.lne, i) | some (.lnk, i) | some (.win, i) => c.each (islandPorts die i) Chip.portDisable
  | some (.lntQ, _) => c.onTele (fun t => { t with taps := SMap.drop t.taps (fun k => k / 32 == die) })
  | _ => c

/-- A page in DISABLING completes: OFF, then ENABLING at once when PENDING_ENABLE is set (R553, R556). -/
def pageDisableDone (a : Nat) (c : Chip) : Chip :=
  let die := adDie a
  let page := adPage a
  let k := pageKey die page
  let p := c.page k
  if p.st = 3 ∧ (dependents die page).all (fun dp => (c.page (pageKey dp.1 dp.2)).st == 0) ∧ !c.blockBusy die page then
    (c.wentOff die page).setPage k (if p.pe then { st := 1 } else {})
  else c

/-- A page enters FAULT and records the cause (R557, R578). -/
def Chip.pageFault (c : Chip) (die page : Nat) : Chip :=
  ((c.setPage (pageKey die page) { st := 4 }).dropPending die page).recordErr (regAddr die page 0) 7 0 0 false

end Sys2Proof.Machine
end

