-- ==== Sys2Proof/Machine/Reset.lean ====
section
/-! DEFINITION. Power-on, straps and references (R40, R41, R548 to R550, R568, R569) and the resets of R558 to R562. -/
namespace Sys2Proof.Machine

/-- A change of the reset state. -/
def Chip.onRst (c : Chip) (f : Reset → Reset) : Chip := { c with rst := f c.rst }

/-- A register of the RST page. -/
def rstR (off : Nat) : Nat := regAddr 24 6 off
/-- A register of the CLK page. -/
def clkR (off : Nat) : Nat := regAddr 24 5 off

/-! ### What a reset clears (R558, R559, R562) -/

/-- The key is a page's mark of a FAULT (`scar`). -/
def isScar (k : Nat) : Bool := decide (2 ^ 34 ≤ k) && adOff k == 0

/-- Every register of a die returns to its reset value and every page to its state out of reset (R552, R555); `whole` for a
reset of the part, which also ends the refusal of R557. -/
def Chip.clearDie (c : Chip) (whole : Bool) (die : Nat) : Chip :=
  { c with regs := SMap.drop c.regs (fun k => adDie k == die && (whole || !isScar k)),
           latch := SMap.drop c.latch (fun k => adDie k == die),
           busy := SMap.drop c.busy (fun k => adDie k == die),
           pages := SMap.drop c.pages (fun k => k / 2 ^ 15 == die),
           tele := { c.tele with lvl := SMap.drop c.tele.lvl (fun k => adDie k == die) } }

/-- The wavelengths of an engine whose primary source fails: dark after a reset of the engine, whose spares are unassigned
(R558). -/
def Chip.relock (c : Chip) (e : Nat) : Chip := c.setDarkW e (fld (SMap.getD c.engBad e 0) 7 0)

/-- The dies of a reset (R558): kind, target. -/
def resetDies (kind target : Nat) : List Nat :=
  if kind = 1 then List.range 25 else if kind = 2 then List.range 24
  else if kind = 3 then [target] else if kind = 4 then [4 + target] else if kind = 5 then [8 + target] else []

/-- The upstream time port is lost with the ports of the part (R397). -/
def Chip.loseUpstream (c : Chip) : Chip :=
  if c.upstream.isSome ∧ c.regBit (synC 0x300) 31 = false then
    let c := c.setLocked false
    { c with time := { c.time with good := 0, off := 0 } }
  else c

/-- All that a PART reset resets: every die but island CP; of C0 stay the CP pages, the fuses, the straps and the power
state (R558). C0 enters reset with the thread bypass engaged (R493); SRAM goes with it. -/
def Chip.resetPart (c : Chip) (cause : Nat) : Chip :=
  let cp (k : Nat) : Bool := adDie k == 24 && (3 ≤ adPage k && adPage k ≤ 6)
  let z : Chip := { Chip.reset with
    now := c.now, free := c.free, ids := c.ids, out := c.out, power := c.power, engBad := c.engBad,
    time := { Chip.reset.time with lastSync := c.now },
    regs := SMap.drop c.regs (fun k => !cp k), latch := SMap.drop c.latch (fun k => !cp k),
    mgmt := { keys := c.mgmt.keys, revoked := c.mgmt.revoked, floor := c.mgmt.floor },
    rst := { c.rst with kind := 1, grace := false, admits := [], more := [], c0Up := false, cause := cause,
                        resets := min 255 (c.rst.resets + 1) } }
  (z.each (List.range 16) (fun c e => c.relock e)).setHold

/-- All that a DATAPATH reset resets: the quadrants, press dies and engines, the selected banks, EN of TWN_CTL (R558). -/
def Chip.resetDatapath (c : Chip) : Chip :=
  let c := (c.twinOff.setRegBit (twn 0x100) 0 false).loseUpstream
  let c := c.each (List.range 24) (fun c d => c.clearDie true d)
  let c := { c with
    ports := [], links := [], seams := [], bufs := [], tables := [], badEnt := [], gate := [true, true, true, true],
    pkts := [], stores := [], copies := [], rx := [], probeIn := [], held := [], wins := [], jobs := [], bars := [],
    ctxs := [], pressIn := [], syncIn := [], tele := { c.tele with cgm := [], taps := [], lintQ := [] } }
  (c.each (List.range 16) (fun c e => c.relock e)).setHold

/-- The packets of a quadrant that are left after its ports and seams have stopped are discarded (R405, R558). -/
def Chip.dropQuadrant (c : Chip) (q : Nat) : Chip :=
  let c := c.dropCopies (c.copies.filter (·.q == q)) .down
  let ids := ((c.stores.filter (·.q == q)).map (·.pkt) ++ (c.held.filter (fun h => h.port / 256 == q)).map (·.pkt)).eraseDups
  let c := { c with
    stores := c.stores.filter (·.q != q), held := c.held.filter (fun h => h.port / 256 != q),
    rx := SMap.drop c.rx (fun k => k / 4096 == q), links := SMap.del c.links (injectLink q),
    probeIn := c.probeIn.filter (fun e => e.1 / 256 != q), syncIn := c.syncIn.filter (·.1 != q) }
  c.each ids (fun c id => (c.mcCheck id).gcPkt id)

/-- The pages of a quadrant in a QUADRANT reset: those that were ON pass through ENABLING again, the others are OFF
with their tables kept (R558, R559). -/
def Chip.resetPages (c : Chip) (q : Nat) : Chip :=
  let c := c.each (pagesOf q) (fun c p =>
    let k := pageKey q p
    c.setPage k (if (c.page k).st = 2 then { st := 1, keep := true } else {}))
  let c := { c with regs := SMap.del c.regs (scar q 0x45) }
  c.each [0x44, 0x45, 0x46, 0x53] (fun c p => c.dropPending q p)

/-- All that a QUADRANT reset resets (R558, R559), the PMC values with their latches (R13). Counters, locks and what identifies a peer
stay. DESIGN CHOICE (log entry 87): the latches of the 64-bit counts that stay do so too. -/
def Chip.resetQuadrant (c : Chip) (q : Nat) : Chip :=
  let ports := (List.range 256).map (· + 256 * q)
  let c := c.each ports (fun c p => c.portDisable p)
  let c := c.each ((peers q).map (quadSeam q) ++ [6 + q]) (fun c k => c.seamCut k)
  let c := c.each ((List.range 24).filter (fun x => (c.ctx (24 * q + x)).st != 0 && (c.ctx (24 * q + x)).st != 3))
    (fun c x => c.ctxFail q x)
  let c := c.dropQuadrant q
  let c := c.each ports (fun c p => if c.port p = {} then c else c.setPort p { latched := (c.port p).latched })
  let c := (c.onBuf q (fun _ => {})).setRegBit (bufPage q + 0x100) 0 false
  let c := c.setRegBit (bufPage q + 0x1B0) 31 false
  let lane (off : Nat) : Bool := off == 0x108 || off == 0x10C || off == 0x114 || off == 0x13C
  let c := { c with
    bars := c.bars.map (fun (kv : Nat × Bar) => if kv.1 / 1024 = q then (kv.1, { Bar.ofWords (kv.2.words.take 4) with bad := kv.2.bad }) else kv),
    wins := SMap.drop c.wins (fun k => k / 1024 == q),
    busy := SMap.drop c.busy (fun k => adDie k == q),
    latch := SMap.drop c.latch (fun k => adDie k == q && 0x60 ≤ adPage k && 0x800 ≤ adOff k && adOff k < 0xC00),
    tele := { c.tele with cgm := SMap.drop c.tele.cgm (fun k => k / 260 == q), taps := SMap.drop c.tele.taps (fun k => k / 32 == q),
                          lintQ := c.tele.lintQ.filter (·.1 != q), lvl := SMap.drop c.tele.lvl (fun k => adDie k == q) },
    regs := SMap.drop c.regs (fun k => adDie k == q && decide (k < 2 ^ 32) &&
      ((0x60 ≤ adPage k && 0x800 ≤ adOff k && adOff k < 0xC00) || (0x10 ≤ adPage k && adPage k < 0x20 && lane (adOff k)))) }
  c.resetPages q

/-- All that a PRESS reset resets: the whole die (R558); its press seam stops with it. -/
def Chip.resetPress (c : Chip) (p : Nat) : Chip :=
  let c := (c.seamCut (6 + p)).clearDie false (4 + p)
  let c := { c with
    ctxs := SMap.drop c.ctxs (fun k => k / 24 == p), pressIn := c.pressIn.filter (fun e => e.1 / 32 != p),
    tables := SMap.drop c.tables (fun k => decide (2 ^ 26 ≤ k) && (k - 2 ^ 26) / 2 ^ 24 == p) }
  c.dropPending (4 + p) 0x50

/-- All that an ENGINE reset resets: gates closed, spares unassigned, sources relocked (R558). -/
def Chip.resetEngine (c : Chip) (e : Nat) : Chip :=
  (((c.clearDie false (8 + e)).relock e).settle (enginePorts e)).dropPending (8 + e) 0x40

/-- What a reset of a kind resets (R558). -/
def Chip.resetWhat (c : Chip) (kind target : Nat) : Chip :=
  if kind = 1 then c.resetPart 1
  else if kind = 2 then c.resetDatapath
  else if kind = 3 then c.resetQuadrant target
  else if kind = 4 then c.resetPress target
  else if kind = 5 then c.resetEngine target
  else c

/-- The reset in progress starts (R558). -/
def Chip.startReset (c : Chip) : Chip :=
  let r := c.rst
  (c.onRst (fun r => { r with grace := false })).resetWhat r.kind r.target

/-! ### RST_CMD (R558, R560, R561) -/

/-- The ports of the dies that a reset with GRACE withdraws. -/
def gracePorts (kind target : Nat) : List Nat :=
  if kind = 3 then (List.range 256).map (· + 256 * target) else List.range 1024

/-- RST_STATUS takes a result. -/
def Chip.rstResult (c : Chip) (r : Nat) : Chip := c.setReg (rstR 0x104) r

/-- A reset is accepted: with GRACE for a PART, DATAPATH or QUADRANT reset ADMIT is cleared first, else it starts at once
(R560, R561). -/
def Chip.acceptReset (c : Chip) (v : Nat) : Chip :=
  let kind := fld v 27 24
  let target := fld v 3 0
  let c := c.setReg (rstR 0x100) v
  let waits := bit v 30 && decide (kind ≤ 3)
  let had := if waits then (gracePorts kind target).filter c.isAdmitted else []
  let c := if c.rst.kind = 0 then
      c.onRst (fun r => { r with kind := kind, target := target, cmd := true, at_ := c.now, admits := had, grace := waits })
    else c.onRst (fun r => { r with
      more := r.more ++ [{ kind := kind, target := target, grace := waits, admits := had, at_ := c.now }] })
  if waits then c.each had (fun c p => c.clearAdmit p) else c.resetWhat kind target

/-- The dies of every reset in progress. -/
def Chip.resetting (c : Chip) : List Nat :=
  resetDies c.rst.kind c.rst.target ++ c.rst.more.flatMap (fun r => resetDies r.kind r.target)

/-- A write of RST_CMD: without GO it takes KIND, TARGET and GRACE alone; with GO a kind or target outside R558 completes with RESULT
2, and one that shares a die with a reset in progress, or that meets a shutdown, with RESULT 1. GO reads 1 while a reset is in
progress (R560, R570). -/
def wrRstCmd (v : Nat) (c : Chip) : Wr :=
  let kind := fld v 27 24
  let target := fld v 3 0
  let go := b2n (decide (c.rst.kind ≠ 0))
  let bad := kind = 0 ∨ 5 < kind ∨ ((kind = 3 ∨ kind = 4) ∧ 3 < target)
  let held := c.setReg (rstR 0x100) (v % 2 ^ 31 + put go 31)
  if bit v 31 = false then .ok held
  else if bad then .ok (held.rstResult 2)
  else if c.power.stage.isSome ∨ (resetDies kind target).any c.resetting.contains then .ok (held.rstResult 1)
  else .ok (c.acceptReset v)

/-- GRACE_TIME of a reset has passed, or every port of it has left ACTIVE and finished its packets (R561). -/
def Chip.graceOver (c : Chip) (kind target at_ : Nat) : Chip :=
  let done := (gracePorts kind target).all (fun p =>
    !c.active p && !c.copies.any (fun x => x.link == p && x.headSent && !x.tailSent))
  if done then c else c.till (at_ + 1000 * fld (c.reg (rstR 0x110)) 9 0)

/-- GRACE_END: every port has left ACTIVE and finished its packets, or GRACE_TIME has passed, and the reset that has waited longest
starts (R561). -/
def graceEnd (c : Chip) : Chip :=
  if c.rst.grace then (c.graceOver c.rst.kind c.rst.target c.rst.at_).startReset
  else match c.rst.more.find? (·.grace) with
    | some r => ((c.graceOver r.kind r.target r.at_).onRst (fun x => { x with
        more := x.more.map (fun y => if y = r then { y with grace := false } else y) })).resetWhat r.kind r.target
    | none => c

/-- What RESET_DONE leaves of a QUADRANT reset: its pages ON again, ADMIT as it was, and the automatic rebuild, which is a rebuild of
the controller's (R263, R559, R561). -/
def Chip.quadrantDone (c : Chip) (q : Nat) (admits : List Nat) : Chip :=
  let c := c.each ([0x44, 0x45, 0x46] ++ pagesOf q) (fun c p => c.enableDone q p)
  let c := c.each admits (fun c p => c.setRegBit (lnkReg p 0x100) 0 true)
  if c.regBit (bufPage q + 0x100) 8 && c.policy 3 && c.isOn q 0x44 then
    (c.rebuildStart q).onBuf q (fun b => { b with auto := true, lastRebuild := some c.now })
  else c

/-- A reset of RST_CMD has completed: with none left in progress GO clears; RESULT 0 and RESET_DONE (R558). -/
def Chip.resetOver (c : Chip) : Chip :=
  let c := if c.rst.kind = 0 then c.setRegBit (rstR 0x100) 31 false else c
  (c.rstResult 0).raise (rstR 0) 2

/-- What completes with a reset: C0 leaves a PART reset, a quadrant's pages come back. -/
def Chip.resetEnd (c : Chip) (kind target : Nat) (admits : List Nat) : Chip :=
  if kind = 1 then c.onRst (fun r => { r with c0Up := true })
  else if kind = 3 then c.quadrantDone target admits
  else c

/-- RESET_DONE: the reset that has run longest completes; one started by RST_CMD clears GO and raises RESET_DONE (R558, R560). A part
without a reference stays in reset (R569). -/
def resetDone (c : Chip) : Chip :=
  if c.rst.kind = 0 ∨ c.rst.refsLost ∨ c.power.off ∨ c.power.stage.isSome then c
  else if c.rst.grace = false then
    let r := c.rst
    let c := (c.resetEnd r.kind r.target r.admits).onRst (fun x => match x.more with
      | m :: rest => { x with kind := m.kind, target := m.target, grace := m.grace, admits := m.admits, at_ := m.at_, cmd := true, more := rest }
      | [] => { x with kind := 0, target := 0, cmd := false, admits := [] })
    if r.cmd then c.resetOver else c
  else match c.rst.more.find? (!·.grace) with
    | some r => ((c.resetEnd r.kind r.target r.admits).onRst (fun x => { x with more := x.more.erase r })).resetOver
    | none => c

/-! ### Power-on (R548 to R550) -/

/-- The rails of a step of the sequencer, in the order of R548, numbered as in R521. -/
def railStep (n : Nat) : List Nat :=
  if n = 0 then [19] else if n = 1 then [18]
  else if n = 2 then [4, 5, 6, 7, 12, 13, 14, 15]
  else if n = 3 then [0, 1, 2, 3, 8, 9, 10, 11]
  else if n = 4 then [16] else if n = 5 then [17] else []

/-- POWER_ON: VIN rises to 20.4 V after it has been below 17.0 V (R537, R548): everything but the fuses is reset, and the
sequencer starts. -/
def powerOn (c : Chip) : Chip :=
  if c.power.off ∧ c.power.below17 then
    let z : Chip := { Chip.reset with
      now := c.now, free := c.free, ids := c.ids, out := c.out, engBad := c.engBad,
      mgmt := { keys := c.mgmt.keys, revoked := c.mgmt.revoked, floor := c.mgmt.floor },
      power := { rails := 0, step := 0, stepAt := c.now }, time := { Chip.reset.time with lastSync := c.now }, rst := { c0Up := false } }
    z.each (List.range 16) (fun c e => c.relock e)
  else c

/-- RAIL_SEQUENCE_STEP: every rail of one step has come up, and the next step starts; with the last, C0 leaves reset
(R548, R550). -/
def railSequenceStep (c : Chip) : Chip :=
  if c.power.step < 6 ∧ !c.power.off ∧ c.power.stage.isNone then
    let n := c.power.step
    let c := c.onPower (fun p => { p with
      rails := (railStep n).foldl (fun r i => setBit r i true) p.rails, step := n + 1, stepAt := c.now })
    if n + 1 = 6 ∧ c.rst.kind = 0 then c.onRst (fun r => { r with c0Up := true }) else c
  else c

/-- RAIL_START_TIMEOUT: a rail of the step has not come up within 2 ms, which is a rail fault (R521, R548). -/
def railStartTimeout (r : Nat) (c : Chip) : Chip :=
  if c.power.step < 6 ∧ (railStep c.power.step).contains r ∧ !c.power.off ∧ c.power.stage.isNone then
    ((c.till (c.power.stepAt + 2000000)).raise (pwr 0) 8).shutdown
  else c

/-- CLK_REF shows a reference. -/
def Chip.refOk (c : Chip) (backup : Bool) : Bool := if backup then c.rst.backOk else c.rst.primOk

/-- REFERENCE_SELECT: the reference the part runs from (R549); with neither good the part is held in PART reset (R569). -/
def referenceSelect (primaryGood backupGood : Bool) (c : Chip) : Chip :=
  if c.rst.refChosen then c
  else
    let c := c.onRst (fun r => { r with primOk := primaryGood, backOk := backupGood, backup := !primaryGood && backupGood,
                                        refChosen := true })
    if primaryGood || backupGood then c
    else (c.resetPart 2).onRst (fun r => { r with refsLost := true, cmd := false })

/-- STRAP_SAMPLE: 16 equal samples 1 µs apart, once after power-on (R40). -/
def strapSample (pos : Nat) (side : Bool) (c : Chip) : Chip :=
  if c.rst.strapped || !c.rst.c0Up then c
  else (c.pass 15000).onRst (fun r => { r with strapped := true, pos := pos, side := side, livePos := pos, liveSide := side })

/-- STRAP_CHANGE: a level that changes is taken once it has lasted 1 µs (R38); after sampling the sampled value stays (R41). -/
def strapChange (pos : Nat) (side : Bool) (c : Chip) : Chip :=
  if c.rst.livePos = pos ∧ c.rst.liveSide = side then c
  else
    let c := (c.pass 1000).onRst (fun r => { r with livePos := pos, liveSide := side })
    if c.rst.strapped then (c.setRegBit (rstR 0x10C) 31 true).raise (rstR 0) 1 else c

/-- BYPASS_RELEASE: the boot ROM releases the bypass once the straps are accepted (R493, R494, R550). -/
def bypassRelease (c : Chip) : Chip :=
  if c.rst.c0Up && c.rst.strapped && c.mgmt.bypass then
    { c with mgmt := { c.mgmt with bypass := false, helloAt := c.now } }
  else c

/-! ### References (R568, R569) -/

/-- The part switches to a reference (R568). Fabric time gains an error of at most 2 ns, a free value within ±2 ns that the count
takes as it advances (R390). -/
def Chip.switchRef (c : Chip) (backup : Bool) : Chip :=
  let c := c.onRst (fun r => { r with backup := backup })
  let e := c.draw (fun n => (Config.anyWord n).toNat % 5)
  let c := { e.2 with time := { e.2.time with frac := e.2.time.frac + ((e.1 : Int) - 2) * 1000000 } }
  (c.bump (clkR 0x108) 1).raise (clkR 0) 1

/-- REFERENCE_FAIL: a reference fails; if it is the one in use and the other is good, the part switches (R568). -/
def referenceFail (backup : Bool) (c : Chip) : Chip :=
  if c.refOk backup then
    let c := c.onRst (fun r => if backup then { r with backOk := false } else { r with primOk := false })
    let c := c.raise (clkR 0) 2
    if c.rst.backup = backup ∧ c.refOk (!backup) then c.switchRef (!backup) else c
  else c

/-- A write of CLK_REF: FORCE_BACKUP switches to the backup reference when it is good (R568). -/
def wrClkRef (v : Nat) (c : Chip) : Wr :=
  .ok (if bit v 8 && c.rst.backOk && !c.rst.backup then c.switchRef true else c)

/-- REFERENCES_LOST: both references have failed for 1 µs (R569). A reset of RST_CMD that it overtakes completes within it (R570). -/
def referencesLost (c : Chip) : Chip :=
  if c.rst.primOk || c.rst.backOk || c.rst.refsLost || !c.rst.refChosen || c.power.off then c
  else
    let cmd := c.rst.kind != 0 && c.rst.cmd
    let c := ((c.pass 1000).resetPart 2).onRst (fun r => { r with refsLost := true, cmd := false })
    if cmd then ((c.setRegBit (rstR 0x100) 31 false).rstResult 0).raise (rstR 0) 2 else c

/-- REFERENCE_RECOVER: a reference has been good for 1 ms (R569). -/
def referenceRecover (backup : Bool) (c : Chip) : Chip :=
  if c.power.off then c
  else
    let was := c.rst.refsLost
    let c := c.onRst (fun r => if backup then { r with backOk := true } else { r with primOk := true })
    if was then
      let c := (c.pass 1000000).onRst (fun r => { r with backup := backup, refsLost := false, kind := 0, target := 0 })
      if c.power.step = 6 ∧ c.power.stage.isNone then c.onRst (fun r => { r with c0Up := true }) else c
    else c

end Sys2Proof.Machine
end

