-- ==== Sys2Proof/Machine/RegRead.lean ====
section
/-! DEFINITION. What a register reads as: the page header (chapter 19), the registers that show other state, the counts
that a read clears and the latches of 64-bit counts (R11 to R13, R408, R581, R583). -/
namespace Sys2Proof.Machine

/-- A page's CTL register. -/
def ctlR (off : Nat) : Nat := regAddr 24 1 off

/-! ### Header (chapter 19) -/

/-- PAGE_CAPS. -/
def pageCaps (die : Nat) (b : Block) : Nat :=
  b2n (decide (die < 8)) + put (b2n (b == .prs)) 1 + put (b2n (alwaysOn b)) 2 + put (b2n (mixedClass b)) 3 + put (pageClass b) 8

/-- The counter that an offset of a PMC page is of; 0 below the arrays. -/
def pmcIndex (off : Nat) : Nat :=
  if off < 0x200 then 0 else if off < 0x400 then (off - 0x200) / 4 else if off < 0x800 then (off - 0x400) / 4
  else if off < 0xC00 then (off - 0x800) / 8 else (off - 0xC00) / 8

/-- An offset of a PMC page is of a counter that the page does not hold (R453): no register sits there (R573). -/
def pmcAbsent (b : Block) (die i off : Nat) : Bool := b == .pmc && decide (counters die i ≤ pmcIndex off)

/-- The register at an offset of a page that a die holds (R573). -/
def regAt (die : Nat) (b : Block) (i off : Nat) : Option RegDef := if pmcAbsent b die i off then none else regDef b i off

/-- PAGE_SPAN: the bytes up to the end of the page's last register. -/
def pageSpan (die : Nat) (b : Block) (i : Nat) : Nat :=
  (List.range 1024).foldl (fun m k => if (regAt die b i (4 * k)).isSome then 4 * k + 4 else m) 0

/-- STATE of a page (R551). -/
def PageSt.word (p : PageSt) : Nat := p.st + put (b2n p.pe) 8 + put (b2n p.pd) 9

/-- A register of the header. -/
def Chip.readHeader (c : Chip) (b : Block) (i die page off : Nat) : Nat :=
  if off = 0x00 then put (typeCode b) 16 + i
  else if off = 0x04 then 0x000100B1
  else if off = 0x08 then pageCaps die b
  else if off = 0x0C then pageSpan die b i
  else if off = 0x10 ∨ off = 0x20 then 0
  else if off = 0x14 then (c.page (pageKey die page)).word
  else c.reg (regAddr die page off)

/-! ### Registers that show other state -/

/-- SEM_LINK_STATUS of a seam link end. -/
def Chip.semStatus (c : Chip) (l : Nat) : Nat :=
  let k := (seamOf l).getD 0
  let far := farEnd l
  let peer := if 1040 ≤ far then 4 + (far - 1040) else (far - 1024) / 4
  let x := c.link l
  let stalled := (List.range 10).filter (fun v => match x.dryAt.getD v none with | some t => decide (t + 1000 < c.now) | none => false)
  let off := (c.page (pageKey (adDie (semPage l)) (adPage (semPage l)))).st == 0
  put (b2n (c.seam k).up) 1 + put (b2n (decide (k < 6) && !c.seamUsable k && !off)) 2 + put (b2n (decide (c.now < x.replayEnd))) 3 +
    put (min 15 stalled.length) 4 + put peer 16

/-- The link end of a SEM page. -/
def semLinkOf (die inst : Nat) : Nat := if die < 4 then seamLink die inst else ppLink (die - 4)

/-- OEN_FP_LIGHT: the gate is open and some wavelength is lit. -/
def Chip.fpLight (c : Chip) (e : Nat) : Nat :=
  if c.darkW e % 256 = 255 then 0 else fld (c.reg (oen e 0x100)) 15 0

/-- LNE_PRBS_WINDOW: the bits a lane has received, at 212.5 Gb/s, since PRBS_CLEAR was last written 1 (R106); 0 before
that. -/
def Chip.prbsWindow (c : Chip) (q d : Nat) : Nat :=
  match SMap.get? c.regs (prbsClearAt q d) with
  | none => 0
  | some lo => (c.now - (lo.toNat + 2 ^ 32 * c.reg (prbsClearAt q d + 4))) * 425 / 2 % 2 ^ 64

/-- LNK_PORT_STATUS. -/
def Chip.portStatus (c : Chip) (p : Nat) : Nat :=
  let x := c.port p
  x.st.code + put (b2n x.peerSw) 3 + put (min 2 x.peerKind) 4 + put (b2n x.peerTwin) 6 + put (b2n x.peerAdm) 7

/-- The depth of the queue that QUE_DEPTH_SEL selects, by virtual channel. DESIGN CHOICE: an INDEX that names no queue of KIND 1 reads
depth 0, and KIND 2 has one queue whatever INDEX is; log entry 104. -/
def Chip.selDepth (c : Chip) (q v : Nat) : Nat :=
  let s := c.reg (quePage q + 0x140)
  let i := fld s 7 0
  if fld s 9 8 = 0 then c.depth (256 * q + i) v
  else if fld s 9 8 = 1 then (if i < 3 then c.depth (seamLink q i) v else 0)
  else c.depth (seamLink q 3) v

/-- The registers of a BUF page that show the pool manager's state. -/
def Chip.readBuf (c : Chip) (q off : Nat) : Option Nat :=
  let b := c.buf q
  let ring (i : Nat) (tail : Bool) : Nat :=
    let h := b.hamper i
    if tail then h.tail + put (b2n h.tailLap) 31 else h.head + put (b2n h.headLap) 31
  if off = 0x104 then some (b2n b.mode + put (b2n b.built) 1 + put (b2n b.rebuilding) 2 + put (b2n b.move.isSome) 3)
  else if inArr off 0x160 4 4 then some (ring ((off - 0x160) / 4) false)
  else if inArr off 0x170 4 4 then some (ring ((off - 0x170) / 4) true)
  else if inArr off 0x180 4 4 then some (c.poolFree q ((off - 0x180) / 4))
  else if inArr off 0x190 4 4 then some (c.poolHeld q ((off - 0x190) / 4))
  else if off = 0x1B4 then some (c.need q)
  else if off = 0x1B8 then some (c.have_ q)
  else if off = 0x1BC then some (c.freeCount q)
  else none

/-- COL_CTX_STATUS of a context. -/
def Chip.ctxStatus (c : Chip) (d x : Nat) : Nat :=
  let y := c.ctx (24 * d + x)
  let opens := y.chunks.filter (fun k => !k.done)
  let t := c.tmpl d x ((c.job (c.ctxJob d x)).bankIn (68 + d))
  y.st + put t.gen 3 + put (b2n (opens.any (·.late))) 5 + put (min 511 opens.length) 16

/-- IDX registers (R585). -/
def readIdx (die off : Nat) : Nat :=
  let k := match dieKind die with | some .quad => 0 | some .press => 1 | some .engine => 2 | _ => 3
  if off = 0x100 then put k 8 + die
  else if off = 0x104 then (pagesOf die).length
  else
    match (pagesOf die)[(off - 0x200) / 4]? with
    | none => 0
    | some p => match pageOf die p with
      | some (b, _) => put (typeCode b) 16 + p
      | none => 0

/-- The commands of a domain's ring that have not completed, and the completions not yet sent (R507). -/
def Chip.ringWord (c : Chip) (d : Nat) : Nat :=
  let rs := c.mgmt.reqs.getD d []
  (rs.map (fun r => r.cmds.length - r.done.length)).sum + put ((rs.map (fun r => r.done.length)).sum) 16

/-- CTL_FUSE_STATUS. -/
def Chip.fuseWord (c : Chip) : Nat :=
  3 + put (b2n (c.mgmt.keys.getD 0 none).isSome) 2 + put (b2n (c.mgmt.keys.getD 1 none).isSome) 3 + put c.mgmt.revoked 8 +
    put c.mgmt.floor 16

/-- CTL_FW_STATUS. -/
def Chip.fwWord (c : Chip) : Nat := c.mgmt.fw + put c.mgmt.reason 8

/-- The registers of the CTL page that show state. -/
def Chip.readCtl (c : Chip) (off : Nat) : Option Nat :=
  if off = 0x10C then
    some ((if c.mgmt.halted then 0 else c.mgmt.running) + put (b2n c.mgmt.halted) 16 + put (b2n c.mgmt.watchdog) 17)
  else if off = 0x110 then some c.fwWord
  else if off = 0x114 then some c.mgmt.fwVersion
  else if off = 0x118 then some (c.ringWord 0)
  else if off = 0x11C then some (c.ringWord 1)
  else if inArr off 0x140 3 4 then
    let i := (off - 0x140) / 4
    some ((List.finRange 12).foldl (fun s k => if k.val / 4 = i then s + put (Config.serial k).toNat (8 * (k.val % 4)) else s) 0)
  else if off = 0x150 then some c.fuseWord
  else none

/-- PWR_STATUS. -/
def Chip.pwrStatus (c : Chip) : Nat :=
  let p := c.power
  let has (k : Nat) : Bool := p.cause &&& k != 0
  p.t + put (b2n c.braking) 4 + put (b2n (has causeCap)) 5 + put (b2n (has causeVin)) 6 + put (b2n (has causeThermal)) 7 +
    put (b2n p.warn) 8 + put (b2n p.high) 9 + put (b2n (decide (142 * c.reg (pwr 0x114) < 1000 * c.limitNow) && !p.samples.isEmpty)) 10 +
    put (b2n (decide (c.cap < c.limitNow))) 11 + put (b2n c.tc3Hold) 12

/-- THM_FAULT: the sensors in fault, and the lowest. -/
def Chip.thmFault (c : Chip) : Nat :=
  match c.power.fault with
  | [] => 0
  | s :: t => put (min 255 (t.length + 1)) 16 + t.foldl min s

/-- The registers of the CLK and RST pages that show state. -/
def Chip.readRst (c : Chip) (b : Block) (off : Nat) : Option Nat :=
  let r := c.rst
  if b = .clk ∧ off = 0x104 then some (b2n r.primOk + put (b2n r.backOk) 1 + put (b2n r.backup) 4)
  else if b = .rst ∧ off = 0x108 then some (r.cause + put r.resets 16)
  else if b = .rst ∧ off = 0x10C then
    some (r.pos + put (b2n r.side) 3 + put r.livePos 16 + put (b2n r.liveSide) 19 + put (fld (c.reg (rstR 0x10C)) 31 31) 31)
  else none

/-- The bank that a job selected before its last flip, in C0's copy, is referenced under R406. -/
def Chip.draining (c : Chip) (j : Nat) : Bool :=
  let k := c.job j
  (k.was || k.bankIn 72 != k.sel) && c.refs j (!k.bankIn 72)

/-- The registers of the BNK page that show state (R404 to R406, R412 to R414). -/
def Chip.readBnk (c : Chip) (off : Nat) : Option Nat :=
  let j := fld (c.reg (bnk 0x110)) 11 0
  let k := c.job j
  if off = 0x114 then
    let p : Nat := match k.pend with | some (b, _) => put 1 30 + put (b2n b) 29 | none => 0
    let r : Nat := match c.rinseOf j with
      | some r => put 1 27 + put r.phase 24 + put (min 255 r.round) 16
      | none => 0
    some (put (b2n (k.bankIn 72)) 31 + p + put (b2n (c.draining j)) 28 + r)
  else if off = 0x118 then some (c.inFlight j false)
  else if off = 0x11C then some (c.inFlight j true)
  else if off = 0x120 then some (c.drain j)
  else if off = 0x130 then
    let n (b : Bool) : Nat := (c.jobKeys.filter (fun j => c.refs j b)).length
    some (4096 - c.jobKeys.length + n false + put (n true) 16)
  else if off = 0x134 then some c.rinses.length
  else if inArr off 0x200 128 4 then some (c.selectWord ((off - 0x200) / 4))
  else none

/-- The registers of C0's SYN page that show fabric time (R390 to R397). -/
def Chip.readTime (c : Chip) (off : Nat) : Option Nat :=
  let t := c.time
  if off = 0x304 then
    let up : Nat := match c.upstream with | some p => put 1 22 + put p 12 | none => 0
    some (up + put (b2n t.holdover) 9 + put (b2n t.locked) 8 + t.stage)
  else if off = 0x390 then some (t.ft % 2 ^ 32)
  else if off = 0x394 then some (t.ft / 2 ^ 32 % 2 ^ 32)
  else if off = 0x3A4 then some (toTwos 32 (max (-(2 ^ 31 - 1)) (min (2 ^ 31 - 1) t.offset)))
  else if off = 0x3B4 then
    match (c.port (fld (c.reg (synC 0x3B0)) 9 0)).rtts with
    | [] => some 0xFFFF
    | l => some (min 0xFFFF (medianOf l / 2))
  else none

/-- The registers of the TWN page that show the twin unit's state. -/
def Chip.readTwn (c : Chip) (off : Nat) : Option Nat :=
  let t := c.twin
  if off = 0x128 then
    some (t.role + put t.peerRole 3 + put c.sideCode 6 + put (b2n t.paired) 7 + put (b2n (c.recent t.lastLink)) 8 +
      put (b2n (c.recent t.lastIb)) 9 + put (b2n t.partition) 10 + put (b2n (c.recent t.clashAt)) 11 +
      put (b2n (c.recent t.mismatchAt)) 12)
  else if off = 0x12C then some t.term
  else if off = 0x130 then some c.sseqNow
  else none

/-- The registers of a CGM page of a quadrant: the levels held in the open window (R448, R450). -/
def Chip.readCgm (c : Chip) (q off : Nat) : Option Nat :=
  let four (i n : Nat) : Nat := (List.range n).foldl (fun s k => s + put (c.level q (i + k)) (8 * k)) 0
  if inArr off 0x200 64 4 then some (four (off - 0x200) 4)
  else if off = 0x300 then some (four 256 4)
  else none

/-- PMC_OVF_ANY and PMC_CTL. -/
def Chip.readPmc (c : Chip) (die inst off : Nat) : Option Nat :=
  let pa := regAddr die (0x60 + inst) 0
  if off = 0x100 then some (put (counters die inst) 16)
  else if off = 0x114 then
    some ((List.range 4).foldl (fun s i => s + put (b2n (c.reg (pa + 0x104 + 4 * i) != 0)) i) 0)
  else none

/-- What a block-specific register shows where it is not a plain register; `none` for a plain one. -/
def Chip.shown (c : Chip) (b : Block) (inst die off : Nat) : Option Nat :=
  match b with
  | .idx => some (readIdx die off)
  | .semQ | .semP => if off = 0x100 then some (c.semStatus (semLinkOf die inst)) else none
  | .oen => if off = 0x104 then some (c.fpLight (die - 8)) else none
  | .lne => if off = 0x148 then some (c.prbsWindow die inst % 2 ^ 32)
    else if off = 0x14C then some (c.prbsWindow die inst / 2 ^ 32) else none
  | .lnk => if inArr off 0x140 16 4 then some (c.portStatus (256 * die + 16 * inst + (off - 0x140) / 4)) else none
  | .win => if inArr off 0x200 64 4 then
      let w := c.win (256 * die + 16 * inst + (off - 0x200) / 4 % 16) ((off - 0x200) / 0x40)
      some (min 0xFFFF w.out + put (b2n w.closed) 31)
    else none
  | .buf => c.readBuf die off
  | .que => if inArr off 0x180 10 4 then some (c.selDepth die ((off - 0x180) / 4)) else none
  | .cgmQ => c.readCgm die off
  | .col =>
    if inArr off 0x200 24 4 then some (c.ctxStatus (die - 4) ((off - 0x200) / 4))
    else if inArr off 0x280 24 4 then some (c.ctx (24 * (die - 4) + (off - 0x280) / 4)).floor
    else none
  | .pmc => c.readPmc die inst off
  | .ctl => c.readCtl off
  | .thr => if off = 0x104 then
      some (b2n c.mgmt.bypass + put (b2n c.mgmt.rxLock) 1 + put (b2n c.mgmt.addr.isSome) 2 + put (c.mgmt.addr.getD 0xFE) 8)
    else none
  | .pwr =>
    if off = 0x110 then some c.pwrStatus
    else if off = 0x128 then some (c.power.energy / 10 ^ 9 % 2 ^ 32)
    else if off = 0x12C then some (c.power.energy / 10 ^ 9 / 2 ^ 32 % 2 ^ 32)
    else none
  | .thm =>
    if off = 0x104 then some (setFld (c.reg (thm 0x104)) 3 0 c.power.tTh)
    else if off = 0x10C then some c.thmFault
    else none
  | .clk | .rst => c.readRst b off
  | .bnk => c.readBnk off
  | .synC => c.readTime off
  | .twn => c.readTwn off
  | .dmp => if off = 0x114 then some c.recordLen else none
  | .lntC => if off = 0x118 then some c.tele.ringWr else if off = 0x11C then some c.tele.ringRd else none
  | .cve => some (c.cveRead ((off - 0x100) / 0x40) ((off - 0x100) % 0x40))
  | _ => none

/-- PWR_RAIL: the rail's current and voltage are measurements that no event of the table carries; the value read is free
(log entry 17). A rail that is off reads 0. -/
def Chip.readRail (c : Chip) (r : Nat) : Nat × Chip :=
  if bit c.power.rails r then c.draw (fun n => (Config.anyWord n).toNat) else (0, c)

/-- A command register's GO bit still reads 1 (R226, R370, R371, R400, R419). -/
def Chip.goBusy (c : Chip) (a : Nat) : Bool := decide (c.now < SMap.getD c.busy a 0)

/-- The value of a register, before a read clears or latches anything. -/
def Chip.peek (c : Chip) (a : Nat) : Nat :=
  let die := adDie a
  let page := adPage a
  let off := adOff a
  match pageOf die page with
  | none => 0
  | some (b, i) =>
    if off < 0x100 then c.readHeader b i die page off
    else match regDef b i off with
      | none => 0
      | some d =>
        if d.rwb then c.reg (banked (a % 2 ^ 32) (c.rwbSource (die - 4) off))
        else (c.shown b i die off).getD (c.reg a + put (b2n (bit d.w1s 31 && c.goBusy a)) 31)

/-- The low half of a 64-bit count at an address: its read latches the high half (R11, R459, chapter 15). -/
def isLow (b : Block) (d : RegDef) (off : Nat) : Bool :=
  d.lo64 || (b == .pmc && inArr off 0x800 128 8) || (b == .cve && decide (0x100 ≤ off) && (off % 0x40 == 0x30 || off % 0x40 == 0x38))

/-- The high half of a 64-bit count. -/
def isHigh (b : Block) (d : RegDef) (off : Nat) : Bool :=
  d.hi64 || (b == .pmc && inArr off 0x804 128 8) || (b == .cve && decide (0x100 ≤ off) && (off % 0x40 == 0x34 || off % 0x40 == 0x3C))

/-- The latch of a domain for the count whose low half is at an address (R12). -/
def latchKey (d : Dom) (lo : Nat) : Nat := lo + (match d with | .owner => 0 | .fabric => 2 ^ 32)

/-- A read of a register that exists: its value, with the latch of a 64-bit count, and an RC count cleared for both domains
(R11 to R13, R581, R583). An offset with no register reads 0 (R573). The
counters of a page are brought up to now first (R455). What a locked PRBS checker has counted since the last reading
is a free value (R105; log entry 69). -/
def Chip.readReg (c : Chip) (dom : Dom) (a : Nat) : Nat × Chip :=
  match pageOf (adDie a) (adPage a) with
  | none => (0, c)
  | some (b, i) =>
    match regAt (adDie a) b i (adOff a) with
    | none => (0, c)
    | some d =>
      let c := if b = .pmc then c.pmcSettle (pageBase a) else c
      if b = .pwr ∧ inArr (adOff a) 0x140 20 4 then c.readRail ((adOff a - 0x140) / 4)
      else if isHigh b d (adOff a) then ((SMap.getD c.latch (latchKey dom (a - 4)) 0).toNat, c)
      else if b = .lne ∧ inArr (adOff a) 0x200 32 4 ∧ c.regBit (pageBase a + 0x13C) ((adOff a - 0x200) / 4) then
        let r := c.draw Config.bitErrs
        (min (r.2.reg a + r.1) 0xFFFFFFFF, r.2.setReg a 0)
      else
        let v := c.peek a
        if d.rc then (v, c.setReg a 0)
        else if isLow b d (adOff a) then
          (v, { c with latch := SMap.set c.latch (latchKey dom a) (BitVec.ofNat 32 (c.peek (a + 4))) })
        else (v, c)

end Sys2Proof.Machine
end

