-- ==== Sys2Proof/Machine/Requests.lean ====
section
/-! DEFINITION. Command rings: how a management request is parsed and framed, which command may run, what a completion
does, and the halt of the cores (R503 to R508, R511, R512, R589). -/
namespace Sys2Proof.Machine

/-- A change of the management state. -/
def Chip.onMgmt (c : Chip) (f : Mgmt → Mgmt) : Chip := { c with mgmt := f c.mgmt }

/-- Number of a domain: 0 owner, 1 fabric. -/
def domIdx : Dom → Nat
  | .owner => 0
  | .fabric => 1

/-- Statuses of R505. -/
def stOk : Nat := 0
/-- REFUSED. -/
def stRefused : Nat := 1
/-- DENIED. -/
def stDenied : Nat := 2
/-- BAD_ADDR. -/
def stBadAddr : Nat := 3
/-- TIMEOUT. -/
def stTimeout : Nat := 4
/-- NO_FW. -/
def stNoFw : Nat := 5
/-- SKIPPED. -/
def stSkipped : Nat := 6
/-- BAD_ARG. -/
def stBadArg : Nat := 7
/-- BAD_IMAGE. -/
def stBadImage : Nat := 8

/-! ### Framing (R503, R506) -/

/-- Little-endian words of a byte list; the first argument is their number. -/
def wordsOf : Nat → List Byte → List Word
  | 0, _ => []
  | n + 1, l => BitVec.ofNat 32 (leAt l 0 4) :: wordsOf n (l.drop 4)

/-- Commands that fill a payload exactly; the first argument bounds their number plus one. -/
def parseCmds : Nat → List Byte → Option (List MCmd)
  | _, [] => some []
  | 0, _ => none
  | n + 1, l =>
    if l.length < 8 then none
    else
      let k := leAt l 2 2
      if l.length < 8 + 4 * k then none
      else (parseCmds n (l.drop (8 + 4 * k))).map (fun t =>
        { code := leAt l 0 2, addr := leAt l 4 4, args := wordsOf k (l.drop 8) } :: t)

/-- Argument `i` of a command. -/
def MCmd.arg (m : MCmd) (i : Nat) : Nat := (m.args.getD i 0).toNat

/-- The number of result words that a command can return (R504, R506). -/
def MCmd.results (m : MCmd) : Nat :=
  if m.code = 1 then (if m.arg 0 ≤ 64 then m.arg 0 else 0)
  else if m.code = 3 ∨ m.code = 4 then 1
  else if m.code = 0x10 then (if m.arg 0 ≤ 8000 then m.arg 0 / 4 else 0)
  else if m.code = 0x20 then 4
  else if m.code = 0x30 then 129
  else if m.code = 0x40 then 6
  else if m.code = 0x60 ∨ m.code = 0x61 then 1
  else 0

/-- A command that no row of the command table can be: a CODE outside the table (R589), a wrong number of arguments, an ADDR
other than 0 where the table has 0, or an unknown fuse operation (R504). It completes with BAD_ARG. -/
def MCmd.unknown (m : MCmd) : Bool :=
  let n := m.args.length
  if m.code = 1 then n != 1
  else if m.code = 2 then false
  else if m.code = 3 then n != 2
  else if m.code = 4 then n != 3
  else if m.code = 0x10 then n != 1
  else if m.code = 0x11 then false
  else if m.code = 0x20 then n != 5
  else if m.code = 0x30 then n != 1 || m.addr != 0
  else if m.code = 0x40 ∨ m.code = 0x60 then n != 0 || m.addr != 0
  else if m.code = 0x61 then n != 2 || m.addr != 0 || m.arg 0 == 0 || 4 ≤ m.arg 0
  else true

/-- A command that may be waiting, or between two stints of firmware (R507). -/
def MCmd.waits (m : MCmd) : Bool := m.code == 4 || m.code == 0x20 || m.code == 0x30

/-! ### Completions (R507) -/

/-- The next command of a request. -/
def Req.next? (r : Req) : Option MCmd := r.cmds[r.done.length]?

/-- The result words of a command that executes nothing: a TABLE_LOAD has four in every completion (R592). -/
def MCmd.noWords (m : MCmd) : List Word :=
  if m.code = 0x20 then [0, m.args.getD 1 0, 0, BitVec.ofNat 32 (adDie m.addr)] else []

/-- The next command of a request is in progress and waits: in WAIT or EVENT_WAIT, or between two stints of firmware (R507). -/
def Req.waiting (r : Req) : Bool := r.busy.isSome && (match r.next? with | some m => m.waits | none => false)

/-- A request takes a completion of its next command; with STOP set, one that is not OK skips the rest (R507). -/
def Req.take (r : Req) (st : Nat) (ws : List Word) : Req :=
  match r.next? with
  | none => r
  | some m =>
    let done := r.done ++ [(m.code, st, ws)]
    let r := { r with busy := none }
    if r.stop && st != 0 then
      { r with done := done ++ (r.cmds.drop done.length).map (fun k => (k.code, stSkipped, k.noWords)) }
    else { r with done := done }

/-- Commands that no row can be complete with BAD_ARG as soon as they are next; the first argument bounds them. -/
def Req.settle : Nat → Req → Req
  | 0, r => r
  | n + 1, r =>
    match r.next? with
    | some m => if m.unknown then Req.settle n (r.take stBadArg m.noWords) else r
    | none => r

/-- The first request of a ring whose next command may start and is `m`: the requests start in order, and one with PASS may
start while every earlier one waits (R507). The flag: no unfinished request stands before. -/
def findReq (m : MCmd) : Bool → List Req → Option Nat
  | _, [] => none
  | first, r :: t =>
    match r.next? with
    | none => (findReq m first t).map (· + 1)
    | some k =>
      if !(first || r.pass) then (findReq m false t).map (· + 1)
      else if r.busy.isNone && k == m then some 0
      else if r.waiting then (findReq m false t).map (· + 1)
      else none

/-- The requests of a ring whose turn has come complete the commands that no row can be (R507, R589). The flag: no unfinished
request stands before. -/
def settleRing : Bool → List Req → List Req
  | _, [] => []
  | first, r :: t =>
    if !(first || r.pass) then r :: settleRing false t
    else
      let r := r.settle 33
      match r.next? with
      | none => r :: settleRing first t
      | some _ => if r.waiting then r :: settleRing false t else r :: t

/-- The request whose command in progress has this number. -/
def findRun (n : Nat) (rs : List Req) : Option Nat := rs.findIdx? (fun r => r.busy == some n)

/-- The commands of a request that have not completed. -/
def Req.left (r : Req) : List MCmd := r.cmds.drop r.done.length

/-- The completions that a ring holds: those of requests not answered yet (R507). -/
def completionsHeld (rs : List Req) : Nat := (rs.map (fun r => r.done.length)).sum

/-- A command of a domain may start: its completion ring has a free entry, and where the command stands in the command ring its turn
has come (R507). DESIGN CHOICE: log entry 107. -/
def ringOpen (m : MCmd) (rs : List Req) : Bool :=
  decide (completionsHeld rs < 4096) && ((findReq m true rs).isSome || !rs.any (fun r => r.left.contains m))

/-- The domain's commands are taken: C0 is out of reset, and for the fabric domain firmware has started (R499). -/
def Chip.mayManage (c : Chip) (dom : Dom) : Bool :=
  c.rst.c0Up && (match dom with | .owner => true | .fabric => decide (3 ≤ c.mgmt.fw))

/-- A management command of a domain starts (R499, R507). -/
def Chip.mayStart (c : Chip) (dom : Dom) (m : MCmd) : Bool :=
  c.mayManage dom && ringOpen m (c.mgmt.reqs.getD (domIdx dom) [])

/-- A command completes on a core: one of the firmware on CC1, CC2 or CC3, which the manual does not say, one of the boot ROM on
CC0 (R460, event 0xA001; R504, R510; log entry 48). The command engine's commands, and those that no firmware ran, complete on none. -/
def Chip.coreDone (c : Chip) (code st : Nat) : Chip :=
  if st = stNoFw then c
  else if code = 4 ∨ code = 0x20 then
    let r := c.draw Config.pick
    r.2.pmc 24 (1 + r.1 % 3) 0xA001 none none
  else if code = 0x60 ∨ code = 0x61 then c.pmc 24 0 0xA001 none none
  else c

/-- A change of one request of a domain; what then has its turn settles (R507). -/
def Chip.onReq (c : Chip) (dom : Dom) (i : Option Nat) (f : Req → Req) : Chip :=
  match i with
  | none => c
  | some i => c.onMgmt (fun x => { x with reqs := upd x.reqs (domIdx dom) (fun rs => settleRing true (upd rs i f)) })

/-- A command of a domain has completed: the completion leaves, and the request it belongs to, if any, takes it. -/
def Chip.cmdDone (c : Chip) (dom : Dom) (i : Option Nat) (code st : Nat) (ws : List Word) : Chip :=
  let c := c.coreDone code st
  ((if st = stDenied then c.bump (ctlR 0x12C) 1 else c).emit (.complete dom code st ws)).onReq dom i (fun r => r.take st ws)

/-- The requests in a domain's command ring. -/
def Chip.reqsOf (c : Chip) (dom : Dom) : List Req := c.mgmt.reqs.getD (domIdx dom) []

/-- A command completes as soon as it has started. -/
def Chip.finish (c : Chip) (dom : Dom) (m : MCmd) (st : Nat) (ws : List Word) : Chip :=
  c.cmdDone dom (findReq m true (c.reqsOf dom)) m.code st ws

/-- A command that has been in progress under a number completes. -/
def Chip.finishRun (c : Chip) (dom : Dom) (n code st : Nat) (ws : List Word) : Chip :=
  c.cmdDone dom (findRun n (c.reqsOf dom)) code st ws

/-- The next number of the management unit. -/
def Chip.tickSeq (c : Chip) : Nat × Chip := (c.mgmt.seq, c.onMgmt (fun m => { m with seq := m.seq + 1 }))

/-- A command that does not complete at once is in progress, under a number of its own (R507). -/
def Chip.begin (c : Chip) (dom : Dom) (m : MCmd) : Nat × Chip :=
  let n := c.tickSeq
  (n.1, n.2.onReq dom (findReq m true (c.reqsOf dom)) (fun r => { r with busy := some n.1 }))

/-- The WAIT command of a poll. -/
def Poll.cmd (p : Poll) : MCmd := { code := 4, addr := p.addr, args := [BitVec.ofNat 32 p.mask, BitVec.ofNat 32 p.val, BitVec.ofNat 32 p.time] }

/-- The waits of a domain. -/
def Chip.waitsOf (c : Chip) (d : Nat) : Waits := c.mgmt.waits.getD d {}

/-- A change of the waits of a domain. -/
def Chip.onWaits (c : Chip) (d : Nat) (f : Waits → Waits) : Chip :=
  c.onMgmt (fun m => { m with waits := m.waits.set d (f (c.waitsOf d)) })

/-- The TABLE_LOAD command of a load. -/
def Load.toCmd (l : Load) : MCmd :=
  { code := 0x20, addr := l.addr, args := [BitVec.ofNat 32 l.source, BitVec.ofNat 32 l.first, BitVec.ofNat 32 l.count,
      BitVec.ofNat 32 l.cmd, BitVec.ofNat 32 l.words] }

/-- The four result words of a TABLE_LOAD: entries written, where it stopped, the RESULT there, the die that reported it (R592). -/
def loadWords (n stop res die : Nat) : List Word :=
  [BitVec.ofNat 32 n, BitVec.ofNat 32 stop, BitVec.ofNat 32 res, BitVec.ofNat 32 die]

/-- The TABLE_LOADs of a domain that are between two stints, oldest first. -/
def Chip.loadsOf (c : Chip) (d : Nat) : List Load := c.mgmt.loads.getD d []

/-- A WAIT of a domain waits for its next read, behind all that wait already (R510, R591). -/
def Chip.joinPoll (c : Chip) (dom : Dom) (p : Poll) : Chip :=
  let n := c.tickSeq
  n.2.onWaits (domIdx dom) (fun w => { w with polls := w.polls ++ [{ p with seq := n.1 }] })

/-- The TABLE_LOADs of a domain become others. -/
def Chip.setLoads (c : Chip) (d : Nat) (l : List Load) : Chip := c.onMgmt (fun m => { m with loads := m.loads.set d l })

/-- A TABLE_LOAD of a domain waits for its next stint, behind all that wait already (R510). -/
def Chip.joinLoad (c : Chip) (dom : Dom) (l : Load) : Chip :=
  let n := c.tickSeq
  n.2.setLoads (domIdx dom) (n.2.loadsOf (domIdx dom) ++ [{ l with seq := n.1 }])

/-- Firmware commands in progress complete with NO_FW: a WAIT with the value it last read, a TABLE_LOAD with its progress (R512,
R518). -/
def Chip.dropPolls (c : Chip) : Chip :=
  c.each [Dom.owner, Dom.fabric] (fun c d =>
    let c := (c.each (c.waitsOf (domIdx d)).polls (fun c p => c.finishRun d p.id 4 stNoFw [BitVec.ofNat 32 p.last])).onWaits (domIdx d)
      (fun w => { w with polls := [] })
    (c.each (c.loadsOf (domIdx d)) (fun c l =>
      c.finishRun d l.id 0x20 stNoFw (loadWords l.next (l.first + l.next) 0 (adDie l.addr)))).setLoads (domIdx d) [])

/-- The cores halt (R511, R512). -/
def Chip.haltCores (c : Chip) (watchdog : Bool) : Chip :=
  (c.onMgmt (fun m => { m with halted := true, fw := 4, watchdog := m.watchdog || watchdog })).dropPolls

end Sys2Proof.Machine
end

