-- ==== Sys2Proof/Machine/RegWrite.lean ====
section
/-! DEFINITION. Writes of registers: how an address resolves (R571 to R574), who may write (R501, R502, R580), what every
write is checked for (R555, R578 to R582), and which rule of its chapter each register follows. -/
namespace Sys2Proof.Machine

/-- Status of a command (R505). -/
abbrev Status := Nat

/-! ### Rules of single registers -/

/-- The register stores the value if the value is allowed. -/
def storeIf (ok : Bool) (a v : Nat) (c : Chip) : Wr := if ok then .ok (c.setReg a v) else .error 1

/-- The registers of R442 are sent on while a resync runs, and refused on the part that is in SYNCING (R444). -/
def wrItem (a : Nat) (f : Chip → Wr) (c : Chip) : Wr :=
  if rsRegs.contains a then
    if c.syncing then .error 2 else (f c).map (fun c => c.rsItem (regRec a (c.reg a)))
  else f c

/-- A command starts: GO of its register reads 1 until it completes, a free time of at most `bound` ns. Its effect stands from the
write on. DESIGN CHOICE; log entry 85. -/
def Chip.startGo (c : Chip) (a bound : Nat) : Chip :=
  let r := c.draw Config.goTime
  { r.2 with busy := SMap.set c.busy a (c.now + r.1 % (bound + 1)) }

/-- Time passes until GO reads 0 in every given register. -/
def Chip.goWait (c : Chip) (l : List Nat) : Chip :=
  c.each l (fun c a => { c.till (SMap.getD c.busy a 0) with busy := SMap.del c.busy a })

/-- The command register whose GO refuses a write of a register while it reads 1 (R226, R370, R371, R400, R419). -/
def goGuard (b : Block) (off : Nat) : Option Nat :=
  match b with
  | .edg | .rte | .peg | .mcg => if off = 0x100 ∨ inArr off 0x140 36 4 then some 0x100 else none
  | .col => if off = 0x100 ∨ inArr off 0x140 2 4 then some 0x100 else if off = 0x180 then some 0x180 else none
  | .synQ => if off = 0x100 ∨ inArr off 0x140 40 4 then some 0x100 else none
  | .bnk => if off = 0x100 ∨ off = 0x108 ∨ off = 0x110 then some 0x100 else none
  | _ => none

/-- A write of BUF_CTL: MODE, AUTO_REBUILD, ERR_THR and REBUILD (R257, R260, R261). -/
def wrBufCtl (q v : Nat) (c : Chip) : Wr :=
  let b := c.buf q
  let mode := bit v 0
  if bit v 4 && (b.mode || mode || b.rebuilding || b.move.isSome) then .error 2
  else if fld v 23 16 = 0 then .error 1
  else if mode && !b.mode && !c.poolModeOk q then .error 2
  else
    let c := c.setReg (bufPage q + 0x100) (v - put (fld v 4 4) 4)
    let c := if mode = b.mode then c else c.setMode q mode
    .ok (if bit v 4 then c.rebuildStart q else c)

/-- A write of a pool or ring layout register (R257). -/
def wrBufLayout (q off v : Nat) (c : Chip) : Wr :=
  let b := c.buf q
  if b.mode || b.rebuilding || (List.range 4).any (fun p => c.poolHeld q p != 0) then .error 2
  else .ok ((c.setReg (bufPage q + off) v).onBuf q (fun b => { b with built := false }))

/-- A write of BUF_MOVE (R258): refused, with or without GO, while a move runs, where GO reads 1 (cause 6), for boundary 0 or a DELTA
that is no multiple (cause 1), and for a state or layout that does not allow the move (cause 2). DEDUCED; log entry 41. -/
def wrBufMove (q v : Nat) (c : Chip) : Wr :=
  let p := fld v 21 20
  let delta := sx 20 (fld v 19 0)
  if (c.buf q).move.isSome then .error 6
  else if p = 0 ∨ delta.natAbs % moveStep p ≠ 0 then .error 1
  else if !c.moveOk q p delta then .error 2
  else if bit v 31 then .ok ((c.setReg (bufPage q + 0x1B0) v).moveStart q p delta)
  else .ok (c.setReg (bufPage q + 0x1B0) v)

/-- A write of BUF_CACHE_CFG. -/
def wrCacheCfg (q v : Nat) (c : Chip) : Wr :=
  let lo := fld v 8 0
  let hi := fld v 24 16
  storeIf (decide (lo + 128 ≤ hi) && decide (hi + 128 ≤ 512)) (bufPage q + 0x108) v c

/-- A write of QUE_SCHED_W: no weight is 0. -/
def wrSchedW (q v : Nat) (c : Chip) : Wr :=
  storeIf ((List.range 8).all (fun k => fld v (4 * k + 3) (4 * k) != 0)) (quePage q + 0x130) v c

/-- A write of WIN_LIMIT opens or closes the window at once (R288). -/
def wrWinLimit (q d i v : Nat) (c : Chip) : Wr :=
  .ok ((c.setReg (regAddr q (0x30 + d) (0x100 + 4 * i)) v).winCheck (256 * q + 16 * d + i % 16) (i / 16))

/-- A write of WIN_EXPIRE: the epoch period changes from the next cycle (R286). -/
def wrWinExpire (q d v : Nat) (c : Chip) : Wr :=
  if within v 16 16000 then
    let c := c.setReg (regAddr q (0x30 + d) 0x300) v
    .ok (c.each (islandPorts q d) (fun c p => c.each (List.range 4) (fun c t => c.expireEpochs p t)))
  else .error 1

/-- A write of RTE_SEAM_W: the three weights total 256 (R215). -/
def wrSeamW (a v : Nat) (c : Chip) : Wr := storeIf (fld v 8 0 + fld v 17 9 + fld v 26 18 == 256) a v c

/-- A write of a table command register of EDG, RTE, PEG or MCG (R226). -/
def wrTblCmd (q page v : Nat) (c : Chip) : Wr :=
  let a := regAddr q page 0x100
  .ok (if bit v 31 then (c.tblCommand q page v).startGo a 1000 else c.setReg a v)

/-- A write of PEG_PORT_OUT clears out bits; the flows of those members return (R211). -/
def wrPegOut (a v : Nat) (c : Chip) : Wr := .ok (c.setReg a (c.reg a - (c.reg a &&& v)))

/-- A write of COL_TBL_CMD (R371). -/
def wrColCmd (d v : Nat) (c : Chip) : Wr :=
  .ok (if bit v 31 then (c.colCommand d v).startGo (col d 0x100) 1000 else c.setReg (col d 0x100) v)

/-- A write of COL_CTX_CMD: CMD 1 to 4, CTX 0 to 23 (R370). -/
def wrCtxCmd (d v : Nat) (c : Chip) : Wr :=
  if 23 < fld v 4 0 ∨ !within (fld v 27 24) 1 4 then .error 1
  else
    let c := c.setReg (col d 0x180) (v % 2 ^ 31)
    .ok (if bit v 31 then (c.ctxCommand d (fld v 4 0) (fld v 27 24) (bit v 8)).startGo (col d 0x180) 10000 else c)

/-- A write of COL_CTX_SRAM: the region ends within the SRAM, the context is IDLE. -/
def wrCtxSram (d x v : Nat) (c : Chip) : Wr :=
  let a := col d (0x380 + 4 * x)
  if 8192 < fld v 12 0 + fld v 28 16 then .error 1
  else if (c.ctx (24 * d + x)).st ≠ 0 then .error 2
  else wrItem a (fun c => .ok (c.setReg a v)) c

/-- A write of PRS_CTX_JOB: one value for both banks, while the context is IDLE (R402). -/
def wrCtxJob (d x v : Nat) (c : Chip) : Wr :=
  let a := prs d (0x41C + 0x20 * x)
  if (c.ctx (24 * d + x)).st ≠ 0 then .error 2 else wrItem a (fun c => .ok (c.setReg a v)) c

/-- A write of an RWB register: to the bank of R408, unless that bank is in use (R407, R444). PRS_CTX_MODE refuses the
combinations of R300. -/
def wrRwb (d off v : Nat) (c : Chip) : Wr :=
  let b := c.rwbTarget d off
  let x := rwbCtx off
  if off < 0x400 && !modeOk v then .error 1
  else if c.syncing || c.ctxBankInUse d x b then .error 2
  else
    let c := c.setReg (banked (prs d off) b) v
    .ok (c.rsItem (c.tmplRec d x b))

/-- A write of SYN_TBL_CMD (R400). -/
def wrSynCmd (q v : Nat) (c : Chip) : Wr :=
  .ok (if bit v 31 then (c.synCommand q v).startGo (synQ q 0x100) 1000 else c.setReg (synQ q 0x100) v)

/-- A write of SYN_TIME_CTL: ROOT rising makes the part LOCKED at STAGE 0, falling makes it search again (R392, R397). -/
def wrTimeCtl (v : Nat) (c : Chip) : Wr :=
  if within (fld v 6 0) 1 100 then
    let was := c.regBit (synC 0x300) 31
    let c := c.setReg (synC 0x300) v
    .ok (if bit v 31 = was then c
      else if bit v 31 then
        let c := c.setLocked true
        { c with time := { c.time with stage := 0, slew := 0, holdover := false, rootId := c.ownId } }
      else
        let c := c.setLocked false
        { c with time := { c.time with stage := 0xFF, good := 0, off := 0, lastSync := c.now } })
  else .error 1

/-- A write of SYN_TIME_SET_GO: fabric time takes SYN_TIME_SET on a time root (R392). -/
def wrTimeSet (v : Nat) (c : Chip) : Wr :=
  if !bit v 0 then .ok c
  else if !c.regBit (synC 0x300) 31 then .error 2
  else .ok { c with time := { c.time with ft := c.reg (synC 0x398) + 2 ^ 32 * c.reg (synC 0x39C), frac := 0 } }

/-- A write of BNK_CMD: CMD 1 to 4 (R404, R411, R417, R419). -/
def wrBnkCmd (v : Nat) (c : Chip) : Wr :=
  if !within (fld v 27 24) 1 4 then .error 1
  else .ok (if bit v 31 then (c.bnkCommand v).startGo (bnk 0x100) 2000 else c.setReg (bnk 0x100) v)

/-- A write of TWN_CMD. -/
def wrTwnCmd (v : Nat) (c : Chip) : Wr :=
  .ok (if bit v 31 then (c.twnCommand v).startGo (twn 0x120) 2000 else c.setReg (twn 0x120) v)

/-- A write of TWN_BEAT_EP: 0xFFFF is refused while TWN_RELAY is VALID. -/
def wrBeatEp (v : Nat) (c : Chip) : Wr := storeIf (!(c.regBit (twn 0x108) 31 && v == 0xFFFF)) (twn 0x10C) v c

/-- A write of CTL_CORE: HALT, then RUN, then RESTART (R512). HALT acts while firmware runs, RUN while it is halted, and
RESTART starts the checks of the image in SRAM again. -/
def wrCore (v : Nat) (c : Chip) : Wr :=
  let c := if bit v 8 ∧ c.mgmt.fw = 3 then c.haltCores false else c
  let c := if bit v 9 then
      Chip.scrubStarts c (c.onMgmt (fun m => { m with fw := if m.fw = 4 then 3 else m.fw, halted := false, watchdog := false }))
    else c
  .ok (if bit v 10 ∧ c.mgmt.fw ≠ 1 then
      (c.onMgmt (fun m => { m with fw := 1, reason := 0, running := 0, halted := false, fwBy := none, fwVersion := 0 })).dropPolls
    else c)

/-! ### Which rule a register follows -/

/-- The plain effect of a write: RW bits are stored, W1C bits that carry 1 are cleared, the rest stays (R581). -/
def wrPlain (d : RegDef) (a v : Nat) (c : Chip) : Wr :=
  let old := c.reg a
  .ok (c.setReg a ((old - (old &&& d.rw) + (v &&& d.rw)) - (old &&& v &&& d.w1c)))

/-- A write of CTL_POLICY: a policy whose bit is cleared forgets what it has not yet acted on (R517). -/
def wrPolicy (d : RegDef) (v : Nat) (c : Chip) : Wr :=
  (wrPlain d (ctlR 0x108) v (c.each (List.range 4) (fun c q => c.onBuf q (fun b =>
    { b with trigger := b.trigger && bit v 3, holdUp := b.holdUp && bit v 2, spillUp := b.spillUp && bit v 2 })))).map
    (fun x => Chip.scrubStarts c x)

/-- A write of a header register (R551, R577, R580, chapter 19). -/
def wrHeader (d : RegDef) (die page off v : Nat) (c : Chip) : Wr :=
  let pa := regAddr die page 0
  if off = 0x10 then wrCtl die page v c
  else if off = 0x1C then
    let low := c.reg (pa + 0x18) &&& c.reg (pa + 0x1C) == 0
    let c := c.setReg (pa + 0x1C) v
    .ok (if low && c.reg (pa + 0x18) &&& v != 0 && c.rst.c0Up then
        let s := c.signal pa
        if s.2 then s.1.raise (ctlR 0) 4 else s.1
      else c)
  else if off = 0x20 then .ok (c.raise pa v)
  else if off = 0x24 then .ok (if bit v 31 then c.setReg (pa + 0x24) 0 else c)
  else if off = 0x34 then .ok (c.setReg (pa + 0x34) (fld v 1 1 * 2 + max (fld v 0 0) (fld (c.reg (pa + 0x34)) 0 0)))
  else wrPlain d (pa + off) v c

/-- A write of a block-specific register of a quadrant page. -/
def wrQuad (b : Block) (d : RegDef) (q i off v : Nat) (c : Chip) : Wr :=
  let page : Nat := match b with | .edg => 0x40 | .rte => 0x41 | .peg => 0x42 | _ => 0x43
  match b with
  | .lne =>
    if off = 0x100 then wrLayout q i v c
    else if off = 0x104 then wrLoopback q i v c
    else if off = 0x110 then wrQuietCtl q i v c
    else if off = 0x130 then wrPrbsCtl q i v c
    else if off = 0x134 then wrPrbsEnable q i false v c
    else if off = 0x138 then wrPrbsEnable q i true v c
    else wrPlain d (regAddr q (0x10 + i) off) v c
  | .lnk =>
    if off < 0x140 then wrPortCtl (256 * q + 16 * i + (off - 0x100) / 4) v c
    else if off = 0x400 then wrCreditCfg q i v c
    else wrPlain d (regAddr q (0x20 + i) off) v c
  | .win =>
    if off < 0x200 then wrWinLimit q i ((off - 0x100) / 4) v c
    else if off = 0x300 then wrWinExpire q i v c
    else wrPlain d (regAddr q (0x30 + i) off) v c
  | .edg | .rte | .peg | .mcg =>
    let a := regAddr q page off
    if off = 0x100 then wrTblCmd q page v c
    else if b = .rte ∧ 0x210 ≤ off ∧ off < 0x220 then wrItem a (wrSeamW a v) c
    else if b = .peg ∧ 0x200 ≤ off ∧ off < 0x220 then wrPegOut a v c
    else if b = .peg ∧ off = 0x220 then wrItem a (storeIf (fld v 9 0 != 0) a v) c
    else wrItem a (wrPlain d a v) c
  | .buf =>
    if off = 0x100 then wrBufCtl q v c
    else if off = 0x108 then wrCacheCfg q v c
    else if 0x110 ≤ off ∧ off < 0x150 then wrBufLayout q off v c
    else if off = 0x1B0 then wrBufMove q v c
    else wrPlain d (bufPage q + off) v c
  | .que =>
    let a := quePage q + off
    if 0x110 ≤ off ∧ off < 0x120 then storeIf (within v 1 16000) a v c
    else if off = 0x120 ∨ off = 0x124 then storeIf (within v 1 647168) a v c
    else if off = 0x130 then wrSchedW q v c
    else if off = 0x140 then storeIf (fld v 9 8 != 3) a v c
    else wrPlain d a v c
  | .synQ =>
    if off = 0x100 then wrSynCmd q v c
    else if off = 0x200 then storeIf (fld v 9 0 != 0) (synQ q off) v c
    else wrPlain d (synQ q off) v c
  | .lntQ => if off < 0x180 then wrTapCfg q ((off - 0x100) / 4) v c else wrPlain d (lnt q off) v c
  | .cgmQ => wrPlain d (regAddr q 0x48 off) v c
  | _ => .ok c

/-- A write of a block-specific register of a press die or an engine. -/
def wrPress (b : Block) (d : RegDef) (die off v : Nat) (c : Chip) : Wr :=
  let p := die - 4
  match b with
  | .prs =>
    if d.rwb then wrRwb p off v c
    else wrCtxJob p ((off - 0x41C) / 0x20) v c
  | .col =>
    if off = 0x100 then wrColCmd p v c
    else if off = 0x180 then wrCtxCmd p v c
    else if 0x380 ≤ off ∧ off < 0x3E0 then wrCtxSram p ((off - 0x380) / 4) v c
    else wrPlain d (col p off) v c
  | .oen =>
    let e := die - 8
    if off = 0x100 then wrFpEnable e v c
    else if off = 0x108 then wrSrcStatus e v c
    else if off = 0x10C then wrSpareMap e v c
    else wrPlain d (oen e off) v c
  | _ => .ok c

/-- A write of a block-specific register of a PMC page. -/
def wrPmc (d : RegDef) (die i off v : Nat) (c : Chip) : Wr :=
  let a := regAddr die (0x60 + i) off
  if off = 0x100 then wrPmcCtl a v c
  else if 0x200 ≤ off ∧ off < 0x400 then wrPmcEvt a v c
  else if 0x400 ≤ off ∧ off < 0x600 then wrPmcCfg a v c
  else if 0x800 ≤ off ∧ off < 0xC00 then wrPmcVal a v c
  else wrPlain d a v c

/-- A write of a block-specific register of a C0 page. -/
def wrCtrl (b : Block) (d : RegDef) (off v : Nat) (c : Chip) : Wr :=
  match b with
  | .ctl => if off = 0x108 then wrPolicy d v c else if off = 0x10C then wrCore v c else wrPlain d (ctlR off) v c
  | .pwr =>
    if off = 0x100 then wrCap v c
    else if off = 0x104 then wrLimitNow v c
    else if off = 0x108 then storeIf (within v 1 5) (pwr off) v c
    else wrPwrBrake v c
  | .thm => wrThmCtl v c
  | .clk => if off = 0x100 then storeIf (v ≤ 5) (clkR off) v c else wrClkRef v c
  | .rst =>
    if off = 0x100 then wrRstCmd v c
    else if off = 0x110 then storeIf (within v 1 1000) (rstR off) v c
    else wrPlain d (rstR off) v c
  | .ras => if off = 0x100 then storeIf (within v 10 10000) (regAddr 24 7 off) v c else wrPlain d (regAddr 24 7 off) v c
  | .thr => wrPlain d (regAddr 24 2 off) v c
  | .bnk =>
    if off = 0x100 then wrBnkCmd v c
    else if off = 0x10C then storeIf (within v 10 65535) (bnk off) v c
    else wrPlain d (bnk off) v c
  | .synC =>
    if off = 0x300 then wrTimeCtl v c
    else if off = 0x3A0 then wrTimeSet v c
    else wrPlain d (synC off) v c
  | .twn =>
    if off = 0x100 then wrTwnCtl v c
    else if off = 0x104 then wrTwnLink v c
    else if off = 0x10C then wrBeatEp v c
    else if off = 0x114 then storeIf (fld v 27 24 != 0 && fld v 23 16 != 0) (twn off) v c
    else if off = 0x118 then storeIf (within (fld v 9 0) 1 1000 && within (fld v 25 16) 1 1000) (twn off) v c
    else if off = 0x120 then wrTwnCmd v c
    else wrPlain d (twn off) v c
  | .cgmC => if off = 0x100 then wrCgmCtl v c else wrPlain d (cgmC off) v c
  | .dmp =>
    if off = 0x100 then wrDmpCtl v c
    else if off = 0x104 ∨ off = 0x10C ∨ off = 0x110 then wrDmpSetup off v c
    else if 0x120 ≤ off ∧ off < 0x134 then wrDmpSetup off (v &&& d.rw) c
    else if off = 0x11C then wrDmpRd v c
    else wrPlain d (dmp off) v c
  | .lntC =>
    if off = 0x108 then wrLntRate v c
    else if off = 0x10C then storeIf (within v 1 1000) (lntC off) v c
    else if off = 0x110 ∨ off = 0x114 then wrLntRing off v c
    else if off = 0x120 then storeIf (v != 0) (lntC off) v c
    else wrPlain d (lntC off) v c
  | .cve => wrCve ((off - 0x100) / 0x40) ((off - 0x100) % 0x40) v c
  | _ => .ok c

/-! ### The checks of every write (R555, R571 to R582) -/

/-- The write starts a command or an action of the block (R555): a W1S bit is written 1, or a channel is fed. -/
def startsAction (b : Block) (d : RegDef) (off v : Nat) : Bool :=
  v &&& d.w1s != 0 || (b == .cve && 0x20 ≤ (off - 0x100) % 0x40 && (off - 0x100) % 0x40 < 0x2C)

/-- The writes that LOCKED does not refuse: of 1 to bits of EVT or EVT_SET, of EVT_EN, and of VALID (R580). -/
def lockExempt (off v : Nat) : Bool :=
  ((off == 0x18 || off == 0x20) && v != 0) || off == 0x1C || (off == 0x24 && bit v 31)

/-- A register of channels 29 to 31 of the check-value engine, which the part holds (R473). -/
def partChannel (b : Block) (off : Nat) : Bool := b == .cve && decide (0x100 ≤ off ∧ 29 ≤ (off - 0x100) / 0x40)

/-- The effect of a write that LOCK and the reserved bits let pass: a channel of the part refuses it, read-only registers ignore it, a
start is refused while the page is not ON, a command register and its data while its GO reads 1, and the rest is the register's own rule
(R555, R578, R581). -/
def Chip.ruleWrite (c : Chip) (b : Block) (i : Nat) (d : RegDef) (die page off v : Nat) : Wr :=
  if partChannel b off then .error 2
  else if d.rw ||| d.w1c ||| d.w1s = 0 then .ok c
  else if off < 0x100 then wrHeader d die page off v c
  else if startsAction b d off v && !c.isOn die page then .error 2
  else if (goGuard b off).any (fun g => c.goBusy (regAddr die page g)) then .error 6
  else if b = .pmc then wrPmc d die i off v c
  else if die < 4 then wrQuad b d die i off v c
  else if die < 24 then wrPress b d die off v c
  else wrCtrl b d off v c

/-- A write of a register of a page: the refusal's cause, or the state after it (R573, R578, R580, R582). -/
def Chip.tryWrite (c : Chip) (fabric : Bool) (a v : Nat) : Wr :=
  let die := adDie a
  let page := adPage a
  let off := adOff a
  match pageOf die page with
  | none => .error 5
  | some (b, i) =>
    match regAt die b i off with
    | none => .error 5
    | some d =>
      let lock := c.reg (regAddr die page 0x34)
      if fabric && bit lock 1 then .error 4
      else if bit lock 0 && !lockExempt off v then .error 4
      else if v &&& (d.rw ||| d.ro ||| d.w1c ||| d.w1s) != v then .error 3
      else c.ruleWrite b i d die page off v

/-- A write reaches one die: OK, or REFUSED and recorded with the refused data as its detail (R578, R579). -/
def Chip.writeDie (c : Chip) (fabric : Bool) (a v : Nat) : Status × Chip :=
  match c.tryWrite fabric a v with
  | .ok c => (0, c)
  | .error k => (1, c.recordErr (pageBase a) k (adOff a) v fabric)

/-- The dies that an address reaches: one, or the four of a broadcast window (R574). -/
def windowDies (a : Nat) : List Nat :=
  if adDie a = 30 then [4, 5, 6, 7] else if adDie a = 31 then [0, 1, 2, 3] else [adDie a]

/-- The address in one die of its window. -/
def inDie (a die : Nat) : Nat := regAddr die (adPage a) (adOff a)

/-- The address names no page (R8, R572), or is no multiple of 4 (R571). -/
def badAddr (a : Nat) : Bool := a % 4 != 0 || !(windowDies a).all (fun d => (pageOf d (adPage a)).isSome)

/-- The class of R502 that covers a register; 0xFF for the owner domain alone, 0xFE for either domain's reading (R585). `v` is the
word written, `none` for a read. -/
def accessClass (a : Nat) (v : Option Nat) : Nat :=
  match pageOf ((windowDies a).headD 0) (adPage a) with
  | none => 0xFF
  | some (b, i) =>
    let off := adOff a
    if v.isNone ∧ (off < 0x10 ∨ off = 0x14) then 0xFE
    else if v.isSome ∧ off = 0x34 then 0xFF
    else match b with
      | .idx => if v.isNone then 0xFE else 0xFF
      | .edg | .rte | .peg | .mcg =>
        if off = 0x100 then
          match v with
          | some w => if b = .rte ∧ fld w 27 24 = 1 then 7 else 0
          | none => 0
        else if off = 0x104 ∨ inArr off 0x140 36 4 then 0
        else 7
      | .prs => (match regDef b i off with | some d => if d.rwb then 0 else 1 | none => 1)
      | .lnk => if inArr off 0x100 16 4 then 5 else 6
      | .ctl => if off = 0x108 then 15 else 0xFF
      | b => pageClass b

/-- The domain may access the register (R502). -/
def Chip.allowed (c : Chip) (dom : Dom) (a : Nat) (v : Option Nat) : Bool :=
  match dom with
  | .owner => true
  | .fabric => accessClass a v == 0xFE || c.granted (accessClass a v)

/-- One word of a WRITE: its status after every die of its window has taken or refused it (R502, R572, R575). -/
def Chip.writeWord (c : Chip) (dom : Dom) (a v : Nat) : Status × Chip :=
  if badAddr a then (3, c)
  else if !c.allowed dom a (some v) then (2, c)
  else (windowDies a).foldl (fun r d =>
    let x := r.2.writeDie (dom == .fabric) (inDie a d) v
    (max r.1 x.1, x.2)) (0, c)

/-- The word of queue state, plus one, whose uncorrectable error a read of QUE_DEPTH meets; 0 for none, also once the page's state has
been cleared. DEDUCED: the depths are read
from that state; log entry 106. -/
def Chip.depthError (c : Chip) (a : Nat) : Nat :=
  let w := SMap.getD c.regs (scar (adDie a) 0x45) 0
  if adDie a < 4 ∧ adPage a = 0x45 ∧ inArr (adOff a) 0x180 10 4 ∧ w ≠ scarClean then w.toNat else 0

/-- One word of a READ (R502, R572, R574); one that meets an uncorrectable error is REFUSED (R564, R590). -/
def Chip.readWord (c : Chip) (dom : Dom) (a : Nat) : Status × Nat × Chip :=
  if badAddr a ∨ 30 ≤ adDie a then (3, 0, c)
  else if !c.allowed dom a none then (2, 0, c)
  else if c.depthError a ≠ 0 then (1, 0, c.countUe (adDie a) 5 (c.depthError a - 1))
  else
    let r := c.readReg dom a
    (0, r.1, r.2)

/-- A register access that R502 denies is counted. -/
def Chip.denied (c : Chip) (st : Status) : Chip := if st = 2 then c.bump (ctlR 0x12C) 1 else c

/-- A write of one register as a command of a domain: nothing while its commands are not taken. -/
def Chip.write (c : Chip) (dom : Dom) (a v : Nat) : Chip :=
  if c.mayManage dom then
    let r := c.writeWord dom a v
    r.2.denied r.1
  else c

/-- A read of one register as a command of a domain; the value leaves the part. -/
def Chip.readOut (c : Chip) (dom : Dom) (a : Nat) : Chip :=
  if c.mayManage dom then
    let r := c.readWord dom a
    (r.2.2.denied r.1).emit (.read dom a (BitVec.ofNat 32 r.2.1))
  else c

/-- C0's SRAM after a change of the part: it is lost when C0 enters reset (R558). -/
def keepSram (was is_ : Chip) (m : Memory) : Memory := if was.rst.c0Up && !is_.rst.c0Up then [] else m

/-- A change of the part that may reset C0. -/
def State.onPart (s : State) (f : Chip → Chip) : State := { s with chip := f s.chip, sram := keepSram s.chip (f s.chip) s.sram }

/-- The next state of a command that may reset C0. -/
def onPart (s : State) (f : Chip → Chip) : Host.Outcome State Fault Refusal := .next (s.onPart f)

end Sys2Proof.Machine
end

