-- ==== Sys2Proof/Machine/Thread.lean ====
section
/-! DEFINITION. The thread: frames, forwarding, enumeration, HELLO and EVENT frames (R491 to R496, R515, R535). -/
namespace Sys2Proof.Machine

/-- A register of the THR page. -/
def thr (off : Nat) : Nat := regAddr 24 2 off

/-- A thread frame: head, payload, FCS (R491). DEDUCED: the FCS stands in the frame with its low byte first, as the other
multi-byte fields; log entry 27. -/
def threadFrame (dst src kind hops : Nat) (pay : List Byte) : List Byte :=
  let h := leBytes 1 dst ++ leBytes 1 src ++ leBytes 1 kind ++ leBytes 1 hops ++ leBytes 2 pay.length ++ leBytes 2 0 ++ pay
  h ++ leBytes 4 (crc32 h).toNat

/-- The part's thread address as it stands in SRC: 0xFE without one (R491). -/
def Chip.threadAddr (c : Chip) : Nat := c.mgmt.addr.getD 0xFE

/-- A frame leaves TH_OUT. -/
def Chip.threadSend (c : Chip) (dst src kind hops : Nat) (pay : List Byte) : Chip :=
  (c.emit (.thread (threadFrame dst src kind hops pay))).bump (thr 0x10C) 1

/-- The thread interface works: C0 out of reset, the bypass released (R493). -/
def Chip.threadOn (c : Chip) : Bool := c.rst.c0Up && !c.mgmt.bypass

/-- The part's enumeration record (R495). -/
def Chip.enumRecord (c : Chip) (addr : Nat) : List Byte :=
  leBytes 1 addr ++ leBytes 1 (c.rst.pos + put (b2n c.rst.side) 3) ++ leBytes 1 c.mgmt.fw ++ leBytes 1 0xB1 ++
  (List.finRange 12).map Config.serial ++ leBytes 4 c.mgmt.fwVersion

/-- An ENUM frame is handled (R495, R496): the payload it goes on with, and the part after. -/
def Chip.enum (c : Chip) (pay : List Byte) : List Byte × Chip :=
  let p := fit 0 (max 4 pay.length) pay
  let c := if bit (byteAt p 1) 0 then c.onMgmt (fun m => { m with addr := none }) else c
  let next := byteAt p 0
  let takes := c.mgmt.addr.isNone && decide (next ≤ 0x3E)
  let c := if takes then c.onMgmt (fun m => { m with addr := some next }) else c
  (leBytes 1 (if takes then next + 1 else next) ++ (p.drop 1).take 1 ++ leBytes 2 (leAt p 2 2 + 1) ++ p.drop 4 ++
    c.enumRecord c.threadAddr, c)

/-- A frame the part takes: a REQUEST goes to C0, the other kinds carry nothing for a part. -/
def Chip.threadTake (c : Chip) (src kind : Nat) (pay : List Byte) : Chip :=
  if kind = 3 then
    { c with c0In := c.c0In ++ [(1025, ({ hdr := { op := 6, src := src }, payload := pay, port := 1025, code := 0, sealOk := true,
                                          vc := 0 } : Arr))] }
  else c

/-- THREAD_FRAME_RECEIVE: a frame is checked, then taken, forwarded or discarded in the order of R492. While the bypass is
engaged the light passes the part by (R493). -/
def threadReceive (l : List Byte) (c : Chip) : Chip :=
  if !c.threadOn then c
  else
    let c := c.onMgmt (fun m => { m with rxLock := true })
    let len := leAt l 4 2
    let dst := byteAt l 0
    let src := byteAt l 1
    let kind := byteAt l 2
    let hops := byteAt l 3
    let body := l.take (8 + len)
    let pay := body.drop 8
    let good := decide (l.length = 12 + len) && decide (len ≤ 8192) && within kind 1 5 &&
      leAt l (8 + len) 4 == (crc32 body).toNat
    if !good then c.bump (thr 0x110) 1
    else
      let c := c.bump (thr 0x108) 1
      if 63 ≤ hops then c.bump (thr 0x114) 1
      else if c.mgmt.addr = some src then c.bump (thr 0x118) 1
      else if kind = 1 then
        let r := c.enum pay
        r.2.threadSend dst src kind (hops + 1) r.1
      else if c.mgmt.addr = some dst then c.threadTake src kind pay
      else if dst = 0x3F then (c.threadTake src kind pay).threadSend dst src kind (hops + 1) pay
      else c.threadSend dst src kind (hops + 1) pay

/-- HELLO_SEND: a part without an address sends a HELLO every 1 ms from the release of the bypass (R494). -/
def helloSend (c : Chip) : Chip :=
  if c.threadOn ∧ c.mgmt.addr.isNone then
    let c := c.till c.mgmt.helloAt
    (c.threadSend 0 0xFE 2 0 (c.enumRecord 0xFE)).onMgmt (fun m => { m with helloAt := c.now + 1000000 })
  else c

/-! ### EVENT frames (R515, R535) -/

/-- The bytes of an event queue entry (R513). -/
def EvEnt.bytes (e : EvEnt) : List Byte := leBytes 8 e.time ++ leBytes 4 e.page ++ leBytes 4 e.evt

/-- Up to `n` entries leave a domain's queue; the number lost starts again at 0 (R514). -/
def Chip.takeEvents (c : Chip) (d n : Nat) : Nat × List EvEnt × Chip :=
  let q := c.mgmt.evq.getD d []
  (min (c.mgmt.evLost.getD d 0) 0xFFFFFFFF, q.take n,
    c.onMgmt (fun m => { m with evq := m.evq.set d (q.drop n), evLost := m.evLost.set d 0,
                                evAt := if d = 0 then c.now else m.evAt }))

/-- One EVENT frame of up to 64 of the owner's entries (R515). -/
def Chip.eventFrame (c : Chip) : Chip :=
  let r := c.takeEvents 0 64
  r.2.2.threadSend 0 c.threadAddr 5 0
    (leBytes 4 r.1 ++ leBytes 2 r.2.1.length ++ leBytes 2 0 ++ r.2.1.flatMap EvEnt.bytes)

/-- The owner's event queue holds an entry. -/
def Chip.ownerEvents (c : Chip) : Bool := !(c.mgmt.evq.getD 0 []).isEmpty

/-- EVENT_FRAME_SEND: with EVT_EN set and an address held, the owner's entries leave over the thread (R515). -/
def eventFrameSend (c : Chip) : Chip :=
  if c.threadOn && c.mgmt.addr.isSome && c.regBit (thr 0x100) 0 && c.ownerEvents then c.eventFrame else c

/-- The log flush sends every entry; the first argument bounds the frames: 1,024 entries fill 16 (R535). -/
def Chip.flushEvents : Nat → Chip → Chip
  | 0, c => c
  | n + 1, c => if c.ownerEvents then Chip.flushEvents n c.eventFrame else c

/-- INPUT_WARN: VIN has been below 21.0 V for 1 µs; the LOG_FLUSH policy sends the owner's events once (R535). -/
def inputWarn (c : Chip) : Chip :=
  if c.power.warn || c.power.off then c
  else
    let c := (((c.onPower (fun p => { p with warn := true })).bump (pwr 0x134) 1).setHold).raise (pwr 0) 2
    if c.policy 6 && c.threadOn && c.mgmt.addr.isSome then Chip.flushEvents 16 c else c

end Sys2Proof.Machine
end

