-- ==== Sys2Proof/Machine/Shutdown.lean ====
section
/-! DEFINITION. What a shutdown does to the part, stage by stage, and the power-offs without stages (R522, R536, R537,
R545). -/
namespace Sys2Proof.Machine

/-- The times of the stages after the start of a shutdown, in ns (R536). -/
def stageTimes : List Nat := [5000, 25000, 40000, 60000, 110000, 200000]

/-- Rails go off. -/
def Chip.railsOff (c : Chip) (l : List Nat) : Chip :=
  c.onPower (fun p => { p with rails := l.foldl (fun r i => setBit r i false) p.rails })

/-- The quadrants and press dies lose their rails, and with them all they hold. -/
def Chip.planeOff (c : Chip) : Chip :=
  let c := c.each (List.range 8) (fun c d => c.clearDie true d)
  { c with
    ports := [], links := [], seams := [], bufs := [], tables := [], badEnt := [], gate := [true, true, true, true],
    pkts := [], stores := [], copies := [], rx := [], probeIn := [], held := [], wins := [], bars := [],
    ctxs := [], pressIn := [], syncIn := [], tele := { c.tele with cgm := [], taps := [], lintQ := [] } }

/-- C0 and the engines lose power or enter reset in a shutdown: what a PART reset leaves, without its count (R493, R536). -/
def Chip.c0Off (c : Chip) : Chip :=
  let r := c.rst
  (c.resetPart r.cause).onRst (fun x => { x with resets := r.resets, kind := 0, target := 0, cmd := false, more := [] })

/-- Every rail goes off at once (R522, R545). -/
def Chip.allOff (c : Chip) : Chip := c.c0Off.onPower (fun p => { p with off := true, stage := none, rails := 0 })

/-- SHUTDOWN_STAGE: the next timed stage of an orderly shutdown (R536): ADMIT cleared on every port; every gate closed, which
severs what is left; the rails of the quadrants and press dies off; engines off and C0 in reset; VC off; VA off. -/
def shutdownStage (c : Chip) : Chip :=
  match c.power.stage with
  | none => c
  | some n =>
    let c := c.till (c.power.stageAt + stageTimes.getD n 200000)
    let c := c.onPower (fun p => { p with stage := some (n + 1) })
    if n = 0 then c.each ((List.range 1024).filter c.isAdmitted) (fun c p => c.clearAdmit p)
    else if n = 1 then c.each (List.range 16) (fun c e => (c.setReg (oen e 0x100) 0).settle (enginePorts e))
    else if n = 2 then c.planeOff.railsOff (List.range 16)
    else if n = 3 then (c.railsOff [16, 17]).c0Off
    else if n = 4 then c.railsOff [18]
    else c.allOff

/-- VIN_OFF: VIN falls below 17.0 V and every rail is off; a rise to 20.4 V may then start the part again (R522, R537). -/
def vinOff (c : Chip) : Chip := (if c.power.off then c else c.allOff).onPower (fun p => { p with below17 := true })

/-- TRIP_SENSOR: a trip sensor reaches 118 °C and every rail goes off, without the stages of R536 (R545). -/
def tripSensor (c : Chip) : Chip := if c.power.off then c else c.allOff

end Sys2Proof.Machine
end

