-- ==== Sys2Proof/Machine/FwCheck.lean ====
section
/-! DEFINITION. The checks of a firmware image (R497, R500): the header, SHA-384 of FIPS 180-4, and ECDSA over P-384 of
FIPS 186-5. The two algorithms and their constants are those of the standards that R497 names. -/
namespace Sys2Proof.Machine

/-! ### SHA-384

The constants are those of the standard by its own description of them: the first 64 bits of the fractional parts of the
cube roots of the first eighty primes, and of the square roots of the ninth to the sixteenth. -/

/-- The greatest x below 2^n, added to `lo`, whose `k`-th power is at most `m`: the root found bit by bit. -/
def rootFrom (k m : Nat) : (n lo : Nat) → Nat
  | 0, lo => lo
  | n + 1, lo => rootFrom k m n (if (lo + 2 ^ n) ^ k ≤ m then lo + 2 ^ n else lo)

/-- The first 64 bits of the fractional part of the `k`-th root of `p`, for a root below 32. -/
def rootBits (k p : Nat) : BitVec 64 := BitVec.ofNat 64 (rootFrom k (p * 2 ^ (64 * k)) 69 0)

/-- The primes below 410: the first eighty. -/
def shaPrimes : List Nat :=
  (List.range 410).filter (fun p => 2 ≤ p && ((List.range 21).drop 2).all (fun d => p == d || p % d != 0))

/-- The eighty round constants. -/
def shaK : List (BitVec 64) := shaPrimes.map (rootBits 3)

/-- The initial hash value of SHA-384. -/
def shaInit : List (BitVec 64) := ((shaPrimes.drop 8).take 8).map (rootBits 2)

/-- Big-endian bytes as a number. -/
def ofBe (l : List Byte) : Nat := l.foldl (fun a b => 256 * a + b.toNat) 0

/-- A message with its padding, in blocks of 128 bytes: a bit 1, zeros, and the length in bits in the last 16 bytes. -/
def shaPad (l : List Byte) : List Byte :=
  let blocks := (l.length + 17 + 127) / 128
  l ++ 0x80 :: (leBytes (128 * blocks - l.length - 1) (8 * l.length)).reverse

/-- The sum of three rotations that the round applies to a working variable. -/
def turn3 (x : BitVec 64) (i j k : Nat) : BitVec 64 := x.rotateRight i ^^^ x.rotateRight j ^^^ x.rotateRight k

/-- The sum of two rotations and a shift that the message schedule applies to a word. -/
def turn2 (x : BitVec 64) (i j k : Nat) : BitVec 64 := x.rotateRight i ^^^ x.rotateRight j ^^^ x.ushiftRight k

/-- `n` rounds: the round takes its word from the front of a window of sixteen schedule words and puts the word sixteen
further on at the window's end. `v` holds the working variables a to h. -/
def shaRounds : (ks : List (BitVec 64)) → (win v : List (BitVec 64)) → List (BitVec 64)
  | [], _, v => v
  | k :: ks, win, v =>
    let w (i : Nat) : BitVec 64 := win.getD i 0
    let x (i : Nat) : BitVec 64 := v.getD i 0
    let choose := (x 6) ^^^ (x 4 &&& (x 5 ^^^ x 6))
    let major := (x 0 &&& (x 1 ||| x 2)) ||| (x 1 &&& x 2)
    let up := x 7 + turn3 (x 4) 14 18 41 + choose + k + w 0
    shaRounds ks (win.tail ++ [w 0 + turn2 (w 1) 1 8 7 + w 9 + turn2 (w 14) 19 61 6])
      ((up + turn3 (x 0) 28 34 39 + major) :: x 0 :: x 1 :: x 2 :: (x 3 + up) :: (v.drop 4).take 3)

/-- The hash value after the block that starts at byte 128 × `i` of a padded message. -/
def shaStep (msg : List Byte) (h : List (BitVec 64)) (i : Nat) : List (BitVec 64) :=
  let word (j : Nat) : BitVec 64 := BitVec.ofNat 64 (ofBe ((msg.drop (128 * i + 8 * j)).take 8))
  List.zipWith (· + ·) h (shaRounds shaK ((List.range 16).map word) h)

/-- SHA-384, as a number whose first byte is the most significant. -/
def sha384 (l : List Byte) : Nat :=
  let msg := shaPad l
  let h := (List.range (msg.length / 128)).foldl (shaStep msg) shaInit
  (h.take 6).foldl (fun a w => 2 ^ 64 * a + w.toNat) 0

/-! ### ECDSA over P-384 -/

/-- The prime of the field. -/
def p384 : Nat := 2 ^ 384 - 2 ^ 128 - 2 ^ 96 + 2 ^ 32 - 1

/-- The order of the base point. -/
def n384 : Nat := 0xffffffffffffffffffffffffffffffffffffffffffffffffc7634d81f4372ddf581a0db248b0a77aecec196accc52973

/-- The coefficient b of the curve y² = x³ − 3x + b. -/
def b384 : Nat := 0xb3312fa7e23ee7e4988e056be3f82d19181d9c6efe8141120314088f5013875ac656398d8a2ed19d2a85c8edd3ec2aef

/-- The base point. -/
def g384 : Nat × Nat :=
  (0xaa87ca22be8b05378eb1c71ef320ad746e1d3b628ba79b9859f741e082542a385502f25dbf55296c3a545e3872760ab7,
   0x3617de4a96262c6f5d9e98bf9292dc29f8f41dbd289a147ce9da3113b5f0b8c00a60b1ce1d7e819d7a431d7c90ea0e5f)

/-- `b` to the power `e` modulo `m`; the first argument bounds the bits of `e`. -/
def powMod : Nat → Nat → Nat → Nat → Nat
  | 0, _, _, m => 1 % m
  | n + 1, b, e, m =>
    let r := powMod n (b * b % m) (e / 2) m
    if e % 2 = 1 then r * b % m else r

/-- The inverse modulo a prime. -/
def invMod (a m : Nat) : Nat := powMod 384 (a % m) (m - 2) m

/-- A point of the curve; none is the point at infinity. -/
abbrev EcPoint := Option (Nat × Nat)

/-- The sum of two points. -/
def ecAdd (x y : EcPoint) : EcPoint :=
  match x, y with
  | none, y => y
  | x, none => x
  | some (x1, y1), some (x2, y2) =>
    if x1 = x2 ∧ (y1 + y2) % p384 = 0 then none
    else
      let l := if x1 = x2 then (3 * x1 * x1 + (p384 - 3)) * invMod (2 * y1) p384 % p384
        else (y2 + (p384 - y1)) * invMod (x2 + (p384 - x1)) p384 % p384
      let x3 := (l * l + 2 * p384 - x1 - x2) % p384
      some (x3, (l * (x1 + (p384 - x3)) + (p384 - y1)) % p384)

/-- A multiple of a point; the first argument bounds the bits of the factor. -/
def ecMul : Nat → Nat → EcPoint → EcPoint
  | 0, _, _ => none
  | n + 1, k, x =>
    let r := ecMul n (k / 2) (ecAdd x x)
    if k % 2 = 1 then ecAdd r x else r

/-- A point lies on the curve, its coordinates below the prime. -/
def onCurve (x y : Nat) : Bool :=
  decide (x < p384) && decide (y < p384) && y * y % p384 == (x * x % p384 * x + (p384 - 3) * x + b384) % p384

/-- The signature (r, s) of a hash is good under a public key. -/
def ecdsaOk (key : Nat × Nat) (hash r s : Nat) : Bool :=
  if r = 0 ∨ n384 ≤ r ∨ s = 0 ∨ n384 ≤ s ∨ !onCurve key.1 key.2 then false
  else
    let w := invMod s n384
    match ecAdd (ecMul 384 (hash * w % n384) (some g384)) (ecMul 384 (r * w % n384) (some key)) with
    | none => false
    | some (x, _) => x % n384 == r

/-! ### The image (R497, R498, R500) -/

/-- The number of a 97-byte uncompressed SEC 1 point, or none. -/
def pubKey (l : List Byte) : Option (Nat × Nat) :=
  if byteAt l 0 = 4 then some (ofBe ((l.drop 1).take 48), ofBe ((l.drop 49).take 48)) else none

/-- The KEY_HASH of a slot, when it is programmed and not revoked (R498). -/
def Chip.keyHash (c : Chip) (slot : Nat) : Option Nat :=
  if bit c.mgmt.revoked slot then none
  else if slot = 0 then some (Config.factoryKeyHash 0).toNat
  else if slot = 1 then some (Config.factoryKeyHash 1).toNat
  else if slot = 2 then (c.mgmt.keys.getD 0 none).map BitVec.toNat
  else if slot = 3 then (c.mgmt.keys.getD 1 none).map BitVec.toNat
  else none

/-- The reserved bytes of the header are 0. -/
def reservedZero (h : List Byte) : Bool :=
  ((h.drop 21).take 491).all (· == 0) && ((h.drop 609).take 31).all (· == 0) && ((h.drop 736).take 288).all (· == 0)

/-- The first check of R500 that an image fails, as its reason code; 0 when every check passes. -/
def Chip.imageReason (c : Chip) (m : Memory) : Nat :=
  let h := m.bytes 0 1024
  let len := leAt h 12 4
  let entry := leAt h 16 4
  let key := (h.drop 512).take 97
  if leAt h 0 4 ≠ 0x5746534B ∨ leAt h 4 4 ≠ 1 then 1
  else if len % 4096 ≠ 0 ∨ len < 8192 ∨ 0x2000000 < len ∨ entry < 1024 ∨ len ≤ entry then 2
  else match c.keyHash (byteAt h 20) with
    | none => 3
    | some k =>
      if sha384 key ≠ k then 4
      else if leAt h 8 4 < c.mgmt.floor then 5
      else
        let good := match pubKey key with
          | none => false
          | some q => ecdsaOk q (sha384 (h.take 640 ++ m.bytes 1024 (len - 1024))) (ofBe ((h.drop 640).take 48)) (ofBe ((h.drop 688).take 48))
        if !good then 6 else if !reservedZero h then 7 else 0

end Sys2Proof.Machine
end

