-- ==== Sys2Proof/Machine/Mgmt.lean ====
section
/-! DEFINITION. Management requests and responses (R501 to R509), the commands of R504, and the firmware's stints, checks
and fuses (R497 to R500, R510 to R512, R589 to R592). -/
namespace Sys2Proof.Machine

/-! ### Requests (R503, R506 to R509) -/

/-- The bytes of a completion (R506). -/
def completionBytes (d : Nat × Nat × List Word) : List Byte :=
  leBytes 2 d.1 ++ leBytes 1 d.2.1 ++ leBytes 1 0 ++ leBytes 2 d.2.2.length ++ leBytes 2 0 ++
    d.2.2.flatMap (fun w => leBytes 4 w.toNat)

/-- A response: its head with the request status, then the completions (R506). -/
def Chip.responseBytes (c : Chip) (kind tag status : Nat) (done : List (Nat × Nat × List Word)) : List Byte :=
  leBytes 2 kind ++ leBytes 2 tag ++ leBytes 1 (c.sideCode + put (b2n (c.twin.role != 0)) 1 + put c.twin.role 2) ++
    leBytes 1 status ++ leBytes 2 done.length ++ done.flatMap completionBytes

/-- A response leaves: over the thread to the request's SRC, or as a MGMT_RSP, through the arrival port where that is in
QUARANTINE (R509). An in-band response is suppressed in STANDBY, SYNCING and FENCED unless a side was selected (R433). -/
def Chip.respond (c : Chip) (who : Requester) (bytes : List Byte) : Chip :=
  match who with
  | .thread src => (c.threadSend src c.threadAddr 4 0 bytes).emit (.response who bytes)
  | .inband src port tc label seq quarantined sided =>
    if c.suppressed && !sided then c
    else
      (c.c0Send { net := 1, tc := tc, op := 0x15, dest := src, src := c.ownId, seq := seq, aux := put label 16 } bytes
        (if quarantined then some port else none)).emit (.response who bytes)

/-- Two requesters are one for R508: the same thread SRC, or the same in-band SRC. -/
def Requester.same : Requester → Requester → Bool
  | .thread a, .thread b => a == b
  | .inband a _ _ _ _ _ _, .inband b _ _ _ _ _ _ => a == b
  | _, _ => false

/-- A response of 8 bytes per completion and its result words is at most 8,184 bytes (R506). -/
def tooLong (cmds : List MCmd) : Bool := decide (8184 < (cmds.map (fun m => 8 + 4 * m.results)).sum)

/-- The commands of a domain's ring that have not completed (R507). -/
def Chip.cmdsHeld (c : Chip) (d : Nat) : Nat :=
  ((c.mgmt.reqs.getD d []).map (fun r => r.cmds.length - r.done.length)).sum

/-- SIDE_SEL 1, which is reserved, stands in a request that the side rule looks at: an in-band one in twin mode (R503, R509). -/
def Chip.sideReserved (c : Chip) (who : Requester) (ctrl : Nat) : Bool :=
  (match who with | .thread _ => false | .inband .. => true) && c.twin.role != 0 && fld ctrl 1 0 == 1

/-- A request of a domain: answered at once, dropped as a repeat, or queued (R506 to R508). DEDUCED: SIDE_SEL 1, which is
reserved, makes an in-band request in twin mode MALFORMED; log entry 28. -/
def Chip.takeRequest (c : Chip) (dom : Dom) (who : Requester) (pay : List Byte) : Chip :=
  let d := domIdx dom
  let kind := leAt pay 0 2
  let tag := leAt pay 2 2
  let ctrl := leAt pay 4 4
  let headOnly (c : Chip) (status : Nat) : Chip := c.respond who (c.responseBytes kind tag status [])
  if decide (pay.length < 8) || kind != 1 || decide (16 ≤ ctrl) || c.sideReserved who ctrl then headOnly c 2
  else match parseCmds 33 (pay.drop 8) with
    | none => headOnly c 2
    | some cmds =>
      if cmds.isEmpty || decide (32 < cmds.length) then headOnly c 2
      else
        let key (w : Requester) (t : Nat) : Bool := tag != 0 && t == tag && Requester.same w who
        match (c.mgmt.stored.getD d []).find? (fun s => key s.1 s.2.1) with
        | some s => c.respond who s.2.2
        | none =>
          if (c.mgmt.reqs.getD d []).any (fun r => key r.who r.tag) then c
          else if tooLong cmds then headOnly c 3
          else if 4096 < c.cmdsHeld d + cmds.length then headOnly ((c.bump (ctlR 0x128) 1).raise (ctlR 0) 8) 1
          else
            let r : Req := { who := who, tag := tag, pass := bit ctrl 2, stop := bit ctrl 3, cmds := cmds, done := [] }
            c.onMgmt (fun m => { m with reqs := upd m.reqs d (fun l => settleRing true (l ++ [r])) })

/-- The domain of an in-band SRC (R501). -/
def Chip.domainOf (c : Chip) (src : Nat) : Dom :=
  let v := c.reg (ctlR 0x104)
  if src != 0xFFFF && (fld v 15 0 == src || fld v 31 16 == src) then .owner else .fabric

/-- An in-band request: discarded before firmware runs (R499) or when it selects the other side of a twin pair (R509). -/
def Chip.takeInband (c : Chip) (a : Arr) : Chip :=
  let sel := fld (leAt a.payload 4 4) 1 0
  let who (sided : Bool) : Requester :=
    .inband a.hdr.src a.port a.hdr.tc a.hdr.label a.hdr.seq ((c.port a.port).st == .quarantine) sided
  if c.mgmt.fw < 3 then c
  else if c.twin.role != 0 && decide (2 ≤ sel) then
    if sel = 2 + c.sideCode then c.takeRequest (c.domainOf a.hdr.src) (who true) a.payload
    else c.bump (ctlR 0x130) 1
  else c.takeRequest (c.domainOf a.hdr.src) (who false) a.payload

/-- MGMT_REQUEST: the oldest request that C0 has taken is checked, queued or answered. A twin beat is the twin unit's
(R427); a packet for C0 that is no MGMT_REQ is discarded. -/
def mgmtRequest (c : Chip) : Chip :=
  match c.c0In.find? (fun x => !beatRequest x.2) with
  | none => c
  | some x =>
    let c := { c with c0In := c.c0In.erase x }
    if !c.rst.c0Up ∨ x.2.hdr.op ≠ 6 then c
    else if x.2.port = 1025 then c.takeRequest .owner (.thread x.2.hdr.src) x.2.payload
    else c.takeInband x.2

/-! ### EVENT_WAIT (R514, R515) -/

/-- EVENT_WAIT takes a domain's entries, unless they leave over the thread (R515). -/
def Chip.waitTakes (c : Chip) (d : Nat) : Bool :=
  d != 0 || !(c.threadOn && c.mgmt.addr.isSome && c.regBit (thr 0x100) 0)

/-- The EVENT_WAIT command with a timeout. -/
def eventWaitCmd (timeout : Nat) : MCmd := { code := 0x30, addr := 0, args := [BitVec.ofNat 32 timeout] }

/-- The words of an event queue entry. -/
def EvEnt.words (e : EvEnt) : List Word := wordsOf 4 e.bytes

/-- An EVENT_WAIT in progress completes with LOST and up to 32 entries. -/
def Chip.eventsOut (c : Chip) (dom : Dom) (n : Nat) : Chip :=
  let r := c.takeEvents (domIdx dom) (if c.waitTakes (domIdx dom) then 32 else 0)
  r.2.2.finishRun dom n 0x30 stOk (BitVec.ofNat 32 r.1 :: r.2.1.flatMap EvEnt.words)

/-- An entry that an EVENT_WAIT would return is queued. -/
def Chip.eventsReady (c : Chip) (dom : Dom) : Bool :=
  c.waitTakes (domIdx dom) && !(c.mgmt.evq.getD (domIdx dom) []).isEmpty

/-- The EVENT_WAITs in progress take what is queued, the oldest first. -/
def Chip.deliverEvents (c : Chip) (dom : Dom) : Chip :=
  c.each (c.waitsOf (domIdx dom)).evs (fun c e =>
    if c.eventsReady dom then
      (c.onWaits (domIdx dom) (fun w => { w with evs := w.evs.erase e })).eventsOut dom e.2.2
    else c)

/-- EVENT_WAIT: entries are returned at once, or it waits for the first. -/
def eventWait (dom : Dom) (timeout : Nat) (c : Chip) : Chip :=
  if !c.mayStart dom (eventWaitCmd timeout) then c
  else if c.mgmt.fw < 3 then c.finish dom (eventWaitCmd timeout) stNoFw []
  else if 1000000 < timeout then c.finish dom (eventWaitCmd timeout) stBadArg []
  else
    let b := c.begin dom (eventWaitCmd timeout)
    if c.eventsReady dom then b.2.eventsOut dom b.1
    else b.2.onWaits (domIdx dom) (fun w => { w with evs := w.evs ++ [(timeout, c.now, b.1)] })

/-- EVENT_WAIT_TIMEOUT: the oldest EVENT_WAIT of a domain reaches its TIMEOUT; it returns what is queued, if anything. -/
def eventWaitTimeout (dom : Dom) (c : Chip) : Chip :=
  match (c.waitsOf (domIdx dom)).evs with
  | [] => c
  | e :: rest =>
    let c := (c.deliverEvents dom)
    if (c.waitsOf (domIdx dom)).evs ≠ e :: rest then c
    else ((c.till (e.2.1 + 1000 * e.1)).onWaits (domIdx dom) (fun w => { w with evs := rest })).eventsOut dom e.2.2

/-- MGMT_RESPONSE: the first request of a domain whose last command has completed is answered, and its response kept
(R507 to R509); one that started a PART reset is not answered (R560). -/
def mgmtResponse (dom : Dom) (c : Chip) : Chip :=
  let d := domIdx dom
  let c := c.deliverEvents dom
  let rs := c.mgmt.reqs.getD d []
  match rs.find? (fun r => r.done.length == r.cmds.length) with
  | none => c
  | some r =>
    let b := c.responseBytes 1 r.tag 0 r.done
    let c := c.onMgmt (fun m => { m with reqs := m.reqs.set d (rs.erase r) })
    if r.mute then c
    else
      (c.onMgmt (fun m =>
        { m with stored := if r.tag = 0 then m.stored
            else upd m.stored d (fun l => (l ++ [(r.who, r.tag, b)]).drop (l.length + 1 - 64)) })).respond r.who b

/-! ### Register commands (R504, R590, R591) -/

/-- A command completes, unless it has reset C0 (R518). -/
def Chip.finishUp (c : Chip) (dom : Dom) (m : MCmd) (st : Nat) (ws : List Word) : Chip :=
  if c.rst.c0Up then c.finish dom m st ws else c

/-- A PART reset has been accepted. -/
def Chip.partDue (c : Chip) : Bool := c.rst.kind == 1 || c.rst.more.any (·.kind == 1)

/-- The request whose command has started a PART reset gets no response (R560). -/
def Chip.muteIf (was c : Chip) (dom : Dom) (m : MCmd) : Chip :=
  if c.partDue && !was.partDue then
    match findReq m true (c.mgmt.reqs.getD (domIdx dom) []) with
    | none => c
    | some i => c.onMgmt (fun x => { x with reqs := upd x.reqs (domIdx dom) (fun l => upd l i (fun r => { r with mute := true })) })
  else c

/-- The whole range of a READ or WRITE is refused: it runs past offset 0xFFC, names no page, or is no multiple of 4
(R571, R572); a read of a broadcast window is refused (R574). -/
def rangeBad (a n : Nat) (rd : Bool) : Bool :=
  badAddr a || decide (0xFFC < adOff a + 4 * (n - 1)) || (rd && decide (30 ≤ adDie a))

/-- `n` words are read from `a` upward: the first status that is not OK, the words, the part after (R590). -/
def Chip.readWords (c : Chip) (dom : Dom) : (n a : Nat) → Status × List Word × Chip
  | 0, _ => (0, [], c)
  | n + 1, a =>
    let x := c.readWord dom a
    let r := x.2.2.readWords dom n (a + 4)
    (if x.1 = 0 then r.1 else x.1, BitVec.ofNat 32 x.2.1 :: r.2.1, r.2.2)

/-- READ. -/
def read (dom : Dom) (addr : Word) (count : Nat) (c : Chip) : Chip :=
  let m : MCmd := { code := 1, addr := addr.toNat, args := [BitVec.ofNat 32 count] }
  if !c.mayStart dom m then c
  else if !within count 1 64 then c.finish dom m stBadArg []
  else if rangeBad addr.toNat count true then c.finish dom m stBadAddr (List.replicate count 0)
  else
    let r := c.readWords dom count addr.toNat
    r.2.2.finish dom m r.1 r.2.1

/-- Words are written from `a` upward: the first status that is not OK, and the part after (R590). A write that resets C0 is
the last. -/
def Chip.writeWords (c : Chip) (dom : Dom) : (vals : List Word) → (a : Nat) → Status × Chip
  | [], _ => (0, c)
  | v :: t, a =>
    if !c.rst.c0Up then (0, c)
    else
      let x := c.writeWord dom a v.toNat
      let r := x.2.writeWords dom t (a + 4)
      (if x.1 = 0 then r.1 else x.1, r.2)

/-- WRITE. -/
def write (dom : Dom) (addr : Word) (vals : List Word) (c : Chip) : Chip :=
  let m : MCmd := { code := 2, addr := addr.toNat, args := vals }
  if !c.mayStart dom m then c
  else if !within vals.length 1 64 then c.finish dom m stBadArg []
  else if rangeBad addr.toNat vals.length false then c.finish dom m stBadAddr []
  else
    let r := c.writeWords dom vals addr.toNat
    (Chip.muteIf c r.2 dom m).finishUp dom m r.1 []

/-- MODIFY: (old AND NOT MASK) OR (VALUE AND MASK) is written, with nothing between the read and the write (R504). -/
def modify (dom : Dom) (addr mask val : Word) (c : Chip) : Chip :=
  let m : MCmd := { code := 3, addr := addr.toNat, args := [mask, val] }
  if !c.mayStart dom m then c
  else
    let r := c.readWord dom addr.toNat
    if r.1 ≠ 0 then r.2.2.finish dom m r.1 [0]
    else
      let old : Word := BitVec.ofNat 32 r.2.1
      let new : Word := (old &&& ~~~ mask) ||| (val &&& mask)
      if !c.allowed dom addr.toNat (some new.toNat) then c.finish dom m stDenied [0]
      else
        let w := r.2.2.writeWord dom addr.toNat new.toNat
        (Chip.muteIf c w.2 dom m).finishUp dom m w.1 [old]

/-- WAIT: the firmware begins to read a register (R504, R591). -/
def wait (dom : Dom) (addr mask val : Word) (timeout : Nat) (c : Chip) : Chip :=
  let m : MCmd := { code := 4, addr := addr.toNat, args := [mask, val, BitVec.ofNat 32 timeout] }
  if !c.mayStart dom m then c
  else if c.mgmt.fw ≠ 3 then c.finish dom m stNoFw [0]
  else if !within timeout 1 1000000 then c.finish dom m stBadArg [0]
  else if badAddr addr.toNat || decide (30 ≤ adDie addr.toNat) then c.finish dom m stBadAddr [0]
  else if !c.allowed dom addr.toNat none then c.finish dom m stDenied [0]
  else
    let b := c.begin dom m
    b.2.joinPoll dom
      { addr := addr.toNat, mask := mask.toNat, val := val.toNat, time := timeout, start := c.now, last := 0, id := b.1, seq := 0 }

/-- WAIT_POLL: 1 µs on, the firmware reads the register of a domain's foremost WAIT; on a match, or at TIMEOUT, it
completes, and otherwise the domain's next WAIT is foremost (R591). -/
def waitPoll (dom : Dom) (c : Chip) : Chip :=
  if c.mgmt.fw ≠ 3 then c
  else match (c.waitsOf (domIdx dom)).polls with
    | [] => c
    | p :: rest =>
      let r := (c.pass 1000).readReg dom p.addr
      let done (st : Nat) : Chip :=
        (r.2.onWaits (domIdx dom) (fun w => { w with polls := rest })).finishRun dom p.id 4 st [BitVec.ofNat 32 r.1]
      if r.1 &&& p.mask = p.val then done stOk
      else if p.start + 1000 * p.time ≤ r.2.now then done stTimeout
      else (r.2.onWaits (domIdx dom) (fun w => { w with polls := rest })).joinPoll dom { p with last := r.1 }

/-! ### SRAM commands (R487, R502, R504) -/

/-- The SRAM range lies within a ring that a class covers. -/
def Chip.inRing (c : Chip) (base size off len : Nat) : Bool := c.reg base ≤ off && off + len ≤ c.reg base + c.reg size

/-- A domain may read an SRAM range (R502). -/
def Chip.mayReadMem (c : Chip) (dom : Dom) (off len : Nat) : Bool :=
  match dom with
  | .owner => true
  | .fabric => c.granted 14 || (c.granted 2 && c.inRing (dmp 0x10C) (dmp 0x110) off len) ||
      (c.granted 9 && c.inRing (lntC 0x110) (lntC 0x114) off len)

/-- A word of SRAM that the part keeps for itself: firmware data, the command rings and the event queues of R487, but where
the dump ring or the lint ring has been placed. -/
def Chip.keepsWord (c : Chip) (a : Nat) : Bool :=
  0x2000000 ≤ a && a < 0x2E00000 && !c.inRing (dmp 0x10C) (dmp 0x110) a 4 && !c.inRing (lntC 0x110) (lntC 0x114) a 4

/-- The word of SRAM that a command reads. What the part keeps for itself is a free value, since the spec gives its form
nowhere; DESIGN CHOICE, log entry 66. -/
def Chip.sramWord (c : Chip) (m : Memory) (a : Nat) : Word := if c.keepsWord a then Config.ownWord c.free a else m.word a

/-- A free value has been taken. -/
def Chip.drawn (c : Chip) : Chip := { c with free := c.free + 1 }

/-- The 64-bit words of C0's SRAM that memory code 8 covers, firmware image and data; those of code 9 follow (R487, R564). -/
def sramCode9 : Nat := 0x580000

/-- MEM_READ; one that meets an uncorrectable error completes REFUSED with result words of 0 (R564). An address beyond SRAM is found
before the class. DEDUCED; log entry 116. -/
def memRead (dom : Dom) (off : Word) (len : Nat) (s : State) : State :=
  let c := s.chip
  let o := off.toNat
  let m : MCmd := { code := 0x10, addr := o, args := [BitVec.ofNat 32 len] }
  let ans (st : Nat) (ws : List Word) : State := { s with chip := c.finish dom m st ws }
  if !c.mayStart dom m then s
  else if o % 4 != 0 || len % 4 != 0 || !within len 4 8000 then ans stBadArg []
  else if sramSize < o + len then ans stBadAddr (List.replicate (len / 4) 0)
  else if !c.mayReadMem dom o len then ans stDenied (List.replicate (len / 4) 0)
  else match c.badWord? o len with
    | some w =>
      let found := c.countUe 24 (if w < sramCode9 then 8 else 9) (w % sramCode9)
      { s with chip := found.finish dom m stRefused (List.replicate (len / 4) 0) }
    | none =>
      { s with chip := c.drawn.finish dom m stOk ((List.range (len / 4)).map (fun i => c.sramWord s.sram (o + 4 * i))) }

/-- MEM_WRITE: whole, or nothing; the class is tested before the range. DEDUCED; log entry 116. -/
def memWrite (dom : Dom) (off : Word) (words : List Word) (s : State) : State :=
  let c := s.chip
  let o := off.toNat
  let m : MCmd := { code := 0x11, addr := o, args := words }
  let ans (st : Nat) : State := { s with chip := c.finish dom m st [] }
  if !c.mayStart dom m then s
  else if o % 4 != 0 || !within words.length 1 2000 then ans stBadArg
  else if dom == .fabric && !c.granted 14 then ans stDenied
  else if !sramWritable (decide (c.mgmt.fw < 3)) o (4 * words.length) then ans stBadAddr
  else
    { s with chip := (c.sramWritten o (4 * words.length)).finish dom m stOk [],
             sram := s.sram.putAll o (words.flatMap (fun w => leBytes 4 w.toNat)) }

/-! ### TABLE_LOAD (R504, R592) -/

/-- Width of INDEX in a TBL_CMD register; none where an address is not one. -/
def tblIndexBits (a : Nat) : Option Nat :=
  if adOff a ≠ 0x100 then none
  else match pageOf ((windowDies a).headD 0) (adPage a) with
    | some (.edg, _) | some (.rte, _) | some (.peg, _) | some (.mcg, _) => some 20
    | some (.synQ, _) => some 12
    | some (.col, _) => some 17
    | _ => none

/-- The RESULT a table page of one die holds. -/
def Chip.tblResult (c : Chip) (a die : Nat) : Nat := fld (c.reg (inDie a die + 4)) 1 0

/-- Entries are written, each once GO reads 0 again in every die (R576), until one is refused: the status, the entries written, the RESULT
that stopped it, the die that reported it, the part after. `rd` reads a word of SRAM; the first argument matched is the number of entries
left. -/
def Chip.loadEntries (rd : Nat → Word) (dom : Dom) (addr source first cmd words : Nat) :
    Nat → Nat → Chip → Status × Nat × Nat × Nat × Chip
  | 0, i, c => (stOk, i, 0, adDie addr, c)
  | n + 1, i, c =>
    let ws := (List.range words).map (fun k => rd (source + 4 * words * i + 4 * k))
    let x := c.writeWords dom ws (addr + 0x40)
    let y := if x.1 = 0 then x.2.writeWord dom addr (2 ^ 31 + cmd + (first + i)) else x
    let y := (y.1, y.2.goWait ((windowDies addr).map (inDie addr)))
    if y.1 ≠ 0 then (y.1, i, 0, adDie addr, y.2)
    else
      match (windowDies addr).find? (fun d => y.2.tblResult addr d != 0) with
      | some d => (stRefused, i, y.2.tblResult addr d, d, y.2)
      | none => Chip.loadEntries rd dom addr source first cmd words n (i + 1) y.2

/-- One stint of a TABLE_LOAD of a domain: at most 40 entries, at 1 µs each (R510, R512). A load that has entries left waits
for its next stint behind what waits already. DESIGN CHOICE; log entry 47. -/
def Chip.loadStint (rd : Nat → Word) (dom : Dom) (l : Load) (c : Chip) : Chip :=
  let r := Chip.loadEntries rd dom l.addr l.source l.first l.cmd l.words (min 40 (l.count - l.next)) l.next c.drawn
  let i := r.2.1
  let c := r.2.2.2.2
  if r.1 = stOk ∧ i < l.count then c.joinLoad dom { l with next := i }
  else if c.rst.c0Up then c.finishRun dom l.id 0x20 r.1 (loadWords i (l.first + i) r.2.2.1 r.2.2.2.1)
  else c

/-- A core of the firmware, CC1, CC2 or CC3, starts a stint; which one is free (R460, event 0xA002; log entry 48). -/
def Chip.stintStarts (c : Chip) : Chip :=
  let r := c.draw Config.pick
  r.2.pmc 24 (1 + r.1 % 3) 0xA002 none none

/-- TABLE_LOAD. The four result words stand in every completion (R592); the first stint runs at once. -/
def tableLoad (dom : Dom) (addr source : Word) (first count : Nat) (cmd : Word) (words : Nat) (s : State) : Chip → Chip := fun c =>
  let a := addr.toNat
  let so := source.toNat
  let m : MCmd := { code := 0x20, addr := a, args := [source, BitVec.ofNat 32 first, BitVec.ofNat 32 count, cmd, BitVec.ofNat 32 words] }
  if !c.mayStart dom m then c
  else if c.mgmt.fw ≠ 3 then c.finish dom m stNoFw (loadWords 0 first 0 (adDie a))
  else if badAddr a then c.finish dom m stBadAddr (loadWords 0 first 0 (adDie a))
  else match tblIndexBits a with
    | none => c.finish dom m stBadArg (loadWords 0 first 0 (adDie a))
    | some k =>
      if !within words 1 40 || so % 4 != 0 || bit cmd.toNat 31 || cmd.toNat % 2 ^ k != 0 || decide (2 ^ k < first + count) then
        c.finish dom m stBadArg (loadWords 0 first 0 (adDie a))
      else if sramSize < so + 4 * words * count then c.finish dom m stBadAddr (loadWords 0 first 0 (adDie a))
      else if !c.allowed dom a (some cmd.toNat) then c.finish dom m stDenied (loadWords 0 first 0 (adDie a))
      else
        let b := c.stintStarts.begin dom m
        b.2.loadStint (c.sramWord s.sram) dom
          { addr := a, source := so, first := first, count := count, cmd := cmd.toNat, words := words, next := 0, id := b.1, seq := 0 }

/-! ### Identification, firmware and fuses (R495, R497 to R500) -/

/-- The IDENT command. -/
def identCmd : MCmd := { code := 0x40, addr := 0, args := [] }

/-- IDENT: the ENUM record and CTL_FW_STATUS. -/
def ident (dom : Dom) (c : Chip) : Chip :=
  if !c.mayStart dom identCmd then c
  else c.finish dom identCmd stOk
    (wordsOf 5 (c.enumRecord c.threadAddr) ++ [BitVec.ofNat 32 c.fwWord])

/-- The FW_START command. -/
def fwStartCmd : MCmd := { code := 0x60, addr := 0, args := [] }

/-- FW_START: the checks of the image begin, or the command is refused (R500). -/
def fwStart (dom : Dom) (c : Chip) : Chip :=
  if !c.mayStart dom fwStartCmd then c
  else if c.mgmt.fw = 0 ∨ c.mgmt.fw = 2 then
    let b := c.begin dom fwStartCmd
    b.2.onMgmt (fun m => { m with fw := 1, reason := 0, fwBy := some (domIdx dom, b.1) })
  else c.finish dom fwStartCmd stRefused []

/-- FW_START_DONE: the checks have finished. The image starts on CC0, with a stint of it, or FW_STATE becomes FAILED with the reason
(R500). -/
def fwStartDone (m : Memory) (c : Chip) : Chip :=
  if c.mgmt.fw ≠ 1 then c
  else
    let r := c.imageReason m
    let by_ := c.mgmt.fwBy
    let ver := leAt (m.bytes 8 4) 0 4
    let c := Chip.scrubStarts c <| c.onMgmt (fun k =>
      if r = 0 then { k with fw := 3, reason := 0, running := 1, fwVersion := ver, fwBy := none }
      else { k with fw := 2, reason := r, fwVersion := 0, running := 0, fwBy := none })
    let c := if r = 0 then c.pmc 24 0 0xA002 none none else c
    match by_ with
    | none => c
    | some d =>
      if r = 0 then c.finishRun (if d.1 = 0 then .owner else .fabric) d.2 0x60 stOk [BitVec.ofNat 32 ver]
      else c.finishRun (if d.1 = 0 then .owner else .fabric) d.2 0x60 stBadImage []

/-- A FUSE operation: accepted in FW_STATE WAIT or FAILED alone; it completes with CTL_FUSE_STATUS (R499, R504). -/
def Chip.fuse (c : Chip) (dom : Dom) (op : Nat) (arg : Word) (bad refuse : Bool) (f : Mgmt → Mgmt) : Chip :=
  let m : MCmd := { code := 0x61, addr := 0, args := [BitVec.ofNat 32 op, arg] }
  if !c.mayStart dom m then c
  else if bad then c.finish dom m stBadArg []
  else if !(c.mgmt.fw == 0 || c.mgmt.fw == 2) || refuse then c.finish dom m stRefused [BitVec.ofNat 32 c.fuseWord]
  else
    let c := c.onMgmt f
    c.finish dom m stOk [BitVec.ofNat 32 c.fuseWord]

/-- FUSE operation 1: key slot 2 or 3 takes the 48 bytes of staging, once. -/
def fuseProgram (dom : Dom) (slot : Word) (mem : Memory) (c : Chip) : Chip :=
  let i := slot.toNat - 2
  c.fuse dom 1 slot (decide (3 < slot.toNat)) (decide (slot.toNat < 2) || (c.mgmt.keys.getD i none).isSome)
    (fun m => { m with keys := m.keys.set i (some (BitVec.ofNat 384 (ofBe (mem.bytes 0x2E00000 48)))) })

/-- FUSE operation 2: a slot is revoked. -/
def fuseRevoke (dom : Dom) (slot : Word) (c : Chip) : Chip :=
  c.fuse dom 2 slot (decide (3 < slot.toNat)) false (fun m => { m with revoked := setBit m.revoked slot.toNat true })

/-- FUSE operation 3: FLOOR is raised, never lowered. -/
def fuseFloor (dom : Dom) (floor : Word) (c : Chip) : Chip :=
  c.fuse dom 3 floor (decide (64 < floor.toNat)) (decide (floor.toNat < c.mgmt.floor)) (fun m => { m with floor := floor.toNat })

/-! ### Stints (R510, R511) -/

/-- When the oldest waiting firmware command of a domain, a WAIT or a TABLE_LOAD, began to wait. -/
def Chip.oldestFw (c : Chip) (dom : Dom) : Option Nat :=
  match (c.waitsOf (domIdx dom)).polls, c.loadsOf (domIdx dom) with
  | p :: _, l :: _ => some (min p.seq l.seq)
  | p :: _, [] => some p.seq
  | [], l :: _ => some l.seq
  | [], [] => none

/-- The domain whose firmware command a core takes next: the two in turn, while they have one that waits (R510). -/
def Chip.fwTurn (c : Chip) : Dom :=
  let due := if c.mgmt.turn = 0 then Dom.owner else Dom.fabric
  let next := if c.mgmt.turn = 0 then Dom.fabric else Dom.owner
  if (c.oldestFw due).isNone then next else due

/-- The oldest waiting firmware command of the domain in turn gets its next stint: a TABLE_LOAD writes entries, a WAIT reads its
register (R510, R591). -/
def Chip.nextFw (rd : Nat → Word) (c : Chip) : Chip :=
  let dom := c.fwTurn
  let turned := c.onMgmt (fun m => { m with turn := 1 - domIdx dom })
  match c.oldestFw dom, c.loadsOf (domIdx dom) with
  | none, _ => c
  | some n, l :: rest => if l.seq = n then (turned.setLoads (domIdx dom) rest).loadStint rd dom l else waitPoll dom turned
  | some _, [] => waitPoll dom turned

/-- STINT_END: a core that ends a stint runs firmware; CC1 to CC3, which the firmware starts itself, show so from their
first one. The core's next work starts its stint (R460, event 0xA002): on CC1 to CC3 the oldest waiting firmware command of the two
domains in turn, if any (R510; log entry 48). -/
def stintEnd (core : Nat) (m : Memory) (c : Chip) : Chip :=
  if c.mgmt.fw = 3 then
    let c := (c.onMgmt (fun m => { m with running := setBit m.running core true })).pmc 24 core 0xA002 none none
    if core = 0 then c else c.nextFw (c.sramWord m)
  else c

/-- STINT_LONG: a stint past 40 µs is counted and raised (R511). -/
def stintLong (core : Nat) (c : Chip) : Chip :=
  if c.mgmt.fw = 3 ∧ core < 4 then (c.bump (ctlR 0x124) 1).raise (ctlR 0) 2 else c

/-- CORE_WATCHDOG: one stint has run for 1 ms; all four cores halt and WATCHDOG is set (R511). -/
def coreWatchdog (core : Nat) (c : Chip) : Chip :=
  if c.mgmt.fw = 3 ∧ core < 4 then (c.haltCores true).raise (ctlR 0) 1 else c

end Sys2Proof.Machine
end

