-- ==== Sys2Proof/Machine/Ras.lean ====
section
/-! DEFINITION. Memory errors, parity reloads and the scrub (R563 to R566). -/
namespace Sys2Proof.Machine

/-- A register of the RAS page. -/
def ras (off : Nat) : Nat := regAddr 24 7 off

/-- A parity error: the island reloads its array from the master (R565). The model keeps copies apart from their master for
the selected banks alone: an island of the die that is late takes every flip that is due. -/
def Chip.reloadBanks (c : Chip) (die : Nat) : Chip :=
  let isls : List Nat :=
    if die < 4 then (List.range 16).map (fun d => 16 * die + d) ++ [64 + die]
    else if die < 8 then [64 + die] else if die = 24 then [72] else []
  c.each (c.jobs.filterMap (fun kv => kv.2.pend.map (fun x => (kv.1, x.1, x.2)))) (fun c j =>
    if j.2.2 ≤ c.time.ft then c.each isls (fun c isl => c.flipIsland isl j.1 j.2.1) else c)

/-- PARITY_RELOAD: array 0 the selected banks, 1 template lengths, 2 RTE_SEAM_W copies, 3 PEG_PORT_OUT copies, 4 the
written-valid bits. -/
def parityReload (array die : Nat) (c : Chip) : Chip :=
  let c := (c.bump (ras 0x10C) 1).raise (ras 0) 2
  if array = 0 then c.reloadBanks die else c

/-- Packet cells: word 31 of a chained cell is its cell link, every other word packet data. What reads the word meets the error; a word
that is not held, or not yet written, is written before it is read (R239, R240, R251). -/
def Chip.hurtCell (c : Chip) (q index : Nat) : Chip :=
  let cell := index / 32
  let link := c.onBuf q (fun b => { b with badLink := cell :: b.badLink.filter (· != cell) })
  match c.stores.find? (fun s => s.q == q && s.cells.contains cell) with
  | some s =>
    match s.byteOf index with
    | some k => if k < s.got || s.tailIn then c.onBuf q (fun b => { b with badData := index :: b.badData.filter (· != index) }) else c
    | none => link
  | none => if index % 32 = 31 ∧ (c.buf q).freeing.any (fun l => l.2.contains cell) then link else c

/-- Hampers: entry `index / 4` of pool `index % 4`, cache first, then the ring from HEAD on, is marked, so that its take check
fails (R251). -/
def Chip.hurtHamper (c : Chip) (q index : Nat) : Chip :=
  let p := index % 4
  let i := index / 4
  let h := (c.buf q).hamper p
  let n := c.ringLen q p
  if i < h.cache.length then
    c.onHamper q p (fun h => { h with cache := upd h.cache i (fun e => { e with bad := true }) })
  else if i - h.cache.length < h.count n then
    let k := ringKey (c.ringBase q p) ((h.head + (i - h.cache.length)) % max n 1)
    c.onBuf q (fun b => { b with ringMem := SMap.set b.ringMem k { SMap.getD b.ringMem k { w := 0 } with bad := true } })
  else c

/-- Tables and barrier counters: the entry is marked bad and counted. Words below 7 × 2^19 are those of the seven tables,
2^18 to a bank; the barrier counters of the quadrant follow. -/
def Chip.hurtTable (c : Chip) (q index : Nat) : Chip :=
  if index < 7 * 2 ^ 19 then
    let t := index / 2 ^ 19
    let k := tblKey q t (bit index 18 && t != 3) (index % 2 ^ 18)
    if index % 2 ^ 18 < tblSize t && !c.badEnt.contains k then Chip.bump { c with badEnt := k :: c.badEnt } (ras 0x120) 1 else c
  else
    let b := 1024 * q + (index - 7 * 2 ^ 19) % 1024
    if (c.bar b).bad then c else (c.onBar b (fun k => { k with bad := true })).bump (ras 0x120) 1

/-- A seam's buffers cannot be read: it enters FAULT (R70). -/
def Chip.hurtSeam (c : Chip) (k : Nat) : Chip := if c.seamFaulted k then c else c.seamFail k

/-- Replay buffers of the 256 ports, then the four seam buffers of a quadrant (R130, R70). -/
def Chip.hurtReplay (c : Chip) (q index : Nat) : Chip :=
  if index < 256 then c.portFault (256 * q + index)
  else
    let i := index % 4
    c.hurtSeam (if i = 3 then 6 + q else quadSeam q ((peers q).getD i 0))

/-- Queue state: the QUE page enters FAULT, and every port of the quadrant goes DOWN and stays so until a QUADRANT reset. -/
def Chip.hurtQueues (c : Chip) (q index : Nat) : Chip :=
  let c := c.pageFault q 0x45
  let c := { c with regs := SMap.set c.regs (scar q 0x45) (BitVec.ofNat 32 (index % 2 ^ 31 + 1)) }
  c.each ((List.range 256).map (· + 256 * q)) (fun c p => c.portDown p)

/-- Press SRAM: item `index / 24` of context `index % 24`, its chunks first, then its retained copies (R364, R365). -/
def Chip.hurtPress (c : Chip) (d index : Nat) : Chip :=
  let x := index % 24
  let y := c.ctx (24 * d + x)
  let i := index / 24
  if i < y.chunks.length then
    c.onCtx (24 * d + x) (fun y => { y with chunks := upd y.chunks i (fun k => if k.done then k else { k with poisoned := true }) })
  else match y.kept[i - y.chunks.length]? with
    | some r => c.revoke d x r
    | none => c

/-- A word of C0's SRAM is bad until it is written whole (R563). -/
def Chip.hurtSram (c : Chip) (w : Nat) : Chip :=
  if 8 * w < sramSize then c.onMgmt (fun m => { m with badSram := w :: m.badSram.filter (· != w) }) else c

/-- A word of a domain's command ring or completion ring cannot be read: the request it belongs to is dropped. Which request that is,
of those with commands there or none of them, is a free value: the spec gives those rings no layout; log entry 66. -/
def Chip.hurtRequests (c : Chip) (d : Nat) (completions : Bool) : Chip :=
  let rs := c.mgmt.reqs.getD d []
  let held := rs.filter (fun r => if completions then !r.done.isEmpty else !r.left.isEmpty)
  let p := c.draw Config.pick
  match held[p.1 % (held.length + 1)]? with
  | none => p.2
  | some r => p.2.onMgmt (fun m => { m with reqs := m.reqs.set d (settleRing true (rs.erase r)) })

/-- A word of an event queue cannot be read: the entry in its slot is dropped and counted (R514, R564). -/
def Chip.hurtEvents (c : Chip) (d slot : Nat) : Chip :=
  let q := c.mgmt.evq.getD d []
  if q.any (·.slot == slot) then
    ((c.onMgmt (fun m => { m with evq := m.evq.set d (q.filter (·.slot != slot)), evLost := upd m.evLost d (· + 1) })).bump
      (ctlR 0x120) 1).raise (ctlR 0) 4
  else c

/-- A word of the dump ring cannot be read: the record in its slot, one from RD to before WR, is dropped and counted, and RD passes it
where it is the oldest (R464, R564). DESIGN CHOICE: a younger one keeps its slot; log entry 66. -/
def Chip.hurtDump (c : Chip) (slot : Nat) : Chip :=
  let n := max c.dumpSlots 1
  let rd := c.reg (dmp 0x11C) % n
  if slot < n ∧ (slot + n - rd) % n < (c.reg (dmp 0x118) + n - rd) % n then
    (if slot = rd then c.setReg (dmp 0x11C) ((rd + 1) % n) else c).bump (dmp 0x148) 1
  else c

/-- Rings and queues in C0 SRAM, by the place of the word (R487): the command and completion rings of both domains, their event queues,
the dump ring, the lint ring. The item that holds the word is dropped, and counted where its ring counts losses (R564). -/
def Chip.hurtRing (c : Chip) (index : Nat) : Chip :=
  let a := 0x2C00000 + 8 * index
  if a < 0x2D00000 then c.hurtRequests (index / 0x8000 % 2) (decide (0x10000 ≤ index))
  else if a < 0x2D08000 then c.hurtEvents ((index - 0x20000) / 0x800) (index % 0x800 / 2)
  else if c.inRing (dmp 0x10C) (dmp 0x110) a 8 then c.hurtDump ((a - c.reg (dmp 0x10C)) / c.recordLen)
  else if c.inRing (lntC 0x110) (lntC 0x114) a 8 then
    let size := max (c.reg (lntC 0x114)) 1
    match c.tele.ring.find? (fun r => decide ((a - c.reg (lntC 0x110) + size - r.1) % size < r.2.1)) with
    | none => c
    | some x =>
      (c.onTele (fun t => { t with
        ring := t.ring.erase x, dropped := t.dropped + 1,
        ringRd := match t.ring.erase x with | r :: _ => r.1 | [] => t.ringWr })).bump (lntC 0x134) 1
  else c

/-- What becomes of an uncorrectable error, by the memory it stands in (R564). A die that holds no such memory has none. -/
def Chip.hurt (c : Chip) (die memory index : Nat) : Chip :=
  if die < 4 then
    match memory with
    | 0 => c.hurtCell die index
    | 1 => c.onBuf die (fun b => { b with badRef := index :: b.badRef.filter (· != index) })
    | 2 => c.hurtHamper die index
    | 3 => c.hurtTable die index
    | 4 => c.hurtReplay die index
    | 5 => c.hurtQueues die index
    | _ => c
  else if die < 8 then
    match memory with
    | 4 => c.hurtSeam (2 + die)
    | 6 => c.hurtPress (die - 4) index
    | 7 =>
      let st := (c.ctx (24 * (die - 4) + index % 24)).st
      if st = 0 ∨ st = 3 then c else c.ctxFail (die - 4) (index % 24)
    | _ => c
  else if die = 24 then
    match memory with
    | 8 => ((c.haltCores true).raise (ctlR 0) 1).hurtSram (index % sramCode9)
    | 9 => (c.hurtRing index).hurtSram (sramCode9 + index)
    | _ => c
  else c

/-- One error that a scrub read finds (R563). The parity arrays, code 10, are reloaded under R565. -/
def Chip.scrubError (c : Chip) (e : ScrubErr) : Chip :=
  if e.memory = 10 then parityReload 0 e.die.val c
  else if !e.uncorrectable then
    let c := c.bump (ras 0x104) 1
    if e.memory = 6 ∧ 4 ≤ e.die.val ∧ e.die.val < 8 then c.pmc e.die.val 8 0x7005 none none else c
  else (c.countUe e.die.val e.memory.val e.index).hurt e.die.val e.memory.val e.index

/-- SCRUB_STINT: while the SCRUB policy runs, a stint reads words and treats what it finds; the last stint of a pass counts
it (R566). -/
def scrubStint (passEnds : Bool) (errors : List ScrubErr) (c : Chip) : Chip :=
  if c.policy 5 then
    let c := c.each errors (fun c e => c.scrubError e)
    if passEnds then Chip.bump { c with rst := { c.rst with scrubAt := c.now, scrubLate := false } } (ras 0x118) 1 else c
  else c

/-- SCRUB_LATE: a pass is not complete within PERIOD; it is counted once (R566). -/
def scrubLate (c : Chip) : Chip :=
  if c.policy 5 ∧ c.rst.scrubLate = false then
    let c := c.till (c.rst.scrubAt + 1000000 * fld (c.reg (ras 0x100)) 13 0)
    Chip.raise (Chip.bump { c with rst := { c.rst with scrubLate := true } } (ras 0x11C) 1) (ras 0) 4
  else c

end Sys2Proof.Machine
end

