-- ==== Sys2Proof/Machine/CmdPages.lean ====
section
/-! DEFINITION. Meanings of the commands: register pages, power-on, resets, memory errors and clocks. -/
namespace Sys2Proof.Machine

/-- What a read of an address would find a register to be. -/
def readDef (a : Nat) : Option (Block × RegDef) :=
  match pageOf (adDie a) (adPage a) with
  | some (b, i) => (regDef b i (adOff a)).map (fun d => (b, d))
  | none => none

/-- An address of a register that a read clears (access type RC). -/
def isRc (a : Nat) : Bool := match readDef a with | some (_, d) => d.rc | none => false

/-- An address of the low half of a 64-bit count. -/
def isLowHalf (a : Nat) : Bool := match readDef a with | some (b, d) => isLow b d (adOff a) | none => false

/-- RST_CMD with GO. -/
def rstWord (kind target : Nat) (grace : Bool) : Nat := 2 ^ 31 + put (b2n grace) 30 + put kind 24 + target

/-- REGISTER_WRITE: A write of a register that has no row of its own stores its fields under the access types, or is
refused under R582 and R580 (R581). -/
def execRegisterWrite (dom : Dom) (addr : Word) (val : Word) (s : State) : Host.Outcome State Fault Refusal :=
  onPart s (fun c => c.write dom addr.toNat val.toNat)

/-- RC_READ: A read of an RC register returns the count and clears it for both domains on the same cycle (R583). -/
def execRcRead (dom : Dom) (addr : Word) (s : State) : Host.Outcome State Fault Refusal :=
  onChip s (fun c => if isRc addr.toNat then c.readOut dom addr.toNat else c)

/-- COUNT_LOW_HALF_READ: A read of the low half of a 64-bit count latches the high half for the reading domain (R11).
-/
def execCountLowHalfRead (dom : Dom) (addr : Word) (s : State) : Host.Outcome State Fault Refusal :=
  onChip s (fun c => if isLowHalf addr.toNat then c.readOut dom addr.toNat else c)

/-- EVT_SET_WRITE: A write of EVT_SET sets the named EVT bits of the page (R577). -/
def execEvtSetWrite (dom : Dom) (page : Word) (val : Word) (s : State) : Host.Outcome State Fault Refusal :=
  onPart s (fun c => c.write dom (pageBase page.toNat + 0x20) val.toNat)

/-- LOCK_WRITE: A write of LOCK sets LOCKED or FABRIC_BLOCK of a page, and is denied when it comes from the fabric
domain (R580). -/
def execLockWrite (dom : Dom) (page : Word) (val : Word) (s : State) : Host.Outcome State Fault Refusal :=
  onPart s (fun c => c.write dom (pageBase page.toNat + 0x34) val.toNat)

/-- CTL_ENABLE: A write of ENABLE in CTL moves the page STATE toward ON or sets PENDING_ENABLE (R553). -/
def execCtlEnable (dom : Dom) (page : Word) (s : State) : Host.Outcome State Fault Refusal :=
  onPart s (fun c => c.write dom (pageBase page.toNat + 0x10) 1)

/-- CTL_DISABLE: A write of DISABLE in CTL moves the page STATE toward OFF or sets PENDING_DISABLE (R553). -/
def execCtlDisable (dom : Dom) (page : Word) (s : State) : Host.Outcome State Fault Refusal :=
  onPart s (fun c => c.write dom (pageBase page.toNat + 0x10) 2)

/-- PAGE_ENABLE_DONE: A page in ENABLING whose needed pages are ON and whose memories are cleared enters ON (R554). -/
def execPageEnableDone (page : Word) (s : State) : Host.Outcome State Fault Refusal :=
  onChip s (Sys2Proof.Machine.pageEnableDone page.toNat)

/-- PAGE_DISABLE_DONE: A page in DISABLING whose dependants are OFF and whose block holds no work enters OFF (R556).
-/
def execPageDisableDone (page : Word) (s : State) : Host.Outcome State Fault Refusal :=
  onChip s (Sys2Proof.Machine.pageDisableDone page.toNat)

/-- POWER_ON: VIN rises to 20.4 V and the sequencer starts bringing up the rails (R548). -/
def execPowerOn (s : State) : Host.Outcome State Fault Refusal :=
  onPart s Sys2Proof.Machine.powerOn

/-- RAIL_SEQUENCE_STEP: Every rail of one sequencer step comes within 6 % of nominal, and the next step starts (R548).
-/
def execRailSequenceStep (s : State) : Host.Outcome State Fault Refusal :=
  onChip s Sys2Proof.Machine.railSequenceStep

/-- REFERENCE_SELECT: One ms after VA becomes valid, the part selects the primary or the backup reference (R549). -/
def execReferenceSelect (primaryGood : Bool) (backupGood : Bool) (s : State) : Host.Outcome State Fault Refusal :=
  onPart s (Sys2Proof.Machine.referenceSelect primaryGood backupGood)

/-- STRAP_SAMPLE: The straps have been stable for 16 samples, and their values are accepted (R40). -/
def execStrapSample (pos : BitVec 3) (side : Bool) (s : State) : Host.Outcome State Fault Refusal :=
  onChip s (Sys2Proof.Machine.strapSample pos.toNat side)

/-- STRAP_CHANGE: A strap changes after sampling; the sampled value is kept and CHANGED is raised (R41). -/
def execStrapChange (pos : BitVec 3) (side : Bool) (s : State) : Host.Outcome State Fault Refusal :=
  onChip s (Sys2Proof.Machine.strapChange pos.toNat side)

/-- BYPASS_RELEASE: The boot ROM releases the thread bypass after the straps are accepted (R550). -/
def execBypassRelease (s : State) : Host.Outcome State Fault Refusal :=
  onChip s Sys2Proof.Machine.bypassRelease

/-- PART_RESET: A PART reset command resets every die except island CP (R558). -/
def execPartReset (dom : Dom) (grace : Bool) (s : State) : Host.Outcome State Fault Refusal :=
  onPart s (fun c => c.write dom (rstR 0x100) (rstWord 1 0 grace))

/-- DATAPATH_RESET: A DATAPATH reset command resets the quadrants, press dies and engines (R558). -/
def execDatapathReset (dom : Dom) (grace : Bool) (s : State) : Host.Outcome State Fault Refusal :=
  onPart s (fun c => c.write dom (rstR 0x100) (rstWord 2 0 grace))

/-- QUADRANT_RESET: A QUADRANT reset command resets the buffer, queues and links of one quadrant (R559). -/
def execQuadrantReset (dom : Dom) (q : Fin 4) (grace : Bool) (s : State) : Host.Outcome State Fault Refusal :=
  onPart s (fun c => c.write dom (rstR 0x100) (rstWord 3 q.val grace))

/-- PRESS_RESET: A PRESS reset command resets one press die (R558). -/
def execPressReset (dom : Dom) (p : Fin 4) (s : State) : Host.Outcome State Fault Refusal :=
  onPart s (fun c => c.write dom (rstR 0x100) (rstWord 4 p.val false))

/-- ENGINE_RESET: An ENGINE reset command resets one optical engine (R558). -/
def execEngineReset (dom : Dom) (e : Fin 16) (s : State) : Host.Outcome State Fault Refusal :=
  onPart s (fun c => c.write dom (rstR 0x100) (rstWord 5 e.val false))

/-- GRACE_END: The ports have left ACTIVE, or GRACE_TIME has passed, so the graceful reset starts (R561). -/
def execGraceEnd (s : State) : Host.Outcome State Fault Refusal :=
  onPart s Sys2Proof.Machine.graceEnd

/-- RESET_DONE: A reset started by RST_CMD completes, and RESET_DONE is raised (R558). -/
def execResetDone (s : State) : Host.Outcome State Fault Refusal :=
  onPart s Sys2Proof.Machine.resetDone

/-- PARITY_RELOAD: A parity error in an array makes the island reload the array from its master (R565). -/
def execParityReload (array : Fin 5) (die : Fin 25) (s : State) : Host.Outcome State Fault Refusal :=
  onChip s (Sys2Proof.Machine.parityReload array.val die.val)

/-- SCRUB_STINT: A firmware stint drives the scrubbers over part of the SRAM (R566). -/
def execScrubStint (passEnds : Bool) (errors : List ScrubErr) (s : State) : Host.Outcome State Fault Refusal :=
  onChip s (Sys2Proof.Machine.scrubStint passEnds errors)

/-- SCRUB_LATE: A scrub pass is not complete within PERIOD and is counted late (R566). -/
def execScrubLate (s : State) : Host.Outcome State Fault Refusal :=
  onChip s Sys2Proof.Machine.scrubLate

/-- CLK_SPREAD_WRITE: A write of CLK_SPREAD ramps the clock spread to the new depth over 1 ms (R567). -/
def execClkSpreadWrite (dom : Dom) (val : Word) (s : State) : Host.Outcome State Fault Refusal :=
  onPart s (fun c => c.write dom (clkR 0x100) val.toNat)

/-- REFERENCE_FAIL: The selected reference fails, and the part switches to the other reference (R568). -/
def execReferenceFail (backup : Bool) (s : State) : Host.Outcome State Fault Refusal :=
  onChip s (Sys2Proof.Machine.referenceFail backup)

/-- FORCE_BACKUP: A write of 1 to FORCE_BACKUP switches to a good backup reference (R568). -/
def execForceBackup (dom : Dom) (s : State) : Host.Outcome State Fault Refusal :=
  onPart s (fun c => c.write dom (clkR 0x104) 0x100)

/-- REFERENCES_LOST: Both references have failed for 1 µs, so the part is placed in PART reset (R569). -/
def execReferencesLost (s : State) : Host.Outcome State Fault Refusal :=
  onPart s Sys2Proof.Machine.referencesLost

/-- REFERENCE_RECOVER: A reference has been good for 1 ms, so the part leaves the held PART reset (R569). -/
def execReferenceRecover (backup : Bool) (s : State) : Host.Outcome State Fault Refusal :=
  onPart s (Sys2Proof.Machine.referenceRecover backup)

/-- RAIL_START_TIMEOUT: A rail is not within 6 % of nominal 2 ms after its sequencer step started, which is a rail
fault (R548). -/
def execRailStartTimeout (rail : Fin 20) (s : State) : Host.Outcome State Fault Refusal :=
  onPart s (Sys2Proof.Machine.railStartTimeout rail.val)

end Sys2Proof.Machine
end

