-- ==== Sys2Proof/Machine/CmdLinks.lean ====
section
/-! DEFINITION. Meanings of the commands: seams, engines, lanes and the link layer. -/
namespace Sys2Proof.Machine

/-- A register of a LNE page. -/
def lneReg (q d off : Nat) : Nat := regAddr q (0x10 + d) off

/-- SEAM_UP: A seam whose SEM pages at both ends are ON finishes training and reads UP (R70). -/
def execSeamUp (k : SeamId) (s : State) : Host.Outcome State Fault Refusal :=
  onChip s (fun c => (seamTrain (seamKey k) c).restall)

/-- SEAM_FAULT: A seam replays one frame 16 times or stays not UP for 10 µs, enters FAULT, and R57 or R58 applies
(R70). -/
def execSeamFault (k : SeamId) (s : State) : Host.Outcome State Fault Refusal :=
  onChip s (Sys2Proof.Machine.seamFault (seamKey k))

/-- OEN_FP_ENABLE_WRITE: A write of OEN_FP_ENABLE opens or closes the gates of fibre pairs (R85). -/
def execOenFpEnableWrite (dom : Dom) (e : Fin 16) (val : Word) (s : State) : Host.Outcome State Fault Refusal :=
  onPart s (fun c => c.write dom (oen e.val 0x100) val.toNat)

/-- LNE_LAYOUT_WRITE: A write of LNE_LAYOUT changes fibre-pair layouts and retrains their lanes, or is refused whole
(R75). -/
def execLneLayoutWrite (dom : Dom) (q : Fin 4) (d : Fin 16) (val : Word) (s : State) : Host.Outcome State Fault Refusal :=
  onPart s (fun c => c.write dom (lneReg q.val d.val 0x100) val.toNat)

/-- LNE_LOOPBACK_WRITE: A write of LNE_LOOPBACK sets or clears a loopback on a fibre pair (R100). -/
def execLneLoopbackWrite (dom : Dom) (q : Fin 4) (d : Fin 16) (val : Word) (s : State) : Host.Outcome State Fault Refusal :=
  onPart s (fun c => c.write dom (lneReg q.val d.val 0x104) val.toNat)

/-- PRBS_ENABLE_WRITE: A write of LNE_PRBS_GEN or LNE_PRBS_CHK enables or disables PRBS generators or checkers (R103).
-/
def execPrbsEnableWrite (dom : Dom) (q : Fin 4) (d : Fin 16) (checker : Bool) (val : Word) (s : State) : Host.Outcome State Fault Refusal :=
  onPart s (fun c => c.write dom (lneReg q.val d.val (if checker then 0x138 else 0x134)) val.toNat)

/-- PRBS_CLEAR: A write of 1 to PRBS_CLEAR clears the window, the error counts and the lock-lost bits of the page
(R106). -/
def execPrbsClear (dom : Dom) (q : Fin 4) (d : Fin 16) (s : State) : Host.Outcome State Fault Refusal :=
  onPart s (fun c => c.write dom (lneReg q.val d.val 0x130) (c.reg (lneReg q.val d.val 0x130) ||| 0x10))

/-- PRBS_PATTERN_WRITE: A change of PATTERN makes the enabled checkers of that fibre pair lose lock and relock (R112).
-/
def execPrbsPatternWrite (dom : Dom) (q : Fin 4) (d : Fin 16) (val : Word) (s : State) : Host.Outcome State Fault Refusal :=
  onPart s (fun c => c.write dom (lneReg q.val d.val 0x130) val.toNat)

/-- OEN_SPARE_MAP_WRITE: A write of OEN_SPARE_MAP assigns or clears spares and retrains the affected wavelengths
(R109). -/
def execOenSpareMapWrite (dom : Dom) (e : Fin 16) (val : Word) (s : State) : Host.Outcome State Fault Refusal :=
  onPart s (fun c => c.write dom (oen e.val 0x10C) val.toNat)

/-- LOS_ENTER: The received power of a lane falls below the LOS threshold, and the lane enters LOS within 1 µs (R87).
-/
def execLosEnter (lane : Fin 2048) (s : State) : Host.Outcome State Fault Refusal :=
  onChip s (Sys2Proof.Machine.losEnter lane.val)

/-- LOS_LEAVE: A lane's power has stayed at or above −12 dBm for 10 µs, and the lane leaves LOS (R87). -/
def execLosLeave (lane : Fin 2048) (s : State) : Host.Outcome State Fault Refusal :=
  onChip s (Sys2Proof.Machine.losLeave lane.val)

/-- SOURCE_FAIL: A primary source's output or bias crosses its limit, it is marked failed, and its wavelength goes
dark (R88). -/
def execSourceFail (e : Fin 16) (src : Fin 10) (s : State) : Host.Outcome State Fault Refusal :=
  onChip s (Sys2Proof.Machine.sourceFail e.val src.val)

/-- DARN_REQUEST_RECEIVE: A darn request arrives in slack blocks, and the two requests are reconciled (R90). -/
def execDarnRequestReceive (port : Fin 1024) (working : BitVec 8) (col : BitVec 16) (s : State) : Host.Outcome State Fault Refusal :=
  onChip s (darnRequest port.val working.toNat col.toNat)

/-- DARN_SWITCH: The agreed column count is reached, the port switches to its new lane set, and mend replays (R90). -/
def execDarnSwitch (port : Fin 1024) (s : State) : Host.Outcome State Fault Refusal :=
  onChip s (Sys2Proof.Machine.darnSwitch port.val)

/-- DARN_TIMEOUT: The peer has not answered a darn request for 20 µs, and the port goes down (R91). -/
def execDarnTimeout (port : Fin 1024) (s : State) : Host.Outcome State Fault Refusal :=
  onChip s (Sys2Proof.Machine.darnTimeout port.val)

/-- DARN_WIDEN: The original lanes have been clean for 1 ms, and a darned port widens again (R92). -/
def execDarnWiden (port : Fin 1024) (s : State) : Host.Outcome State Fault Refusal :=
  onChip s (Sys2Proof.Machine.darnWiden port.val)

/-- SPARE_SUBSTITUTE: The controller assigns a free spare to a failed wavelength (R94). -/
def execSpareSubstitute (e : Fin 16) (w : Fin 8) (s : State) : Host.Outcome State Fault Refusal :=
  onChip s (Sys2Proof.Machine.spareSubstitute e.val w.val)

/-- SPARE_LOCKED: A spare is tuned and connected, and the lanes of its wavelength retrain (R94). -/
def execSpareLocked (e : Fin 16) (spare : Bool) (s : State) : Host.Outcome State Fault Refusal :=
  onChip s (Sys2Proof.Machine.spareLocked e.val (b2n spare))

/-- LANES_TRAINED: Every lane of a port reads active, and the port enters INIT (R143). -/
def execLanesTrained (port : Fin 1024) (s : State) : Host.Outcome State Fault Refusal :=
  onChip s (Sys2Proof.Machine.lanesTrained port.val)

/-- SLACK_INSERT: After 128 data columns the transmitter inserts one slack column (R80). -/
def execSlackInsert (port : Fin 1024) (s : State) : Host.Outcome State Fault Refusal :=
  onChip s (Sys2Proof.Machine.slackInsert port.val)

/-- QUIET_ENTER: A transmitter has been idle for QUIET_DELAY, sends quiet-notice columns, and stops modulating (R96).
-/
def execQuietEnter (port : Fin 1024) (s : State) : Host.Outcome State Fault Refusal :=
  onChip s (Sys2Proof.Machine.quietEnter port.val)

/-- QUIET_ENTRY_ABANDON: A stitch becomes ready during the quiet notice, so the transmitter abandons entry (R97). -/
def execQuietEntryAbandon (port : Fin 1024) (s : State) : Host.Outcome State Fault Refusal :=
  onChip s (quietAbandon port.val)

/-- TACK_START: A stitch becomes ready at a quiet transmitter, and a tack begins (R97). -/
def execTackStart (port : Fin 1024) (s : State) : Host.Outcome State Fault Refusal :=
  onChip s (Sys2Proof.Machine.tackStart port.val)

/-- TACK_END: A tack ends; the receiver has locked, or it requests a repeated tack (R99). -/
def execTackEnd (port : Fin 1024) (locked : Bool) (s : State) : Host.Outcome State Fault Refusal :=
  onChip s (Sys2Proof.Machine.tackEnd port.val locked)

/-- PRBS_LOCK: A checker sees 128 error-free symbols and locks (R104). -/
def execPrbsLock (lane : Fin 2048) (s : State) : Host.Outcome State Fault Refusal :=
  onChip s (prbsLocked lane.val)

/-- PRBS_LOCK_LOST: More than 256 of 1,024 symbols are in error, so the checker loses lock (R104). -/
def execPrbsLockLost (lane : Fin 2048) (bitErrs : Nat) (s : State) : Host.Outcome State Fault Refusal :=
  onChip s (prbsLost lane.val bitErrs)

/-- OPTICAL_POWER_SAMPLE: Every 100 µs the engine samples lane, fibre and source powers (R108). -/
def execOpticalPowerSample (e : Fin 16) (rx : List (BitVec 16)) (tx : List (BitVec 16)) (src : List (BitVec 16)) (s : State) : Host.Outcome State Fault Refusal :=
  onChip s (opticalSample e.val rx tx src)

/-- LINK_FRAME_RECEIVE: A link frame arrives, its CRC and sequence are checked, and its control fields are used
(R126). -/
def execLinkFrameReceive (link : LinkId) (frame : Frame) (fecCorr : List Nat) (uncorr : List Nat) (s : State) : Host.Outcome State Fault Refusal :=
  onChip s (fun c => (frameReceive (linkKey link) frame fecCorr uncorr c).restall)

/-- REPLAY_TIMEOUT: The oldest unacknowledged frame has waited the replay timeout, so the transmitter replays (R129).
-/
def execReplayTimeout (link : LinkId) (s : State) : Host.Outcome State Fault Refusal :=
  onChip s (Sys2Proof.Machine.replayTimeout (linkKey link))

/-- RECOVERY_TIMEOUT: The replay timeout passes in recovery, so the receiver sends one more NAK (R128). -/
def execRecoveryTimeout (link : LinkId) (s : State) : Host.Outcome State Fault Refusal :=
  onChip s (Sys2Proof.Machine.recoveryTimeout (linkKey link))

/-- MEND_FAULT: One DATA frame has been resent 16 times, so the port enters FAULT (R130). -/
def execMendFault (port : Fin 1024) (s : State) : Host.Outcome State Fault Refusal :=
  onChip s (Sys2Proof.Machine.mendFault port.val)

/-- IDLE_FRAME_SEND: No frame has been sent for 500 ns, so the transmitter sends a frame (R131). -/
def execIdleFrameSend (link : LinkId) (s : State) : Host.Outcome State Fault Refusal :=
  onChip s (fun c => (idleSend (linkKey link) c).restall)

/-- INIT_FRAME_SEND: Every 100 ns a port in INIT sends an INIT frame (R140). -/
def execInitFrameSend (port : Fin 1024) (s : State) : Host.Outcome State Fault Refusal :=
  onChip s (fun c => (initSend port.val c).restall)

/-- INIT_FRAME_RECEIVE: An INIT frame arrives and its record is taken (R140). -/
def execInitFrameReceive (port : Fin 1024) (frame : Frame) (s : State) : Host.Outcome State Fault Refusal :=
  onChip s (fun c => (initReceive port.val frame c).restall)

/-- INIT_TIMEOUT: INIT has not completed in 100 µs, so the port returns to DOWN (R140). -/
def execInitTimeout (port : Fin 1024) (s : State) : Host.Outcome State Fault Refusal :=
  onChip s (Sys2Proof.Machine.initTimeout port.val)

/-- LINK_SILENCE_TIMEOUT: No frame with a good CRC has arrived for 2 µs outside the quiet state, so the port goes DOWN
(R143). -/
def execLinkSilenceTimeout (port : Fin 1024) (s : State) : Host.Outcome State Fault Refusal :=
  onChip s (silence port.val)

/-- ADMIT_WRITE: A write of ADMIT in LNK_PORT_CTL admits or withdraws a port (R146). -/
def execAdmitWrite (dom : Dom) (port : Fin 1024) (val : Word) (s : State) : Host.Outcome State Fault Refusal :=
  onPart s (fun c => c.write dom (lnkReg port.val 0x100) val.toNat)

/-- RETRAIN: A write of 1 to RETRAIN takes a port in FAULT to TRAINING (R143). -/
def execRetrain (dom : Dom) (port : Fin 1024) (s : State) : Host.Outcome State Fault Refusal :=
  onPart s (fun c => c.write dom (lnkReg port.val 0x100) (c.reg (lnkReg port.val 0x100) ||| 4))

/-- AUTO_RETRAIN: A port has been in FAULT for 1 ms with AUTO_RETRAIN set, and it retrains (R143). -/
def execAutoRetrain (port : Fin 1024) (s : State) : Host.Outcome State Fault Refusal :=
  onChip s (Sys2Proof.Machine.autoRetrain port.val)

/-- LNK_CREDIT_CFG_WRITE: A write of LNK_CREDIT_CFG sets the credit advertisement that ports use at their next INIT
(R154). -/
def execLnkCreditCfgWrite (dom : Dom) (q : Fin 4) (d : Fin 16) (val : Word) (s : State) : Host.Outcome State Fault Refusal :=
  onPart s (fun c => c.write dom (regAddr q.val (0x20 + d.val) 0x400) val.toNat)

/-- SEAM_UP_LOST: A seam whose pages stay ON stops being UP, becomes unusable under R214, and starts the 10 µs count
toward FAULT (R70). -/
def execSeamUpLost (k : SeamId) (s : State) : Host.Outcome State Fault Refusal :=
  onChip s (seamLost (seamKey k))

end Sys2Proof.Machine
end

