-- ==== Sys2Proof/Machine/CmdPackets.lean ====
section
/-! DEFINITION. Meanings of the commands: packets, tables, the shared buffer, queues and windows. -/
namespace Sys2Proof.Machine

/-- A table command: GO, and WRITE as the command has it (R226). -/
def goWord (v : Nat) (wr : Bool) : Nat := 2 ^ 31 + setBit (v % 2 ^ 31) 30 wr

/-- PACKET_HEAD_ARRIVE: A packet head arrives at a port, is checked, and is resolved to output ports and a seam path
(R201). Port `i` of island QnDd. -/
def execPacketHeadArrive (q : Fin 4) (d i : Fin 16) (vc : Fin 10) (s : State) : Host.Outcome State Fault Refusal :=
  onChip s (fun c => (headArrive (portAt q d i).val vc.val c).restall)

/-- PACKET_TAIL_ARRIVE: A packet's tail arrives, its seal is checked, and the packet is stomped or discarded when the
seal fails (R149). -/
def execPacketTailArrive (q : Fin 4) (d i : Fin 16) (vc : Fin 10) (s : State) : Host.Outcome State Fault Refusal :=
  onChip s (fun c => (tailArrive (portAt q d i).val vc.val c).restall)

/-- SEAM_COPY_ARRIVE: A packet or a multicast copy arrives over a seam and is queued or replicated in the destination
quadrant (R219). -/
def execSeamCopyArrive (rx : LinkId) (vc : Fin 10) (s : State) : Host.Outcome State Fault Refusal :=
  onChip s (fun c => (seamArrive (linkKey rx) vc.val c).restall)

/-- COPY_TAIL_SENT: A port copy's tail leaves its port, and its reference ends (R242). At most `frames` DATA frames leave. -/
def execCopyTailSent (link : LinkId) (vc : Fin 10) (frames : Nat) (s : State) : Host.Outcome State Fault Refusal :=
  onChip s (fun c => (Sys2Proof.Machine.copyTailSent (linkKey link) vc.val frames c).restall)

/-- MEND_PROBE_ANSWER: A MEND_PROBE is received and answered with MEND_PROBE_RSP on the same link (R170): the one with this AUX
and payload. -/
def execMendProbeAnswer (port : Fin 1024) (aux : BitVec 24) (payload : List Byte) (s : State) : Host.Outcome State Fault Refusal :=
  onChip s (probeAnswer port.val aux.toNat payload)

/-- TACK_REQ_ANSWER: A TACK_REQ is received and answered with TACK_ACK on the same link (R171). -/
def execTackReqAnswer (port : Fin 1024) (s : State) : Host.Outcome State Fault Refusal :=
  onChip s (tackAnswer port.val)

/-- C0_INJECT: C0 hands a packet that it originates to a quadrant through the injection path (R206). -/
def execC0Inject (s : State) : Host.Outcome State Fault Refusal :=
  onChip s (fun c => (Sys2Proof.Machine.c0Inject c).restall)

/-- TABLE_READ: A TBL_CMD read command of EDG, RTE, PEG or MCG fills the data registers from an entry (R226). -/
def execTableRead (dom : Dom) (addr : Word) (cmd : Word) (s : State) : Host.Outcome State Fault Refusal :=
  onPart s (fun c => if tblIndexBits addr.toNat = some 20 then c.write dom addr.toNat (goWord cmd.toNat false) else c)

/-- TABLE_WRITE: A TBL_CMD write command writes an entry, or refuses it for value or use (R226). -/
def execTableWrite (dom : Dom) (addr : Word) (cmd : Word) (s : State) : Host.Outcome State Fault Refusal :=
  onPart s (fun c => if tblIndexBits addr.toNat = some 20 then c.write dom addr.toNat (goWord cmd.toNat true) else c)

/-- PEG_PORT_OUT_CLEAR: A write of 1 clears an out bit, and the buckets of that member return to it (R211). -/
def execPegPortOutClear (dom : Dom) (q : Fin 4) (i : Fin 8) (val : Word) (s : State) : Host.Outcome State Fault Refusal :=
  onPart s (fun c => c.write dom (regAddr q.val 0x42 (0x200 + 4 * i.val)) val.toNat)

/-- PEG_RETURN: A port has been ACTIVE for RETURN_DELAY with AUTO_RETURN set, so its out bit clears (R211). -/
def execPegReturn (port : Fin 1024) (s : State) : Host.Outcome State Fault Refusal :=
  onChip s (Sys2Proof.Machine.pegReturn port.val)

/-- RTE_SEAM_W_WRITE: A write of RTE_SEAM_W changes the seam path weights, which must total 256 (R215). -/
def execRteSeamWWrite (dom : Dom) (q : Fin 4) (i : Fin 3) (val : Word) (s : State) : Host.Outcome State Fault Refusal :=
  onPart s (fun c => c.write dom (regAddr q.val 0x41 (0x210 + 4 * i.val)) val.toNat)

/-- POOL0_WAIT_RESUME: A pool-0 buffer is freed, and stitches waiting in the ingress island are stored (R237). -/
def execPool0WaitResume (q : Fin 4) (s : State) : Host.Outcome State Fault Refusal :=
  onChip s (fun c => (pool0Resume q.val c).restall)

/-- CHAIN_CELL_TAKE: The cell finder finds a FREE cell and stores the next part of a chained packet (R238). -/
def execChainCellTake (q : Fin 4) (s : State) : Host.Outcome State Fault Refusal :=
  onChip s (fun c => (Sys2Proof.Machine.chainCellTake q.val c).restall)

/-- CHAIN_FREE_CELL: One cell of a chain is freed along its link on a QB cycle (R244). -/
def execChainFreeCell (q : Fin 4) (s : State) : Host.Outcome State Fault Refusal :=
  onChip s (fun c => (chainFree q.val c).restall)

/-- HAMPER_REFILL: A cache below CACHE_LOW pops up to 128 handles from its ring (R249). -/
def execHamperRefill (q : Fin 4) (pool : Fin 4) (s : State) : Host.Outcome State Fault Refusal :=
  onChip s (Sys2Proof.Machine.hamperRefill q.val pool.val)

/-- HAMPER_SPILL: A cache above CACHE_HIGH spills its 128 oldest handles to its ring (R249). -/
def execHamperSpill (q : Fin 4) (pool : Fin 4) (s : State) : Host.Outcome State Fault Refusal :=
  onChip s (Sys2Proof.Machine.hamperSpill q.val pool.val)

/-- BUF_MODE_WRITE: A write of MODE switches between chained-cell mode and pool mode within 1 µs (R260). -/
def execBufModeWrite (dom : Dom) (q : Fin 4) (val : Word) (s : State) : Host.Outcome State Fault Refusal :=
  onPart s (fun c => c.write dom (bufPage q.val + 0x100) val.toNat)

/-- BUF_LAYOUT_WRITE: A write of a pool or ring layout register is accepted in chained-cell mode and clears BUILT
(R257). -/
def execBufLayoutWrite (dom : Dom) (q : Fin 4) (off : BitVec 12) (val : Word) (s : State) : Host.Outcome State Fault Refusal :=
  onPart s (fun c => if within off.toNat 0x110 0x14F then c.write dom (bufPage q.val + off.toNat) val.toNat else c)

/-- REBUILD: A write of 1 to REBUILD starts rebuilding the hampers from the reference store (R261). -/
def execRebuild (dom : Dom) (q : Fin 4) (s : State) : Host.Outcome State Fault Refusal :=
  onPart s (fun c => c.write dom (bufPage q.val + 0x100) (c.reg (bufPage q.val + 0x100) ||| 0x10))

/-- REBUILD_DONE: The rebuild has visited every unit, so BUILT is set and REBUILD_DONE is raised (R261). -/
def execRebuildDone (q : Fin 4) (s : State) : Host.Outcome State Fault Refusal :=
  onChip s (fun c => (rebuildFinish q.val c).restall)

/-- BUF_MOVE: A write of GO in BUF_MOVE starts a pool boundary move (R258). -/
def execBufMove (dom : Dom) (q : Fin 4) (val : Word) (s : State) : Host.Outcome State Fault Refusal :=
  onPart s (fun c => c.write dom (bufPage q.val + 0x1B0) val.toNat)

/-- MOVE_DONE: Every cell of the moving region is FREE, so the boundary is written and new units are pushed (R259). -/
def execMoveDone (q : Fin 4) (s : State) : Host.Outcome State Fault Refusal :=
  onChip s (fun c => (Sys2Proof.Machine.moveDone q.val c).restall)

/-- AUTO_REBUILD: The controller rebuilds the hampers after BUF_HANDLE_ERR or BUF_HAMPER_DROP rises (R263). -/
def execAutoRebuild (q : Fin 4) (s : State) : Host.Outcome State Fault Refusal :=
  onChip s (Sys2Proof.Machine.autoRebuild q.val)

/-- POOL_BALANCE: The controller moves a pool boundary when holds or spills rise (R259). -/
def execPoolBalance (q : Fin 4) (boundary : Fin 3) (delta : Int) (s : State) : Host.Outcome State Fault Refusal :=
  onChip s (Sys2Proof.Machine.poolBalance q.val (boundary.val + 1) delta)

/-- TC3_GATE_CHANGE: The TC3 admission gate follows a change of TC3_ADMIT or TC3_HOLD within 1 µs (R272). -/
def execTc3GateChange (q : Fin 4) (s : State) : Host.Outcome State Fault Refusal :=
  onChip s (gateChange q.val)

/-- ENTRY_AGED: An entry whose head has not left reaches its age limit and is discarded whole (R278). -/
def execEntryAged (link : LinkId) (vc : Fin 10) (index : Nat) (s : State) : Host.Outcome State Fault Refusal :=
  onChip s (fun c => (Sys2Proof.Machine.entryAged (linkKey link) vc.val index c).restall)

/-- ENTRY_AGED_STOMP: An entry whose head has left ages; it is completed with zeros and tail code STOMPED (R279). -/
def execEntryAgedStomp (link : LinkId) (vc : Fin 10) (s : State) : Host.Outcome State Fault Refusal :=
  onChip s (fun c => (Sys2Proof.Machine.entryAgedStomp (linkKey link) vc.val c).restall)

/-- QUE_AGE_LIMIT_WRITE: A write of QUE_AGE_LIMIT applies to every entry from the next cycle (R281). -/
def execQueAgeLimitWrite (dom : Dom) (q : Fin 4) (tc : Fin 4) (val : Word) (s : State) : Host.Outcome State Fault Refusal :=
  onPart s (fun c => c.write dom (quePage q.val + 0x110 + 4 * tc.val) val.toNat)

/-- WINDOW_EPOCH_START: A tick of period P_E starts a new epoch count of an edge window (R286). -/
def execWindowEpochStart (port : Fin 1024) (tc : Fin 4) (s : State) : Host.Outcome State Fault Refusal :=
  onChip s (epochStart port.val tc.val)

/-- WINDOW_EPOCH_EXPIRE: An epoch reaches 16 × P_E, and its count leaves OUT_t and is added to WIN_EXPIRED (R286). -/
def execWindowEpochExpire (port : Fin 1024) (tc : Fin 4) (s : State) : Host.Outcome State Fault Refusal :=
  onChip s (epochExpire port.val tc.val)

/-- WIN_EXPIRE_WRITE: A write of WIN_EXPIRE changes the epoch period from the next cycle (R286). -/
def execWinExpireWrite (dom : Dom) (q : Fin 4) (d : Fin 16) (val : Word) (s : State) : Host.Outcome State Fault Refusal :=
  onPart s (fun c => c.write dom (regAddr q.val (0x30 + d.val) 0x300) val.toNat)

/-- WIN_LIMIT_WRITE: A write of WIN_LIMIT opens or closes a window at once (R288). -/
def execWinLimitWrite (dom : Dom) (q : Fin 4) (d : Fin 16) (i : Fin 64) (val : Word) (s : State) : Host.Outcome State Fault Refusal :=
  onPart s (fun c => c.write dom (regAddr q.val (0x30 + d.val) (0x100 + 4 * i.val)) val.toNat)

/-- HEAD_GRANT: The scheduler grants an output virtual channel to the head of a queue entry, and the packet starts to
leave the port or seam (R269). -/
def execHeadGrant (link : LinkId) (vc : Fin 10) (s : State) : Host.Outcome State Fault Refusal :=
  onChip s (fun c => (Sys2Proof.Machine.headGrant (linkKey link) vc.val c).restall)

end Sys2Proof.Machine
end

