-- ==== Sys2Proof/Machine/CmdPress.lean ====
section
/-! DEFINITION. Meanings of the commands: collectives, barriers, time and banks. -/
namespace Sys2Proof.Machine

/-- COL_CTX_CMD with GO. -/
def ctxWord (cmd ctx : Nat) (bank : Bool) : Nat := 2 ^ 31 + put cmd 24 + put (b2n bank) 8 + ctx

/-- BNK_CMD with GO. -/
def bnkWord (cmd job : Nat) (bank : Bool) : Nat := 2 ^ 31 + put cmd 24 + put (b2n bank) 20 + job

/-- An address of a register that is banked with the job's selection (access type RWB). -/
def isRwb (a : Nat) : Bool :=
  match pageOf ((windowDies a).headD 0) (adPage a) with
  | some (b, i) => (match regDef b i (adOff a) with | some d => d.rwb | none => false)
  | none => false

/-- BANK_FLIP: An island's fabric time reaches a scheduled swap time, and the island flips the job's bank (R64). -/
def execBankFlip (island : Island) (job : BitVec 12) (s : State) : Host.Outcome State Fault Refusal :=
  onChip s (Sys2Proof.Machine.bankFlip (islandKey island) job.toNat)

/-- CONTRIBUTION_TAKE: A contribution's tail is stored in the press, and the contribution is taken into its chunk or
discarded (R351). -/
def execContributionTake (die : Fin 4) (s : State) : Host.Outcome State Fault Refusal :=
  onChip s (Sys2Proof.Machine.contributionTake die.val)

/-- CHUNK_LATE: A chunk stays OPEN for CONTRIB_TIMEOUT, becomes late, and a NOTICE of KIND 0x0002 is sent (R357). -/
def execChunkLate (die : Fin 4) (ctx : Fin 24) (chunk : BitVec 24) (s : State) : Host.Outcome State Fault Refusal :=
  onChip s (Sys2Proof.Machine.chunkLate die.val ctx.val chunk.toNat)

/-- LATE_NOTICE_REPEAT: While a chunk stays late, a further NOTICE is sent 1 ms after the previous one (R357). -/
def execLateNoticeRepeat (die : Fin 4) (ctx : Fin 24) (s : State) : Host.Outcome State Fault Refusal :=
  onChip s (lateRepeat die.val ctx.val)

/-- RETAIN_EXPIRE: A retained copy reaches RETAIN_TIME and is freed (R358). -/
def execRetainExpire (die : Fin 4) (ctx : Fin 24) (gen : BitVec 2) (chunk : BitVec 24) (s : State) : Host.Outcome State Fault Refusal :=
  onChip s (Sys2Proof.Machine.retainExpire die.val ctx.val gen.toNat chunk.toNat)

/-- RESEND_REQ_ROOT: A root receives RESEND_REQ and resends the retained copy, or counts a miss (R359). -/
def execResendReqRoot (read : RootRead) (s : State) : Host.Outcome State Fault Refusal :=
  onChip s (resendRoot read.die.val read.bad)

/-- RESEND_REQ_RELAY: A non-root context relays a RESEND_REQ to its parent (R361). -/
def execResendReqRelay (die : Fin 4) (s : State) : Host.Outcome State Fault Refusal :=
  onChip s (resendRelay die.val)

/-- CTX_START: A START command puts an IDLE context ON with FLOOR set to RESUME (R370). -/
def execCtxStart (dom : Dom) (die : Fin 4) (ctx : Fin 24) (s : State) : Host.Outcome State Fault Refusal :=
  onPart s (fun c => c.write dom (col die.val 0x180) (ctxWord 1 ctx.val false))

/-- CTX_STOP: A STOP command moves an ON context to STOPPING (R370). -/
def execCtxStop (dom : Dom) (die : Fin 4) (ctx : Fin 24) (s : State) : Host.Outcome State Fault Refusal :=
  onPart s (fun c => c.write dom (col die.val 0x180) (ctxWord 2 ctx.val false))

/-- CTX_CLEAR: A CLEAR command moves a FAILED context to IDLE (R370). -/
def execCtxClear (dom : Dom) (die : Fin 4) (ctx : Fin 24) (s : State) : Host.Outcome State Fault Refusal :=
  onPart s (fun c => c.write dom (col die.val 0x180) (ctxWord 4 ctx.val false))

/-- CTX_CHECK: A CHECK command applies R348 to one bank's template and reports the result (R370). -/
def execCtxCheck (dom : Dom) (die : Fin 4) (ctx : Fin 24) (bank : Bool) (s : State) : Host.Outcome State Fault Refusal :=
  onPart s (fun c => c.write dom (col die.val 0x180) (ctxWord 3 ctx.val bank))

/-- CTX_STOP_DONE: A stopping context has discarded its chunks and copies and enters IDLE (R369). -/
def execCtxStopDone (die : Fin 4) (ctx : Fin 24) (s : State) : Host.Outcome State Fault Refusal :=
  onChip s (Sys2Proof.Machine.ctxStopDone die.val ctx.val)

/-- COL_TABLE_READ: A COL_TBL_CMD read command fills the data registers from a slot or member entry (R371). -/
def execColTableRead (dom : Dom) (die : Fin 4) (cmd : Word) (s : State) : Host.Outcome State Fault Refusal :=
  onPart s (fun c => c.write dom (col die.val 0x100) (goWord cmd.toNat false))

/-- COL_TABLE_WRITE: A COL_TBL_CMD write command writes a slot or member entry, or refuses it (R371). -/
def execColTableWrite (dom : Dom) (die : Fin 4) (cmd : Word) (s : State) : Host.Outcome State Fault Refusal :=
  onPart s (fun c => c.write dom (col die.val 0x100) (goWord cmd.toNat true))

/-- PRS_CTX_MODE_WRITE: A write of PRS_CTX_MODE sets a context's arithmetic, or is refused for a bad combination
(R300). -/
def execPrsCtxModeWrite (dom : Dom) (die : Fin 4) (ctx : Fin 24) (val : Word) (s : State) : Host.Outcome State Fault Refusal :=
  onPart s (fun c => c.write dom (prs die.val (0x200 + 4 * ctx.val)) val.toNat)

/-- RWB_WRITE: A write of an RWB template register goes to the shadow bank or to READ_BANK, unless that bank is in use
(R408). -/
def execRwbWrite (dom : Dom) (addr : Word) (val : Word) (s : State) : Host.Outcome State Fault Refusal :=
  onPart s (fun c => if isRwb addr.toNat then c.write dom addr.toNat val.toNat else c)

/-- PRS_CTX_JOB_WRITE: A write of PRS_CTX_JOB sets the context's job for both banks while the context is IDLE (R402).
-/
def execPrsCtxJobWrite (dom : Dom) (die : Fin 4) (ctx : Fin 24) (val : Word) (s : State) : Host.Outcome State Fault Refusal :=
  onPart s (fun c => c.write dom (prs die.val (0x41C + 0x20 * ctx.val)) val.toNat)

/-- BARRIER_ARRIVE_TAKE: A barrier arrival or a drained report reaches its counter and is combined (R378). -/
def execBarrierArriveTake (q : Fin 4) (s : State) : Host.Outcome State Fault Refusal :=
  onChip s (Sys2Proof.Machine.barrierArriveTake q.val)

/-- BARRIER_RELEASE_RECEIVE: A counter in WAIT takes a release from its parent and forwards it down (R381). -/
def execBarrierReleaseReceive (q : Fin 4) (s : State) : Host.Outcome State Fault Refusal :=
  onChip s (Sys2Proof.Machine.barrierReleaseReceive q.val)

/-- BARRIER_LATE: A counter stays in COLLECT or WAIT for SYN_BAR_TIMEOUT and becomes late (R385). -/
def execBarrierLate (b : BitVec 12) (s : State) : Host.Outcome State Fault Refusal :=
  onChip s (Sys2Proof.Machine.barrierLate b.toNat)

/-- SYN_TABLE_READ: A SYN_TBL_CMD read command fills the data registers from a barrier counter (R400). -/
def execSynTableRead (dom : Dom) (q : Fin 4) (cmd : Word) (s : State) : Host.Outcome State Fault Refusal :=
  onPart s (fun c => c.write dom (synQ q.val 0x100) (goWord cmd.toNat false))

/-- SYN_TABLE_WRITE: A SYN_TBL_CMD write command configures a counter and resets its runtime state (R386). -/
def execSynTableWrite (dom : Dom) (q : Fin 4) (cmd : Word) (s : State) : Host.Outcome State Fault Refusal :=
  onPart s (fun c => c.write dom (synQ q.val 0x100) (goWord cmd.toNat true))

/-- TIME_SYNC_SEND: Every PERIOD a time root or a LOCKED follower sends TIME_SYNC on its downstream ports (R393). -/
def execTimeSyncSend (s : State) : Host.Outcome State Fault Refusal :=
  onChip s Sys2Proof.Machine.timeSyncSend

/-- TIME_SYNC_RECEIVE: A follower takes a TIME_SYNC, forms the offset, and slews its time (R394). -/
def execTimeSyncReceive (s : State) : Host.Outcome State Fault Refusal :=
  onChip s Sys2Proof.Machine.timeSyncReceive

/-- TIME_HOLDOVER: No TIME_SYNC has been taken for 10 × PERIOD, so the follower enters HOLDOVER (R397). -/
def execTimeHoldover (s : State) : Host.Outcome State Fault Refusal :=
  onChip s Sys2Proof.Machine.timeHoldover

/-- SYN_TIME_SET_GO: A write of 1 to SYN_TIME_SET_GO loads fabric time on a time root (R392). -/
def execSynTimeSetGo (dom : Dom) (s : State) : Host.Outcome State Fault Refusal :=
  onPart s (fun c => c.write dom (synC 0x3A0) 1)

/-- SET: A SET command places an idle job in a bank (R404). -/
def execSet (dom : Dom) (job : BitVec 12) (bank : Bool) (s : State) : Host.Outcome State Fault Refusal :=
  onPart s (fun c => c.write dom (bnk 0x100) (bnkWord 1 job.toNat bank))

/-- SET_IDLE: A SET_IDLE command applies SET to every job that meets its conditions (R404). -/
def execSetIdle (dom : Dom) (bank : Bool) (s : State) : Host.Outcome State Fault Refusal :=
  onPart s (fun c => c.write dom (bnk 0x100) (bnkWord 4 0 bank))

/-- RINSE: A RINSE command starts holding the job at the edge ports and running drain rounds (R411). -/
def execRinse (dom : Dom) (job : BitVec 12) (s : State) : Host.Outcome State Fault Refusal :=
  onPart s (fun c => c.write dom (bnk 0x100) (bnkWord 2 job.toNat false))

/-- ABORT: An ABORT command ends hold and ends the rinse without a flip (R417). -/
def execAbort (dom : Dom) (job : BitVec 12) (s : State) : Host.Outcome State Fault Refusal :=
  onPart s (fun c => c.write dom (bnk 0x100) (bnkWord 3 job.toNat false))

/-- HOLD_EFFECTIVE: Hold takes effect in every edge island, and round 1 begins (R412). -/
def execHoldEffective (job : BitVec 12) (s : State) : Host.Outcome State Fault Refusal :=
  onChip s (Sys2Proof.Machine.holdEffective job.toNat)

/-- DRAINED_REPORT: D(j) is 0 in a round, and the sequencer places a drained report on the drain counter (R413). -/
def execDrainedReport (job : BitVec 12) (s : State) : Host.Outcome State Fault Refusal :=
  onChip s (Sys2Proof.Machine.drainedReport job.toNat)

/-- DRAINED_REPORT_REPEAT: The round's release has not arrived after 5 µs, so the same report is repeated (R413). -/
def execDrainedReportRepeat (job : BitVec 12) (s : State) : Host.Outcome State Fault Refusal :=
  onChip s (drainedRepeat job.toNat)

/-- SWAP_ARRIVAL_REPEAT: The swap release has not arrived after 5 µs, so the swap arrival is repeated (R414). -/
def execSwapArrivalRepeat (job : BitVec 12) (s : State) : Host.Outcome State Fault Refusal :=
  onChip s (swapRepeat job.toNat)

/-- HELD_PACKET_AGED: A packet held by a rinse reaches its age limit and is discarded (R412). -/
def execHeldPacketAged (port : Fin 1024) (vc : Fin 10) (s : State) : Host.Outcome State Fault Refusal :=
  onChip s (heldAged port.val vc.val)

/-- RINSE_LATE: A rinse has not ended after BNK_RINSE_LIMIT and is counted late (R417). -/
def execRinseLate (job : BitVec 12) (s : State) : Host.Outcome State Fault Refusal :=
  onChip s (Sys2Proof.Machine.rinseLate job.toNat)

end Sys2Proof.Machine
end

