-- ==== Sys2Proof/Machine/CmdTwin.lean ====
section
/-! DEFINITION. Meanings of the commands: the twin unit, telemetry and the check-value engine. -/
namespace Sys2Proof.Machine

/-- An address in a PMC page, its offset at least `lo` and below `hi`. -/
def isPmc (a lo hi : Nat) : Bool :=
  lo ≤ adOff a && adOff a < hi &&
    (match pageOf ((windowDies a).headD 0) (adPage a) with | some (.pmc, _) => true | _ => false)

/-- TWN_CTL_WRITE: A write of TWN_CTL turns twin mode on or off and changes the role (R430). -/
def execTwnCtlWrite (dom : Dom) (val : Word) (s : State) : Host.Outcome State Fault Refusal :=
  onPart s (fun c => c.write dom (twn 0x100) val.toNat)

/-- TWN_LINK_WRITE: A write of TWN_LINK names the twin link, and is refused while EN is 1 (R422). -/
def execTwnLinkWrite (dom : Dom) (val : Word) (s : State) : Host.Outcome State Fault Refusal :=
  onPart s (fun c => c.write dom (twn 0x104) val.toNat)

/-- TWIN_BEAT_SEND: Every 1 µs the twin unit sends a beat record on the twin link (R426). -/
def execTwinBeatSend (s : State) : Host.Outcome State Fault Refusal :=
  onChip s Sys2Proof.Machine.twinBeatSend

/-- INBAND_BEAT_SEND: Every 4 µs the twin unit sends a beat record in-band through the relay pair (R426). -/
def execInbandBeatSend (s : State) : Host.Outcome State Fault Refusal :=
  onChip s Sys2Proof.Machine.inbandBeatSend

/-- TWIN_BEAT_RECEIVE: A beat record is taken from the peer and may change the role (R428). -/
def execTwinBeatReceive (s : State) : Host.Outcome State Fault Refusal :=
  onChip s Sys2Proof.Machine.twinBeatReceive

/-- INBAND_BEAT_RECEIVE: A MGMT_REQ of code 0x7B01 is handled by the twin unit, either relayed or taken (R427). -/
def execInbandBeatReceive (s : State) : Host.Outcome State Fault Refusal :=
  onChip s Sys2Proof.Machine.inbandBeatReceive

/-- LEASE_EXPIRE: No beat has been taken for LEASE, so a standby promotes or an active part enters PARTITION (R430).
-/
def execLeaseExpire (s : State) : Host.Outcome State Fault Refusal :=
  onChip s Sys2Proof.Machine.leaseExpire

/-- PARTITION_NOTICE_REPEAT: While PARTITION lasts, a twin NOTICE is sent every 1 ms (R432). -/
def execPartitionNoticeRepeat (s : State) : Host.Outcome State Fault Refusal :=
  onChip s partitionRepeat

/-- PATH_STALE: No beat has been taken on a path for 14 µs, so its PATHS bit clears and a path-change event is sent
(R441). -/
def execPathStale (path : Bool) (s : State) : Host.Outcome State Fault Refusal :=
  onChip s (Sys2Proof.Machine.pathStale (b2n path))

/-- TWIN_DIGEST_SEND: Every 1 µs the part sends a TWIN_DIGEST over the twin link (R437). -/
def execTwinDigestSend (s : State) : Host.Outcome State Fault Refusal :=
  onChip s Sys2Proof.Machine.twinDigestSend

/-- TWIN_DIGEST_RECEIVE: A peer digest is compared with this part's own, chunk by chunk and port by port (R438). -/
def execTwinDigestReceive (s : State) : Host.Outcome State Fault Refusal :=
  onChip s Sys2Proof.Machine.twinDigestReceive

/-- FENCE_ACT: A side-A part acts on a fence decision 2 µs later, unless the peer is fenced (R439). -/
def execFenceAct (s : State) : Host.Outcome State Fault Refusal :=
  onChip s Sys2Proof.Machine.fenceAct

/-- FENCE_ADMIT_CLEAR: The fenced part's NOTICE has left, or 2 µs have passed, so ADMIT clears on every port but the
twin link (R439). -/
def execFenceAdmitClear (s : State) : Host.Outcome State Fault Refusal :=
  onChip s Sys2Proof.Machine.fenceAdmitClear

/-- DIGEST_ENTRY_EXPIRE: A chunk entry is still unsent or unmatched after DIGEST_HOLD and is removed or counted
(R437). -/
def execDigestEntryExpire (s : State) : Host.Outcome State Fault Refusal :=
  onChip s digestExpire

/-- UNFENCE: An UNFENCE command takes a fenced part to SYNCING or STANDBY (R430). -/
def execUnfence (dom : Dom) (s : State) : Host.Outcome State Fault Refusal :=
  onPart s (fun c => c.write dom (twn 0x120) (2 ^ 31 + put 1 24))

/-- RESYNC: A RESYNC command starts a resynchronisation from the active peer (R445). -/
def execResync (dom : Dom) (s : State) : Host.Outcome State Fault Refusal :=
  onPart s (fun c => c.write dom (twn 0x120) (2 ^ 31 + put 2 24))

/-- RELINQUISH: A RELINQUISH command moves the active part to STANDBY (R430). -/
def execRelinquish (dom : Dom) (s : State) : Host.Outcome State Fault Refusal :=
  onPart s (fun c => c.write dom (twn 0x120) (2 ^ 31 + put 3 24))

/-- TWIN_RESYNC_RECEIVE: A TWIN_RESYNC packet is received; its records are applied and END completes the resync
(R444). -/
def execTwinResyncReceive (s : State) : Host.Outcome State Fault Refusal :=
  onChip s Sys2Proof.Machine.twinResyncReceive

/-- RESYNC_GAP_TIMEOUT: No TWIN_RESYNC has arrived for 1 ms, so the resync fails (R444). -/
def execResyncGapTimeout (s : State) : Host.Outcome State Fault Refusal :=
  onChip s resyncGap

/-- RESYNC_TAIL_END: One ms after END, the active part stops sending written items (R444). -/
def execResyncTailEnd (s : State) : Host.Outcome State Fault Refusal :=
  onChip s Sys2Proof.Machine.resyncTailEnd

/-- CGM_SAMPLE: On each 1 µs tick the mapper grades the occupancy and credit stall of every output (R448). -/
def execCgmSample (q : Fin 4) (cycles : Nat) (s : State) : Host.Outcome State Fault Refusal :=
  onChip s (Sys2Proof.Machine.cgmSample q.val cycles)

/-- MAP_WINDOW_END: A map window ends, and the held levels are cleared (R450). -/
def execMapWindowEnd (s : State) : Host.Outcome State Fault Refusal :=
  onChip s Sys2Proof.Machine.mapWindowEnd

/-- MAP_PUBLISH: C0 sends the MAP of an ended window, or counts a gap (R451). -/
def execMapPublish (s : State) : Host.Outcome State Fault Refusal :=
  onChip s Sys2Proof.Machine.mapPublish

/-- PMC_EVT_WRITE: A write of PMC_EVT selects a counter's event, or is refused (R456). -/
def execPmcEvtWrite (dom : Dom) (addr : Word) (val : Word) (s : State) : Host.Outcome State Fault Refusal :=
  onPart s (fun c => if isPmc addr.toNat 0x200 0x400 then c.write dom addr.toNat val.toNat else c)

/-- PMC_CFG_WRITE: A write of PMC_CFG sets EN, MODE, CHAIN and SUBSEL of a counter (R457). -/
def execPmcCfgWrite (dom : Dom) (addr : Word) (val : Word) (s : State) : Host.Outcome State Fault Refusal :=
  onPart s (fun c => if isPmc addr.toNat 0x400 0x600 then c.write dom addr.toNat val.toNat else c)

/-- PMC_VAL_WRITE: A write of PMC_VAL loads a counter whose EN is 0 (R459). -/
def execPmcValWrite (dom : Dom) (addr : Word) (val : Word) (s : State) : Host.Outcome State Fault Refusal :=
  onPart s (fun c => if isPmc addr.toNat 0x800 0xC00 then c.write dom addr.toNat val.toNat else c)

/-- PMC_FREEZE: A write of 1 to FREEZE clears EN of every counter of the page (R459). -/
def execPmcFreeze (dom : Dom) (page : Word) (s : State) : Host.Outcome State Fault Refusal :=
  onPart s (fun c => if isPmc page.toNat 0 0x1000 then c.write dom (pageBase page.toNat + 0x100) 1 else c)

/-- PMC_CLEAR: A write of 1 to CLEAR zeroes every counter of the page (R459). -/
def execPmcClear (dom : Dom) (page : Word) (s : State) : Host.Outcome State Fault Refusal :=
  onPart s (fun c => if isPmc page.toNat 0 0x1000 then c.write dom (pageBase page.toNat + 0x100) 2 else c)

/-- PMC_WRAP: A counter wraps, sets its PMC_OVF bit, or carries into its chain (R458). -/
def execPmcWrap (page : Word) (i : Fin 128) (s : State) : Host.Outcome State Fault Refusal :=
  onChip s (Sys2Proof.Machine.pmcWrap (pageBase page.toNat) i.val)

/-- DUMP_CAPTURE: On a dump tick, every selected island copies its counters into PMC_SNAP (R461). -/
def execDumpCapture (s : State) : Host.Outcome State Fault Refusal :=
  onChip s Sys2Proof.Machine.dumpCapture

/-- DUMP_RECORD_WRITTEN: A dump record has been assembled and written into the dump ring (R462). -/
def execDumpRecordWritten (s : State) : Host.Outcome State Fault Refusal :=
  .next (dumpWritten s)

/-- DMP_RING_RD_WRITE: A write of DMP_RING_RD consumes dump records (R464). -/
def execDmpRingRdWrite (dom : Dom) (val : Word) (s : State) : Host.Outcome State Fault Refusal :=
  onPart s (fun c => c.write dom (dmp 0x11C) val.toNat)

/-- LINT_TAKE: A tap's countdown reaches 0, and the matching packet is taken (R468). -/
def execLintTake (q : Fin 4) (tap : Nat) (s : State) : Host.Outcome State Fault Refusal :=
  onChip s (Sys2Proof.Machine.lintTake q.val tap)

/-- LINT_RECORD_COMPLETE: A taken packet's tail passes the tap, and its record enters the lint queue (R469). -/
def execLintRecordComplete (q : Fin 4) (tap : Nat) (s : State) : Host.Outcome State Fault Refusal :=
  onChip s (lintComplete q.val tap)

/-- LINT_RING_WRITE: C0 writes a lint record into the lint ring, or drops it (R471). -/
def execLintRingWrite (q : Fin 4) (s : State) : Host.Outcome State Fault Refusal :=
  .next (Sys2Proof.Machine.lintRingWrite q.val s)

/-- LINT_BATCH_SEND: The forwarder sends a batch of lint records when it is full or BATCH_WAIT has passed (R472). -/
def execLintBatchSend (s : State) : Host.Outcome State Fault Refusal :=
  .next (Sys2Proof.Machine.lintBatchSend s)

/-- CVE_START: A START command loads a channel's STATE from INIT (R476). -/
def execCveStart (dom : Dom) (ch : Fin 32) (fold : Bool) (s : State) : Host.Outcome State Fault Refusal :=
  onPart s (fun c => c.write dom (cve ch.val 0x2C) (1 + 2 * b2n fold))

/-- CVE_FOLD: A FOLD command XORs the shifted seed into STATE (R476). -/
def execCveFold (dom : Dom) (ch : Fin 32) (s : State) : Host.Outcome State Fault Refusal :=
  onPart s (fun c => c.write dom (cve ch.val 0x2C) 2)

/-- CVE_FEED_B: A write of CVE_FEED_B feeds one byte into a channel (R480). -/
def execCveFeedB (dom : Dom) (ch : Fin 32) (val : Word) (s : State) : Host.Outcome State Fault Refusal :=
  onPart s (fun c => c.write dom (cve ch.val 0x20) val.toNat)

/-- CVE_FEED_H: A write of CVE_FEED_H feeds two bytes into a channel (R480). -/
def execCveFeedH (dom : Dom) (ch : Fin 32) (val : Word) (s : State) : Host.Outcome State Fault Refusal :=
  onPart s (fun c => c.write dom (cve ch.val 0x24) val.toNat)

/-- CVE_FEED_W: A write of CVE_FEED_W feeds four bytes into a channel (R480). -/
def execCveFeedW (dom : Dom) (ch : Fin 32) (val : Word) (s : State) : Host.Outcome State Fault Refusal :=
  onPart s (fun c => c.write dom (cve ch.val 0x28) val.toNat)

/-- CVE_STATE_WRITE: A write of CVE_STATE loads STATE exactly as written (R483). -/
def execCveStateWrite (dom : Dom) (ch : Fin 32) (hi : Bool) (val : Word) (s : State) : Host.Outcome State Fault Refusal :=
  onPart s (fun c => c.write dom (cve ch.val (if hi then 0x34 else 0x30)) val.toNat)

/-- CVE_STATE_READ: A read of CVE_STATE or CVE_RESULT waits for every earlier write to the channel (R481). -/
def execCveStateRead (dom : Dom) (ch : Fin 32) (off : BitVec 12) (s : State) : Host.Outcome State Fault Refusal :=
  onChip s (fun c => if within off.toNat 0x30 0x3C then c.readOut dom (cve ch.val off.toNat) else c)

/-- CVE_SETTING_WRITE: A write of CVE_POLY, CVE_INIT, CVE_XOROUT or CVE_CFG changes the settings, or is refused
(R478). -/
def execCveSettingWrite (dom : Dom) (ch : Fin 32) (off : BitVec 12) (val : Word) (s : State) : Host.Outcome State Fault Refusal :=
  onPart s (fun c => if off.toNat ≤ 0x1C then c.write dom (cve ch.val off.toNat) val.toNat else c)

/-- RESYNC_END_SEND: The active part has sent every item of R442 and sends END, which starts its 1 ms tail (R444). -/
def execResyncEndSend (s : State) : Host.Outcome State Fault Refusal :=
  onChip s Sys2Proof.Machine.resyncEndSend

end Sys2Proof.Machine
end

