-- ==== Sys2Proof/Machine/CmdMgmt.lean ====
section
/-! DEFINITION. Meanings of the commands: the thread, management requests, firmware and events. -/
namespace Sys2Proof.Machine

/-- THREAD_FRAME_RECEIVE: A thread frame is stored and checked, then taken, forwarded or discarded (R492). -/
def execThreadFrameReceive (bytes : List Byte) (s : State) : Host.Outcome State Fault Refusal :=
  onChip s (threadReceive bytes)

/-- HELLO_SEND: A part without an address sends a HELLO every 1 ms (R494). -/
def execHelloSend (s : State) : Host.Outcome State Fault Refusal :=
  onChip s Sys2Proof.Machine.helloSend

/-- MGMT_REQUEST: A management request arrives by thread or in-band and is checked, queued or answered (R503). -/
def execMgmtRequest (s : State) : Host.Outcome State Fault Refusal :=
  onChip s Sys2Proof.Machine.mgmtRequest

/-- MGMT_RESPONSE: The last command of a request completes, and its response is sent (R509). -/
def execMgmtResponse (dom : Dom) (s : State) : Host.Outcome State Fault Refusal :=
  onChip s (Sys2Proof.Machine.mgmtResponse dom)

/-- READ: A READ command reads 1 to 64 registers (R590). -/
def execRead (dom : Dom) (addr : Word) (count : Nat) (s : State) : Host.Outcome State Fault Refusal :=
  onChip s (Sys2Proof.Machine.read dom addr count)

/-- WRITE: A WRITE command writes 1 to 64 registers, possibly through a broadcast window (R590). -/
def execWrite (dom : Dom) (addr : Word) (vals : List Word) (s : State) : Host.Outcome State Fault Refusal :=
  onPart s (Sys2Proof.Machine.write dom addr vals)

/-- MODIFY: A MODIFY command atomically reads, masks and writes one register (R504). -/
def execModify (dom : Dom) (addr : Word) (mask : Word) (val : Word) (s : State) : Host.Outcome State Fault Refusal :=
  onPart s (Sys2Proof.Machine.modify dom addr mask val)

/-- WAIT: A WAIT command starts polling a register for a masked value (R591). -/
def execWait (dom : Dom) (addr : Word) (mask : Word) (val : Word) (timeout : Nat) (s : State) : Host.Outcome State Fault Refusal :=
  onChip s (Sys2Proof.Machine.wait dom addr mask val timeout)

/-- WAIT_POLL: A WAIT re-reads its register; it completes on a match or at TIMEOUT (R591). -/
def execWaitPoll (dom : Dom) (s : State) : Host.Outcome State Fault Refusal :=
  onChip s (Sys2Proof.Machine.waitPoll dom)

/-- MEM_READ: A MEM_READ command returns words of C0 SRAM (R504). -/
def execMemRead (dom : Dom) (off : Word) (len : Nat) (s : State) : Host.Outcome State Fault Refusal :=
  .next (Sys2Proof.Machine.memRead dom off len s)

/-- MEM_WRITE: A MEM_WRITE command writes words into allowed regions of C0 SRAM (R487). -/
def execMemWrite (dom : Dom) (off : Word) (words : List Word) (s : State) : Host.Outcome State Fault Refusal :=
  .next (Sys2Proof.Machine.memWrite dom off words s)

/-- TABLE_LOAD: A TABLE_LOAD command writes table entries from staging, one per TBL_CMD (R592). -/
def execTableLoad (dom : Dom) (addr : Word) (source : Word) (first : Nat) (count : Nat) (cmd : Word) (words : Nat) (s : State) : Host.Outcome State Fault Refusal :=
  onPart s (Sys2Proof.Machine.tableLoad dom addr source first count cmd words s)

/-- EVENT_WAIT: An EVENT_WAIT command returns queued event entries, or waits up to TIMEOUT for the first (R515). -/
def execEventWait (dom : Dom) (timeout : Nat) (s : State) : Host.Outcome State Fault Refusal :=
  onChip s (Sys2Proof.Machine.eventWait dom timeout)

/-- EVENT_WAIT_TIMEOUT: An EVENT_WAIT reaches its TIMEOUT with no entry queued and completes (R515). -/
def execEventWaitTimeout (dom : Dom) (s : State) : Host.Outcome State Fault Refusal :=
  onChip s (Sys2Proof.Machine.eventWaitTimeout dom)

/-- IDENT: An IDENT command returns the part's ENUM record and firmware status (R504). -/
def execIdent (dom : Dom) (s : State) : Host.Outcome State Fault Refusal :=
  onChip s (Sys2Proof.Machine.ident dom)

/-- FW_START: An FW_START command starts checking the image in SRAM (R500). -/
def execFwStart (dom : Dom) (s : State) : Host.Outcome State Fault Refusal :=
  onChip s (Sys2Proof.Machine.fwStart dom)

/-- FW_START_DONE: The image checks finish; the image starts or FW_STATE becomes FAILED (R500). -/
def execFwStartDone (s : State) : Host.Outcome State Fault Refusal :=
  onChip s (Sys2Proof.Machine.fwStartDone s.sram)

/-- FUSE_PROGRAM: FUSE operation 1 programs a key slot from staging (R499). -/
def execFuseProgram (dom : Dom) (slot : Word) (s : State) : Host.Outcome State Fault Refusal :=
  onChip s (Sys2Proof.Machine.fuseProgram dom slot s.sram)

/-- FUSE_REVOKE: FUSE operation 2 revokes a key slot (R499). -/
def execFuseRevoke (dom : Dom) (slot : Word) (s : State) : Host.Outcome State Fault Refusal :=
  onChip s (Sys2Proof.Machine.fuseRevoke dom slot)

/-- FUSE_FLOOR: FUSE operation 3 raises FLOOR (R499). -/
def execFuseFloor (dom : Dom) (floor : Word) (s : State) : Host.Outcome State Fault Refusal :=
  onChip s (Sys2Proof.Machine.fuseFloor dom floor)

/-- STINT_END: A firmware stint ends, and the core takes the next due work (R510). -/
def execStintEnd (core : Fin 4) (s : State) : Host.Outcome State Fault Refusal :=
  onChip s (Sys2Proof.Machine.stintEnd core.val s.sram)

/-- STINT_LONG: A stint runs past 40 µs and is counted (R511). -/
def execStintLong (core : Fin 4) (s : State) : Host.Outcome State Fault Refusal :=
  onChip s (Sys2Proof.Machine.stintLong core.val)

/-- CORE_WATCHDOG: A stint has run for 1 ms, so all cores halt and WATCHDOG is set (R511). -/
def execCoreWatchdog (core : Fin 4) (s : State) : Host.Outcome State Fault Refusal :=
  onChip s (Sys2Proof.Machine.coreWatchdog core.val)

/-- HALT: A write of 1 to HALT stops the cores at the end of their stints (R512). -/
def execHalt (dom : Dom) (s : State) : Host.Outcome State Fault Refusal :=
  onPart s (fun c => c.write dom (ctlR 0x10C) 0x100)

/-- RUN: A write of 1 to RUN resumes the halted cores and clears WATCHDOG (R512). -/
def execRun (dom : Dom) (s : State) : Host.Outcome State Fault Refusal :=
  onPart s (fun c => c.write dom (ctlR 0x10C) 0x200)

/-- RESTART: A write of 1 to RESTART re-runs FW_START on the image held in SRAM (R512). -/
def execRestart (dom : Dom) (s : State) : Host.Outcome State Fault Refusal :=
  onPart s (fun c => c.write dom (ctlR 0x10C) 0x400)

/-- EVENT_FRAME_SEND: The owner's queued event entries leave over the thread in an EVENT frame (R515). -/
def execEventFrameSend (s : State) : Host.Outcome State Fault Refusal :=
  onChip s Sys2Proof.Machine.eventFrameSend

/-- CTL_POLICY_WRITE: A write of CTL_POLICY stops or resumes default policies (R517). -/
def execCtlPolicyWrite (dom : Dom) (val : Word) (s : State) : Host.Outcome State Fault Refusal :=
  onPart s (fun c => c.write dom (ctlR 0x108) val.toNat)

end Sys2Proof.Machine
end

