-- ==== Sys2Proof/Machine/CmdPower.lean ====
section
/-! DEFINITION. Meanings of the commands: power and cooling. -/
namespace Sys2Proof.Machine

/-- POWER_SAMPLE: On each 1 µs tick the governor compares the input power sample with the limit and moves T (R527). -/
def execPowerSample (vinMv : Nat) (iinMa : Nat) (s : State) : Host.Outcome State Fault Refusal :=
  onChip s (Sys2Proof.Machine.powerSample vinMv iinMa)

/-- LIMIT_STEP_DOWN: On a 10 µs tick, LIMIT_NOW steps down toward a lower CAP (R528). -/
def execLimitStepDown (s : State) : Host.Outcome State Fault Refusal :=
  onChip s Sys2Proof.Machine.limitStepDown

/-- LIMIT_STEP_UP: On a 10 µs tick, the POWER_STEP policy steps LIMIT_NOW up toward CAP (R529). -/
def execLimitStepUp (s : State) : Host.Outcome State Fault Refusal :=
  onChip s Sys2Proof.Machine.limitStepUp

/-- PWR_CAP_WRITE: A write of PWR_CAP sets CAP and brakes when CAP lies below its reach (R530). -/
def execPwrCapWrite (dom : Dom) (val : Word) (s : State) : Host.Outcome State Fault Refusal :=
  onPart s (fun c => c.write dom (pwr 0x100) val.toNat)

/-- PWR_LIMIT_NOW_WRITE: A write of PWR_LIMIT_NOW raises the limit, or is refused (R529). -/
def execPwrLimitNowWrite (dom : Dom) (val : Word) (s : State) : Host.Outcome State Fault Refusal :=
  onPart s (fun c => c.write dom (pwr 0x104) val.toNat)

/-- BRAKE_END: The last brake cause ends, and the climb back starts (R533). -/
def execBrakeEnd (s : State) : Host.Outcome State Fault Refusal :=
  onChip s Sys2Proof.Machine.brakeEnd

/-- VIN_HIGH_ENTER: VIN stays between 27.6 V and 29.0 V for 10 µs, so HIGH is set (R522). -/
def execVinHighEnter (s : State) : Host.Outcome State Fault Refusal :=
  onChip s Sys2Proof.Machine.vinHighEnter

/-- VIN_HIGH_LEAVE: VIN stays at or below 27.4 V for 100 µs, so HIGH is cleared (R522). -/
def execVinHighLeave (s : State) : Host.Outcome State Fault Refusal :=
  onChip s Sys2Proof.Machine.vinHighLeave

/-- VIN_LOW_ENTER: VIN falls below 21.6 V for more than 1 µs, which starts brake cause VIN (R531). -/
def execVinLowEnter (s : State) : Host.Outcome State Fault Refusal :=
  onChip s Sys2Proof.Machine.vinLowEnter

/-- VIN_LOW_RECOVER: VIN stays at or above 22.0 V for 100 µs, which ends brake cause VIN (R531). -/
def execVinLowRecover (s : State) : Host.Outcome State Fault Refusal :=
  onChip s Sys2Proof.Machine.vinLowRecover

/-- INPUT_WARN: VIN stays below 21.0 V for 1 µs, so the input warning comes into force (R535). -/
def execInputWarn (s : State) : Host.Outcome State Fault Refusal :=
  onChip s Sys2Proof.Machine.inputWarn

/-- INPUT_WARN_END: VIN stays at or above 21.6 V for 1 ms, and the warning ends (R522). -/
def execInputWarnEnd (s : State) : Host.Outcome State Fault Refusal :=
  onChip s Sys2Proof.Machine.inputWarnEnd

/-- VIN_SHUTDOWN_BAND: VIN stays above 29.0 V, or between 17.0 V and 19.0 V, for 10 µs, which starts a shutdown
(R522). -/
def execVinShutdownBand (_high : Bool) (s : State) : Host.Outcome State Fault Refusal :=
  onChip s Sys2Proof.Machine.vinShutdownBand

/-- VIN_OFF: VIN falls below 17.0 V, and every rail is off (R522). -/
def execVinOff (s : State) : Host.Outcome State Fault Refusal :=
  onPart s Sys2Proof.Machine.vinOff

/-- RAIL_FAULT: A rail is out of tolerance or over current for 5 µs; it is turned off and a shutdown starts (R521). -/
def execRailFault (rail : Fin 20) (s : State) : Host.Outcome State Fault Refusal :=
  onChip s (Sys2Proof.Machine.railFault rail.val)

/-- SHUTDOWN_STAGE: A timed stage of the shutdown sequence acts: ports, gates, rails, C0 reset and bypass (R536). -/
def execShutdownStage (s : State) : Host.Outcome State Fault Refusal :=
  onPart s Sys2Proof.Machine.shutdownStage

/-- THERMAL_READ: Every 10 µs each sensor is read and the hottest reading is formed (R539). -/
def execThermalRead (readings : List (Option Int)) (s : State) : Host.Outcome State Fault Refusal :=
  onChip s (Sys2Proof.Machine.thermalRead readings)

/-- THROTTLE_FLOOR_RISE: Every 100 µs at or above THROTTLE_C, T_TH rises by 1 (R541). -/
def execThrottleFloorRise (s : State) : Host.Outcome State Fault Refusal :=
  onChip s floorRise

/-- THROTTLE_FLOOR_FALL: Every 1 ms below THROTTLE_C − 2 °C, T_TH falls by 1 (R541). -/
def execThrottleFloorFall (s : State) : Host.Outcome State Fault Refusal :=
  onChip s floorFall

/-- THERMAL_SHUTDOWN: A sensor stays at or above 110 °C for 100 µs, which starts an orderly shutdown (R542). -/
def execThermalShutdown (sensor : Fin 180) (s : State) : Host.Outcome State Fault Refusal :=
  onChip s (Sys2Proof.Machine.thermalShutdown sensor.val)

/-- DIE_HOT_SHUTDOWN: A die has been counted hot for 10 ms, which starts an orderly shutdown (R544). -/
def execDieHotShutdown (die : Fin 25) (s : State) : Host.Outcome State Fault Refusal :=
  onChip s (Sys2Proof.Machine.dieHotShutdown die.val)

/-- TRIP_SENSOR: A trip sensor reaches 118 °C, and every rail turns off at once (R545). -/
def execTripSensor (_sensor : Fin 25) (s : State) : Host.Outcome State Fault Refusal :=
  onPart s Sys2Proof.Machine.tripSensor

end Sys2Proof.Machine
end

