-- ==== Sys2Proof/Machine/Dispatch.lean ====
section
/-! DEFINITION. The commands and their meanings, one arm per row of the opcode table. -/
namespace Sys2Proof.Machine

def exec (i : Instr) (s : State) : Host.Outcome State Fault Refusal :=
  match i with
  | .registerWrite dom addr val => Sys2Proof.Machine.execRegisterWrite dom addr val s
  | .rcRead dom addr => Sys2Proof.Machine.execRcRead dom addr s
  | .countLowHalfRead dom addr => Sys2Proof.Machine.execCountLowHalfRead dom addr s
  | .evtSetWrite dom page val => Sys2Proof.Machine.execEvtSetWrite dom page val s
  | .lockWrite dom page val => Sys2Proof.Machine.execLockWrite dom page val s
  | .ctlEnable dom page => Sys2Proof.Machine.execCtlEnable dom page s
  | .ctlDisable dom page => Sys2Proof.Machine.execCtlDisable dom page s
  | .pageEnableDone page => Sys2Proof.Machine.execPageEnableDone page s
  | .pageDisableDone page => Sys2Proof.Machine.execPageDisableDone page s
  | .powerOn => Sys2Proof.Machine.execPowerOn s
  | .railSequenceStep => Sys2Proof.Machine.execRailSequenceStep s
  | .referenceSelect primaryGood backupGood => Sys2Proof.Machine.execReferenceSelect primaryGood backupGood s
  | .strapSample pos side => Sys2Proof.Machine.execStrapSample pos side s
  | .strapChange pos side => Sys2Proof.Machine.execStrapChange pos side s
  | .bypassRelease => Sys2Proof.Machine.execBypassRelease s
  | .seamUp k => Sys2Proof.Machine.execSeamUp k s
  | .seamFault k => Sys2Proof.Machine.execSeamFault k s
  | .bankFlip island job => Sys2Proof.Machine.execBankFlip island job s
  | .oenFpEnableWrite dom e val => Sys2Proof.Machine.execOenFpEnableWrite dom e val s
  | .lneLayoutWrite dom q d val => Sys2Proof.Machine.execLneLayoutWrite dom q d val s
  | .lneLoopbackWrite dom q d val => Sys2Proof.Machine.execLneLoopbackWrite dom q d val s
  | .prbsEnableWrite dom q d checker val => Sys2Proof.Machine.execPrbsEnableWrite dom q d checker val s
  | .prbsClear dom q d => Sys2Proof.Machine.execPrbsClear dom q d s
  | .prbsPatternWrite dom q d val => Sys2Proof.Machine.execPrbsPatternWrite dom q d val s
  | .oenSpareMapWrite dom e val => Sys2Proof.Machine.execOenSpareMapWrite dom e val s
  | .losEnter lane => Sys2Proof.Machine.execLosEnter lane s
  | .losLeave lane => Sys2Proof.Machine.execLosLeave lane s
  | .sourceFail e src => Sys2Proof.Machine.execSourceFail e src s
  | .darnRequestReceive port working col => Sys2Proof.Machine.execDarnRequestReceive port working col s
  | .darnSwitch port => Sys2Proof.Machine.execDarnSwitch port s
  | .darnTimeout port => Sys2Proof.Machine.execDarnTimeout port s
  | .darnWiden port => Sys2Proof.Machine.execDarnWiden port s
  | .spareSubstitute e w => Sys2Proof.Machine.execSpareSubstitute e w s
  | .spareLocked e spare => Sys2Proof.Machine.execSpareLocked e spare s
  | .lanesTrained port => Sys2Proof.Machine.execLanesTrained port s
  | .slackInsert port => Sys2Proof.Machine.execSlackInsert port s
  | .quietEnter port => Sys2Proof.Machine.execQuietEnter port s
  | .quietEntryAbandon port => Sys2Proof.Machine.execQuietEntryAbandon port s
  | .tackStart port => Sys2Proof.Machine.execTackStart port s
  | .tackEnd port locked => Sys2Proof.Machine.execTackEnd port locked s
  | .prbsLock lane => Sys2Proof.Machine.execPrbsLock lane s
  | .prbsLockLost lane bitErrs => Sys2Proof.Machine.execPrbsLockLost lane bitErrs s
  | .opticalPowerSample e rx tx src => Sys2Proof.Machine.execOpticalPowerSample e rx tx src s
  | .linkFrameReceive link frame fecCorr uncorr => Sys2Proof.Machine.execLinkFrameReceive link frame fecCorr uncorr s
  | .replayTimeout link => Sys2Proof.Machine.execReplayTimeout link s
  | .recoveryTimeout link => Sys2Proof.Machine.execRecoveryTimeout link s
  | .mendFault port => Sys2Proof.Machine.execMendFault port s
  | .idleFrameSend link => Sys2Proof.Machine.execIdleFrameSend link s
  | .initFrameSend port => Sys2Proof.Machine.execInitFrameSend port s
  | .initFrameReceive port frame => Sys2Proof.Machine.execInitFrameReceive port frame s
  | .initTimeout port => Sys2Proof.Machine.execInitTimeout port s
  | .linkSilenceTimeout port => Sys2Proof.Machine.execLinkSilenceTimeout port s
  | .admitWrite dom port val => Sys2Proof.Machine.execAdmitWrite dom port val s
  | .retrain dom port => Sys2Proof.Machine.execRetrain dom port s
  | .autoRetrain port => Sys2Proof.Machine.execAutoRetrain port s
  | .lnkCreditCfgWrite dom q d val => Sys2Proof.Machine.execLnkCreditCfgWrite dom q d val s
  | .packetHeadArrive q d ix vc => Sys2Proof.Machine.execPacketHeadArrive q d ix vc s
  | .packetTailArrive q d ix vc => Sys2Proof.Machine.execPacketTailArrive q d ix vc s
  | .seamCopyArrive rx vc => Sys2Proof.Machine.execSeamCopyArrive rx vc s
  | .copyTailSent link vc frames => Sys2Proof.Machine.execCopyTailSent link vc frames s
  | .mendProbeAnswer port aux payload => Sys2Proof.Machine.execMendProbeAnswer port aux payload s
  | .tackReqAnswer port => Sys2Proof.Machine.execTackReqAnswer port s
  | .c0Inject => Sys2Proof.Machine.execC0Inject s
  | .tableRead dom addr cmd => Sys2Proof.Machine.execTableRead dom addr cmd s
  | .tableWrite dom addr cmd => Sys2Proof.Machine.execTableWrite dom addr cmd s
  | .pegPortOutClear dom q ix val => Sys2Proof.Machine.execPegPortOutClear dom q ix val s
  | .pegReturn port => Sys2Proof.Machine.execPegReturn port s
  | .rteSeamWWrite dom q ix val => Sys2Proof.Machine.execRteSeamWWrite dom q ix val s
  | .pool0WaitResume q => Sys2Proof.Machine.execPool0WaitResume q s
  | .chainCellTake q => Sys2Proof.Machine.execChainCellTake q s
  | .chainFreeCell q => Sys2Proof.Machine.execChainFreeCell q s
  | .hamperRefill q pool => Sys2Proof.Machine.execHamperRefill q pool s
  | .hamperSpill q pool => Sys2Proof.Machine.execHamperSpill q pool s
  | .bufModeWrite dom q val => Sys2Proof.Machine.execBufModeWrite dom q val s
  | .bufLayoutWrite dom q off val => Sys2Proof.Machine.execBufLayoutWrite dom q off val s
  | .rebuild dom q => Sys2Proof.Machine.execRebuild dom q s
  | .rebuildDone q => Sys2Proof.Machine.execRebuildDone q s
  | .bufMove dom q val => Sys2Proof.Machine.execBufMove dom q val s
  | .moveDone q => Sys2Proof.Machine.execMoveDone q s
  | .autoRebuild q => Sys2Proof.Machine.execAutoRebuild q s
  | .poolBalance q boundary delta => Sys2Proof.Machine.execPoolBalance q boundary delta s
  | .tc3GateChange q => Sys2Proof.Machine.execTc3GateChange q s
  | .entryAged link vc index => Sys2Proof.Machine.execEntryAged link vc index s
  | .entryAgedStomp link vc => Sys2Proof.Machine.execEntryAgedStomp link vc s
  | .queAgeLimitWrite dom q tc val => Sys2Proof.Machine.execQueAgeLimitWrite dom q tc val s
  | .windowEpochStart port tc => Sys2Proof.Machine.execWindowEpochStart port tc s
  | .windowEpochExpire port tc => Sys2Proof.Machine.execWindowEpochExpire port tc s
  | .winExpireWrite dom q d val => Sys2Proof.Machine.execWinExpireWrite dom q d val s
  | .winLimitWrite dom q d ix val => Sys2Proof.Machine.execWinLimitWrite dom q d ix val s
  | .contributionTake die => Sys2Proof.Machine.execContributionTake die s
  | .chunkLate die ctx chunk => Sys2Proof.Machine.execChunkLate die ctx chunk s
  | .lateNoticeRepeat die ctx => Sys2Proof.Machine.execLateNoticeRepeat die ctx s
  | .retainExpire die ctx gen chunk => Sys2Proof.Machine.execRetainExpire die ctx gen chunk s
  | .resendReqRoot read => Sys2Proof.Machine.execResendReqRoot read s
  | .resendReqRelay die => Sys2Proof.Machine.execResendReqRelay die s
  | .ctxStart dom die ctx => Sys2Proof.Machine.execCtxStart dom die ctx s
  | .ctxStop dom die ctx => Sys2Proof.Machine.execCtxStop dom die ctx s
  | .ctxClear dom die ctx => Sys2Proof.Machine.execCtxClear dom die ctx s
  | .ctxCheck dom die ctx bank => Sys2Proof.Machine.execCtxCheck dom die ctx bank s
  | .ctxStopDone die ctx => Sys2Proof.Machine.execCtxStopDone die ctx s
  | .colTableRead dom die cmd => Sys2Proof.Machine.execColTableRead dom die cmd s
  | .colTableWrite dom die cmd => Sys2Proof.Machine.execColTableWrite dom die cmd s
  | .prsCtxModeWrite dom die ctx val => Sys2Proof.Machine.execPrsCtxModeWrite dom die ctx val s
  | .rwbWrite dom addr val => Sys2Proof.Machine.execRwbWrite dom addr val s
  | .prsCtxJobWrite dom die ctx val => Sys2Proof.Machine.execPrsCtxJobWrite dom die ctx val s
  | .barrierArriveTake q => Sys2Proof.Machine.execBarrierArriveTake q s
  | .barrierReleaseReceive q => Sys2Proof.Machine.execBarrierReleaseReceive q s
  | .barrierLate b => Sys2Proof.Machine.execBarrierLate b s
  | .synTableRead dom q cmd => Sys2Proof.Machine.execSynTableRead dom q cmd s
  | .synTableWrite dom q cmd => Sys2Proof.Machine.execSynTableWrite dom q cmd s
  | .timeSyncSend => Sys2Proof.Machine.execTimeSyncSend s
  | .timeSyncReceive => Sys2Proof.Machine.execTimeSyncReceive s
  | .timeHoldover => Sys2Proof.Machine.execTimeHoldover s
  | .synTimeSetGo dom => Sys2Proof.Machine.execSynTimeSetGo dom s
  | .set dom job bank => Sys2Proof.Machine.execSet dom job bank s
  | .setIdle dom bank => Sys2Proof.Machine.execSetIdle dom bank s
  | .rinse dom job => Sys2Proof.Machine.execRinse dom job s
  | .abort dom job => Sys2Proof.Machine.execAbort dom job s
  | .holdEffective job => Sys2Proof.Machine.execHoldEffective job s
  | .drainedReport job => Sys2Proof.Machine.execDrainedReport job s
  | .drainedReportRepeat job => Sys2Proof.Machine.execDrainedReportRepeat job s
  | .swapArrivalRepeat job => Sys2Proof.Machine.execSwapArrivalRepeat job s
  | .heldPacketAged port vc => Sys2Proof.Machine.execHeldPacketAged port vc s
  | .rinseLate job => Sys2Proof.Machine.execRinseLate job s
  | .twnCtlWrite dom val => Sys2Proof.Machine.execTwnCtlWrite dom val s
  | .twnLinkWrite dom val => Sys2Proof.Machine.execTwnLinkWrite dom val s
  | .twinBeatSend => Sys2Proof.Machine.execTwinBeatSend s
  | .inbandBeatSend => Sys2Proof.Machine.execInbandBeatSend s
  | .twinBeatReceive => Sys2Proof.Machine.execTwinBeatReceive s
  | .inbandBeatReceive => Sys2Proof.Machine.execInbandBeatReceive s
  | .leaseExpire => Sys2Proof.Machine.execLeaseExpire s
  | .partitionNoticeRepeat => Sys2Proof.Machine.execPartitionNoticeRepeat s
  | .pathStale path => Sys2Proof.Machine.execPathStale path s
  | .twinDigestSend => Sys2Proof.Machine.execTwinDigestSend s
  | .twinDigestReceive => Sys2Proof.Machine.execTwinDigestReceive s
  | .fenceAct => Sys2Proof.Machine.execFenceAct s
  | .fenceAdmitClear => Sys2Proof.Machine.execFenceAdmitClear s
  | .digestEntryExpire => Sys2Proof.Machine.execDigestEntryExpire s
  | .unfence dom => Sys2Proof.Machine.execUnfence dom s
  | .resync dom => Sys2Proof.Machine.execResync dom s
  | .relinquish dom => Sys2Proof.Machine.execRelinquish dom s
  | .twinResyncReceive => Sys2Proof.Machine.execTwinResyncReceive s
  | .resyncGapTimeout => Sys2Proof.Machine.execResyncGapTimeout s
  | .resyncTailEnd => Sys2Proof.Machine.execResyncTailEnd s
  | .cgmSample q cycles => Sys2Proof.Machine.execCgmSample q cycles s
  | .mapWindowEnd => Sys2Proof.Machine.execMapWindowEnd s
  | .mapPublish => Sys2Proof.Machine.execMapPublish s
  | .pmcEvtWrite dom addr val => Sys2Proof.Machine.execPmcEvtWrite dom addr val s
  | .pmcCfgWrite dom addr val => Sys2Proof.Machine.execPmcCfgWrite dom addr val s
  | .pmcValWrite dom addr val => Sys2Proof.Machine.execPmcValWrite dom addr val s
  | .pmcFreeze dom page => Sys2Proof.Machine.execPmcFreeze dom page s
  | .pmcClear dom page => Sys2Proof.Machine.execPmcClear dom page s
  | .pmcWrap page ix => Sys2Proof.Machine.execPmcWrap page ix s
  | .dumpCapture => Sys2Proof.Machine.execDumpCapture s
  | .dumpRecordWritten => Sys2Proof.Machine.execDumpRecordWritten s
  | .dmpRingRdWrite dom val => Sys2Proof.Machine.execDmpRingRdWrite dom val s
  | .lintTake q tap => Sys2Proof.Machine.execLintTake q tap s
  | .lintRecordComplete q tap => Sys2Proof.Machine.execLintRecordComplete q tap s
  | .lintRingWrite q => Sys2Proof.Machine.execLintRingWrite q s
  | .lintBatchSend => Sys2Proof.Machine.execLintBatchSend s
  | .cveStart dom c fold => Sys2Proof.Machine.execCveStart dom c fold s
  | .cveFold dom c => Sys2Proof.Machine.execCveFold dom c s
  | .cveFeedB dom c val => Sys2Proof.Machine.execCveFeedB dom c val s
  | .cveFeedH dom c val => Sys2Proof.Machine.execCveFeedH dom c val s
  | .cveFeedW dom c val => Sys2Proof.Machine.execCveFeedW dom c val s
  | .cveStateWrite dom c hi val => Sys2Proof.Machine.execCveStateWrite dom c hi val s
  | .cveStateRead dom c off => Sys2Proof.Machine.execCveStateRead dom c off s
  | .cveSettingWrite dom c off val => Sys2Proof.Machine.execCveSettingWrite dom c off val s
  | .threadFrameReceive bytes => Sys2Proof.Machine.execThreadFrameReceive bytes s
  | .helloSend => Sys2Proof.Machine.execHelloSend s
  | .mgmtRequest => Sys2Proof.Machine.execMgmtRequest s
  | .mgmtResponse dom => Sys2Proof.Machine.execMgmtResponse dom s
  | .read dom addr count => Sys2Proof.Machine.execRead dom addr count s
  | .write dom addr vals => Sys2Proof.Machine.execWrite dom addr vals s
  | .modify dom addr mask val => Sys2Proof.Machine.execModify dom addr mask val s
  | .wait dom addr mask val timeout => Sys2Proof.Machine.execWait dom addr mask val timeout s
  | .waitPoll dom => Sys2Proof.Machine.execWaitPoll dom s
  | .memRead dom off len => Sys2Proof.Machine.execMemRead dom off len s
  | .memWrite dom off words => Sys2Proof.Machine.execMemWrite dom off words s
  | .tableLoad dom addr source first count cmd words => Sys2Proof.Machine.execTableLoad dom addr source first count cmd words s
  | .eventWait dom timeout => Sys2Proof.Machine.execEventWait dom timeout s
  | .eventWaitTimeout dom => Sys2Proof.Machine.execEventWaitTimeout dom s
  | .ident dom => Sys2Proof.Machine.execIdent dom s
  | .fwStart dom => Sys2Proof.Machine.execFwStart dom s
  | .fwStartDone => Sys2Proof.Machine.execFwStartDone s
  | .fuseProgram dom slot => Sys2Proof.Machine.execFuseProgram dom slot s
  | .fuseRevoke dom slot => Sys2Proof.Machine.execFuseRevoke dom slot s
  | .fuseFloor dom floor => Sys2Proof.Machine.execFuseFloor dom floor s
  | .stintEnd core => Sys2Proof.Machine.execStintEnd core s
  | .stintLong core => Sys2Proof.Machine.execStintLong core s
  | .coreWatchdog core => Sys2Proof.Machine.execCoreWatchdog core s
  | .halt dom => Sys2Proof.Machine.execHalt dom s
  | .run dom => Sys2Proof.Machine.execRun dom s
  | .restart dom => Sys2Proof.Machine.execRestart dom s
  | .eventFrameSend => Sys2Proof.Machine.execEventFrameSend s
  | .ctlPolicyWrite dom val => Sys2Proof.Machine.execCtlPolicyWrite dom val s
  | .powerSample vinMv iinMa => Sys2Proof.Machine.execPowerSample vinMv iinMa s
  | .limitStepDown => Sys2Proof.Machine.execLimitStepDown s
  | .limitStepUp => Sys2Proof.Machine.execLimitStepUp s
  | .pwrCapWrite dom val => Sys2Proof.Machine.execPwrCapWrite dom val s
  | .pwrLimitNowWrite dom val => Sys2Proof.Machine.execPwrLimitNowWrite dom val s
  | .brakeEnd => Sys2Proof.Machine.execBrakeEnd s
  | .vinHighEnter => Sys2Proof.Machine.execVinHighEnter s
  | .vinHighLeave => Sys2Proof.Machine.execVinHighLeave s
  | .vinLowEnter => Sys2Proof.Machine.execVinLowEnter s
  | .vinLowRecover => Sys2Proof.Machine.execVinLowRecover s
  | .inputWarn => Sys2Proof.Machine.execInputWarn s
  | .inputWarnEnd => Sys2Proof.Machine.execInputWarnEnd s
  | .vinShutdownBand high => Sys2Proof.Machine.execVinShutdownBand high s
  | .vinOff => Sys2Proof.Machine.execVinOff s
  | .railFault rail => Sys2Proof.Machine.execRailFault rail s
  | .shutdownStage => Sys2Proof.Machine.execShutdownStage s
  | .thermalRead readings => Sys2Proof.Machine.execThermalRead readings s
  | .throttleFloorRise => Sys2Proof.Machine.execThrottleFloorRise s
  | .throttleFloorFall => Sys2Proof.Machine.execThrottleFloorFall s
  | .thermalShutdown sensor => Sys2Proof.Machine.execThermalShutdown sensor s
  | .dieHotShutdown die => Sys2Proof.Machine.execDieHotShutdown die s
  | .tripSensor sensor => Sys2Proof.Machine.execTripSensor sensor s
  | .partReset dom grace => Sys2Proof.Machine.execPartReset dom grace s
  | .datapathReset dom grace => Sys2Proof.Machine.execDatapathReset dom grace s
  | .quadrantReset dom q grace => Sys2Proof.Machine.execQuadrantReset dom q grace s
  | .pressReset dom p => Sys2Proof.Machine.execPressReset dom p s
  | .engineReset dom e => Sys2Proof.Machine.execEngineReset dom e s
  | .graceEnd => Sys2Proof.Machine.execGraceEnd s
  | .resetDone => Sys2Proof.Machine.execResetDone s
  | .parityReload array die => Sys2Proof.Machine.execParityReload array die s
  | .scrubStint passEnds errors => Sys2Proof.Machine.execScrubStint passEnds errors s
  | .scrubLate => Sys2Proof.Machine.execScrubLate s
  | .clkSpreadWrite dom val => Sys2Proof.Machine.execClkSpreadWrite dom val s
  | .referenceFail backup => Sys2Proof.Machine.execReferenceFail backup s
  | .forceBackup dom => Sys2Proof.Machine.execForceBackup dom s
  | .referencesLost => Sys2Proof.Machine.execReferencesLost s
  | .referenceRecover backup => Sys2Proof.Machine.execReferenceRecover backup s
  | .headGrant link vc => Sys2Proof.Machine.execHeadGrant link vc s
  | .seamUpLost k => Sys2Proof.Machine.execSeamUpLost k s
  | .railStartTimeout rail => Sys2Proof.Machine.execRailStartTimeout rail s
  | .resyncEndSend => Sys2Proof.Machine.execResyncEndSend s

end Sys2Proof.Machine
end

