-- ==== Sys2Proof/WellFormed.lean ====
section
/-! DEFINITION. Well-formed commands: what a command of the block can carry at all. A command may be well-formed and still be
refused, denied or discarded; that is its meaning. -/
namespace Sys2Proof

/-- A page operand is a page's address with offset 0 (R7). -/
def pageWf (a : Word) : Bool := a.toNat % 4096 == 0

/-- A number that a 32-bit argument word can carry (R503). -/
def argWf (n : Nat) : Bool := decide (n < 2 ^ 32)

/-- A list of argument words that NARG can count (R503). -/
def wordsWf (l : List Word) : Bool := decide (l.length < 2 ^ 16)

/-- A frame's content is 496 bytes (R114). -/
def Frame.wf (f : Frame) : Bool := f.content.length == 496

/-- A link frame comes with its frame, and with one count for each lane at most. -/
def Instr.frameWf (f : Frame) (corr uncorr : List Nat) : Bool :=
  f.wf && decide (corr.length ≤ 8) && decide (uncorr.length ≤ 8)

/-- A receiving end of a seam is no port. -/
def LinkId.seamEnd : LinkId → Bool
  | .port _ => false
  | .seam _ _ | .pp _ => true

/-- A command that carries an offset stays within the registers that its row names. -/
def offWf (off : BitVec 12) (lo hi : Nat) : Bool := off.toNat % 4 == 0 && decide (lo ≤ off.toNat) && decide (off.toNat ≤ hi)

/-- A memory of R564 stands on the die. -/
def ScrubErr.wf (e : ScrubErr) : Bool :=
  if e.memory.val ≤ 5 then decide (e.die.val < 4)
  else if e.memory.val ≤ 7 then decide (4 ≤ e.die.val) && decide (e.die.val < 8)
  else if e.memory.val ≤ 9 then e.die.val == 24
  else decide (e.die.val ≤ 24)

/-- The command is well-formed. -/
def Instr.wellFormed : Instr → Bool
  | .evtSetWrite _ p _ | .lockWrite _ p _ | .ctlEnable _ p | .ctlDisable _ p | .pageEnableDone p | .pageDisableDone p
  | .pmcFreeze _ p | .pmcClear _ p | .pmcWrap p _ => pageWf p
  | .opticalPowerSample _ rx tx src => rx.length == 128 && tx.length == 16 && src.length == 10
  | .linkFrameReceive _ f c u => Instr.frameWf f c u
  | .initFrameReceive _ f => f.wf
  | .seamCopyArrive l _ => l.seamEnd
  | .bufLayoutWrite _ _ off _ => offWf off 0x110 0x14C
  | .cveStateRead _ _ off => offWf off 0x30 0x3C
  | .cveSettingWrite _ _ off _ => offWf off 0 0x1C
  | .poolBalance _ _ d => decide (-(2 ^ 19) ≤ d) && decide (d < 2 ^ 19)
  | .prbsLockLost _ n => decide (n ≤ 2 ^ 32)
  | .lintTake _ t | .lintRecordComplete _ t => decide (t < 32)
  | .threadFrameReceive b => decide (12 ≤ b.length) && decide (b.length ≤ 2 ^ 16 + 12)
  | .read _ _ n => argWf n
  | .write _ _ l | .memWrite _ _ l => wordsWf l
  | .wait _ _ _ _ t | .eventWait _ t => argWf t
  | .memRead _ _ n => argWf n
  | .tableLoad _ _ _ f n _ w => argWf f && argWf n && argWf w
  | .powerSample v i => decide (v < 2 ^ 16) && decide (i < 2 ^ 32)
  | .thermalRead l => l.length == 180
  | .scrubStint _ l => l.all ScrubErr.wf
  | .parityReload _ _ | .registerWrite _ _ _ | .rcRead _ _ | .countLowHalfRead _ _
  | .powerOn | .railSequenceStep | .referenceSelect _ _ | .strapSample _ _ | .strapChange _ _ | .bypassRelease
  | .seamUp _ | .seamFault _ | .bankFlip _ _ | .oenFpEnableWrite _ _ _ | .lneLayoutWrite _ _ _ _
  | .lneLoopbackWrite _ _ _ _ | .prbsEnableWrite _ _ _ _ _ | .prbsClear _ _ _ | .prbsPatternWrite _ _ _ _
  | .oenSpareMapWrite _ _ _ | .losEnter _ | .losLeave _ | .sourceFail _ _ | .darnRequestReceive _ _ _
  | .darnSwitch _ | .darnTimeout _ | .darnWiden _ | .spareSubstitute _ _ | .spareLocked _ _ | .lanesTrained _
  | .slackInsert _ | .quietEnter _ | .quietEntryAbandon _ | .tackStart _ | .tackEnd _ _ | .prbsLock _
  | .replayTimeout _ | .recoveryTimeout _ | .mendFault _ | .idleFrameSend _ | .initFrameSend _ | .initTimeout _
  | .linkSilenceTimeout _ | .admitWrite _ _ _ | .retrain _ _ | .autoRetrain _ | .lnkCreditCfgWrite _ _ _ _
  | .tackReqAnswer _ | .c0Inject | .tableRead _ _ _ | .tableWrite _ _ _ | .pegPortOutClear _ _ _ _ | .pegReturn _
  | .rteSeamWWrite _ _ _ _ | .pool0WaitResume _ | .chainCellTake _ | .chainFreeCell _ | .hamperRefill _ _
  | .hamperSpill _ _ | .bufModeWrite _ _ _ | .rebuild _ _ | .rebuildDone _ | .bufMove _ _ _ | .moveDone _
  | .autoRebuild _ | .tc3GateChange _ | .entryAged _ _ _ | .entryAgedStomp _ _ | .queAgeLimitWrite _ _ _ _
  | .windowEpochStart _ _ | .windowEpochExpire _ _ | .winExpireWrite _ _ _ _ | .winLimitWrite _ _ _ _ _
  | .contributionTake _ | .chunkLate _ _ _ | .lateNoticeRepeat _ _ | .retainExpire _ _ _ _ | .resendReqRoot _
  | .resendReqRelay _ | .ctxStart _ _ _ | .ctxStop _ _ _ | .ctxClear _ _ _ | .ctxCheck _ _ _ _ | .ctxStopDone _ _
  | .colTableRead _ _ _ | .colTableWrite _ _ _ | .prsCtxModeWrite _ _ _ _ | .rwbWrite _ _ _ | .prsCtxJobWrite _ _ _ _
  | .barrierArriveTake _ | .barrierReleaseReceive _ | .barrierLate _ | .synTableRead _ _ _ | .synTableWrite _ _ _
  | .timeSyncSend | .timeSyncReceive | .timeHoldover | .synTimeSetGo _ | .set _ _ _ | .setIdle _ _ | .rinse _ _
  | .abort _ _ | .holdEffective _ | .drainedReport _ | .drainedReportRepeat _ | .swapArrivalRepeat _
  | .heldPacketAged _ _ | .rinseLate _ | .twnCtlWrite _ _ | .twnLinkWrite _ _ | .twinBeatSend | .inbandBeatSend
  | .twinBeatReceive | .inbandBeatReceive | .leaseExpire | .partitionNoticeRepeat | .pathStale _ | .twinDigestSend
  | .twinDigestReceive | .fenceAct | .fenceAdmitClear | .digestEntryExpire | .unfence _ | .resync _ | .relinquish _
  | .twinResyncReceive | .resyncGapTimeout | .resyncTailEnd | .mapWindowEnd | .mapPublish | .pmcEvtWrite _ _ _
  | .pmcCfgWrite _ _ _ | .pmcValWrite _ _ _ | .dumpCapture | .dumpRecordWritten | .dmpRingRdWrite _ _
  | .lintRingWrite _ | .lintBatchSend | .cveStart _ _ _ | .cveFold _ _ | .cveFeedB _ _ _ | .cveFeedH _ _ _
  | .cveFeedW _ _ _ | .cveStateWrite _ _ _ _ | .helloSend | .mgmtRequest | .mgmtResponse _ | .modify _ _ _ _
  | .waitPoll _ | .eventWaitTimeout _ | .ident _ | .fwStart _ | .fwStartDone | .fuseProgram _ _ | .fuseRevoke _ _
  | .fuseFloor _ _ | .stintEnd _ | .stintLong _ | .coreWatchdog _ | .halt _ | .run _ | .restart _ | .eventFrameSend
  | .ctlPolicyWrite _ _ | .limitStepDown | .limitStepUp | .pwrCapWrite _ _ | .pwrLimitNowWrite _ _ | .brakeEnd
  | .vinHighEnter | .vinHighLeave | .vinLowEnter | .vinLowRecover | .inputWarn | .inputWarnEnd | .vinShutdownBand _
  | .vinOff | .railFault _ | .shutdownStage | .throttleFloorRise | .throttleFloorFall | .thermalShutdown _
  | .dieHotShutdown _ | .tripSensor _ | .partReset _ _ | .datapathReset _ _ | .quadrantReset _ _ _ | .pressReset _ _
  | .engineReset _ _ | .graceEnd | .resetDone | .scrubLate | .clkSpreadWrite _ _ | .referenceFail _ | .forceBackup _
  | .referencesLost | .referenceRecover _ | .headGrant _ _ | .seamUpLost _ | .railStartTimeout _ | .resyncEndSend
  | .packetHeadArrive _ _ _ _ | .packetTailArrive _ _ _ _ | .copyTailSent _ _ _ | .cgmSample _ _ => true
  | .mendProbeAnswer _ _ payload => payload.length ≤ 8192

end Sys2Proof
end

