-- ==== Sys2Proof/Safety.lean ====
section
/-! DEFINITION. What a safe run is, the invariants that every step keeps, and the terms that statements about commands are
made in. -/
namespace Sys2Proof

open Sys2Proof.Machine

/-- C0's SRAM stands in its one canonical form: offsets rising, no entry equal to what an unlisted offset reads as. -/
def SramCanonical (s : State) : Prop := Memory.wf s.sram = true

/-- A step is safe when it goes on: it ends neither in a fault nor in a refusal. -/
def StepSafe (s : State) : Prop := ∃ t, step s = .next t

/-- A run of `n` steps goes on, and ends in `t`. -/
def RunsTo : Nat → State → State → Prop
  | 0, s, t => s = t
  | n + 1, s, t => ∃ u, step s = .next u ∧ RunsTo n u t

/-- Every command that waits is well-formed. -/
def QueueWf (s : State) : Prop := ∀ c ∈ s.pending, c.wellFormed = true

/-- A domain may write a register of a page of one die: C0 takes its commands, R502 grants it the class, and LOCK refuses it
neither the page nor the write (R499, R502, R580). -/
abbrev MayWrite (c : Chip) (dom : Dom) (die page off v : Nat) : Prop :=
  c.mayManage dom = true ∧ c.allowed dom (regAddr die page off) (some v) = true ∧
  (dom = .fabric → bit (c.reg (regAddr die page 0x34)) 1 = false) ∧ bit (c.reg (regAddr die page 0x34)) 0 = false

/-- HEAD and TAIL of a ring of `n` entries stand in it, and their lap bits say which is ahead (R248). -/
abbrev RingOk (h : Hamper) (n : Nat) : Prop :=
  h.head < n ∧ h.tail < n ∧ (h.headLap = h.tailLap → h.head ≤ h.tail) ∧ (h.headLap ≠ h.tailLap → h.tail ≤ h.head)

/-- The first port of fibre pair `k` of an island (R72). -/
abbrev pairPort (q d k : Nat) : Nat := 256 * q + 16 * d + 4 * k

/-- The wavelength that OEN_SPARE_MAP gives to a spare (R109). -/
abbrev spareGives (m sp : Nat) : Option Nat := if bit m (4 * sp + 3) then some (fld m (4 * sp + 2) (4 * sp)) else none

/-- The state with another part; SRAM and the queue stay. -/
def withChip (s : State) (c : Chip) : State := { s with chip := c }

end Sys2Proof
end

