-- ==== Sys2Proof/Certificates/Slice0/Obligations.lean ====
section
/-! DEFINITION. The statements about the block: its commands by family, its step, and C0's SRAM. -/
open Sys2Proof Sys2Proof.Machine

/-- A write of REGISTER_WRITE stores the RW bits and clears the W1C bits that carry 1, and nothing else changes (R581): for
EVT of every page, and for the registers of CTL that have no rule of their own. Completes REGISTER_WRITE. -/
def Obligations.PlainRegisterWrite : Prop :=
  (∀ (dom : Dom) (die pg i : Nat) (b : Block) (addr val : Word) (s : State),
    pageOf die pg = some (b, i) → evtMask b ≠ 0 → addr.toNat = regAddr die pg 0x18 →
    val.toNat &&& evtMask b = val.toNat → MayWrite s.chip dom die pg 0x18 val.toNat →
    exec (.registerWrite dom addr val) s =
      .next (withChip s (s.chip.setReg (regAddr die pg 0x18)
        (s.chip.reg (regAddr die pg 0x18) - (s.chip.reg (regAddr die pg 0x18) &&& val.toNat))))) ∧
  (∀ (dom : Dom) (off : Nat) (d : RegDef) (addr val : Word) (s : State),
    regDef .ctl 0 off = some d → 0x100 ≤ off → off ≠ 0x108 → off ≠ 0x10C → d.rw ≠ 0 → addr.toNat = regAddr 24 1 off →
    val.toNat &&& d.rw = val.toNat → MayWrite s.chip dom 24 1 off val.toNat →
    exec (.registerWrite dom addr val) s =
      .next (withChip s (s.chip.setReg (regAddr 24 1 off)
        (s.chip.reg (regAddr 24 1 off) - (s.chip.reg (regAddr 24 1 off) &&& d.rw) + val.toNat))))

/-- What refuses a write: a class that is not granted denies it and counts CTL_DENIED (R502); LOCKED records cause 4 and
reserved bits that are not 0 cause 3 in the page's error registers, and the register keeps its value (R578, R580, R582).
LOCK_WRITE from the owner sets FABRIC_BLOCK as written and LOCKED for good; from the fabric domain it is denied (R580).
Completes LOCK_WRITE. -/
def Obligations.RefusedWritesAndLock : Prop :=
  (∀ (addr val : Word) (s : State),
    s.chip.mayManage .fabric = true → badAddr addr.toNat = false →
    s.chip.allowed .fabric addr.toNat (some val.toNat) = false →
    exec (.registerWrite .fabric addr val) s = .next (withChip s (s.chip.bump (regAddr 24 1 0x12C) 1))) ∧
  (∀ (die pg i : Nat) (b : Block) (addr val : Word) (s : State),
    pageOf die pg = some (b, i) → addr.toNat = regAddr die pg 0x28 → s.chip.mayManage .owner = true →
    bit (s.chip.reg (regAddr die pg 0x34)) 0 = true →
    exec (.registerWrite .owner addr val) s =
      .next (withChip s (s.chip.recordErr (regAddr die pg 0) 4 0x28 val.toNat false))) ∧
  (∀ (addr val : Word) (s : State),
    addr.toNat = regAddr 24 1 0x108 → s.chip.mayManage .owner = true → bit (s.chip.reg (regAddr 24 1 0x34)) 0 = false →
    0x7F < val.toNat →
    exec (.registerWrite .owner addr val) s =
      .next (withChip s (s.chip.recordErr (regAddr 24 1 0) 3 0x108 val.toNat false))) ∧
  (∀ (die pg i : Nat) (b : Block) (page val : Word) (s : State),
    pageOf die pg = some (b, i) → page.toNat = regAddr die pg 0 → val.toNat < 4 →
    MayWrite s.chip .owner die pg 0x34 val.toNat →
    exec (.lockWrite .owner page val) s =
      .next (withChip s (s.chip.setReg (regAddr die pg 0x34)
        (fld val.toNat 1 1 * 2 + max (fld val.toNat 0 0) (fld (s.chip.reg (regAddr die pg 0x34)) 0 0))))) ∧
  (∀ (die pg i : Nat) (b : Block) (page val : Word) (s : State),
    pageOf die pg = some (b, i) → page.toNat = regAddr die pg 0 → s.chip.mayManage .fabric = true →
    exec (.lockWrite .fabric page val) s = .next (withChip s (s.chip.bump (regAddr 24 1 0x12C) 1)))

/-- RC_READ answers the count and clears it for both domains, COUNT_LOW_HALF_READ answers the low half and latches the high
half for the reading domain alone (R11, R12, R581, R583); nothing else changes. The latch of every other count, and of the
other domain, keeps its value whatever low half is read, and a read of a high half answers the latch of the reading domain
(R12). Completes RC_READ and COUNT_LOW_HALF_READ. -/
def Obligations.ClearingAndLatchingReads : Prop :=
  (∀ (dom : Dom) (die pg i : Nat) (b : Block) (addr : Word) (s : State),
    pageOf die pg = some (b, i) → addr.toNat = regAddr die pg 0x28 → s.chip.mayManage dom = true →
    s.chip.allowed dom addr.toNat none = true →
    exec (.rcRead dom addr) s =
      .next (withChip s ((s.chip.setReg addr.toNat 0).emit
        (.read dom addr.toNat (BitVec.ofNat 32 (s.chip.reg addr.toNat)))))) ∧
  (∀ (dom : Dom) (q : Fin 4) (d : Fin 16) (k : Nat) (addr : Word) (s : State),
    k < 80 → addr.toNat = regAddr q.val (0x20 + d.val) (0x500 + 4 * k) → s.chip.mayManage dom = true →
    s.chip.allowed dom addr.toNat none = true →
    exec (.rcRead dom addr) s =
      .next (withChip s ((s.chip.setReg addr.toNat 0).emit
        (.read dom addr.toNat (BitVec.ofNat 32 (s.chip.reg addr.toNat)))))) ∧
  (∀ (dom : Dom) (q : Fin 4) (k : Fin 4) (off : Nat) (addr : Word) (s : State),
    off = 0x110 ∨ off = 0x118 → addr.toNat = regAddr q.val (0x50 + k.val) off → s.chip.mayManage dom = true →
    s.chip.allowed dom addr.toNat none = true →
    exec (.countLowHalfRead dom addr) s =
      .next (withChip s (Chip.emit
        { s.chip with
          latch := SMap.set s.chip.latch (latchKey dom addr.toNat) (BitVec.ofNat 32 (s.chip.reg (addr.toNat + 4))) }
        (.read dom addr.toNat (BitVec.ofNat 32 (s.chip.reg addr.toNat)))))) ∧
  (∀ (dom other : Dom) (addr : Word) (a : Nat) (s : State), a < 2 ^ 32 → other ≠ dom ∨ a ≠ addr.toNat →
    ∃ t, exec (.countLowHalfRead dom addr) s = .next t ∧
      SMap.get? t.chip.latch (latchKey other a) = SMap.get? s.chip.latch (latchKey other a)) ∧
  (∀ (dom : Dom) (a i : Nat) (b : Block) (d : RegDef) (c : Chip), pageOf (adDie a) (adPage a) = some (b, i) →
    regAt (adDie a) b i (adOff a) = some d → isHigh b d (adOff a) = true →
    (c.readReg dom a).1 = (SMap.getD c.latch (latchKey dom (a - 4)) 0).toNat ∧ (c.readReg dom a).2.latch = c.latch)

/-- EVT_SET_WRITE sets the named event bits of the page (R577); where EVT AND EVT_EN rises from 0 one entry with the fabric
time, the page and EVT joins the owner's event queue (R513), in the next free slot of its place in SRAM, which is the
model's reading (log entry 66). Completes EVT_SET_WRITE. -/
def Obligations.EventBitsAndQueue : Prop :=
  (∀ (dom : Dom) (die pg i : Nat) (b : Block) (page val : Word) (s : State),
    pageOf die pg = some (b, i) → evtMask b ≠ 0 → page.toNat = regAddr die pg 0 → val.toNat &&& evtMask b = val.toNat →
    MayWrite s.chip dom die pg 0x20 val.toNat →
    exec (.evtSetWrite dom page val) s = .next (withChip s (s.chip.raise (regAddr die pg 0) val.toNat))) ∧
  (∀ (die pg i : Nat) (b : Block) (bits : Nat) (c : Chip),
    pageOf die pg = some (b, i) → c.rst.c0Up = true → bits < 2 ^ 32 → (c.mgmt.evq.getD 0 []).length < 1024 →
    c.mgmt.evq.length = 2 →
    c.reg (regAddr die pg 0x18) &&& c.reg (regAddr die pg 0x1C) = 0 → bits &&& c.reg (regAddr die pg 0x1C) ≠ 0 →
    c.granted (pageClass b) = false →
    (c.raise (regAddr die pg 0) bits).reg (regAddr die pg 0x18) = c.reg (regAddr die pg 0x18) ||| bits ∧
    (c.raise (regAddr die pg 0) bits).mgmt.evq.getD 0 [] = c.mgmt.evq.getD 0 [] ++
      [{ time := c.time.ft, page := regAddr die pg 0, evt := c.reg (regAddr die pg 0x18) ||| bits,
         slot := freeSlot 1024 (c.mgmt.evq.getD 0 []) (c.mgmt.evWr.getD 0 0) }] ∧
    (c.raise (regAddr die pg 0) bits).mgmt.evq.getD 1 [] = c.mgmt.evq.getD 1 [])

/-- The page states (R551 to R557): ENABLE takes an OFF page to ENABLING, takes back a DISABLE that waits, makes a page in
DISABLING come back, does nothing to an ON page, and is refused in FAULT; DISABLE takes an ON page, or one in FAULT, to
DISABLING after it has been written to every page that needs it, makes a page in ENABLING go, and takes back an ENABLE that
waits. A page that enters DISABLING stops its block: the ports of a LNE, LNK or WIN page leave ACTIVE and become DISABLED
(one that has begun a packet when the page completes, which is the model's reading, log entry 103), the contexts of a PRS or
COL page take STOP. ENABLING ends in ON with the block's SRAM cleared, and DISABLING in OFF, each followed by the request
that waits. Completes CTL_ENABLE, CTL_DISABLE, PAGE_ENABLE_DONE and PAGE_DISABLE_DONE. -/
def Obligations.PageStates : Prop :=
  (∀ (dom : Dom) (die pg i : Nat) (b : Block) (page : Word) (s : State),
    pageOf die pg = some (b, i) → page.toNat = regAddr die pg 0 → MayWrite s.chip dom die pg 0x10 1 →
    s.chip.scarred die pg = false → (s.chip.page (pageKey die pg)).st < 4 →
    exec (.ctlEnable dom page) s = .next (withChip s (
      if (s.chip.page (pageKey die pg)).st = 0 then s.chip.setPage (pageKey die pg) { st := 1 }
      else if (s.chip.page (pageKey die pg)).st = 1 then
        s.chip.setPage (pageKey die pg) { s.chip.page (pageKey die pg) with pd := false }
      else if (s.chip.page (pageKey die pg)).st = 3 then
        s.chip.setPage (pageKey die pg) { s.chip.page (pageKey die pg) with pe := true }
      else s.chip))) ∧
  (∀ (dom : Dom) (die pg i : Nat) (b : Block) (page : Word) (s : State),
    pageOf die pg = some (b, i) → page.toNat = regAddr die pg 0 → MayWrite s.chip dom die pg 0x10 1 →
    (s.chip.page (pageKey die pg)).st = 4 →
    exec (.ctlEnable dom page) s =
      .next (withChip s (s.chip.recordErr (regAddr die pg 0) 2 0x10 1 (dom == .fabric)))) ∧
  (∀ (dom : Dom) (die pg i : Nat) (b : Block) (page : Word) (s : State),
    pageOf die pg = some (b, i) → page.toNat = regAddr die pg 0 → MayWrite s.chip dom die pg 0x10 2 →
    alwaysOn b = false → (s.chip.page (pageKey die pg)).st = 1 →
    exec (.ctlDisable dom page) s =
      .next (withChip s (s.chip.setPage (pageKey die pg)
        (if s.chip.needsOn die pg then { s.chip.page (pageKey die pg) with pd := true } else {})))) ∧
  (∀ (dom : Dom) (die pg i : Nat) (b : Block) (page : Word) (s : State),
    pageOf die pg = some (b, i) → page.toNat = regAddr die pg 0 → MayWrite s.chip dom die pg 0x10 2 →
    alwaysOn b = false → (s.chip.page (pageKey die pg)).st = 0 →
    exec (.ctlDisable dom page) s = .next s) ∧
  (∀ (dom : Dom) (die pg i : Nat) (b : Block) (page : Word) (s : State),
    pageOf die pg = some (b, i) → page.toNat = regAddr die pg 0 → MayWrite s.chip dom die pg 0x10 2 →
    alwaysOn b = false → (s.chip.page (pageKey die pg)).st = 3 →
    exec (.ctlDisable dom page) s =
      .next (withChip s (s.chip.setPage (pageKey die pg) { s.chip.page (pageKey die pg) with pe := false }))) ∧
  (∀ (dom : Dom) (die pg i : Nat) (b : Block) (page : Word) (s : State),
    pageOf die pg = some (b, i) → page.toNat = regAddr die pg 0 → MayWrite s.chip dom die pg 0x10 2 →
    alwaysOn b = false →
    (s.chip.page (pageKey die pg)).st = 2 ∨ (s.chip.page (pageKey die pg)).st = 4 →
    (∀ dp ∈ dependents die pg, (s.chip.page (pageKey dp.1 dp.2)).st = 0) →
    exec (.ctlDisable dom page) s =
      .next (withChip s ((s.chip.setPage (pageKey die pg) { st := 3 }).stopBlock die pg))) ∧
  (∀ (dom : Dom) (die pg i : Nat) (b : Block) (page : Word) (s : State),
    pageOf die pg = some (b, i) → page.toNat = regAddr die pg 0 → MayWrite s.chip dom die pg 0x10 2 →
    alwaysOn b = false →
    (s.chip.page (pageKey die pg)).st = 2 ∨ (s.chip.page (pageKey die pg)).st = 4 →
    exec (.ctlDisable dom page) s =
      .next (withChip s (((s.chip.setPage (pageKey die pg) { st := 3 }).each (dependents die pg) (fun c dp =>
        if (c.page (pageKey dp.1 dp.2)).st = 1 then c.setPage (pageKey dp.1 dp.2) {}
        else if (c.page (pageKey dp.1 dp.2)).st = 3 then
          c.setPage (pageKey dp.1 dp.2) { c.page (pageKey dp.1 dp.2) with pe := false }
        else if (c.page (pageKey dp.1 dp.2)).st = 2 ∨ (c.page (pageKey dp.1 dp.2)).st = 4 then
          Chip.enterDisabling 5 c dp.1 dp.2
        else c)).stopBlock die pg))) ∧
  (∀ (c : Chip) (n die pg : Nat), (∀ dp ∈ dependents die pg, (c.page (pageKey dp.1 dp.2)).st = 0) → ¬ (die, pg) ∈ dependents die pg →
    Chip.enterDisabling (n + 1) c die pg = (c.setPage (pageKey die pg) { st := 3 }).stopBlock die pg) ∧
  (∀ (c : Chip) (n die pg : Nat), Chip.enterDisabling (n + 1) c die pg =
    Chip.stopBlock ((c.setPage (pageKey die pg) { st := 3 }).each (dependents die pg) (fun c dp =>
        if (c.page (pageKey dp.1 dp.2)).st = 1 then c.setPage (pageKey dp.1 dp.2) {}
        else if (c.page (pageKey dp.1 dp.2)).st = 3 then
          c.setPage (pageKey dp.1 dp.2) { c.page (pageKey dp.1 dp.2) with pe := false }
        else if (c.page (pageKey dp.1 dp.2)).st = 2 ∨ (c.page (pageKey dp.1 dp.2)).st = 4 then
          Chip.enterDisabling n c dp.1 dp.2
        else c)) die pg) ∧
  (∀ (c : Chip) (die pg i : Nat), pageOf die pg = some (.lne, i) ∨ pageOf die pg = some (.lnk, i) ∨ pageOf die pg = some (.win, i) →
    c.stopBlock die pg = c.each (islandPorts die i) (fun c p =>
      if ((c.deactivate p).port p).st = .quarantine ∧ (c.deactivate p).midPacket p ∧ (c.deactivate p).fpOn p then c.deactivate p
      else (c.deactivate p).portDisable p)) ∧
  (∀ (c : Chip) (die pg i : Nat), pageOf die pg = some (.prs, i) ∨ pageOf die pg = some (.col, i) →
    c.stopBlock die pg = c.each ((List.range 24).filter (fun x => (c.ctx (24 * (die - 4) + x)).st == 1)) (fun c x =>
      c.onCtx (24 * (die - 4) + x) (fun y => { y with st := 2, chunks := [], noticeAt := none }))) ∧
  (∀ (die pg i : Nat) (b : Block) (page : Word) (s : State),
    pageOf die pg = some (b, i) → page.toNat = regAddr die pg 0 → (s.chip.page (pageKey die pg)).st = 1 →
    s.chip.needsOn die pg = true →
    exec (.pageEnableDone page) s =
      .next (withChip s (
        if (s.chip.page (pageKey die pg)).pd = true then
          (((s.chip.clearSram die pg).setPage (pageKey die pg) { st := 2 }).cameOn die pg).toDisabling die pg
        else ((s.chip.clearSram die pg).setPage (pageKey die pg) { st := 2 }).cameOn die pg))) ∧
  (∀ (die pg i : Nat) (b : Block) (page : Word) (s : State),
    pageOf die pg = some (b, i) → page.toNat = regAddr die pg 0 → (s.chip.page (pageKey die pg)).st = 3 →
    (∀ dp ∈ dependents die pg, (s.chip.page (pageKey dp.1 dp.2)).st = 0) → s.chip.blockBusy die pg = false →
    exec (.pageDisableDone page) s =
      .next (withChip s ((s.chip.wentOff die pg).setPage (pageKey die pg)
        (if (s.chip.page (pageKey die pg)).pe = true then { st := 1 } else {}))))

/-- The input power governor (R519, R520, R527): a sample enters the mean of 10 and the energy count; above the effective
limit the level rises by 1, at most to 8; ten samples at least 200 W below it lower the level by 1, not below T_TH or a
brake's BRAKE_T. Completes POWER_SAMPLE. The cap (R528 to R530): LIMIT_NOW steps down toward a lower CAP by ⌊LIMIT_NOW ×
STEP_PCT / 100⌋ each 10 µs and never below CAP, and up toward a higher CAP while the POWER_STEP policy acts; a write of CAP
from 1,900 to 3,400 is taken, one that lowers it below LIMIT_NOW lowers LIMIT_NOW to P_in and brakes where CAP lies below
its reach, another leaves LIMIT_NOW; a write of PWR_LIMIT_NOW is taken only while the policy is off and no brake is in
force, from 1,900 up to CAP. That the brake acts at the write, that P_in is the mean of the samples so far, and that the
POWER_STEP bit alone decides a write of PWR_LIMIT_NOW are the model's readings (log entries 36 and 37). Completes
LIMIT_STEP_DOWN, LIMIT_STEP_UP, PWR_CAP_WRITE and PWR_LIMIT_NOW_WRITE. -/
def Obligations.PowerGovernorAndCap : Prop :=
  (∀ (v i : Nat) (s : State), s.chip.power.off = false → s.chip.effLimit v < v * i →
    ∃ t, exec (.powerSample v i) s = .next t ∧ t.sram = s.sram ∧ t.pending = s.pending ∧
      t.chip.power.samples = (v * i :: s.chip.power.samples).take 10 ∧
      t.chip.power.energy = s.chip.power.energy + v * i ∧
      t.chip.power.under = 0 ∧ t.chip.power.t = min 8 (s.chip.power.t + 1)) ∧
  (∀ (v i : Nat) (s : State), s.chip.power.off = false → v * i ≤ s.chip.effLimit v → s.chip.effLimit v < v * i + 200000000 →
    ∃ t, exec (.powerSample v i) s = .next t ∧ t.sram = s.sram ∧ t.pending = s.pending ∧ t.chip.power.under = 0 ∧
      t.chip.power.t = s.chip.power.t ∧ t.chip.ports = s.chip.ports ∧ t.chip.copies = s.chip.copies) ∧
  (∀ (v i : Nat) (s : State), s.chip.power.off = false → v * i + 200000000 ≤ s.chip.effLimit v → s.chip.power.under + 1 < 10 →
    ∃ t, exec (.powerSample v i) s = .next t ∧ t.sram = s.sram ∧ t.pending = s.pending ∧
      t.chip.power.under = s.chip.power.under + 1 ∧ t.chip.power.t = s.chip.power.t ∧ t.chip.ports = s.chip.ports ∧
      t.chip.copies = s.chip.copies) ∧
  (∀ (v i : Nat) (s : State), s.chip.power.off = false → v * i + 200000000 ≤ s.chip.effLimit v →
    10 ≤ s.chip.power.under + 1 → s.chip.power.tTh < s.chip.power.t →
    (s.chip.braking = true → s.chip.brakeT < s.chip.power.t) →
    ∃ t, exec (.powerSample v i) s = .next t ∧ t.sram = s.sram ∧ t.pending = s.pending ∧ t.chip.power.under = 0 ∧
      t.chip.power.t = s.chip.power.t - 1 ∧ t.chip.ports = s.chip.ports ∧ t.chip.copies = s.chip.copies) ∧
  (∀ s : State, s.chip.cap < s.chip.limitNow → s.chip.power.off = false →
    exec .limitStepDown s = .next (withChip s ((s.chip.tick 7 10000).limitStep
      (max s.chip.cap (s.chip.limitNow - s.chip.limitNow * fld (s.chip.reg (regAddr 24 3 0x108)) 2 0 / 100))))) ∧
  (∀ s : State, s.chip.limitNow < s.chip.cap → s.chip.power.cause = 0 → s.chip.policy 0 = true → s.chip.power.off = false →
    exec .limitStepUp s = .next (withChip s ((s.chip.tick 7 10000).limitStep
      (min s.chip.cap (s.chip.limitNow + s.chip.limitNow * fld (s.chip.reg (regAddr 24 3 0x108)) 2 0 / 100))))) ∧
  (∀ (dom : Dom) (val : Word) (s : State), MayWrite s.chip dom 24 3 0x100 val.toNat → 1900 ≤ val.toNat → val.toNat ≤ 3400 →
    s.chip.limitNow ≤ val.toNat ∨ s.chip.cap ≤ val.toNat →
    exec (.pwrCapWrite dom val) s =
      .next (withChip s ((s.chip.setReg (regAddr 24 3 0x100) val.toNat).setReg (regAddr 24 3 0x104) s.chip.limitNow))) ∧
  (∀ (dom : Dom) (val : Word) (l : Nat) (c : Chip) (s : State), MayWrite s.chip dom 24 3 0x100 val.toNat →
    1900 ≤ val.toNat → val.toNat < s.chip.limitNow → val.toNat < s.chip.cap → l = min s.chip.limitNow s.chip.pinUp →
    c = (s.chip.setReg (regAddr 24 3 0x100) val.toNat).setReg (regAddr 24 3 0x104) l → val.toNat ≤ 3400 →
    exec (.pwrCapWrite dom val) s =
      .next (withChip s (if c.power.cause = 0 ∧ val.toNat < c.reach 10 l then c.brake 1 else c))) ∧
  (∀ s : State, s.chip.policy 0 = false ∨ s.chip.cap ≤ s.chip.limitNow ∨ s.chip.power.cause ≠ 0 →
    exec .limitStepUp s = .next s) ∧
  (∀ (dom : Dom) (val : Word) (s : State), MayWrite s.chip dom 24 3 0x104 val.toNat →
    s.chip.regBit (regAddr 24 1 0x108) 0 = false → s.chip.power.cause = 0 → 1900 ≤ val.toNat → val.toNat ≤ s.chip.cap →
    exec (.pwrLimitNowWrite dom val) s = .next (withChip s (s.chip.setReg (regAddr 24 3 0x104) val.toNat))) ∧
  (∀ (dom : Dom) (val : Word) (s : State), MayWrite s.chip dom 24 3 0x104 val.toNat → val.toNat < 4096 →
    (s.chip.regBit (regAddr 24 1 0x108) 0 = true ∨ s.chip.power.cause ≠ 0 ∨ val.toNat < 1900 ∨ s.chip.cap < val.toNat) →
    ∃ k, (k = 1 ∨ k = 2) ∧ exec (.pwrLimitNowWrite dom val) s =
      .next (withChip s (s.chip.recordErr (regAddr 24 3 0) k 0x104 val.toNat (dom == .fabric))))

/-- The bands of VIN and the brake (R522, R531 to R533): each band sets what R522 gives it; cause VIN starts below 21.6 V
and ends above 22.0 V; a cause that starts raises the level to BRAKE_T at least and lowers LIMIT_NOW to the brake level's
power; cause THERMAL ends once the hottest sensor has been cool for 1 ms with no die counted hot; the last cause that ends
ends the brake, and one that ends while another lasts leaves it. That a cause acts at once and that cause CAP ends at
BRAKE_END are the model's readings (log entry 36). Completes VIN_HIGH_ENTER, VIN_HIGH_LEAVE, VIN_LOW_ENTER, VIN_LOW_RECOVER,
INPUT_WARN, INPUT_WARN_END and BRAKE_END. -/
def Obligations.VinBandsAndBrake : Prop :=
  (∀ s : State, s.chip.power.high = false → s.chip.power.off = false →
    exec .vinHighEnter s =
      .next (withChip s ((s.chip.onPower (fun p => { p with high := true })).raise (regAddr 24 3 0) 4))) ∧
  (∀ s : State, exec .vinHighLeave s = .next (withChip s (s.chip.onPower (fun p => { p with high := false })))) ∧
  (∀ s : State, s.chip.power.vinLow = false → s.chip.power.off = false →
    exec .vinLowEnter s = .next (withChip s ((s.chip.onPower (fun p => { p with vinLow := true })).brake 2))) ∧
  (∀ (c : Chip) (cause : Nat), ∃ d : Chip, d.power = { c.power with cause := c.power.cause ||| cause, t := max c.power.t c.brakeT } ∧
    d.reg (regAddr 24 3 0x104) = min c.limitNow (levelW c.brakeT) ∧
    (c.power.cause ≠ 0 → c.brake cause = d) ∧
    (c.power.cause = 0 → c.brake cause = ((d.bump (regAddr 24 3 0x130) 1).raise (regAddr 24 3 0) 1).pmcEdge 24 5 0xC001 [] [0])) ∧
  (∀ s : State, s.chip.power.vinLow = true → s.chip.power.off = false → s.chip.power.cause = 2 →
    ∃ t, exec .vinLowRecover s = .next t ∧ t.sram = s.sram ∧ t.pending = s.pending ∧
      t.chip.power = { s.chip.power with vinLow := false, cause := 0 }) ∧
  (∀ s : State, s.chip.power.vinLow = true → s.chip.power.off = false → (s.chip.power.cause &&& 13) ≠ 0 → (s.chip.power.cause &&& 13) ≠ 1 →
    ∃ t, exec .vinLowRecover s = .next t ∧ t.sram = s.sram ∧ t.pending = s.pending ∧
      t.chip.power = { s.chip.power with vinLow := false, cause := s.chip.power.cause &&& 13 } ∧ t.chip.braking = true) ∧
  (∀ s : State, s.chip.power.vinLow = true → s.chip.power.off = false → (s.chip.power.cause &&& 13) = 1 →
    ∃ t, exec .vinLowRecover s = .next t ∧ t.sram = s.sram ∧ t.pending = s.pending ∧
      t.chip.power = { s.chip.power with vinLow := false, cause := 0 }) ∧
  (∀ s : State, s.chip.power.vinLow = false → exec .vinLowRecover s = .next s) ∧
  (∀ s : State, s.chip.power.warn = false → s.chip.power.off = false →
    ∃ t, exec .inputWarn s = .next t ∧ t.sram = s.sram ∧ t.chip.power.warn = true ∧ t.pending = s.pending) ∧
  (∀ s : State, s.chip.power.warn = true →
    ∃ t, exec .inputWarnEnd s = .next t ∧ t.chip.power = { s.chip.power with warn := false } ∧
      t.sram = s.sram ∧ t.pending = s.pending) ∧
  (∀ s : State, s.chip.power.cause = 1 →
    ∃ t, exec .brakeEnd s = .next t ∧ t.chip.power = { s.chip.power with cause := 0 } ∧
      t.sram = s.sram ∧ t.pending = s.pending) ∧
  (∀ (at_ : Nat) (s : State), s.chip.power.cause = 4 ∨ s.chip.power.cause = 5 → s.chip.power.coolAt = some at_ →
    ∃ t, exec .brakeEnd s = .next t ∧ t.chip.power = { s.chip.power with cause := 0 } ∧
      t.chip.now = max s.chip.now (at_ + 1000000) ∧ t.sram = s.sram ∧ t.pending = s.pending) ∧
  (∀ (at_ : Nat) (s : State), (s.chip.power.cause &&& 4) ≠ 0 → (s.chip.power.cause &&& 10) ≠ 0 → s.chip.power.coolAt = some at_ →
    ∃ t, exec .brakeEnd s = .next t ∧ t.chip.power = { s.chip.power with cause := s.chip.power.cause &&& 11 } ∧
      t.chip.now = max s.chip.now (at_ + 1000000) ∧ t.sram = s.sram ∧ t.pending = s.pending) ∧
  (∀ s : State, s.chip.power.coolAt = none → (s.chip.power.cause &&& 14) ≠ 0 → exec .brakeEnd s = .next s)

/-- An orderly shutdown starts at stage 0 under brake cause SHUTDOWN and raises SHUTDOWN, whose entry joins the owner's
event queue (R521, R522, R536, R542, R544), even where the signal was up already, which is the model's reading (log entry
92): on a VIN band, a rail fault, a rail that does not start, a sensor at 110 °C for 100 µs, a die counted hot for 10 ms.
Completes VIN_SHUTDOWN_BAND, RAIL_FAULT, RAIL_START_TIMEOUT, THERMAL_SHUTDOWN and DIE_HOT_SHUTDOWN. The stages of a shutdown
(R536, R537, R545), each at its time after the start: at 5 µs ADMIT is cleared on every port, at 25 µs every gate is closed
and every port DISABLED, at 40 µs the rails of the quadrants and press dies are off and what they held is lost, at 60 µs VL
and VE, and C0 enters reset, at 110 µs VC, at 200 µs VA, and the part is off. VIN below 17.0 V and a trip sensor turn every
rail off at once, and C0 enters reset. C0's SRAM is lost with the step on which C0, up till then, enters reset. Completes
SHUTDOWN_STAGE, VIN_OFF and TRIP_SENSOR. -/
def Obligations.ShutdownStartsAndStages : Prop :=
  (∀ c : Chip, c.power.stage = none → c.power.off = false →
    c.shutdown = ((c.onPower (fun p => { p with stage := some 0, stageAt := c.now })).brake 8).shutdownEvent) ∧
  (∀ c : Chip, bit (c.shutdownEvent.reg (regAddr 24 3 0x18)) 4 = true ∧ c.shutdownEvent.power = c.power ∧
    (c.rst.c0Up = true → 0 < c.mgmt.evq.length → (c.mgmt.evq.getD 0 []).length < 1024 →
      ∃ e ∈ c.shutdownEvent.mgmt.evq.getD 0 [], e.page = regAddr 24 3 0 ∧ e.time = c.time.ft ∧ bit e.evt 4 = true)) ∧
  (∀ (high : Bool) (s : State), exec (.vinShutdownBand high) s = .next (withChip s s.chip.shutdown)) ∧
  (∀ (rail : Fin 20) (s : State), bit s.chip.power.rails rail.val = true → s.chip.power.off = false →
    exec (.railFault rail) s =
      .next (withChip s (((s.chip.onPower (fun p => { p with rails := setBit p.rails rail.val false })).raise
        (regAddr 24 3 0) 8).shutdown))) ∧
  (∀ (rail : Fin 20) (s : State), s.chip.power.step < 6 → rail.val ∈ railStep s.chip.power.step → s.chip.power.off = false →
    s.chip.power.stage = none →
    exec (.railStartTimeout rail) s =
      .next (withChip s ((((s.chip.till (s.chip.power.stepAt + 2000000)).raise (regAddr 24 3 0) 8)).shutdown))) ∧
  (∀ (sensor : Fin 180) (at_ : Nat) (s : State), SMap.get? s.chip.power.hotAt sensor.val = some at_ →
    exec (.thermalShutdown sensor) s = .next (withChip s ((s.chip.till (at_ + 100000)).shutdown))) ∧
  (∀ (die : Fin 25) (at_ : Nat) (s : State), SMap.get? s.chip.power.overAt die.val = some at_ →
    exec (.dieHotShutdown die) s = .next (withChip s ((s.chip.till (at_ + 10000000)).shutdown))) ∧
  (∀ s : State, s.chip.power.stage = some 0 →
    ∃ t, exec .shutdownStage s = .next t ∧ t.chip.now = max s.chip.now (s.chip.power.stageAt + 5000) ∧
      t.chip.power = { s.chip.power with stage := some 1 } ∧ (∀ p, p < 1024 → t.chip.isAdmitted p = false) ∧
      (∀ p, p < 1024 → s.chip.isAdmitted p = true → t.chip.active p = false) ∧ t.sram = s.sram ∧ t.pending = s.pending) ∧
  (∀ s : State, s.chip.power.stage = some 1 →
    ∃ t, exec .shutdownStage s = .next t ∧ t.chip.now = max s.chip.now (s.chip.power.stageAt + 25000) ∧
      t.chip.power = { s.chip.power with stage := some 2 } ∧ (∀ e, e < 16 → t.chip.reg (oen e 0x100) = 0) ∧
      (∀ p, p < 1024 → (t.chip.port p).st = .disabled) ∧ t.sram = s.sram ∧ t.pending = s.pending) ∧
  (∀ s : State, s.chip.power.stage = some 2 →
    ∃ t, exec .shutdownStage s = .next t ∧ t.chip.now = max s.chip.now (s.chip.power.stageAt + 40000) ∧
      t.chip.power.stage = some 3 ∧ t.chip.ports = [] ∧ t.chip.links = [] ∧ t.chip.pkts = [] ∧ t.chip.ctxs = [] ∧
      (∀ r, r < 16 → bit t.chip.power.rails r = false) ∧ t.sram = s.sram ∧ t.pending = s.pending) ∧
  (∀ s : State, s.chip.power.stage = some 3 →
    ∃ t, exec .shutdownStage s = .next t ∧ t.chip.now = max s.chip.now (s.chip.power.stageAt + 60000) ∧
      t.chip.power.stage = some 4 ∧ bit t.chip.power.rails 16 = false ∧ bit t.chip.power.rails 17 = false ∧
      (∀ r, r < 20 → r ≠ 16 ∧ r ≠ 17 → bit t.chip.power.rails r = bit s.chip.power.rails r) ∧
      t.chip.rst.c0Up = false ∧ t.chip.mgmt.bypass = true ∧ t.chip.rst.resets = s.chip.rst.resets ∧
      t.sram = (if s.chip.rst.c0Up = true then [] else s.sram) ∧ t.pending = s.pending) ∧
  (∀ s : State, s.chip.power.stage = some 4 →
    ∃ t, exec .shutdownStage s = .next t ∧ t.chip.now = max s.chip.now (s.chip.power.stageAt + 110000) ∧
      t.chip.power = { s.chip.power with stage := some 5, rails := setBit s.chip.power.rails 18 false } ∧
      t.chip.rst = s.chip.rst ∧ t.sram = s.sram ∧ t.pending = s.pending) ∧
  (∀ s : State, s.chip.power.stage = some 5 →
    ∃ t, exec .shutdownStage s = .next t ∧ t.chip.now = max s.chip.now (s.chip.power.stageAt + 200000) ∧
      t.chip.power.off = true ∧ t.chip.power.rails = 0 ∧ t.chip.power.stage = none ∧
      t.chip.rst.c0Up = false ∧ t.chip.mgmt.bypass = true ∧ t.sram = (if s.chip.rst.c0Up = true then [] else s.sram) ∧
      t.pending = s.pending) ∧
  (∀ s : State, s.chip.power.stage = none → exec .shutdownStage s = .next s) ∧
  (∀ s : State, s.chip.power.off = false →
    ∃ t, exec .vinOff s = .next t ∧ t.chip.power.off = true ∧ t.chip.power.below17 = true ∧ t.chip.power.rails = 0 ∧
      t.chip.rst.c0Up = false ∧ t.sram = (if s.chip.rst.c0Up = true then [] else s.sram) ∧ t.pending = s.pending) ∧
  (∀ (sensor : Fin 25) (s : State), s.chip.power.off = false →
    ∃ t, exec (.tripSensor sensor) s = .next t ∧ t.chip.power.off = true ∧ t.chip.power.rails = 0 ∧
      t.chip.rst.c0Up = false ∧ t.sram = (if s.chip.rst.c0Up = true then [] else s.sram) ∧ t.pending = s.pending)

/-- Temperature (R539 to R544): a reading stores each sensor's value in order, and where a sensor that was not in fault is
now, SENSOR_FAULT is raised; readings in range of sensors that are not in fault are shown, in sixteenths of a degree, one of
none, or one out of range, puts its sensor in fault; the brake of cause THERMAL starts when the hottest reaches BRAKE_C or a
throttling die is counted hot, and the time since which the part has been cool is kept for its end; an engine sensor at
THROTTLE_C raises ENGINE_HOT once; the 100 µs of a sensor at 110 °C and the 10 ms of a die counted hot start with the first
reading that shows it (R542 to R544); T_TH rises by 1 for each 100 µs at or above THROTTLE_C, and falls by 1 for each 1 ms
below it by 2 °C. That a reading's time is that of its 10 µs tick and that the brake acts at once are the model's readings
(log entries 7 and 36). Completes THERMAL_READ, THROTTLE_FLOOR_RISE and THROTTLE_FLOOR_FALL. -/
def Obligations.Temperature : Prop :=
  (∀ (readings : List (Option Int)) (s : State), s.chip.power.off = false →
    ∃ t, exec (.thermalRead readings) s = .next t ∧ t.sram = s.sram ∧ t.pending = s.pending ∧
      t.chip.now = (s.chip.tick 8 10000).now ∧ t.chip.pkts = s.chip.pkts ∧ t.chip.ports = s.chip.ports ∧
      (∀ k, k < 180 → t.chip.temp k =
        ((s.chip.tick 8 10000).each (List.range 180) (fun c j => c.readSensor j (readings.getD j none))).temp k) ∧
      t.chip.power.fault =
        ((s.chip.tick 8 10000).each (List.range 180) (fun c j => c.readSensor j (readings.getD j none))).power.fault ∧
      t.chip.power.good =
        ((s.chip.tick 8 10000).each (List.range 180) (fun c j => c.readSensor j (readings.getD j none))).power.good ∧
      (∀ k, k < 180 → ¬ k ∈ s.chip.power.fault → k ∈ t.chip.power.fault → bit (t.chip.reg (thm 0x18)) 2 = true)) ∧
  (∀ (c : Chip) (k : Nat) (x : Int), k < 180 → ¬ k ∈ c.power.fault → -320 ≤ x → x ≤ 2400 →
    (c.readSensor k (some x)).temp? k = some x) ∧
  (∀ (c : Chip) (k : Nat), k < 180 → ¬ k ∈ c.power.fault →
    k ∈ (c.readSensor k none).power.fault ∧ (c.readSensor k none).temp? k = none ∧
      bit ((c.readSensor k none).reg (thm 0x18)) 2 = true) ∧
  (∀ (c : Chip) (k : Nat) (x : Int), x < -320 ∨ 2400 < x → c.readSensor k (some x) = c.readSensor k none) ∧
  (∀ (c : Chip) (k : Nat) (x : Int), k < 180 → k ∈ c.power.fault → -320 ≤ x → x ≤ 2400 → SMap.getD c.power.good k 0 < 99 →
    c.readSensor k (some x) =
      c.onPower (fun p => { p with good := SMap.set p.good k (SMap.getD c.power.good k 0 + 1) })) ∧
  (∀ (readings : List (Option Int)) (e : Chip) (s : State), s.chip.power.off = false →
    e = (s.chip.tick 8 10000).each (List.range 180) (fun c j => c.readSensor j (readings.getD j none)) →
    e.hottest.any (fun h => decide (e.brakeC ≤ h.1)) = true ∨
      (List.range 8 ++ [24]).any e.dieHot = true →
    (e.power.cause &&& 4) = 0 →
    ∃ t, exec (.thermalRead readings) s = .next t ∧ t.chip.power.cause = (e.power.cause ||| 4) ∧
      t.chip.power.t = max e.power.t e.brakeT ∧
      t.chip.reg (regAddr 24 3 0x104) = min e.limitNow (levelW e.brakeT) ∧
      t.chip.reg (thm 0x124) = min (e.reg (thm 0x124) + 1) 0xFFFFFFFF ∧ bit (t.chip.reg (thm 0x18)) 1 = true) ∧
  (∀ (readings : List (Option Int)) (e : Chip) (s : State), s.chip.power.off = false →
    e = (s.chip.tick 8 10000).each (List.range 180) (fun c j => c.readSensor j (readings.getD j none)) →
    (e.hottest.any (fun h => decide (e.brakeC ≤ h.1)) = false ∧
      (List.range 8 ++ [24]).any e.dieHot = false) ∨ (e.power.cause &&& 4) ≠ 0 →
    ∃ t, exec (.thermalRead readings) s = .next t ∧ t.chip.power.cause = s.chip.power.cause ∧ t.chip.power.t = s.chip.power.t) ∧
  (∀ (readings : List (Option Int)) (e : Chip) (s : State), s.chip.power.off = false →
    e = (s.chip.tick 8 10000).each (List.range 180) (fun c j => c.readSensor j (readings.getD j none)) →
    ∃ t, exec (.thermalRead readings) s = .next t ∧
      t.chip.power.coolAt = (if e.hottest.all (fun h => decide (h.1 < e.brakeC - 64)) = true ∧
          (List.range 25).any e.dieHot = false
        then some (s.chip.power.coolAt.getD e.now) else none) ∧
      (∀ k, k < 180 → SMap.get? t.chip.power.hotAt k =
        (if (e.temp? k).any (fun x => decide (1760 ≤ x)) = true
          then some (SMap.getD s.chip.power.hotAt k e.now) else none)) ∧
      (∀ d, d < 25 → SMap.get? t.chip.power.overAt d =
        (if e.dieHot d = true then some (SMap.getD s.chip.power.overAt d e.now) else none))) ∧
  (∀ (readings : List (Option Int)) (k : Nat) (x : Int) (e : Chip) (s : State), s.chip.power.off = false →
    e = (s.chip.tick 8 10000).each (List.range 180) (fun c j => c.readSensor j (readings.getD j none)) →
    144 ≤ k → k < 176 → e.temp? k = some x → e.throttleC ≤ x → ¬ k ∈ s.chip.power.engHot →
    ∃ t, exec (.thermalRead readings) s = .next t ∧ k ∈ t.chip.power.engHot ∧ bit (t.chip.reg (thm 0x18)) 3 = true) ∧
  (∀ (c : Chip) (k : Nat) (x : Int), c.temp? k = some x → k ∈ c.power.engHot →
    c.engineHot k = (if x < c.throttleC - 32 then c.onPower (fun p => { p with engHot := p.engHot.erase k }) else c)) ∧
  (∀ (c : Chip) (k : Nat) (x : Int), c.temp? k = some x → ¬ k ∈ c.power.engHot → x < c.throttleC → c.engineHot k = c) ∧
  (∀ (x : Int) (k : Nat) (s : State), s.chip.hottest = some (x, k) → s.chip.throttleC ≤ x → s.chip.power.tTh < 8 →
    s.chip.power.off = false →
    ∃ t, exec .throttleFloorRise s = .next t ∧ t.sram = s.sram ∧ t.pending = s.pending ∧
      t.chip.power.tTh = s.chip.power.tTh + 1 ∧ t.chip.power.t = max s.chip.power.t (s.chip.power.tTh + 1)) ∧
  (∀ (x : Int) (k : Nat) (s : State), s.chip.hottest = some (x, k) → x < s.chip.throttleC - 32 → 0 < s.chip.power.tTh →
    s.chip.power.off = false →
    exec .throttleFloorFall s =
      .next (withChip s ((s.chip.tick 10 1000000).onPower (fun p => { p with tTh := p.tTh - 1 }))))

/-- Power-on (R493, R537, R548 to R550): VIN at 20.4 V after it was below 17.0 V resets everything but the fuses and starts
the sequencer; each step adds its rails, and with the last C0 leaves reset; with a good reference the part takes it; the
straps are sampled once, and a change of their levels that has lasted 1 µs is shown; then the boot ROM releases the bypass.
Completes POWER_ON, RAIL_SEQUENCE_STEP, REFERENCE_SELECT, STRAP_SAMPLE, STRAP_CHANGE and BYPASS_RELEASE. -/
def Obligations.PowerOn : Prop :=
  (∀ s : State, s.chip.power.off = true → s.chip.power.below17 = true →
    ∃ t, exec .powerOn s = .next t ∧ t.pending = s.pending ∧ t.chip.rst.c0Up = false ∧ t.chip.power.off = false ∧
      t.chip.power.rails = 0 ∧ t.chip.power.step = 0 ∧ t.chip.regs = [] ∧ t.chip.pages = [] ∧ t.chip.ports = [] ∧
      t.chip.mgmt = { keys := s.chip.mgmt.keys, revoked := s.chip.mgmt.revoked, floor := s.chip.mgmt.floor }) ∧
  (∀ s : State, s.chip.power.step < 5 → s.chip.power.off = false → s.chip.power.stage = none →
    exec .railSequenceStep s = .next (withChip s (s.chip.onPower (fun p => { p with
      rails := (railStep p.step).foldl (fun r i => setBit r i true) p.rails, step := p.step + 1,
      stepAt := s.chip.now })))) ∧
  (∀ s : State, s.chip.power.step = 5 → s.chip.power.off = false → s.chip.power.stage = none → s.chip.rst.kind = 0 →
    ∃ t, exec .railSequenceStep s = .next t ∧ t.chip.rst = { s.chip.rst with c0Up := true } ∧ t.chip.power.step = 6 ∧
      bit t.chip.power.rails 17 = true ∧ t.chip.regs = s.chip.regs ∧ t.sram = s.sram ∧ t.pending = s.pending) ∧
  (∀ (p b : Bool) (s : State), s.chip.rst.refChosen = false → p || b →
    exec (.referenceSelect p b) s = .next (withChip s (s.chip.onRst (fun r =>
      { r with primOk := p, backOk := b, backup := !p && b, refChosen := true })))) ∧
  (∀ s : State, s.chip.rst.refChosen = false →
    ∃ t, exec (.referenceSelect false false) s = .next t ∧ t.chip.rst.refsLost = true ∧ t.chip.rst.kind = 1 ∧
      t.chip.rst.c0Up = false ∧ t.pending = s.pending) ∧
  (∀ (pos : BitVec 3) (side : Bool) (s : State), s.chip.rst.strapped = false → s.chip.rst.c0Up = true →
    exec (.strapSample pos side) s = .next (withChip s ((s.chip.pass 15000).onRst (fun r =>
      { r with strapped := true, pos := pos.toNat, side := side, livePos := pos.toNat, liveSide := side })))) ∧
  (∀ (pos : BitVec 3) (side : Bool) (s : State), s.chip.rst.livePos ≠ pos.toNat → s.chip.rst.strapped = true →
    ∃ t, exec (.strapChange pos side) s = .next t ∧ t.chip.rst.pos = s.chip.rst.pos ∧ t.chip.rst.side = s.chip.rst.side ∧
      t.chip.rst.livePos = pos.toNat ∧ t.chip.now = s.chip.now + 1000 ∧ t.chip.regBit (regAddr 24 6 0x10C) 31 = true ∧
      t.sram = s.sram ∧ t.pending = s.pending) ∧
  (∀ s : State, s.chip.rst.c0Up = true → s.chip.rst.strapped = true → s.chip.mgmt.bypass = true →
    exec .bypassRelease s = .next (withChip s (s.chip.onMgmt (fun m => { m with bypass := false, helloAt := s.chip.now }))))

/-- What a reset leaves (R558): PART every die but island CP, with C0 in reset and SRAM lost; DATAPATH the quadrants, press
dies and engines, C0 as it was; QUADRANT the packets its buffer stores; PRESS the contexts of the die. RST_CMD (R558, R560,
R561): an accepted command that starts at once performs its reset, one with GRACE clears ADMIT of the ports first and
performs it at GRACE_END, when they have left ACTIVE and finished their packets or GRACE_TIME has passed; RESET_DONE ends
it, a PART reset with C0 out of reset, and with none left in progress GO reads 0, RESULT 0, and RESET_DONE is raised; a
command for a die that a reset in progress includes completes with RESULT 1, one for another die is accepted beside it, and
of several in progress RESET_DONE and GRACE_END take the one that has run longest, with GO reading 1 till the last; after a
QUADRANT reset ADMIT returns and the automatic rebuild starts; a PRESS or ENGINE reset has no GRACE. That a reset of another
die is accepted, which of several ends first, and GO while one is left are the model's (log entry 43). Completes PART_RESET,
DATAPATH_RESET, QUADRANT_RESET, PRESS_RESET, ENGINE_RESET, GRACE_END and RESET_DONE. -/
def Obligations.Resets : Prop :=
  (∀ (c : Chip) (cause : Nat), (c.resetPart cause).rst.c0Up = false ∧ (c.resetPart cause).rst.cause = cause ∧
    (c.resetPart cause).rst.resets = min 255 (c.rst.resets + 1) ∧ (c.resetPart cause).ports = [] ∧
    (c.resetPart cause).tables = [] ∧ (c.resetPart cause).ctxs = [] ∧ (c.resetPart cause).power = c.power ∧
    (c.resetPart cause).mgmt.keys = c.mgmt.keys ∧ (c.resetPart cause).mgmt.floor = c.mgmt.floor ∧
    (c.resetPart cause).mgmt.bypass = true ∧ (c.resetPart cause).mgmt.fw = 0 ∧
    (c.resetPart cause).time.lastSync = c.now) ∧
  (∀ c : Chip, c.resetDatapath.ports = [] ∧ c.resetDatapath.links = [] ∧ c.resetDatapath.tables = [] ∧
    c.resetDatapath.jobs = [] ∧ c.resetDatapath.ctxs = [] ∧ c.resetDatapath.pkts = [] ∧ c.resetDatapath.rst.c0Up = c.rst.c0Up ∧
    c.resetDatapath.power = c.power ∧ c.resetDatapath.mgmt.fw = c.mgmt.fw) ∧
  (∀ (c : Chip) (q : Fin 4), (c.resetQuadrant q.val).stores.all (fun x => x.q != q.val) = true) ∧
  (∀ (c : Chip) (p : Fin 4) (x : Fin 24), (c.resetPress p.val).ctx (24 * p.val + x.val) = {}) ∧
  (∀ (dom : Dom) (s : State), MayWrite s.chip dom 24 6 0x100 0x81000000 → s.chip.isOn 24 6 = true → s.chip.rst.kind = 0 →
    s.chip.power.stage = none →
    ∃ t, exec (.partReset dom false) s = .next t ∧ t.chip.rst.c0Up = false ∧ t.chip.rst.kind = 1 ∧ t.chip.rst.cause = 1 ∧
      t.chip.ports = [] ∧ t.chip.tables = [] ∧ t.sram = [] ∧ t.pending = s.pending) ∧
  (∀ (dom : Dom) (s : State), MayWrite s.chip dom 24 6 0x100 0x82000000 → s.chip.isOn 24 6 = true → s.chip.rst.kind = 0 →
    s.chip.power.stage = none →
    ∃ t, exec (.datapathReset dom false) s = .next t ∧ t.pending = s.pending ∧ t.chip =
      (((s.chip.setReg (regAddr 24 6 0x100) 0x82000000).onRst (fun r =>
        { r with kind := 2, target := 0, cmd := true, at_ := s.chip.now, admits := [], grace := false })).resetDatapath)) ∧
  (∀ (dom : Dom) (q : Fin 4) (s : State), MayWrite s.chip dom 24 6 0x100 (0x83000000 + q.val) → s.chip.isOn 24 6 = true → s.chip.rst.kind = 0 →
    s.chip.power.stage = none →
    ∃ t, exec (.quadrantReset dom q false) s = .next t ∧ t.pending = s.pending ∧ t.chip =
      (((s.chip.setReg (regAddr 24 6 0x100) (0x83000000 + q.val)).onRst (fun r =>
        { r with kind := 3, target := q.val, cmd := true, at_ := s.chip.now, admits := [], grace := false })).resetQuadrant
        q.val)) ∧
  (∀ (dom : Dom) (p : Fin 4) (s : State), MayWrite s.chip dom 24 6 0x100 (0x84000000 + p.val) → s.chip.isOn 24 6 = true → s.chip.rst.kind = 0 →
    s.chip.power.stage = none →
    ∃ t, exec (.pressReset dom p) s = .next t ∧ t.pending = s.pending ∧ t.chip =
      (((s.chip.setReg (regAddr 24 6 0x100) (0x84000000 + p.val)).onRst (fun r =>
        { r with kind := 4, target := p.val, cmd := true, at_ := s.chip.now, admits := [], grace := false })).resetPress
        p.val)) ∧
  (∀ (dom : Dom) (e : Fin 16) (s : State), MayWrite s.chip dom 24 6 0x100 (0x85000000 + e.val) → s.chip.isOn 24 6 = true → s.chip.rst.kind = 0 →
    s.chip.power.stage = none →
    ∃ t, exec (.engineReset dom e) s = .next t ∧ t.pending = s.pending ∧ t.chip =
      (((s.chip.setReg (regAddr 24 6 0x100) (0x85000000 + e.val)).onRst (fun r =>
        { r with kind := 5, target := e.val, cmd := true, at_ := s.chip.now, admits := [], grace := false })).resetEngine
        e.val)) ∧
  (∀ (dom : Dom) (s : State), MayWrite s.chip dom 24 6 0x100 0xC1000000 → s.chip.isOn 24 6 = true → s.chip.rst.kind = 0 →
    s.chip.power.stage = none →
    ∃ t, exec (.partReset dom true) s = .next t ∧ t.chip.rst.grace = true ∧ t.chip.rst.kind = 1 ∧
      t.chip.rst.c0Up = s.chip.rst.c0Up ∧ (∀ p, p < 1024 → t.chip.isAdmitted p = false) ∧
      t.chip.rst.admits = (List.range 1024).filter s.chip.isAdmitted ∧ t.sram = s.sram ∧ t.pending = s.pending) ∧
  (∀ (dom : Dom) (s : State), MayWrite s.chip dom 24 6 0x100 0xC2000000 → s.chip.isOn 24 6 = true → s.chip.rst.kind = 0 →
    s.chip.power.stage = none →
    ∃ t, exec (.datapathReset dom true) s = .next t ∧ t.chip.rst.grace = true ∧ t.chip.rst.kind = 2 ∧
      (∀ p, p < 1024 → t.chip.isAdmitted p = false) ∧
      t.chip.rst.admits = (List.range 1024).filter s.chip.isAdmitted ∧ t.pending = s.pending) ∧
  (∀ (dom : Dom) (q : Fin 4) (s : State), MayWrite s.chip dom 24 6 0x100 (0xC3000000 + q.val) → s.chip.isOn 24 6 = true →
    s.chip.rst.kind = 0 → s.chip.power.stage = none →
    ∃ t, exec (.quadrantReset dom q true) s = .next t ∧ t.chip.rst.grace = true ∧ t.chip.rst.kind = 3 ∧
      t.chip.rst.target = q.val ∧ (∀ p, p < 1024 → p / 256 = q.val → t.chip.isAdmitted p = false) ∧
      t.chip.rst.admits = ((List.range 256).map (· + 256 * q.val)).filter s.chip.isAdmitted ∧ t.pending = s.pending) ∧
  (∀ s : State, s.chip.rst.grace = true →
    ∃ t, exec .graceEnd s = .next t ∧ t.pending = s.pending ∧
      t.chip = ((s.chip.graceOver s.chip.rst.kind s.chip.rst.target s.chip.rst.at_).onRst
        (fun r => { r with grace := false })).resetWhat s.chip.rst.kind s.chip.rst.target) ∧
  (∀ s : State, s.chip.rst.grace = true → s.chip.rst.kind = 1 → s.chip.rst.c0Up = true →
    ∃ t, exec .graceEnd s = .next t ∧ t.chip.rst.c0Up = false ∧ t.chip.ports = [] ∧ t.chip.tables = [] ∧ t.sram = [] ∧
      t.pending = s.pending) ∧
  (∀ s : State, s.chip.rst.grace = true → s.chip.rst.kind = 2 →
    ∃ t, exec .graceEnd s = .next t ∧ t.chip.rst.grace = false ∧ t.chip.ports = [] ∧ t.chip.tables = [] ∧
      t.pending = s.pending) ∧
  (∀ (q : Fin 4) (s : State), s.chip.rst.grace = true → s.chip.rst.kind = 3 → s.chip.rst.target = q.val →
    ∃ t, exec .graceEnd s = .next t ∧ t.chip.stores.all (fun x => x.q != q.val) = true ∧ t.pending = s.pending) ∧
  (∀ (c : Chip) (kind target at_ : Nat), c.graceOver kind target at_ =
    (if (gracePorts kind target).all (fun p =>
        !c.active p && !c.copies.any (fun x => x.link == p && x.headSent && !x.tailSent)) = true
      then c else c.till (at_ + 1000 * fld (c.reg (regAddr 24 6 0x110)) 9 0))) ∧
  (∀ s : State, s.chip.rst.kind = 2 ∨ s.chip.rst.kind = 4 ∨ s.chip.rst.kind = 5 → s.chip.rst.grace = false →
    s.chip.rst.refsLost = false → s.chip.power.off = false → s.chip.power.stage = none → s.chip.rst.more = [] →
    s.chip.rst.cmd = true →
    exec .resetDone s = .next (withChip s (((((s.chip.onRst (fun r =>
      { r with kind := 0, target := 0, cmd := false, admits := [] })).setRegBit (regAddr 24 6 0x100) 31 false).setReg
        (regAddr 24 6 0x104) 0)).raise (regAddr 24 6 0) 2))) ∧
  (∀ s : State, s.chip.rst.kind = 1 → s.chip.rst.grace = false → s.chip.rst.refsLost = false → s.chip.power.off = false →
    s.chip.power.stage = none → s.chip.rst.more = [] →
    ∃ t, exec .resetDone s = .next t ∧ t.chip.rst.kind = 0 ∧ t.chip.rst.c0Up = true ∧ t.pending = s.pending ∧
      (s.chip.rst.cmd = true → t.chip.regBit (regAddr 24 6 0x100) 31 = false ∧ t.chip.reg (regAddr 24 6 0x104) = 0 ∧
        bit (t.chip.reg (regAddr 24 6 0x18)) 1 = true)) ∧
  (∀ (dom : Dom) (p : Fin 4) (s : State), MayWrite s.chip dom 24 6 0x100 (0x84000000 + p.val) → s.chip.isOn 24 6 = true → s.chip.rst.kind = 4 →
    s.chip.rst.target = p.val →
    exec (.pressReset dom p) s =
      .next (withChip s ((s.chip.setReg (regAddr 24 6 0x100) (0x84000000 + p.val)).setReg (regAddr 24 6 0x104) 1))) ∧
  (∀ (dom : Dom) (p k : Fin 4) (s : State), MayWrite s.chip dom 24 6 0x100 (0x84000000 + p.val) → s.chip.isOn 24 6 = true →
    s.chip.power.stage = none → s.chip.rst.kind = 4 → s.chip.rst.target = k.val → k ≠ p → s.chip.rst.more = [] →
    ∃ t, exec (.pressReset dom p) s = .next t ∧ t.chip.rst.kind = 4 ∧ t.chip.rst.target = k.val ∧
      t.chip.rst.more = [{ kind := 4, target := p.val, grace := false, admits := [], at_ := s.chip.now }] ∧
      (∀ x : Fin 24, t.chip.ctx (24 * p.val + x.val) = {}) ∧ t.pending = s.pending) ∧
  (∀ (q : Fin 4) (s : State), s.chip.rst.kind = 3 → s.chip.rst.target = q.val → s.chip.rst.grace = false →
    s.chip.rst.refsLost = false → s.chip.power.off = false → s.chip.power.stage = none → s.chip.rst.more = [] →
    s.chip.rst.cmd = true →
    exec .resetDone s = .next (withChip s ((((((s.chip.quadrantDone q.val s.chip.rst.admits).onRst (fun r =>
      { r with kind := 0, target := 0, cmd := false, admits := [] })).setRegBit (regAddr 24 6 0x100) 31 false).setReg
        (regAddr 24 6 0x104) 0)).raise (regAddr 24 6 0) 2))) ∧
  (∀ (c : Chip) (q p : Nat) (admits : List Nat), p ∈ admits → p < 1024 → (c.quadrantDone q admits).isAdmitted p = true) ∧
  (∀ (c : Chip) (q : Fin 4) (admits : List Nat), (c.quadrantDone q.val admits).regBit (bufPage q.val + 0x100) 8 = true →
    (c.quadrantDone q.val admits).policy 3 = true → (c.quadrantDone q.val admits).isOn q.val 0x44 = true →
    ((c.quadrantDone q.val admits).buf q.val).rebuilding = true ∧ ((c.quadrantDone q.val admits).buf q.val).auto = true) ∧
  (∀ (m : ResetRun) (rest : List ResetRun) (s : State), s.chip.rst.kind = 2 ∨ s.chip.rst.kind = 4 ∨ s.chip.rst.kind = 5 →
    s.chip.rst.grace = false → s.chip.rst.refsLost = false → s.chip.power.off = false → s.chip.power.stage = none →
    s.chip.rst.more = m :: rest → m.kind ≠ 0 → s.chip.rst.cmd = true →
    exec .resetDone s = .next (withChip s (((s.chip.onRst (fun r => { r with
      kind := m.kind, target := m.target, grace := m.grace, admits := m.admits, at_ := m.at_, cmd := true, more := rest })).setReg
        (regAddr 24 6 0x104) 0).raise (regAddr 24 6 0) 2))) ∧
  (∀ (m : ResetRun) (s : State), s.chip.rst.kind ≠ 0 → s.chip.rst.grace = true → s.chip.rst.refsLost = false →
    s.chip.power.off = false → s.chip.power.stage = none → s.chip.rst.more.find? (!·.grace) = some m →
    m.kind = 2 ∨ m.kind = 4 ∨ m.kind = 5 →
    exec .resetDone s = .next (withChip s (((s.chip.onRst (fun r => { r with more := r.more.erase m })).setReg
      (regAddr 24 6 0x104) 0).raise (regAddr 24 6 0) 2))) ∧
  (∀ (m : ResetRun) (s : State), s.chip.rst.grace = false → s.chip.rst.more.find? (·.grace) = some m →
    ∃ t, exec .graceEnd s = .next t ∧ t.pending = s.pending ∧
      t.chip = ((s.chip.graceOver m.kind m.target m.at_).onRst (fun x => { x with
        more := x.more.map (fun y => if y = m then { y with grace := false } else y) })).resetWhat m.kind m.target) ∧
  (∀ (dom : Dom) (p : Fin 4) (addr val : Word) (s : State), addr.toNat = regAddr 24 6 0x100 → val.toNat = 0xC4000000 + p.val →
    MayWrite s.chip dom 24 6 0x100 val.toNat → s.chip.isOn 24 6 = true → s.chip.rst.kind = 0 → s.chip.power.stage = none →
    ∃ t, exec (.registerWrite dom addr val) s = .next t ∧ t.pending = s.pending ∧ t.chip =
      (((s.chip.setReg (regAddr 24 6 0x100) val.toNat).onRst (fun r =>
        { r with kind := 4, target := p.val, cmd := true, at_ := s.chip.now, admits := [], grace := false })).resetPress
        p.val)) ∧
  (∀ (dom : Dom) (e : Fin 16) (addr val : Word) (s : State), addr.toNat = regAddr 24 6 0x100 → val.toNat = 0xC5000000 + e.val →
    MayWrite s.chip dom 24 6 0x100 val.toNat → s.chip.isOn 24 6 = true → s.chip.rst.kind = 0 → s.chip.power.stage = none →
    ∃ t, exec (.registerWrite dom addr val) s = .next t ∧ t.pending = s.pending ∧ t.chip =
      (((s.chip.setReg (regAddr 24 6 0x100) val.toNat).onRst (fun r =>
        { r with kind := 5, target := e.val, cmd := true, at_ := s.chip.now, admits := [], grace := false })).resetEngine
        e.val))

/-- Memory errors and the scrub (R563 to R566): a parity error is counted and raised, and an error in the selected banks
reloads the islands of the die, which take every flip that is due (of the other arrays the model keeps no copy apart from
the master, so that nothing else changes; log entry 52); a correctable error that a stint finds is counted; the stint that
ends a pass counts it; a pass that is late by PERIOD since the last one ended, or the policy began (the model's reading, log
entry 51), is counted once. An uncorrectable error that a stint finds is counted, recorded and treated by its memory (R251,
R564): packet data, a cell link, a reference or a handle is marked, so that what reads it finds it; a table entry or a
barrier counter is marked bad and counted; a replay buffer puts its port in FAULT, a seam buffer its seam; the queue state
puts the QUE page in FAULT and takes every port of the quadrant DOWN; a chunk in progress is POISONED, a retained copy
revoked, a context with its table store in FAILED; the firmware image halts the cores; an entry of an event queue, a record
of the dump ring, a request is dropped. Which word of a memory an index names, and which request holds a word, are the
model's (log entries 51 and 66). Completes PARITY_RELOAD, SCRUB_STINT and SCRUB_LATE. Clocks (R567 to R569): the spread is
stored for depths 0 to 5; when the reference in use fails the part switches to the other if it is good, FORCE_BACKUP
switches to a good backup; with both lost for 1 µs the part is held in PART reset, which a reference that has been good for
1 ms ends. A switch is counted and raised, and its error of at most 2 ns joins fabric time as it advances (a free value, log
entry 17). Completes CLK_SPREAD_WRITE, REFERENCE_FAIL, FORCE_BACKUP, REFERENCES_LOST and REFERENCE_RECOVER. -/
def Obligations.MemoryErrorsAndClocks : Prop :=
  (∀ (array : Fin 5) (die : Fin 25) (s : State), array.val ≠ 0 →
    exec (.parityReload array die) s =
      .next (withChip s ((s.chip.bump (regAddr 24 7 0x10C) 1).raise (regAddr 24 7 0) 2))) ∧
  (∀ (die : Fin 25) (s : State),
    exec (.parityReload 0 die) s =
      .next (withChip s (((s.chip.bump (regAddr 24 7 0x10C) 1).raise (regAddr 24 7 0) 2).reloadBanks die.val))) ∧
  (∀ (c : Chip) (die : Nat), (∀ x ∈ c.jobs, x.2.pend.all (fun y => decide (c.time.ft < y.2)) = true) → c.reloadBanks die = c) ∧
  (∀ (c : Chip) (j t : Nat) (b : Bool) (k : Job), c.jobs = [(j, k)] → k.pend = some (b, t) → t ≤ c.time.ft →
    c.reloadBanks 24 = c.flipIsland 72 j b ∧
    (∀ p : Fin 4, c.reloadBanks (4 + p.val) = c.flipIsland (68 + p.val) j b) ∧
    (∀ q : Fin 4, c.reloadBanks q.val =
      (c.each ((List.range 16).map (· + 16 * q.val) ++ [64 + q.val]) (fun c isl => c.flipIsland isl j b)))) ∧
  (∀ (c : Chip) (isl j : Nat) (b : Bool), (c.job j).bankIn isl ≠ b → ¬ isl ∈ (c.job j).moved → (c.job j).moved.length + 1 < 73 → c.held = [] →
    isl < 68 → c.rinses = [] → ((c.flipIsland isl j b).job j).bankIn isl = b) ∧
  (∀ (e : ScrubErr) (s : State), s.chip.policy 5 = true → e.memory ≠ 10 → e.uncorrectable = false →
    (e.memory ≠ 6 ∨ e.die.val < 4 ∨ 8 ≤ e.die.val →
      exec (.scrubStint false [e]) s = .next (withChip s (s.chip.bump (regAddr 24 7 0x104) 1))) ∧
    (e.memory = 6 → 4 ≤ e.die.val → e.die.val < 8 →
      exec (.scrubStint false [e]) s =
        .next (withChip s ((s.chip.bump (regAddr 24 7 0x104) 1).pmc e.die.val 8 0x7005 none none)))) ∧
  (∀ s : State, s.chip.policy 5 = true →
    exec (.scrubStint true []) s = .next (withChip s (Chip.bump
      { s.chip with rst := { s.chip.rst with scrubAt := s.chip.now, scrubLate := false } } (regAddr 24 7 0x118) 1))) ∧
  (∀ s : State, s.chip.policy 5 = true → s.chip.rst.scrubLate = false →
    ∃ t, exec .scrubLate s = .next t ∧ t.chip.rst.scrubLate = true ∧
      t.chip.now = max s.chip.now (s.chip.rst.scrubAt + 1000000 * fld (s.chip.reg (regAddr 24 7 0x100)) 13 0) ∧
      t.chip.reg (regAddr 24 7 0x11C) = min (s.chip.reg (regAddr 24 7 0x11C) + 1) 0xFFFFFFFF ∧
      bit (t.chip.reg (regAddr 24 7 0x18)) 2 = true ∧ t.sram = s.sram ∧ t.pending = s.pending) ∧
  (∀ (e : ScrubErr) (s : State), s.chip.policy 5 = true → e.memory ≠ 10 → e.uncorrectable = true →
    exec (.scrubStint false [e]) s =
      .next (withChip s ((s.chip.countUe e.die.val e.memory.val e.index).hurt e.die.val e.memory.val e.index))) ∧
  (∀ (c : Chip) (die memory index : Nat), die < 25 → memory < 11 →
    (c.countUe die memory index).reg (regAddr 24 7 0x108) = min (c.reg (regAddr 24 7 0x108) + 1) 0xFFFFFFFF ∧
    (c.countUe die memory index).reg (regAddr 24 7 0x110) = 2 ^ 31 + 2 ^ 24 * die + 2 ^ 16 * memory ∧
    (c.countUe die memory index).reg (regAddr 24 7 0x114) = index % 2 ^ 32 ∧
    bit ((c.countUe die memory index).reg (regAddr 24 7 0x18)) 0 = true) ∧
  (∀ (c : Chip) (q : Fin 4) (index k : Nat) (x : Store),
    c.stores.find? (fun x => x.q == q.val && x.cells.contains (index / 32)) = some x → x.byteOf index = some k →
    k < x.got ∨ x.tailIn = true →
    c.hurt q.val 0 index = c.onBuf q.val (fun b => { b with badData := index :: b.badData.filter (· != index) })) ∧
  (∀ (c : Chip) (q : Fin 4) (index : Nat) (x : Store),
    c.stores.find? (fun x => x.q == q.val && x.cells.contains (index / 32)) = some x → x.byteOf index = none →
    c.hurt q.val 0 index = c.onBuf q.val (fun b => { b with badLink := (index / 32) :: b.badLink.filter (· != (index / 32)) })) ∧
  (∀ (c : Chip) (q : Fin 4) (index : Nat),
    c.hurt q.val 1 index = c.onBuf q.val (fun b => { b with badRef := index :: b.badRef.filter (· != index) })) ∧
  (∀ (c : Chip) (q p : Fin 4) (i : Nat), i < ((c.buf q.val).hamper p.val).cache.length →
    c.hurt q.val 2 (4 * i + p.val) = c.onHamper q.val p.val (fun h => { h with
      cache := upd h.cache i (fun e => { e with bad := true }) })) ∧
  (∀ (c : Chip) (q : Fin 4) (t : Fin 7) (bank : Bool) (i k : Nat), t.val ≠ 3 ∨ bank = false → i < 2 ^ 18 → i < tblSize t.val →
    k = tblKey q.val t.val bank i → ¬ k ∈ c.badEnt →
    c.hurt q.val 3 (2 ^ 19 * t.val + 2 ^ 18 * b2n bank + i) = Chip.bump { c with badEnt := k :: c.badEnt } (regAddr 24 7 0x120) 1) ∧
  (∀ (c : Chip) (q : Fin 4) (i : Fin 1024), (c.bar (1024 * q.val + i.val)).bad = false →
    c.hurt q.val 3 (7 * 2 ^ 19 + i.val) =
      (c.onBar (1024 * q.val + i.val) (fun k => { k with bad := true })).bump (regAddr 24 7 0x120) 1) ∧
  (∀ (c : Chip) (q : Fin 4) (i : Fin 256), c.hurt q.val 4 i.val = c.portFault (256 * q.val + i.val)) ∧
  (∀ (c : Chip) (q : Fin 4), c.seamFaulted (6 + q.val) = false →
    c.hurt q.val 4 259 = c.seamFail (6 + q.val) ∧ ∀ i, c.hurt (4 + q.val) 4 i = c.seamFail (6 + q.val)) ∧
  (∀ (c : Chip) (q : Fin 4) (index : Nat), ((c.hurt q.val 5 index).page (pageKey q.val 0x45)).st = 4 ∧
    (∀ p, p < 1024 → p / 256 = q.val →
      ((c.hurt q.val 5 index).port p).st = .down ∨ ((c.hurt q.val 5 index).port p).st = .disabled)) ∧
  (∀ (c : Chip) (d : Fin 4) (x : Fin 24) (i : Nat), i < (c.ctx (24 * d.val + x.val)).chunks.length →
    c.hurt (4 + d.val) 6 (24 * i + x.val) = c.onCtx (24 * d.val + x.val) (fun y => { y with
      chunks := upd y.chunks i (fun k => if k.done then k else { k with poisoned := true }) })) ∧
  (∀ (c : Chip) (d : Fin 4) (x : Fin 24) (i : Nat) (r : Retained), (c.ctx (24 * d.val + x.val)).kept[i]? = some r →
    c.hurt (4 + d.val) 6 (24 * ((c.ctx (24 * d.val + x.val)).chunks.length + i) + x.val) = c.revoke d.val x.val r) ∧
  (∀ (c : Chip) (d : Fin 4) (x : Fin 24) (i : Nat), (c.ctx (24 * d.val + x.val)).st = 1 ∨ (c.ctx (24 * d.val + x.val)).st = 2 →
    c.hurt (4 + d.val) 7 (24 * i + x.val) = c.ctxFail d.val x.val) ∧
  (∀ (c : Chip) (index : Nat), (c.hurt 24 8 index).mgmt.fw = 4 ∧ (c.hurt 24 8 index).mgmt.halted = true ∧
    (c.hurt 24 8 index).mgmt.watchdog = true ∧ bit ((c.hurt 24 8 index).reg (ctlR 0x18)) 0 = true ∧
    (index % sramCode9) ∈ (c.hurt 24 8 index).mgmt.badSram) ∧
  (∀ (c : Chip) (d : Fin 2) (k : Fin 2) (e : EvEnt), c.mgmt.evq.length = 2 → c.mgmt.evLost.length = 2 →
    e ∈ c.mgmt.evq.getD d.val [] →
    e.slot < 1024 → ∃ t, t = c.hurt 24 9 (0x20000 + 0x800 * d.val + 2 * e.slot + k.val) ∧
      List.isPrefixOf ((c.mgmt.evq.getD d.val []).filter (·.slot != e.slot)) (t.mgmt.evq.getD d.val []) = true ∧
      t.mgmt.evLost.getD d.val 0 = c.mgmt.evLost.getD d.val 0 + 1 ∧
      min (c.reg (ctlR 0x120) + 1) 0xFFFFFFFF ≤ t.reg (ctlR 0x120) ∧ bit (t.reg (ctlR 0x18)) 2 = true) ∧
  (∀ (c : Chip) (d : Fin 2) (k : Fin 2) (slot : Fin 1024), (c.mgmt.evq.getD d.val []).any (·.slot == slot.val) = false →
    ∃ t, t = c.hurt 24 9 (0x20000 + 0x800 * d.val + 2 * slot.val + k.val) ∧ t.mgmt.evq = c.mgmt.evq ∧
      t.mgmt.evLost = c.mgmt.evLost) ∧
  (∀ (c : Chip) (d : Nat) (done : Bool) (r : Req), c.mgmt.reqs.getD d [] = [r] →
    (if done = true then r.done.isEmpty else r.left.isEmpty) = false →
    (c.hurtRequests d done).mgmt.reqs = c.mgmt.reqs ∨ (c.hurtRequests d done).mgmt.reqs = c.mgmt.reqs.set d []) ∧
  (∀ (c : Chip) (slot n rd wr : Nat), n = max c.dumpSlots 1 → rd = c.reg (dmp 0x11C) % n → wr = c.reg (dmp 0x118) → slot < n →
    ((slot + n - rd) % n < (wr + n - rd) % n →
      (c.hurtDump slot).reg (dmp 0x148) = min (c.reg (dmp 0x148) + 1) 0xFFFFFFFF ∧
      (c.hurtDump slot).reg (dmp 0x11C) = (if slot = rd then (rd + 1) % n else c.reg (dmp 0x11C))) ∧
    ((wr + n - rd) % n ≤ (slot + n - rd) % n → c.hurtDump slot = c)) ∧
  (∀ (dom : Dom) (val : Word) (s : State), MayWrite s.chip dom 24 5 0x100 val.toNat → val.toNat ≤ 5 →
    exec (.clkSpreadWrite dom val) s = .next (withChip s (s.chip.setReg (regAddr 24 5 0x100) val.toNat))) ∧
  (∀ s : State, s.chip.rst.primOk = true → s.chip.rst.backOk = true → s.chip.rst.backup = false →
    ∃ t, exec (.referenceFail false) s = .next t ∧ t.chip.rst.primOk = false ∧ t.chip.rst.backup = true ∧
      t.chip.rst.c0Up = s.chip.rst.c0Up ∧ t.chip.free = s.chip.free + 1 ∧ t.sram = s.sram ∧ t.pending = s.pending) ∧
  (∀ (dom : Dom) (s : State), MayWrite s.chip dom 24 5 0x104 0x100 → s.chip.isOn 24 5 = true → s.chip.rst.backOk = true → s.chip.rst.backup = false →
    exec (.forceBackup dom) s = .next (withChip s (s.chip.switchRef true))) ∧
  (∀ s : State, s.chip.rst.primOk = false → s.chip.rst.backOk = false → s.chip.rst.refsLost = false →
    s.chip.rst.refChosen = true → s.chip.power.off = false →
    ∃ t, exec .referencesLost s = .next t ∧ t.chip.rst.refsLost = true ∧ t.chip.rst.kind = 1 ∧ t.chip.rst.c0Up = false ∧
      t.chip.rst.cause = 2 ∧ t.chip.now = s.chip.now + 1000 ∧ t.pending = s.pending ∧
      (s.chip.rst.kind ≠ 0 → s.chip.rst.cmd = true → t.chip.regBit (regAddr 24 6 0x100) 31 = false ∧
        t.chip.reg (regAddr 24 6 0x104) = 0)) ∧
  (∀ (b : Bool) (s : State), s.chip.power.off = false → s.chip.rst.refsLost = true → s.chip.power.step = 6 →
    s.chip.power.stage = none →
    ∃ t, exec (.referenceRecover b) s = .next t ∧ t.chip.rst.refsLost = false ∧ t.chip.rst.backup = b ∧
      t.chip.rst.kind = 0 ∧ t.chip.rst.c0Up = true ∧ t.chip.now = s.chip.now + 1000000 ∧ t.sram = s.sram ∧
      t.pending = s.pending) ∧
  (∀ (b : Bool) (c : Chip), (c.switchRef b).rst = { c.rst with backup := b } ∧ (c.switchRef b).free = c.free + 1 ∧
    (c.switchRef b).now = c.now ∧ (c.switchRef b).time.ft = c.time.ft ∧
    c.time.frac - 2000000 ≤ (c.switchRef b).time.frac ∧ (c.switchRef b).time.frac ≤ c.time.frac + 2000000 ∧
    (c.switchRef b).reg (clkR 0x108) = min (c.reg (clkR 0x108) + 1) 0xFFFFFFFF ∧ bit ((c.switchRef b).reg (clkR 0x18)) 0 = true ∧
    (c.switchRef b).ports = c.ports ∧ (c.switchRef b).links = c.links)

/-- Seams (R70, R153, R214, R253): a seam whose pages are ON trains and reads UP with fresh credits at both ends; one that
stops being UP starts its 10 µs count; a worn frame, or 10 µs not UP, puts both its pages in FAULT. The credits at the press
die's own end of a press seam and the empty replay buffers of a seam that trains again are the model's choices (log entries
76 and 77). A seam in FAULT is not UP, has empty replay buffers and no copy whose end it waits for, and its pages record
cause 7; with a press seam every context of its die that ran has failed. Completes SEAM_UP, SEAM_UP_LOST and SEAM_FAULT. -/
def Obligations.SeamStates : Prop :=
  (∀ (k : SeamId) (s : State), s.chip.semOn (seamKey k) = true → (s.chip.seam (seamKey k)).up = false →
    ∃ t, exec (.seamUp k) s = .next t ∧ t.sram = s.sram ∧ t.pending = s.pending ∧ (t.chip.seam (seamKey k)).up = true ∧
      (∀ l ∈ seamLinks (seamKey k), t.chip.link l = { seamFresh (seamKey k) with
        stall := (t.chip.link l).stall, stallNs := (t.chip.link l).stallNs, stallAt := (t.chip.link l).stallAt }) ∧
      t.chip.pages = s.chip.pages ∧ t.chip.copies = s.chip.copies ∧ t.chip.ports = s.chip.ports) ∧
  (∀ (k : SeamId) (s : State), (s.chip.seam (seamKey k)).up = true →
    exec (.seamUpLost k) s =
      .next (withChip s (s.chip.onSeam (seamKey k) (fun x => { x with up := false, since := s.chip.now })))) ∧
  (∀ (k : SeamId) (s : State), s.chip.seamFaulted (seamKey k) = false → (seamLinks (seamKey k)).any s.chip.worn = true →
    exec (.seamFault k) s = .next (withChip s (s.chip.seamFail (seamKey k)))) ∧
  (∀ (k : SeamId) (s : State), s.chip.seamFaulted (seamKey k) = false → (seamLinks (seamKey k)).any s.chip.worn = false →
    s.chip.semOn (seamKey k) = true → (s.chip.seam (seamKey k)).up = false →
    exec (.seamFault k) s =
      .next (withChip s ((s.chip.till ((s.chip.seam (seamKey k)).since + 10000)).seamFail (seamKey k)))) ∧
  (∀ (k : SeamId) (c d : Chip), d = c.seamFail (seamKey k) →
    (d.seam (seamKey k)).up = false ∧ (∀ x ∈ semPages (seamKey k), (d.page (pageKey x.1 x.2)).st = 4) ∧
    (∀ x ∈ semPages (seamKey k), bit (d.reg (regAddr x.1 x.2 0x18)) 0 = true) ∧
    (∀ l ∈ seamLinks (seamKey k), (d.link l).replay = []) ∧
    (∀ y ∈ d.copies, y.link ∈ seamLinks (seamKey k) → y.ended = true)) ∧
  (∀ (p : Fin 4) (x : Fin 24) (c : Chip), ((c.seamFail (6 + p.val)).ctx (24 * p.val + x.val)).st = 0 ∨
    ((c.seamFail (6 + p.val)).ctx (24 * p.val + x.val)).st = 3)

/-- Fibre pairs and lanes (R75, R85, R95, R98, R100, R102, R103, R105, R106, R109, R112): what a write of each register
stores and does, for every value. OEN_FP_ENABLE settles its engine's ports. A layout whose changed pairs are quiesced, under
the old code and the new, takes their ports out, is stored, and settles the island's; a reserved code is refused with cause
1, ports that are trained with cause 2 (in this order: log entry 95). A loopback is set on quiesced pairs, whose quiet ports
tack first, and retrains the ports of every pair it is taken from; a change from one loopback to another retrains none,
which is the model's choice (log entry 108). Generators and checkers are enabled on quiesced pairs that have no near-end
parallel loopback; a disabled checker loses lock and keeps its count (log entry 69). A changed PATTERN makes the locked
checkers of its pair lose lock. PRBS_CLEAR clears the counts and the lost-lock bits. A changed spare assignment makes its
wavelengths dark, each lit again only when no spare is given to it and its primary works. Completes OEN_FP_ENABLE_WRITE,
LNE_LAYOUT_WRITE, LNE_LOOPBACK_WRITE, PRBS_ENABLE_WRITE, PRBS_CLEAR, PRBS_PATTERN_WRITE and OEN_SPARE_MAP_WRITE. -/
def Obligations.LaneRegisterWrites : Prop :=
  (∀ (dom : Dom) (e : Fin 16) (val : Word) (s : State), MayWrite s.chip dom (8 + e.val) 0x40 0x100 val.toNat →
    val.toNat < 2 ^ 16 →
    ∃ t, exec (.oenFpEnableWrite dom e val) s = .next t ∧ t.pending = s.pending ∧
      t.chip = (s.chip.setReg (oen e.val 0x100) val.toNat).settle (enginePorts e.val)) ∧
  (∀ (dom : Dom) (q : Fin 4) (d : Fin 16) (val : Word) (old : Nat) (ch : List Nat) (s : State),
    MayWrite s.chip dom q.val (0x10 + d.val) 0x100 val.toNat → val.toNat < 2 ^ 12 →
    (∀ k < 4, fld val.toNat (3 * k + 2) (3 * k) < 6) → old = s.chip.reg (regAddr q.val (0x10 + d.val) 0x100) →
    ch = (List.range 4).filter (fun k => fld old (3 * k + 2) (3 * k) != fld val.toNat (3 * k + 2) (3 * k)) →
    ((∀ k ∈ ch, s.chip.pairQuiesced (pairPort q.val d.val k) (fld old (3 * k + 2) (3 * k)) = true ∧
        s.chip.pairQuiesced (pairPort q.val d.val k) (fld val.toNat (3 * k + 2) (3 * k)) = true) →
      ∃ t, exec (.lneLayoutWrite dom q d val) s = .next t ∧ t.pending = s.pending ∧
        t.chip = ((s.chip.each ch (fun c k => c.each (layoutPorts (fld old (3 * k + 2) (3 * k)))
          (fun c ow => c.portDisable (pairPort q.val d.val k + ow.1 / 2)))).setReg
            (regAddr q.val (0x10 + d.val) 0x100) val.toNat).settle (islandPorts q.val d.val)) ∧
    (∀ k ∈ ch, s.chip.pairQuiesced (pairPort q.val d.val k) (fld old (3 * k + 2) (3 * k)) = false ∨
        s.chip.pairQuiesced (pairPort q.val d.val k) (fld val.toNat (3 * k + 2) (3 * k)) = false →
      exec (.lneLayoutWrite dom q d val) s = .next (withChip s (s.chip.recordErr (regAddr q.val (0x10 + d.val) 0) 2 0x100
        val.toNat (dom == .fabric))))) ∧
  (∀ (dom : Dom) (q : Fin 4) (d : Fin 16) (val : Word) (k : Fin 4) (s : State),
    MayWrite s.chip dom q.val (0x10 + d.val) 0x100 val.toNat → val.toNat < 2 ^ 12 →
    6 ≤ fld val.toNat (3 * k.val + 2) (3 * k.val) →
    exec (.lneLayoutWrite dom q d val) s = .next (withChip s (s.chip.recordErr (regAddr q.val (0x10 + d.val) 0) 1 0x100
      val.toNat (dom == .fabric)))) ∧
  (∀ (dom : Dom) (q : Fin 4) (d : Fin 16) (val : Word) (old : Nat) (on off : List Nat) (s : State),
    MayWrite s.chip dom q.val (0x10 + d.val) 0x104 val.toNat → val.toNat < 2 ^ 8 →
    old = s.chip.reg (regAddr q.val (0x10 + d.val) 0x104) →
    on = (List.range 4).filter (fun k => fld val.toNat (2 * k + 1) (2 * k) != 0 &&
      fld val.toNat (2 * k + 1) (2 * k) != fld old (2 * k + 1) (2 * k)) →
    off = (List.range 4).filter (fun k => fld val.toNat (2 * k + 1) (2 * k) == 0 && fld old (2 * k + 1) (2 * k) != 0) →
    ((∀ k ∈ on, s.chip.pairQuiesced (pairPort q.val d.val k) (s.chip.layoutCode (pairPort q.val d.val k)) = true) →
      exec (.lneLoopbackWrite dom q d val) s = .next (withChip s
        (((s.chip.each on (fun c k => c.each (layoutPorts (c.layoutCode (pairPort q.val d.val k)))
          (fun c ow => c.tack (pairPort q.val d.val k + ow.1 / 2)))).setReg (regAddr q.val (0x10 + d.val) 0x104) val.toNat).each off
            (fun c k => c.each (layoutPorts (c.layoutCode (pairPort q.val d.val k)))
              (fun c ow => c.retrainPort (pairPort q.val d.val k + ow.1 / 2)))))) ∧
    (∀ k ∈ on, s.chip.pairQuiesced (pairPort q.val d.val k) (s.chip.layoutCode (pairPort q.val d.val k)) = false →
      exec (.lneLoopbackWrite dom q d val) s = .next (withChip s (s.chip.recordErr (regAddr q.val (0x10 + d.val) 0) 2 0x104
        val.toNat (dom == .fabric))))) ∧
  (∀ (dom : Dom) (q : Fin 4) (d : Fin 16) (val : Word) (on : List Nat) (s : State),
    MayWrite s.chip dom q.val (0x10 + d.val) 0x134 val.toNat →
    on = (List.range 4).filter (fun k => (List.range 8).any (fun i => bit val.toNat (8 * k + i) &&
      !bit (s.chip.reg (regAddr q.val (0x10 + d.val) 0x134)) (8 * k + i))) →
    ((∀ k ∈ on, s.chip.pairQuiesced (pairPort q.val d.val k) (s.chip.layoutCode (pairPort q.val d.val k)) = true ∧
        s.chip.loopback (pairPort q.val d.val k) ≠ 2) →
      exec (.prbsEnableWrite dom q d false val) s = .next (withChip s
        ((s.chip.setReg (regAddr q.val (0x10 + d.val) 0x134) val.toNat).each on
          (fun c k => c.each (layoutPorts (c.layoutCode (pairPort q.val d.val k)))
            (fun c ow => if c.prbsGen (pairPort q.val d.val k + ow.1 / 2) then c.tack (pairPort q.val d.val k + ow.1 / 2) else c))))) ∧
    (∀ k ∈ on, s.chip.pairQuiesced (pairPort q.val d.val k) (s.chip.layoutCode (pairPort q.val d.val k)) = false ∨
        s.chip.loopback (pairPort q.val d.val k) = 2 →
      exec (.prbsEnableWrite dom q d false val) s = .next (withChip s (s.chip.recordErr (regAddr q.val (0x10 + d.val) 0) 2 0x134
        val.toNat (dom == .fabric))))) ∧
  (∀ (dom : Dom) (q : Fin 4) (d : Fin 16) (val : Word) (on : List Nat) (lock : Nat) (s : State),
    MayWrite s.chip dom q.val (0x10 + d.val) 0x138 val.toNat → lock = s.chip.reg (regAddr q.val (0x10 + d.val) 0x13C) →
    on = (List.range 4).filter (fun k => (List.range 8).any (fun i => bit val.toNat (8 * k + i) &&
      !bit (s.chip.reg (regAddr q.val (0x10 + d.val) 0x138)) (8 * k + i))) →
    (∀ k ∈ on, s.chip.pairQuiesced (pairPort q.val d.val k) (s.chip.layoutCode (pairPort q.val d.val k)) = true ∧
      s.chip.loopback (pairPort q.val d.val k) ≠ 2) →
    (lock &&& val.toNat = lock →
      exec (.prbsEnableWrite dom q d true val) s = .next (withChip s
        (s.chip.setReg (regAddr q.val (0x10 + d.val) 0x138) val.toNat))) ∧
    (lock &&& val.toNat ≠ lock →
      exec (.prbsEnableWrite dom q d true val) s = .next (withChip s
        (((s.chip.setReg (regAddr q.val (0x10 + d.val) 0x138) val.toNat).prbsSettle q.val d.val (lock - (lock &&& val.toNat))).setReg
          (regAddr q.val (0x10 + d.val) 0x13C) (lock &&& val.toNat))))) ∧
  (∀ (dom : Dom) (q : Fin 4) (d : Fin 16) (s : State),
    MayWrite s.chip dom q.val (0x10 + d.val) 0x130 (s.chip.reg (regAddr q.val (0x10 + d.val) 0x130) ||| 0x10) →
    s.chip.isOn q.val (0x10 + d.val) = true → s.chip.reg (regAddr q.val (0x10 + d.val) 0x130) < 16 →
    ∃ t, exec (.prbsClear dom q d) s = .next t ∧ t.sram = s.sram ∧ t.pending = s.pending ∧
      t.chip.reg (regAddr q.val (0x10 + d.val) 0x140) = 0 ∧
      (∀ i < 32, t.chip.reg (regAddr q.val (0x10 + d.val) (0x200 + 4 * i)) = 0) ∧
      t.chip.reg (regAddr q.val (0x10 + d.val) 0x130) = s.chip.reg (regAddr q.val (0x10 + d.val) 0x130) ∧
      t.chip.reg (regAddr q.val (0x10 + d.val) 0x13C) = s.chip.reg (regAddr q.val (0x10 + d.val) 0x13C) ∧
      t.chip.ports = s.chip.ports) ∧
  (∀ (dom : Dom) (q : Fin 4) (d : Fin 16) (val : Word) (lost : Nat) (s : State),
    MayWrite s.chip dom q.val (0x10 + d.val) 0x130 val.toNat → val.toNat < 16 →
    (∀ i < 32, bit lost i = (bit (s.chip.reg (regAddr q.val (0x10 + d.val) 0x13C)) i &&
      bit val.toNat (i / 8) != bit (s.chip.reg (regAddr q.val (0x10 + d.val) 0x130)) (i / 8))) → lost < 2 ^ 32 →
    (lost = 0 → exec (.prbsPatternWrite dom q d val) s = .next (withChip s
      (s.chip.setReg (regAddr q.val (0x10 + d.val) 0x130) val.toNat))) ∧
    (lost ≠ 0 → exec (.prbsPatternWrite dom q d val) s = .next (withChip s
      ((((s.chip.setReg (regAddr q.val (0x10 + d.val) 0x130) val.toNat).prbsSettle q.val d.val lost).setReg
        (regAddr q.val (0x10 + d.val) 0x13C) (s.chip.reg (regAddr q.val (0x10 + d.val) 0x13C) - lost)).setReg
          (regAddr q.val (0x10 + d.val) 0x140) (s.chip.reg (regAddr q.val (0x10 + d.val) 0x140) ||| lost))))) ∧
  (∀ (dom : Dom) (e : Fin 16) (val : Word) (ws : List Nat) (c : Chip) (s : State),
    MayWrite s.chip dom (8 + e.val) 0x40 0x10C val.toNat → val.toNat < 2 ^ 8 →
    (spareGives val.toNat 0 = none ∨ spareGives val.toNat 0 ≠ spareGives val.toNat 1) →
    ws = (((List.range 2).filter (fun sp => spareGives (s.chip.reg (oen e.val 0x10C)) sp != spareGives val.toNat sp)).flatMap
      (fun sp => (spareGives (s.chip.reg (oen e.val 0x10C)) sp).toList ++ (spareGives val.toNat sp).toList)).eraseDups →
    c = ((s.chip.setReg (oen e.val 0x10C) val.toNat).setDarkW e.val
      (ws.foldl (fun m w => setBit m w true) (s.chip.darkW e.val))).each (if ws.isEmpty then [] else enginePorts e.val)
        (fun c p => c.laneLoss p) →
    exec (.oenSpareMapWrite dom e val) s = .next (withChip s (c.setDarkW e.val
      ((ws.filter (fun w => spareGives val.toNat 0 != some w && spareGives val.toNat 1 != some w &&
        !bit (SMap.getD s.chip.engBad e.val 0) w)).foldl (fun m w => setBit m w false) (c.darkW e.val))))) ∧
  (∀ (dom : Dom) (e : Fin 16) (val : Word) (s : State), MayWrite s.chip dom (8 + e.val) 0x40 0x10C val.toNat →
    val.toNat < 2 ^ 8 → spareGives val.toNat 0 ≠ none → spareGives val.toNat 0 = spareGives val.toNat 1 →
    exec (.oenSpareMapWrite dom e val) s = .next (withChip s (s.chip.recordErr (regAddr (8 + e.val) 0x40 0) 1 0x10C
      val.toNat (dom == .fabric))))

/-- LOS and sources (R87, R88, R89, R94): the lane's LOS bit follows its power; a port that loses lanes asks for the widest
aligned set that still works, and with every lane in LOS, or no such set, goes down; a source that fails is marked, the
wavelength it serves goes dark on all 16 fibre pairs, whose ports lose that lane; a free spare may stand in for it until,
locked, it lights it again. Of two free spares the first is taken, which is the model's choice (log entry 94), as is the set
of several equally wide (log entry 11). Completes LOS_ENTER, LOS_LEAVE, SOURCE_FAIL, SPARE_SUBSTITUTE and SPARE_LOCKED.
Width darning (R89 to R92): the two requests settle on an aligned set that works both ways, each side to take it 64 of its
columns after its request, or the port goes down; the switch, once both have asked and the column has come, runs on the new
set and replays; a request not answered for 20 µs takes the port down; lanes trained and clean for 1 ms are asked for again.
Which column counts when both ask at once, and that the columns before the next slack column start anew at the switch, are
the model's choices (log entries 73 and 109). Completes DARN_REQUEST_RECEIVE, DARN_SWITCH, DARN_TIMEOUT and DARN_WIDEN. -/
def Obligations.LossOfLightAndDarning : Prop :=
  (∀ (lane : Fin 2048) (c d : Chip) (s : State),
    c = s.chip.setFpBits (lane.val / 8 * 4) 0x108 (2 ^ (lane.val % 8)) true →
    d = c.pmcEdge (8 + lane.val / 128) 0 0x9001 (s.chip.losPairs (lane.val / 128)) (c.losPairs (lane.val / 128)) →
    (s.chip.lanePort lane.val = none → exec (.losEnter lane) s = .next (withChip s d)) ∧
    (∀ p, s.chip.lanePort lane.val = some p → exec (.losEnter lane) s = .next (withChip s (d.laneLoss p)))) ∧
  (∀ (p : Nat) (c : Chip), (c.port p).st.framed = true → c.dark p = true → c.laneLoss p = c.portDown p) ∧
  (∀ (p : Nat) (c : Chip), (c.port p).st = .training → c.dark p = true → c.laneLoss p = c.portDown p) ∧
  (∀ (p : Nat) (c : Chip), (c.port p).st.framed = false → (c.port p).st ≠ .training → c.laneLoss p = c) ∧
  (∀ (p m : Nat) (c d : Chip), (c.port p).st.framed = true → c.dark p = false →
    (c.port p).lanes &&& c.working p ≠ (c.port p).lanes → (c.widest p (c.working p)).1 = some m → d = c.laneLoss p →
    (d.port p).darn = some { set := m, since := c.now, col := ((c.port p).col + 64) % 65536, peerCol := none, widen := false } ∧
    (d.port p).trained = c.working p ∧ (d.port p).rxTrained = c.rxLanes p ∧ (d.port p).lanes = (c.port p).lanes ∧
    (d.port p).st = (c.port p).st ∧ d.copies = c.copies ∧ d.links = c.links) ∧
  (∀ (p : Nat) (c : Chip), (c.port p).st.framed = true → c.dark p = false →
    (c.port p).lanes &&& c.working p ≠ (c.port p).lanes → (c.widest p (c.working p)).1 = none →
    ((c.laneLoss p).port p).st = .down ∨ ((c.laneLoss p).port p).st = .training) ∧
  (∀ (p mask m : Nat) (c : Chip), (c.widest p mask).1 = some m →
    m &&& mask = m ∧ m &&& c.fullLanes p = m ∧
    (m ∈ c.alignedSets p 8 ∨ m ∈ c.alignedSets p 4 ∨ m ∈ c.alignedSets p 2 ∨ (c.width p = 2 ∧ m ∈ c.alignedSets p 1)) ∧
    (∀ w ∈ [2, 4, 8], ∀ m' ∈ c.alignedSets p w, m' &&& mask = m' → (bitsOf m' 8).length ≤ (bitsOf m 8).length)) ∧
  (∀ (p w : Nat) (o : Fin 8) (c : Chip), o.val % w = 0 → put (ones w) o.val &&& c.fullLanes p = put (ones w) o.val →
    put (ones w) o.val ∈ c.alignedSets p w) ∧
  (∀ (p w m : Nat) (c : Chip), m ∈ c.alignedSets p w → m &&& c.fullLanes p = m ∧ ∃ o, o < 8 ∧ o % w = 0 ∧ m = put (ones w) o) ∧
  (∀ (lane : Fin 2048) (c d : Chip) (s : State),
    c = s.chip.setFpBits (lane.val / 8 * 4) 0x108 (2 ^ (lane.val % 8)) false →
    d = c.pmcEdge (8 + lane.val / 128) 0 0x9001 (s.chip.losPairs (lane.val / 128)) (c.losPairs (lane.val / 128)) →
    (s.chip.lanePort lane.val = none → exec (.losLeave lane) s = .next (withChip s d)) ∧
    (∀ p, s.chip.lanePort lane.val = some p → exec (.losLeave lane) s =
      .next (withChip s ((d.onPort p (fun x => { x with cleanAt := s.chip.now })).wake p)))) ∧
  (∀ (e : Fin 16) (src : Fin 10) (s : State), s.chip.serves e.val src.val = none →
    ∃ t, exec (.sourceFail e src) s = .next t ∧ t.sram = s.sram ∧ t.pending = s.pending ∧
      bit (t.chip.reg (oen e.val 0x108)) (16 + src.val) = true ∧ bit (t.chip.reg (oen e.val 0x108)) src.val = false ∧
      bit (SMap.getD t.chip.engBad e.val 0) src.val = true ∧ bit (t.chip.reg (oen e.val 0x18)) 0 = true ∧
      t.chip.engLock = s.chip.engLock ∧ t.chip.ports = s.chip.ports) ∧
  (∀ (e : Fin 16) (src : Fin 10) (w : Nat) (c d : Chip) (s : State), s.chip.serves e.val src.val = some w →
    c = { s.chip with engBad := SMap.set s.chip.engBad e.val (setBit (SMap.getD s.chip.engBad e.val 0) src.val true) } →
    d = (((c.setReg (oen e.val 0x108) (setBit (setBit (c.reg (oen e.val 0x108)) src.val false) (16 + src.val) true)).raise
      (oen e.val 0) 1).pmc (8 + e.val) 0 0x9002 (some src.val) none).setDarkW e.val (setBit (s.chip.darkW e.val) w true) →
    exec (.sourceFail e src) s = .next (withChip s (d.each (enginePorts e.val) (fun c p => c.laneLoss p)))) ∧
  (∀ (p : Nat) (c : Chip), c.clear p = c.fullLanes p - (c.fullLanes p &&& (c.fpBits p 0x108 ||| c.darkW (portEngine p))) ∧
    c.working p = (c.clear p &&& (c.port p).trained)) ∧
  (∀ (e : Fin 16) (w : Fin 8) (m sp : Nat) (s : State), m = s.chip.reg (oen e.val 0x10C) →
    (sp = 0 ∧ bit m 3 = false ∧ bit (SMap.getD s.chip.engBad e.val 0) 8 = false) ∨
      (sp = 1 ∧ bit m 7 = false ∧ bit (SMap.getD s.chip.engBad e.val 0) 9 = false ∧
        (bit m 3 = true ∨ bit (SMap.getD s.chip.engBad e.val 0) 8 = true)) →
    s.chip.serves e.val 8 ≠ some w.val → s.chip.serves e.val 9 ≠ some w.val →
    s.chip.regBit (oen e.val 0x110) 0 = true → s.chip.policy 1 = true → bit (s.chip.darkW e.val) w.val = true →
    s.chip.isOn (8 + e.val) 0x40 = true →
    exec (.spareSubstitute e w) s =
      .next (withChip s (s.chip.setReg (oen e.val 0x10C) (setFld m (4 * sp + 3) (4 * sp) (8 + w.val))))) ∧
  (∀ (e : Fin 16) (w : Fin 8) (s : State),
    (bit (s.chip.reg (oen e.val 0x10C)) 3 = true ∨ bit (SMap.getD s.chip.engBad e.val 0) 8 = true) →
    (bit (s.chip.reg (oen e.val 0x10C)) 7 = true ∨ bit (SMap.getD s.chip.engBad e.val 0) 9 = true) →
    exec (.spareSubstitute e w) s = .next s) ∧
  (∀ (e : Fin 16) (spare : Bool) (w : Nat) (s : State), s.chip.serves e.val (8 + b2n spare) = some w →
    bit (s.chip.darkW e.val) w = true → bit (SMap.getD s.chip.engBad e.val 0) (8 + b2n spare) = false →
    ∃ t, exec (.spareLocked e spare) s = .next t ∧ t.sram = s.sram ∧ t.pending = s.pending ∧
      t.chip.darkW e.val = setBit (s.chip.darkW e.val) w false ∧ t.chip.regs = s.chip.regs) ∧
  (∀ (p : Fin 1024) (w : BitVec 8) (col : BitVec 16) (m : Nat) (s : State), (s.chip.port p.val).st.framed = true →
    (s.chip.darnSet p.val (s.chip.working p.val &&& w.toNat)).1 = some m →
    ((s.chip.port p.val).darn = none →
      ∃ t d, exec (.darnRequestReceive p w col) s = .next t ∧ t.sram = s.sram ∧ t.pending = s.pending ∧
        (t.chip.port p.val).darn = some d ∧ d.set = m ∧ d.since = s.chip.now ∧
        d.col = ((s.chip.port p.val).col + 64) % 65536 ∧ d.peerCol = some ((col.toNat + 64) % 65536) ∧
        t.chip.copies = s.chip.copies ∧ t.chip.links = s.chip.links) ∧
    (∀ e, (s.chip.port p.val).darn = some e →
      ∃ t d, exec (.darnRequestReceive p w col) s = .next t ∧ t.sram = s.sram ∧ t.pending = s.pending ∧
        (t.chip.port p.val).darn = some d ∧ d.set = m ∧ d.since = e.since ∧ d.col = e.col ∧
        d.peerCol = some ((col.toNat + 64) % 65536) ∧ t.chip.copies = s.chip.copies ∧ t.chip.links = s.chip.links)) ∧
  (∀ (p both m : Nat) (c : Chip), (c.darnSet p both).1 = some m → m &&& both = m ∧
    (m = (c.port p).lanes ∨ (c.widest p both).1 = some m)) ∧
  (∀ (p : Fin 1024) (w : BitVec 8) (col : BitVec 16) (s : State), (s.chip.port p.val).st.framed = true →
    s.chip.darnSet p.val (s.chip.working p.val &&& w.toNat) = (none, s.chip) →
    exec (.darnRequestReceive p w col) s = .next (withChip s (s.chip.portDown p.val))) ∧
  (∀ (p : Fin 1024) (d : Darn) (n : Nat) (s : State), (s.chip.port p.val).darn = some d → d.peerCol = some n →
    ((s.chip.port p.val).col + 65536 - d.col) % 65536 < 32768 →
    (s.chip.port p.val).st.framed = true → s.chip.dark p.val = false → d.set &&& s.chip.working p.val = d.set → d.set ≠ 0 →
    ∃ t, exec (.darnSwitch p) s = .next t ∧ t.sram = s.sram ∧ t.pending = s.pending ∧
      (t.chip.port p.val).darn = none ∧ (t.chip.port p.val).lanes = d.set ∧ p.val ∈ t.chip.twin.disturbed ∧
      ((t.chip.link p.val).replay.map (·.fseq)) = ((s.chip.link p.val).replay.map (·.fseq)) ∧
      (∀ f ∈ (t.chip.link p.val).replay, f.sentAt = s.chip.now)) ∧
  (∀ (p : Fin 1024) (d : Darn) (s : State), (s.chip.port p.val).darn = some d →
    d.peerCol = none ∨ 32768 ≤ ((s.chip.port p.val).col + 65536 - d.col) % 65536 → exec (.darnSwitch p) s = .next s) ∧
  (∀ (p : Fin 1024) (d : Darn) (s : State), (s.chip.port p.val).darn = some d → d.peerCol = none →
    exec (.darnTimeout p) s = .next (withChip s ((s.chip.till (d.since + 20000)).portDown p.val))) ∧
  (∀ (p : Fin 1024) (s : State), (s.chip.port p.val).st.framed = true → (s.chip.port p.val).darn = none →
    (s.chip.port p.val).lanes ≠ s.chip.fullLanes p.val → s.chip.working p.val = s.chip.fullLanes p.val →
    s.chip.regBit (oen (portEngine p.val) 0x110) 1 = true →
    ∃ t, exec (.darnWiden p) s = .next t ∧ t.sram = s.sram ∧ t.pending = s.pending ∧
      (t.chip.port p.val).darn = some
        { set := s.chip.fullLanes p.val,
          since := max s.chip.now ((s.chip.port p.val).cleanAt + 1000000),
          col := ((s.chip.port p.val).col + 64) % 65536,
          peerCol := none,
          widen := true } ∧ t.chip.copies = s.chip.copies ∧ t.chip.links = s.chip.links)

/-- Training, columns and the quiet state (R78, R80, R81, R96 to R99, R143): a lit port in TRAINING enters INIT, and
returned lanes of one that carries frames are trained; a slack column, due after 128 data columns or with nothing ready, has
on every active lane its tag and the next column number; a frame is striped over the active lanes in ascending order, 32
bytes a block; an idle port that may be quiet sends its notice and goes quiet, or stays out when a stitch comes; a tack ends
it; the third tack in a row that fails takes the direction's lanes out of use until they are trained again. That the tag is
the wavelength, that every slack column starts the count of 128 again, and which link is quiet for its silence are the
model's (log entries 90, 93 and 75). Completes LANES_TRAINED, SLACK_INSERT, QUIET_ENTER, QUIET_ENTRY_ABANDON, TACK_START and
TACK_END. INIT and the port states (R139 to R148): a port in INIT sends its record in a frame with all stitches empty; the
peer's record is taken, a different peer than the one latched clears ADMIT with PEER_CHANGE, and a port that has seen its
own record seen enters QUARANTINE; INIT that lasts 100 µs, and a link silent for 2 µs outside the quiet state (log entry 75
says which), take the port down; ADMIT written 1 admits an agreeing peer or takes a quiet one's latch away, and 0 leaves
ACTIVE; RETRAIN and, after 1 ms, AUTO_RETRAIN take a port out of FAULT, and tell the twin link (R441). A port that goes DOWN
or into FAULT loses its lanes, its peer, what it received in part, every copy queued for it and its replay buffer, and
counts in LNK_DOWN_CNT; ADMIT and the latched peer stay (R130, R150, R151). One that is DOWN advertises nothing, so none of
its windows is enforced (DESIGN CHOICE, log entry 113). Completes INIT_FRAME_SEND, INIT_FRAME_RECEIVE, INIT_TIMEOUT,
LINK_SILENCE_TIMEOUT, ADMIT_WRITE, RETRAIN, AUTO_RETRAIN and LNK_CREDIT_CFG_WRITE. -/
def Obligations.QuietAndPortStates : Prop :=
  (∀ (p : Fin 1024) (s : State), (s.chip.port p.val).st = .training → s.chip.lit p.val = true →
    exec (.lanesTrained p) s =
      .next (withChip s ((s.chip.setFpBits p.val 0x10C (s.chip.fullLanes p.val) true).enterInit p.val))) ∧
  (∀ (p : Nat) (c : Chip), (c.enterInit p).port p = { c.port p with
      st := .init, initAt := c.now, goodAt := c.now, lanes := c.fullLanes p, trained := c.fullLanes p, rxTrained := c.fullLanes p, cols := 0,
      held := ((c.enterInit p).port p).held,
      advPriv := (c.advert p (c.width p)).1, advShared := (c.advert p (c.width p)).2,
      sentSeen := false, gotSeen := false, peer := none, rtts := [], peerAdm := false }) ∧
  (∀ (p : Fin 1024) (s : State), (s.chip.port p.val).st.framed = true →
    exec (.lanesTrained p) s = .next (withChip s (((s.chip.onPort p.val (fun x => { x with
      trained := s.chip.clear p.val,
      rxTrained := s.chip.fullLanes p.val - (s.chip.fullLanes p.val &&& s.chip.fpBits p.val 0x108),
      cleanAt := if s.chip.clear p.val = x.trained then x.cleanAt else s.chip.now })).setFpBits
        p.val 0x10C (s.chip.port p.val).lanes true).resendDue p.val))) ∧
  (∀ (p : Fin 1024) (s : State), (s.chip.port p.val).st.framed = true → s.chip.isQuiet p.val = false →
    s.chip.lanesUp p.val = true →
    (128 ≤ (s.chip.port p.val).cols ∨ s.chip.nothingReady p.val = true →
      exec (.slackInsert p) s = .next (withChip s (s.chip.slackColumn p.val))) ∧
    ((s.chip.port p.val).cols < 128 → s.chip.nothingReady p.val = false → exec (.slackInsert p) s = .next s)) ∧
  (∀ (p : Nat) (c : Chip), c.loopback p ≠ 3 → c.slackColumn p =
    (c.onPort p (fun x => { x with col := (x.col + 1) % 65536, cols := 0 })).emit
      (.slack p ((bitsOf (c.port p).lanes 8).map (fun w => (laneOf p w, w, ((c.port p).col + 1) % 65536))))) ∧
  (∀ (lanes : List Nat) (f : Frame), f.content.length = 496 → lanes.length = 1 ∨ lanes.length = 2 ∨ lanes.length = 4 ∨
    lanes.length = 8 →
    (columnsOf lanes (frameBytes f)).length = 16 / lanes.length ∧
    (columnsOf lanes (frameBytes f)).flatMap (fun col => col.flatMap (·.2)) = frameBytes f ∧
    ∀ col ∈ columnsOf lanes (frameBytes f), col.map (·.1) = lanes) ∧
  (∀ (p : Fin 1024) (s : State), s.chip.quietOk p.val = true → s.chip.portIdle p.val = true →
    exec (.quietEnter p) s = .next (withChip s
      (((s.chip.till ((s.chip.port p.val).idleAt + 1000 * fld (s.chip.reg (lnePage p.val + 0x110)) 9 0)).fibre p.val
        (.quietNotice p.val)).setFpBits p.val 0x114 (s.chip.port p.val).lanes true))) ∧
  (∀ (p : Fin 1024) (s : State), s.chip.quietOk p.val = true →
    exec (.quietEntryAbandon p) s = .next (withChip s ((s.chip.fibre p.val (.quietNotice p.val)).onPort p.val
      (fun x => { x with idleAt := s.chip.now })))) ∧
  (∀ (p : Fin 1024) (s : State), s.chip.fpBits p.val 0x114 &&& s.chip.fullLanes p.val ≠ 0 →
    exec (.tackStart p) s = .next (withChip s
      ((((s.chip.setFpBits p.val 0x114 (s.chip.fullLanes p.val) false).bump (lnePage p.val + 0x118) 1).onPort p.val
        (fun x => { x with idleAt := s.chip.now })).fibre p.val (.tack p.val)))) ∧
  (∀ (p : Fin 1024) (s : State), (s.chip.port p.val).st.framed = true →
    exec (.tackEnd p true) s = .next (withChip s (s.chip.onPort p.val (fun x => { x with tackFails := 0 })))) ∧
  (∀ (p : Fin 1024) (s : State), (s.chip.port p.val).st.framed = true → (s.chip.port p.val).tackFails = 2 →
    ∃ t, exec (.tackEnd p false) s = .next t ∧ (t.chip.port p.val).tackFails = 0 ∧
      t.chip.reg (lnePage p.val + 0x11C) = min (s.chip.reg (lnePage p.val + 0x11C) + 1) 0xFFFFFFFF ∧
      t.chip.fpBits p.val 0x10C = s.chip.fpBits p.val 0x10C - (s.chip.fpBits p.val 0x10C &&& s.chip.fullLanes p.val) ∧
      bit (t.chip.reg (lnePage p.val + 0x18)) 0 = true ∧ t.sram = s.sram ∧ t.pending = s.pending) ∧
  (∀ (p : Fin 1024) (c : Chip) (s : State), (s.chip.port p.val).st.framed = true → (s.chip.port p.val).tackFails < 2 →
    c = (s.chip.bump (lnePage p.val + 0x11C) 1).tack p.val →
    exec (.tackEnd p false) s = .next (withChip s
      ((c.onPort p.val (fun x => { x with tackFails := x.tackFails + 1 })).fibre p.val (.tackRepeat p.val)))) ∧
  (∀ (p : Fin 1024) (c : Chip) (s : State), (s.chip.port p.val).st = .init → s.chip.lanesUp p.val = true →
    c = s.chip.sendFrame p.val 2 (s.chip.link p.val).txSeq 0xFFFFFFFF (fit 0 496 (s.chip.initBytes p.val)) →
    exec (.initFrameSend p) s = .next (withChip s (((c.onPort p.val (fun x => { x with
      sentSeen := x.sentSeen || ((s.chip.port p.val).peer.isSome && !(s.chip.port p.val).held && s.chip.loopback p.val != 3)
      })).initDone p.val).restall))) ∧
  (∀ (p kind fseq map : Nat) (content : List Byte) (c : Chip), p < 1024 → c.isQuiet p = false → c.loopback p ≠ 3 →
    (c.port p).cols < 128 →
    (c.sendFrame p kind fseq map content).out =
      .columns p (columnsOf (c.activeLanes p) (frameBytes (c.nextFrame p kind fseq map content))) ::
        .frame p (c.nextFrame p kind fseq map content) :: c.out) ∧
  (∀ (p : Nat) (c : Chip), (c.initBytes p).length = 56 ∧ leAt (c.initBytes p) 0 2 = c.switchId (p / 256) ∧
    leAt (c.initBytes p) 2 2 = p % 65536 ∧ byteAt (c.initBytes p) 5 = 1 ∧ leAt (c.initBytes p) 8 8 = c.now % 2 ^ 64) ∧
  (∀ (p : Nat) (r : InitRec) (c : Chip), (c.port p).peer = some r → (c.port p).st = .init → (c.port p).sentSeen = true →
    (c.port p).gotSeen = true →
    (c.initDone p).link p = { priv := r.priv, shared := r.shared, recov := (c.link p).recov, recovAt := (c.link p).recovAt,
                              nakDue := (c.link p).nakDue, stall := (c.link p).stall, stallNs := (c.link p).stallNs, stallAt := (c.link p).stallAt } ∧
    (c.isAdmitted p = false ∨ (c.port p).peerAdm = false ∨ (c.port p).peerOk = false → ((c.initDone p).port p).st = .quarantine) ∧
    (c.isAdmitted p = true → (c.port p).peerAdm = true → (c.port p).peerOk = true → c.loopback p = 0 → c.twin.role ≠ 4 →
      c.leaving p = false → ((c.initDone p).port p).st = .active)) ∧
  (∀ (p : Fin 1024) (f : Frame) (s : State), (s.chip.port p.val).st = .init → frameKind f = 2 → frameCrcOk f = true →
    frameBadStitch f = false → (s.chip.link p.val).replay = [] → bit f.tail.toNat 12 = false →
    leAt f.content 16 8 = 0 → (s.chip.port p.val).sentSeen = false →
    ((s.chip.port p.val).latched = none →
      ∃ t, exec (.initFrameReceive p f) s = .next t ∧ t.sram = s.sram ∧ t.pending = s.pending ∧
        t.chip.port p.val = { s.chip.port p.val with
          goodAt := s.chip.now, peer := some (initRecord f s.chip.now),
          gotSeen := (s.chip.port p.val).gotSeen || (initRecord f s.chip.now).seen, peerKind := (initRecord f s.chip.now).kind,
          peerSw := (initRecord f s.chip.now).sw, peerTwin := (initRecord f s.chip.now).twin, peerAdm := bit f.tail.toNat 13 } ∧
        (∀ k, k < 1024 → t.chip.reg (lnkPage p.val + 4 * k) = s.chip.reg (lnkPage p.val + 4 * k)) ∧
        t.chip.copies = s.chip.copies) ∧
    (∀ l, (s.chip.port p.val).latched = some l →
      l ≠ ((initRecord f s.chip.now).id, (initRecord f s.chip.now).port, (initRecord f s.chip.now).kind) →
      ∃ t, exec (.initFrameReceive p f) s = .next t ∧ t.sram = s.sram ∧ t.pending = s.pending ∧
        t.chip.isAdmitted p.val = false ∧ bit (t.chip.reg (lnkPage p.val + 0x18)) 0 = true ∧
        (t.chip.port p.val).peer = some (initRecord f s.chip.now))) ∧
  (∀ (p : Fin 1024) (f : Frame) (s : State), (s.chip.port p.val).st = .quarantine → frameKind f = 2 → frameCrcOk f = true →
    frameBadStitch f = false → (s.chip.link p.val).replay = [] → bit f.tail.toNat 12 = false → bit f.tail.toNat 13 = true →
    leAt f.content 16 8 = 0 → (s.chip.port p.val).latched = none → (initRecord f s.chip.now).id ≠ 0xFFFF →
    s.chip.isAdmitted p.val = true → s.chip.loopback p.val = 0 → s.chip.twin.role ≠ 4 → s.chip.leaving p.val = false →
    ∃ t, exec (.initFrameReceive p f) s = .next t ∧ t.sram = s.sram ∧ t.pending = s.pending ∧
      (t.chip.port p.val).st = .active ∧ (t.chip.port p.val).peer = some (initRecord f s.chip.now)) ∧
  (∀ (p : Fin 1024) (s : State), (s.chip.port p.val).st = .init →
    exec (.initTimeout p) s =
      .next (withChip s ((s.chip.till ((s.chip.port p.val).initAt + 100000)).portDown p.val))) ∧
  (∀ (p : Fin 1024) (s : State), (s.chip.port p.val).st.framed = true →
    exec (.linkSilenceTimeout p) s =
      .next (withChip s ((s.chip.till ((s.chip.port p.val).goodAt + 2000)).portDown p.val))) ∧
  (∀ (dom : Dom) (p : Fin 1024) (val : Word) (s : State),
    MayWrite s.chip dom (p.val / 256) (0x20 + p.val % 256 / 16) (0x100 + 4 * (p.val % 16)) val.toNat → val.toNat = 1 →
    s.chip.isAdmitted p.val = false → s.chip.loopback p.val = 0 → (s.chip.port p.val).st = .down →
    exec (.admitWrite dom p val) s = .next (withChip s ((s.chip.setReg (lnkReg p.val 0x100) 1).onPort p.val
      (fun x => { x with latched := none })))) ∧
  (∀ (dom : Dom) (p : Fin 1024) (val : Word) (r : InitRec) (s : State),
    MayWrite s.chip dom (p.val / 256) (0x20 + p.val % 256 / 16) (0x100 + 4 * (p.val % 16)) val.toNat → val.toNat = 1 →
    s.chip.isAdmitted p.val = false → s.chip.loopback p.val = 0 → (s.chip.port p.val).st = .quarantine →
    (s.chip.port p.val).peer = some r → r.id ≠ 0xFFFF → (s.chip.port p.val).peerAdm = true → s.chip.twin.role ≠ 4 →
    s.chip.leaving p.val = false →
    ∃ t, exec (.admitWrite dom p val) s = .next t ∧ t.sram = s.sram ∧ t.pending = s.pending ∧
      t.chip.port p.val = { s.chip.port p.val with
        st := .active, activeAt := s.chip.now, latched := some (r.id, r.port, r.kind) }) ∧
  (∀ (dom : Dom) (p : Fin 1024) (val : Word) (s : State),
    MayWrite s.chip dom (p.val / 256) (0x20 + p.val % 256 / 16) (0x100 + 4 * (p.val % 16)) val.toNat → val.toNat = 0 →
    ∃ t, exec (.admitWrite dom p val) s = .next t ∧ t.pending = s.pending ∧
      t.chip = (s.chip.setReg (lnkReg p.val 0x100) 0).deactivate p.val) ∧
  (∀ (dom : Dom) (p : Fin 1024) (d e : Chip) (s : State),
    MayWrite s.chip dom (p.val / 256) (0x20 + p.val % 256 / 16) (0x100 + 4 * (p.val % 16)) 6 →
    s.chip.isOn (p.val / 256) (0x20 + p.val % 256 / 16) = true → s.chip.reg (lnkReg p.val 0x100) = 2 →
    (s.chip.port p.val).st = .fault →
    d = (s.chip.setReg (lnkReg p.val 0x100) 2).onPort p.val (fun x => { x with st := .training }) →
    e = (if s.chip.isTwinLink p.val = true then d.twinLinkPath else d) →
    exec (.retrain dom p) s = .next (withChip s (if s.chip.dark p.val = true then e.portDown p.val else e))) ∧
  (∀ (p : Fin 1024) (at_ : Nat) (rest : List Nat) (d e : Chip) (s : State), (s.chip.port p.val).faults = at_ :: rest →
    (s.chip.port p.val).st = .fault → s.chip.regBit (lnkReg p.val 0x100) 1 = true →
    ((s.chip.port p.val).faults.filter (fun u => max s.chip.now (at_ + 1000000) < u + 1000000000)).length < 3 →
    d = (s.chip.till (at_ + 1000000)).onPort p.val (fun x => { x with st := .training }) →
    e = (if s.chip.isTwinLink p.val = true then d.twinLinkPath else d) →
    exec (.autoRetrain p) s = .next (withChip s (if s.chip.dark p.val = true then e.portDown p.val else e))) ∧
  (∀ (p : Fin 1024) (c d : Chip), (c.port p.val).st ≠ .disabled → (c.port p.val).st ≠ .down → d = c.portDown p.val →
    ((d.port p.val).st = .down ∨ (d.port p.val).st = .training) ∧ (d.port p.val).lanes = 0 ∧ (d.port p.val).trained = 0 ∧
    (d.port p.val).darn = none ∧ (d.port p.val).peer = none ∧ (d.port p.val).peerAdm = false ∧
    (d.port p.val).latched = (c.port p.val).latched ∧
    (d.link p.val).replay = [] ∧ (∀ x ∈ d.copies, x.link ≠ p.val) ∧ (∀ kv ∈ d.rx, kv.1 / 16 ≠ p.val) ∧
    d.isAdmitted p.val = c.isAdmitted p.val ∧
    d.reg (lnkReg p.val 0x600) = min (c.reg (lnkReg p.val 0x600) + 1) 0xFFFFFFFF ∧ (d.port p.val).advPriv = []) ∧
  (∀ (p : Fin 1024) (tc : Fin 4) (c : Chip), (c.port p.val).advPriv = [] →
    ((c.winCheck p.val tc.val).win p.val tc.val).closed = false) ∧
  (∀ (p : Fin 1024) (c : Chip), (c.port p.val).st = .disabled ∨ (c.port p.val).st = .down → c.portDown p.val = c) ∧
  (∀ (p : Fin 1024) (c d : Chip), (c.port p.val).st = .quarantine ∨ (c.port p.val).st = .active → d = c.portFault p.val →
    (d.port p.val).st = .fault ∧ (d.port p.val).faults = c.now :: (c.port p.val).faults ∧ (d.port p.val).lanes = 0 ∧
    (d.port p.val).peer = none ∧ (d.port p.val).peerAdm = false ∧ (d.link p.val).replay = [] ∧
    (∀ x ∈ d.copies, x.link ≠ p.val) ∧ (∀ kv ∈ d.rx, kv.1 / 16 ≠ p.val) ∧
    d.reg (lnkReg p.val 0x600) = min (c.reg (lnkReg p.val 0x600) + 1) 0xFFFFFFFF) ∧
  (∀ (p : Fin 1024) (c : Chip), (c.port p.val).st ≠ .quarantine → (c.port p.val).st ≠ .active → c.portFault p.val = c) ∧
  (∀ (dom : Dom) (q : Fin 4) (d : Fin 16) (val : Word) (s : State),
    MayWrite s.chip dom q.val (0x20 + d.val) 0x400 val.toNat → val.toNat < 2 ^ 28 → 2 ≤ fld val.toNat 7 0 →
    fld val.toNat 27 16 ≠ 0 →
    exec (.lnkCreditCfgWrite dom q d val) s =
      .next (withChip s (s.chip.setReg (regAddr q.val (0x20 + d.val) 0x400) val.toNat)))

/-- PRBS checkers and power samples (R88, R104, R105, R108): an enabled checker locks; one that loses lock leaves its error
count and its lost bit; the readings of a sample stand in the engine's registers, the lower-numbered item low. Completes
PRBS_LOCK, PRBS_LOCK_LOST and OPTICAL_POWER_SAMPLE. Mend (R115 to R117, R125 to R131): a frame whose CRC is bad is counted
and asks for a replay once; of one whose CRC is good the control fields are used, the expected DATA frame is accepted and
its content taken, a duplicate is dropped, and one ahead asks for a replay; the oldest unacknowledged frame that has waited
is resent with all after it, under its own number, and a NAK that asks for the same replay again while it runs or waits for
lanes is ignored; in recovery one more NAK is sent; a frame that has been resent 16 times puts its port in FAULT; a frame
leaves an idle link, with the fields and the CRC that R115 to R117 give it; its ACK before any accepted frame is the model's
choice (log entry 72). Completes LINK_FRAME_RECEIVE, REPLAY_TIMEOUT, RECOVERY_TIMEOUT, MEND_FAULT and IDLE_FRAME_SEND. -/
def Obligations.CheckersPowerAndMend : Prop :=
  (∀ (lane : Fin 2048) (s : State), bit (s.chip.fpBits (lane.val / 8 * 4) 0x138) (lane.val % 8) = true →
    exec (.prbsLock lane) s =
      .next (withChip s (s.chip.setFpBits (lane.val / 8 * 4) 0x13C (2 ^ (lane.val % 8)) true))) ∧
  (∀ (lane : Fin 2048) (n : Nat) (s : State), bit (s.chip.fpBits (lane.val / 8 * 4) 0x13C) (lane.val % 8) = true →
    exec (.prbsLockLost lane n) s = .next (withChip s
      (((s.chip.setFpBits (lane.val / 8 * 4) 0x13C (2 ^ (lane.val % 8)) false).setFpBits (lane.val / 8 * 4) 0x140
        (2 ^ (lane.val % 8)) true).bump (lnePage (lane.val / 8 * 4) + 0x200 + 4 * (lane.val % 32)) n))) ∧
  (∀ (e : Fin 16) (rx tx src : List (BitVec 16)) (s : State), s.chip.isOn (8 + e.val) 0x40 = true →
    ∃ t, exec (.opticalPowerSample e rx tx src) s = .next t ∧ t.sram = s.sram ∧ t.pending = s.pending ∧
      (∀ i < 64, t.chip.reg (oen e.val (0x200 + 4 * i)) =
        (rx.getD (2 * i) 0x8000).toNat + 2 ^ 16 * (rx.getD (2 * i + 1) 0x8000).toNat) ∧
      (∀ i < 8, t.chip.reg (oen e.val (0x300 + 4 * i)) =
        (tx.getD (2 * i) 0x8000).toNat + 2 ^ 16 * (tx.getD (2 * i + 1) 0x8000).toNat) ∧
      t.chip.ports = s.chip.ports) ∧
  (∀ (q : Fin 4) (i : Fin 4) (f : Frame) (k : Nat) (s : State), seamOf (seamLink q.val i.val) = some k →
    (s.chip.seam k).up = true → frameCrcOk f = false →
    exec (.linkFrameReceive (.seam q i) f [] []) s = .next (withChip s
      ((s.chip.bump (semPage (seamLink q.val i.val) + 0x104) 1).needNak (seamLink q.val i.val)).restall)) ∧
  (∀ (c : Chip) (l : Nat), (c.link l).recov = false → (c.needNak l).link l =
    { c.link l with recov := true, recovAt := c.now, nakDue := true }) ∧
  (∀ (c : Chip) (l : Nat), (c.link l).recov = true → c.needNak l = c) ∧
  (∀ (link : LinkId) (f : Frame) (corr uncorr : List Nat) (c d : Chip) (s : State), s.chip.carries (linkKey link) = true →
    c = (if linkKey link < 1024 then s.chip.takeFec (linkKey link) corr uncorr else s.chip).loopBack (linkKey link) f →
    frameCrcOk f = true → 1024 ≤ linkKey link ∨ uncorr.all (· == 0) = true → frameKind f = 0 →
    (decide (linkKey link < 1024) && (c.port (linkKey link)).st == .init) = false → frameBadStitch f = false →
    d = c.takeControl (linkKey link) f →
    (frameFseq f = (d.link (linkKey link)).rxExp →
      exec (.linkFrameReceive link f corr uncorr) s = .next (withChip s
        ((d.onLink (linkKey link) (fun x => { x with
          rxExp := (frameFseq f + 1) % 4096, recov := false, ackDue := true })).takeContent (linkKey link) f).restall)) ∧
    (1 ≤ ((d.link (linkKey link)).rxExp + 4096 - frameFseq f) % 4096 →
      ((d.link (linkKey link)).rxExp + 4096 - frameFseq f) % 4096 ≤ 2048 →
      exec (.linkFrameReceive link f corr uncorr) s = .next (withChip s d.restall)) ∧
    (2048 < ((d.link (linkKey link)).rxExp + 4096 - frameFseq f) % 4096 →
      exec (.linkFrameReceive link f corr uncorr) s = .next (withChip s (d.needNak (linkKey link)).restall))) ∧
  (∀ (link : LinkId) (f : RepFrame) (rest : List RepFrame) (s : State),
    (s.chip.link (linkKey link)).replay = f :: rest → s.chip.carries (linkKey link) = true →
    exec (.replayTimeout link) s = .next (withChip s
      ((s.chip.till (f.sentAt + s.chip.replayTimeout (linkKey link))).resend (linkKey link)))) ∧
  (∀ (l : Nat) (c : Chip), 1024 ≤ l ∨ c.lanesUp l = true → ((c.resend l).link l).replay =
    (c.link l).replay.map (fun f => { f with resends := f.resends + 1, sentAt := c.now })) ∧
  (∀ (l : Nat) (c : Chip), l < 1024 → c.lanesUp l = false →
    c.resend l = c.onLink l (fun x => { x with nakAck := if x.replayDue then x.nakAck else none, replayDue := true })) ∧
  (∀ (l ack : Nat) (c : Chip), (c.link l).nakAck = some ack → c.now < (c.link l).replayEnd ∨ (c.link l).replayDue = true →
    c.takeNak l ack = c) ∧
  (∀ (l ack : Nat) (c : Chip), (c.link l).nakAck ≠ some ack ∨ (c.now ≥ (c.link l).replayEnd ∧ (c.link l).replayDue = false) →
    c.takeNak l ack = (c.resend l).onLink l (fun x => { x with nakAck := some ack })) ∧
  (∀ (l : Nat) (c : Chip), (c.link l).replayDue = true →
    c.resendDue l = (c.resend l).onLink l (fun x => { x with nakAck := (c.link l).nakAck })) ∧
  (∀ (link : LinkId) (s : State), (s.chip.link (linkKey link)).recov = true → s.chip.carries (linkKey link) = true →
    ∃ t, exec (.recoveryTimeout link) s = .next t ∧ t.sram = s.sram ∧ t.pending = s.pending ∧
      t.chip.link (linkKey link) = { s.chip.link (linkKey link) with nakDue := true, recovAt := t.chip.now } ∧
      t.chip.now = max s.chip.now ((s.chip.link (linkKey link)).recovAt + s.chip.replayTimeout (linkKey link)) ∧
      t.chip.regs = s.chip.regs) ∧
  (∀ (p : Fin 1024) (s : State), s.chip.worn p.val = true →
    exec (.mendFault p) s = .next (withChip s (s.chip.portFault p.val))) ∧
  (∀ (link : LinkId) (st : List Stitch) (c : Chip) (s : State), s.chip.carries (linkKey link) = true →
    1024 ≤ linkKey link ∨ ((s.chip.port (linkKey link)).st ≠ .init ∧ s.chip.lanesUp (linkKey link) = true ∧
      s.chip.isQuiet (linkKey link) = false) →
    (if s.chip.txOpen (linkKey link) then s.chip.nextData (linkKey link) else ([], s.chip)) = (st, c) →
    (st = [] → exec (.idleFrameSend link) s = .next (withChip s
      (c.sendFrame (linkKey link) 1 (c.link (linkKey link)).txSeq 0xFFFFFFFF (List.replicate 496 0)).restall)) ∧
    (st ≠ [] → exec (.idleFrameSend link) s = .next (withChip s (c.frameOut (linkKey link) st).restall))) ∧
  (∀ (l kind fseq map : Nat) (content : List Byte) (c : Chip), 1024 ≤ l →
    (c.sendFrame l kind fseq map content).out = .frame l (c.nextFrame l kind fseq map content) :: c.out ∧
    ((c.sendFrame l kind fseq map content).link l).nakDue = false ∧
    ((c.sendFrame l kind fseq map content).link l).ackDue = false ∧
    (c.sendFrame l kind fseq map content).regs = c.regs ∧ (c.sendFrame l kind fseq map content).ports = c.ports) ∧
  (∀ (l kind fseq map : Nat) (content : List Byte) (c : Chip) (f : Frame), f = c.nextFrame l kind fseq map content → kind < 4 →
    fseq < 4096 → map < 2 ^ 32 → content.length = 496 →
    frameCrcOk f = true ∧ f.content = content ∧ frameKind f = kind ∧ frameFseq f = fseq ∧
    (∀ i < 8, frameStitch f i = map / 16 ^ i % 16) ∧ fld f.tail.toNat 11 0 = ((c.link l).rxExp + 4095) % 4096 ∧
    bit f.tail.toNat 12 = (c.link l).nakDue ∧ bit f.tail.toNat 13 = (decide (l < 1024) && c.isAdmitted l))

/-- A head at the front of a virtual channel of a port (R119, R147, R174, R175, R200, R201, R272, R412): its 16 bytes begin
the packet, whose stamp is the time that stitch came; a QUARANTINE port discards all but the packets of R147 and counts it;
a header that breaks the protocol is discarded; a twin or probe packet goes to its own unit; of the rest one whose MC or SW
flag does not match its opcode is discarded at its lookup; behind a closed TC3 gate a TC3 packet of an end point is
discarded and counted (the model tests the gate first, log entry 79, and orders the other checks by log entry 56); one that
a rinse holds is stored without a lookup; any other is looked up, with HOPS one higher. What the part discards leaves its
packets, stores and copies alone. With no head, or on a port that carries no packets, nothing arrives. Completes
PACKET_HEAD_ARRIVE. -/
def Obligations.HeadArrivals : Prop :=
  (∀ (q : Fin 4) (d i : Fin 16) (p : Fin 1024) (vc : Fin 10) (s : State), p = portAt q d i →
    s.chip.rxHead p.val vc.val = none ∨ ((s.chip.port p.val).st ≠ .active ∧ (s.chip.port p.val).st ≠ .quarantine) →
    exec (.packetHeadArrive q d i vc) s = .next (withChip s s.chip.restall)) ∧
  (∀ (q : Fin 4) (d i : Fin 16) (p : Fin 1024) (vc : Fin 10) (h : Hdr) (c : Chip) (s : State), p = portAt q d i →
    s.chip.rxHead p.val vc.val = some h → (s.chip.port p.val).st = .active ∨ (s.chip.port p.val).st = .quarantine →
    c = s.chip.newId.2.judgeHead p.val vc.val s.chip.ids h →
    exec (.packetHeadArrive q d i vc) s = .next (withChip s
      (Chip.absorbQueue (s.chip.rxOf p.val vc.val).queue.length c p.val vc.val).restall)) ∧
  (∀ (p : Fin 1024) (vc : Fin 10) (id old : Nat) (h : Hdr) (counted : Bool) (mc : Option Mc) (c : Chip),
    (c.portPkt p.val vc.val id h old counted mc).pkts = c.pkts ++ [{
      id := id, hdr := h, oldDest := old, origin := .port p.val, entry := p.val / 256, vc := vc.val,
      stamp := c.rxAt p.val vc.val, rate := c.width p.val, counted := counted, mc := mc }]) ∧
  (∀ (p : Fin 1024) (vc : Fin 10) (id : Nat) (h : Hdr) (c : Chip), flagsBad h = true →
    c.lookHead p.val vc.val id h = (c.headDrop p.val vc.val id 0 1 h).noteRise h) ∧
  (∀ (p : Fin 1024) (vc : Fin 10) (at_ : Nat) (b : List Byte) (t : List (Nat × List Byte)) (c : Chip),
    c.rxOf p.val vc.val = { cur := none, queue := (at_, b) :: t } →
    c.rxAt p.val vc.val = at_ ∧
    c.rxHead p.val vc.val = some (Hdr.ofBits (BitVec.ofNat 128 (ofLe (b.take 16))))) ∧
  (∀ (p : Fin 1024) (vc : Fin 10) (id : Nat) (h : Hdr) (c : Chip),
    (c.port p.val).st = .quarantine → c.quarOk p.val h = false →
    c.judgeHead p.val vc.val id h = (c.bump (lnkReg p.val 0x5C0) 1).headDrop p.val vc.val id 5 1 h) ∧
  (∀ (p : Fin 1024) (vc : Fin 10) (id : Nat) (h : Hdr) (c : Chip),
    (c.port p.val).st ≠ .quarantine ∨ c.quarOk p.val h = true → c.headerBad p.val vc.val h = true →
    c.judgeHead p.val vc.val id h = c.headDrop p.val vc.val id 0 1 h) ∧
  (∀ (p : Fin 1024) (vc : Fin 10) (id : Nat) (h0 h : Hdr) (c d : Chip),
    (c.port p.val).st ≠ .quarantine ∨ c.quarOk p.val h0 = true → c.headerBad p.val vc.val h0 = false →
    h = { h0 with hops := h0.hops + 1 } → d = c.pmc (p.val / 256) (p.val % 256 / 16) 0x1003 (some (p.val % 16)) none →
    (h.net = 3 → c.judgeHead p.val vc.val id h0 = d.localHead p.val vc.val id h) ∧
    (h.net ≠ 3 → d.isEdge p.val = true → h.tc = 3 → d.gateOpen (p.val / 256) = false →
      c.judgeHead p.val vc.val id h0 = (d.bump (quePage (p.val / 256) + 0x21C) 1).headDrop p.val vc.val id 6 3 h) ∧
    (h.net ≠ 3 → h.tc ≠ 3 ∨ d.isEdge p.val = false ∨ d.gateOpen (p.val / 256) = true → d.mustHold p.val vc.val h = true →
      c.judgeHead p.val vc.val id h0 = d.holdHead p.val vc.val id h) ∧
    (h.net ≠ 3 → h.tc ≠ 3 ∨ d.isEdge p.val = false ∨ d.gateOpen (p.val / 256) = true → d.mustHold p.val vc.val h = false →
      c.judgeHead p.val vc.val id h0 = d.lookHead p.val vc.val id h)) ∧
  (∀ (p : Fin 1024) (vc : Fin 10) (id why disp : Nat) (h : Hdr) (c : Chip),
    (c.headDrop p.val vc.val id why disp h).pkts = c.pkts ∧ (c.headDrop p.val vc.val id why disp h).stores = c.stores ∧
    (c.headDrop p.val vc.val id why disp h).copies = c.copies)

/-- A unicast packet is forwarded (R201, R203, R204, R237, R238, R241, R242, R264): its first stitch waiting on an ACTIVE
port over a link, with a route to an ACTIVE port of the same quadrant and a FREE cell, it is stored with REF 2, one for the
writer and one for its copy, with what has come of its payload, that stitch holding its credit; and one entry joins the end
of the target's queue of its virtual channel; nothing is lost of what was queued or stored. The hypotheses keep apart what
else may see it: counters, taps, push-out and rinses; and the names in use are below the next one. -/
def Obligations.UnicastIsForwarded : Prop :=
  ∀ (q : Fin 4) (d i : Fin 16) (p r : Fin 1024) (vc : Fin 10) (at_ : Nat) (b : List Byte) (x : Nat) (h0 h : Hdr) (s : State),
    p = portAt q d i →
    s.chip.rxOf p.val vc.val = { cur := none, queue := [(at_, b)] } → h0 = Hdr.ofBits (BitVec.ofNat 128 (ofLe (b.take 16))) →
    h = { h0 with hops := h0.hops + 1, bank := (s.chip.job h0.job).bankIn (portIsland p.val) } → b ≠ [] →
    (s.chip.port p.val).st = .active → s.chip.headerBad p.val vc.val h0 = false → flagsBad h0 = false → s.chip.isEdge p.val = false →
    s.chip.held = [] → s.chip.rinses = [] → h.net ≤ 1 → h.mc = false → h.sw = false → h.tc < 3 → h.op ≠ 0x14 →
    s.chip.chunkLenOk (p.val / 256) h = true →
    tgtKind (s.chip.route (p.val / 256) h.bank h.dest) = 1 → tgtId (s.chip.route (p.val / 256) h.bank h.dest) = r.val →
    (s.chip.port r.val).st = .active → r.val / 256 = p.val / 256 →
    (s.chip.buf (p.val / 256)).mode = false →
    findFree (s.chip.heldCells (p.val / 256)) ((s.chip.heldCells (p.val / 256)).length + 1)
      (s.chip.buf (p.val / 256)).finder = some x →
    s.chip.isOn (p.val / 256) (0x60 + p.val % 256 / 16) = false → s.chip.isOn (p.val / 256) 0x70 = false →
    s.chip.isOn (p.val / 256) 0x71 = false → s.chip.lintTaps (p.val / 256) = [] →
    s.chip.regBit (quePage (p.val / 256) + 0x100) 2 = false →
    (∀ k ∈ s.chip.pkts, k.id < s.chip.ids) → (∀ e ∈ s.chip.stores, e.sid < s.chip.ids ∧ e.pkt < s.chip.ids) →
    (∀ y ∈ s.chip.copies, y.id < s.chip.ids ∧ y.sid < s.chip.ids) →
    ∃ (c : Chip) (k : Pkt) (st : Store), exec (.packetHeadArrive q d i vc) s = .next (withChip s c.restall) ∧
      c.pkts = s.chip.pkts ++ [k] ∧ k.id = s.chip.ids ∧ k.hdr = h ∧ k.oldDest = h0.dest ∧ k.counted = true ∧ k.stamp = at_ ∧
      k.payload = ((b.take (h.len + 24)).drop 16).take h.len ∧
      c.stores = s.chip.stores ++ [st] ∧ st.sid = s.chip.ids + 1 ∧ st.pkt = s.chip.ids ∧ st.q = p.val / 256 ∧
      st.cells = [x] ∧ st.wait = false ∧ st.ref = 2 ∧ st.rx = p.val ∧ st.got = (b.take (h.len + 24)).length ∧
      st.owed = [(b.take (h.len + 24)).length] ∧
      c.copies = s.chip.copies ++ [{ id := s.chip.ids + 2, pkt := s.chip.ids, sid := s.chip.ids + 1, q := p.val / 256,
                                     link := r.val, vc := vc.val, goal := .port r.val, path := [] }] ∧
      c.regs = s.chip.regs ∧ c.ports = s.chip.ports ∧ c.links = s.chip.links ∧ c.tables = s.chip.tables ∧
      c.out = s.chip.out

/-- A tail that arrives (R149, R177, R178, R184, R242): every byte of the packet under way is there, its trailer last. Of a
discarded packet nothing more happens; with a good seal the packet has its tail code, a seal made new where its header was
changed, and is stored; a seal that fails discards a packet of which nothing has left, and makes one of which something has
left STOMPED; each failed seal is counted, whatever becomes of the packet (DESIGN CHOICE, log entry 89). A packet that comes
STOMPED or SEVERED keeps its code whatever its seal; an unknown code is SEVERED and counts a protocol error. A packet that
still lacks bytes, or none, has no tail. Completes PACKET_TAIL_ARRIVE. -/
def Obligations.TailArrivals : Prop :=
  (∀ (q : Fin 4) (d i : Fin 16) (p : Fin 1024) (vc : Fin 10) (s : State), p = portAt q d i → (s.chip.rxOf p.val vc.val).cur = none →
    exec (.packetTailArrive q d i vc) s = .next (withChip s s.chip.restall)) ∧
  (∀ (q : Fin 4) (d i : Fin 16) (p : Fin 1024) (vc : Fin 10) (r : RxCur) (s : State), p = portAt q d i → (s.chip.rxOf p.val vc.val).cur = some r → r.got.length < r.need →
    exec (.packetTailArrive q d i vc) s = .next (withChip s s.chip.restall)) ∧
  (∀ (q : Fin 4) (d i : Fin 16) (p : Fin 1024) (vc : Fin 10) (r : RxCur) (c : Chip) (s : State), p = portAt q d i →
    (s.chip.rxOf p.val vc.val).cur = some r → r.need ≤ r.got.length →
    c = s.chip.setRx p.val vc.val { s.chip.rxOf p.val vc.val with cur := none } →
    (r.pkt = none → exec (.packetTailArrive q d i vc) s = .next (withChip s
      (c.lintTail r.seen none r.got (fld (leAt r.got (r.need - 8) 8) 39 32) 0).restall)) ∧
    (∀ k, r.pkt = some k.id → s.chip.pkt? k.id = some k → exec (.packetTailArrive q d i vc) s = .next (withChip s
      (c.tailKept p.val k r.got (leAt r.got (r.need - 8) 8)).restall))) ∧
  (∀ (p : Fin 1024) (raw : List Byte) (tr : Nat) (k : Pkt) (st : Store) (c d : Chip),
    tailKnown (fld tr 39 32) = true → sealOf { k.hdr with dest := k.oldDest } k.payload = BitVec.ofNat 32 tr →
    d = c.lintTail k.id none raw (fld tr 39 32) (if 2 ≤ tailCode (fld tr 39 32) then 0 else 1) →
    c.entryStore? k.id = some st →
    c.tailKept p.val k raw tr = (d.onPkt k.id (fun k => { k with
      tailIn := true, sealW := resealed k true (BitVec.ofNat 32 tr), code := tailCode (fld tr 39 32) })).tailStored st.sid true) ∧
  (∀ (p : Fin 1024) (raw : List Byte) (tr : Nat) (k : Pkt) (st : Store) (good : Bool) (c d : Chip),
    2 ≤ tailCode (fld tr 39 32) → good = (sealOf { k.hdr with dest := k.oldDest } k.payload == BitVec.ofNat 32 tr) →
    d = (if tailKnown (fld tr 39 32) = true then c else c.pmcDiscard p.val 0).lintTail k.id none raw (fld tr 39 32) 0 →
    c.entryStore? k.id = some st →
    c.tailKept p.val k raw tr = (d.onPkt k.id (fun k => { k with
      tailIn := true, sealW := resealed k good (BitVec.ofNat 32 tr), code := tailCode (fld tr 39 32) })).tailStored st.sid good) ∧
  (∀ (b : Fin 256), tailKnown b.val = false → tailCode b.val = 3) ∧
  (∀ (p : Fin 1024) (raw : List Byte) (tr : Nat) (k : Pkt) (c d : Chip),
    tailKnown (fld tr 39 32) = true → tailCode (fld tr 39 32) ≤ 1 →
    sealOf { k.hdr with dest := k.oldDest } k.payload ≠ BitVec.ofNat 32 tr →
    d = (c.lintTail k.id none raw (fld tr 39 32) 2).onPort p.val (fun x => { x with sealDrop := x.sealDrop + 1 }) →
    (d.hasLeft k.id = false → c.tailKept p.val k raw tr = (d.sealFailed k.id).2) ∧
    (∀ st, d.hasLeft k.id = true → (d.sealFailed k.id).2.entryStore? k.id = some st → c.tailKept p.val k raw tr =
      ((d.sealFailed k.id).2.onPkt k.id (fun k => { k with
        tailIn := true, sealW := resealed k false (BitVec.ofNat 32 tr), code := 2 })).tailStored st.sid false))

/-- A copy whose head has come over a seam is taken in (R53, R55, R69, R137, R217, R219, R265, R341, R351, R553): at a
quadrant it is stored and queued there, replicated or discarded, at a press die it waits for its tail, and what a press die
sends is looked up in its home quadrant; once all its bytes are there its tail is taken in too. A packet that is whole at a
press die joins the die's contributions under the context its lookup resolved, and its stitches hold their credits. With no
such copy, or while the queues of the quadrant do not work (log entry 115), nothing arrives. Completes SEAM_COPY_ARRIVE. -/
def Obligations.SeamArrivals : Prop :=
  (∀ (q i : Fin 4) (vc : Fin 10) (s : State), (s.chip.page (pageKey q.val 0x45)).st = 4 →
    exec (.seamCopyArrive (.seam q i) vc) s = .next (withChip s s.chip.restall)) ∧
  (∀ (q i : Fin 4) (vc : Fin 10) (x : Copy) (k : Pkt) (c d : Chip) (s : State), i.val < 3 →
    (s.chip.page (pageKey q.val 0x45)).st ≠ 4 → s.chip.seamFront (farEnd (seamLink q.val i.val)) vc.val = some x → s.chip.pkt? x.pkt = some k →
    c = s.chip.seamStore (seamLink q.val i.val) vc.val q.val x k →
    d = (if s.chip.sizeOf x.pkt ≤ x.got then c.seamTail (seamLink q.val i.val) x.id else c.seamOver x.id) →
    exec (.seamCopyArrive (.seam q i) vc) s = .next (withChip s d.restall)) ∧
  (∀ (p : Fin 4) (vc : Fin 10) (x : Copy) (k : Pkt) (c d : Chip) (s : State),
    s.chip.seamFront (seamLink p.val 3) vc.val = some x → s.chip.pkt? x.pkt = some k →
    c = s.chip.onCopy x.id (fun x => { x with arrived := true }) →
    d = (if s.chip.sizeOf x.pkt ≤ x.got then c.seamTail (ppLink p.val) x.id else c.seamOver x.id) →
    exec (.seamCopyArrive (.pp p) vc) s = .next (withChip s d.restall)) ∧
  (∀ (p : Fin 4) (vc : Fin 10) (x : Copy) (k : Pkt) (c d : Chip) (s : State), (s.chip.page (pageKey p.val 0x45)).st ≠ 4 →
    s.chip.seamFront (ppLink p.val) vc.val = some x → s.chip.pkt? x.pkt = some k →
    c = s.chip.pressHead (seamLink p.val 3) vc.val p.val x k →
    d = (if s.chip.sizeOf x.pkt ≤ x.got then c.seamTail (seamLink p.val 3) x.id else c.seamOver x.id) →
    exec (.seamCopyArrive (.seam p 3) vc) s = .next (withChip s d.restall)) ∧
  (∀ (l : LinkId) (vc : Fin 10) (s : State), s.chip.seamFront (farEnd (linkKey l)) vc.val = none →
    exec (.seamCopyArrive l vc) s = .next (withChip s s.chip.restall)) ∧
  (∀ (p : Fin 4) (e ctx : Nat) (x : Copy) (k : Pkt) (c : Chip),
    c.copy? x.id = some x → c.pkt? x.pkt = some k → x.goal = .press e ctx → x.ended = false →
    ∃ a, (c.seamTail (ppLink p.val) x.id).pressIn = c.pressIn ++ [(32 * p.val + ctx, a)] ∧ a.hdr = k.hdr ∧
      a.payload = k.payload ∧ a.vc = x.vc ∧ a.stitches = x.owed.length ∧
      (c.seamTail (ppLink p.val) x.id).links = c.links) ∧
  (∀ (q : Fin 4) (l vc : Nat) (x : Copy) (k : Pkt) (t : Nat × Goal × List Nat) (r : List (Nat × Goal × List Nat)) (c d : Chip),
    c.onward q.val x k = (t :: r, d) → d.tc3Full q.val vc k.hdr (t :: r) = false →
    c.seamStore l vc q.val x k = d.seamKeep l vc q.val x k.hdr (t :: r)) ∧
  (∀ (q : Fin 4) (l vc : Nat) (x : Copy) (k : Pkt) (c d : Chip), c.onward q.val x k = ([], d) →
    c.seamStore l vc q.val x k = d.seamDiscard l vc x)

/-- The scheduler, and what leaves (R120, R121, R124, R132, R135, R150, R156, R242, R267 to R270, R279, R285, R437): while
the transmitter may send, the grant of a head sends the DATA frame it begins in, with what else is ready, a stitch of VC9
before VC8 before the others, each stitch for one credit and one of its channel's quantum, heads granted after it among
them; a grant of a head that the next frame would not hold does nothing; the rest leaves in further frames, and with its
tail a port copy's reference ends. When a frame leaves and what it holds is by log entries 20 (DEDUCED) and 83 (DESIGN
CHOICE). A copy is its header, payload, seal and tail code; from where it was cut, zeros with SEAL 0. Completes HEAD_GRANT
and COPY_TAIL_SENT. What C0 sends, and the answers of a link (R97, R135, R170, R171, R206, R253): a probe's payload goes
back on its port, a tack request wakes a quiet direction and is acknowledged; the oldest packet of C0 enters a quadrant once
the injection path has its credits: through a named port without a lookup, discarded and counted where its lookup finds no
way. That injected packets come in stitches of 64 bytes, each for one credit, is the model's (log entry 91). Completes
MEND_PROBE_ANSWER, TACK_REQ_ANSWER and C0_INJECT. -/
def Obligations.PacketsLeave : Prop :=
  (∀ (l : LinkId) (vc : Fin 10) (x : Copy) (tl : List Copy) (r : List Stitch × Chip) (s : State),
    s.chip.queue (linkKey l) vc.val = x :: tl → x.headSent = false → s.chip.txOpen (linkKey l) = true →
    r = s.chip.nextData (linkKey l) →
    (r.1.any (·.copy == x.id) = true →
      exec (.headGrant l vc) s = .next (withChip s (r.2.frameOut (linkKey l) r.1).restall)) ∧
    (r.1.any (·.copy == x.id) = false → (r.2.copy? x.id).isSome = true →
      exec (.headGrant l vc) s = .next (withChip s s.chip.restall)) ∧
    (r.1 = [] → r.2.copy? x.id = none → exec (.headGrant l vc) s = .next (withChip s r.2.restall))) ∧
  (∀ (l : LinkId) (vc : Fin 10) (s : State),
    s.chip.queue (linkKey l) vc.val = [] ∨ s.chip.txOpen (linkKey l) = false →
    exec (.headGrant l vc) s = .next (withChip s s.chip.restall)) ∧
  (∀ (n l i v e : Nat) (x : Copy) (k0 k : Pkt) (c d f : Chip) (st : Stitch × Chip), i < 8 →
    c.pick l (slotCap i) = (some v, d) → d.ready l (slotCap i) v = some (x, k0) →
    (if x.headSent then d else d.stampTime x.pkt).pkt? x.pkt = some k → e = min (x.sent + slotCap i) k.hdr.size →
    (if x.headSent then d else d.stampTime x.pkt).readCheck x k e = (true, f) → st = f.putStitch l v e x k →
    Chip.fill (n + 1) c l i =
      (st.1 :: (Chip.fill n (if x.headSent then st.2 else st.2.headGone l v x k) l (i + 1)).1,
        (Chip.fill n (if x.headSent then st.2 else st.2.headGone l v x k) l (i + 1)).2)) ∧
  (∀ (l cap : Nat) (c : Chip),
    ((c.ready l cap 9).isSome = true → c.pick l cap = (some 9, c)) ∧
    (c.ready l cap 9 = none → (c.ready l cap 8).isSome = true → c.pick l cap = (some 8, c)) ∧
    (∀ v, c.ready l cap 9 = none → c.ready l cap 8 = none → (c.pick l cap).1 = some v → (c.ready l cap v).isSome = true ∧ v < 8)) ∧
  (∀ (l v e : Nat) (x : Copy) (k : Pkt) (c : Chip), c.copy? x.id = some x →
    (c.putStitch l v e x k).1.bytes = ((c.image x k).drop x.sent).take (e - x.sent) ∧
    (c.putStitch l v e x k).1.last = decide (k.hdr.size ≤ e) ∧
    (∀ y, (c.putStitch l v e x k).2.copy? x.id = some y → y.sent = e ∧ y.headSent = true ∧ y.tailSent = decide (k.hdr.size ≤ e)) ∧
    ((c.putStitch l v e x k).2.link l).pvUse = ((c.link l).useCredit v 1).pvUse ∧
    ((c.putStitch l v e x k).2.link l).shUse = ((c.link l).useCredit v 1).shUse) ∧
  (∀ (l : LinkId) (vc : Fin 10) (n : Nat) (x : Copy) (tl : List Copy) (s : State), s.chip.queue (linkKey l) vc.val = x :: tl →
    (x.headSent = true → exec (.copyTailSent l vc n) s = .next (withChip s (Chip.sendRest n s.chip (linkKey l) x.id).restall)) ∧
    (x.headSent = false → exec (.copyTailSent l vc n) s = .next (withChip s s.chip.restall))) ∧
  (∀ (l : LinkId) (vc : Fin 10) (n : Nat) (s : State), s.chip.queue (linkKey l) vc.val = [] →
    exec (.copyTailSent l vc n) s = .next (withChip s s.chip.restall)) ∧
  (∀ (n l id : Nat) (r : List Stitch × Chip) (c : Chip), c.txOpen l = true →
    (c.copies.any (fun x => x.id == id && !x.tailSent)) = true → r = c.nextData l →
    (r.1 = [] → Chip.sendRest (n + 1) c l id = r.2) ∧
    (r.1 ≠ [] → Chip.sendRest (n + 1) c l id = Chip.sendRest n (r.2.frameOut l r.1) l id)) ∧
  (∀ (l : Nat) (x : Copy) (k : Pkt) (c d e : Chip), c.copy? x.id = some x → c.pkt? x.pkt = some k →
    d = c.leave l (.tail l x.vc (((c.image x k).drop 16).take k.hdr.len) (BitVec.ofNat 64 (leAt (c.image x k) (k.hdr.len + 16) 8))) →
    e = d.lintTail k.id (some x.id) (c.image x k) (tailByte (c.codeOf x k)) 0 →
    (1024 ≤ l → c.tailGone l x.id = d.creditCheck x.sid) ∧
    (l < 1024 → digestCounts k.hdr = false → e.isEdge l = false → x.zeros = false →
      c.tailGone l x.id = (((e.lowerRef x.sid).creditCheck x.sid).gcPkt x.pkt).mcCheck x.pkt)) ∧
  (∀ (k : Pkt) (code n : Nat),
    imageOf k none code = k.hdr.bytes ++ fit 0 k.hdr.len k.payload ++ leBytes 8 (trailerOf k.sealW code).toNat ∧
    imageOf k (some n) code = fit 0 (k.hdr.len + 16) ((k.hdr.bytes ++ fit 0 k.hdr.len k.payload).take n) ++
      leBytes 8 (trailerOf 0 code).toNat) ∧
  (∀ (p : Fin 1024) (x : BitVec 24) (pay : List Byte) (a : Arr) (c : Chip) (s : State),
    s.chip.popProbe p.val 0x38 (fun a => a.hdr.aux == x.toNat && a.payload == pay) = (some a, c) →
    (s.chip.port p.val).st = .active ∨ (s.chip.port p.val).st = .quarantine → s.chip.rst.c0Up = true →
    exec (.mendProbeAnswer p x pay) s = .next (withChip s { c with
      c0Out := s.chip.c0Out ++ [{ hdr := { net := 3, op := 0x39, aux := x.toNat, plane := s.chip.plane,
                                           len := pay.length },
                                  payload := pay, code := 0, via := some p.val }] })) ∧
  (∀ (p : Fin 1024) (a : Arr) (c : Chip) (s : State), s.chip.popProbe p.val 0x3C (fun _ => true) = (some a, c) →
    (s.chip.port p.val).st = .active ∨ (s.chip.port p.val).st = .quarantine →
    exec (.tackReqAnswer p) s = .next (withChip s
      ((c.tack p.val).c0Send { net := 3, op := 0x3D } [] (some p.val)))) ∧
  (∀ (p : Fin 1024) (x : BitVec 24) (pay : List Byte) (c : Chip) (s : State),
    (s.chip.popProbe p.val 0x38 (fun a => a.hdr.aux == x.toNat && a.payload == pay) = (none, c) →
      exec (.mendProbeAnswer p x pay) s = .next (withChip s s.chip)) ∧
    (s.chip.popProbe p.val 0x3C (fun _ => true) = (none, c) → exec (.tackReqAnswer p) s = .next (withChip s s.chip))) ∧
  (∀ (p op : Nat) (a : Arr) (rest : List (Nat × Arr)) (f : Arr → Bool) (c : Chip), c.probeIn = (p, a) :: rest →
    a.hdr.op = op → f a = true → c.popProbe p op f = (some a, { c with probeIn := rest })) ∧
  (∀ (o : OutPkt) (rest : List OutPkt) (p : Nat) (ends : List Nat) (c d : Chip) (k : Pkt) (s : State),
    s.chip.c0Out = o :: rest → o.via = some p → p < 1024 → (s.chip.port p).st.framed = true → o.hdr.net = 3 →
    o.hdr.mc = false → o.hdr.tc = 0 → ends = stitchEnds o.hdr.size →
    (s.chip.injectCredits (p / 256)).hasCredit o.hdr.vc ends.length = true →
    k = { id := s.chip.ids, hdr := s.chip.selectBank (64 + p / 256) o.hdr, oldDest := o.hdr.dest, origin := .ctl,
          entry := p / 256, vc := o.hdr.vc, stamp := s.chip.time.ft, rate := 0, payload := o.payload, tailIn := true,
          sealW := sealOf (s.chip.selectBank (64 + p / 256) o.hdr) o.payload, code := o.code } →
    c = { s.chip with
          ids := s.chip.ids + 1, c0Out := rest, pkts := s.chip.pkts ++ [k],
          links := SMap.set s.chip.links (injectLink (p / 256))
            ((s.chip.injectCredits (p / 256)).useCredit o.hdr.vc ends.length) } →
    d = (Chip.tailStored
      (c.storePkt k.id (p / 256) (injectLink (p / 256)) o.hdr.vc k.hdr [(p, .port p, [])] none k.hdr.size ends false).2
      (c.storePkt k.id (p / 256) (injectLink (p / 256)) o.hdr.vc k.hdr [(p, .port p, [])] none k.hdr.size ends false).1
      true).mcCheck k.id →
    exec .c0Inject s = .next (withChip s d.restall)) ∧
  (∀ (o : OutPkt) (rest : List OutPkt) (q : Fin 4) (s : State),
    s.chip.c0Out = o :: rest → o.via = none → s.chip.injectQuad o = some q.val →
    (s.chip.injectCredits q.val).hasCredit o.hdr.vc (stitchesOf o.hdr.size) = true → o.hdr.net = 1 → o.hdr.mc = false →
    o.hdr.sw = false → tgtKind (s.chip.route q.val ((s.chip.job o.hdr.job).bankIn (64 + q.val)) o.hdr.dest) = 0 →
    exec .c0Inject s = .next (withChip s
      (Chip.bump { s.chip with ids := s.chip.ids + 1, c0Out := rest } (regAddr q.val 0x41 0x220) 1).restall)) ∧
  (∀ (o : OutPkt) (rest : List OutPkt) (q : Fin 4) (s : State),
    s.chip.c0Out = o :: rest → s.chip.injectQuad o = some q.val →
    (s.chip.injectCredits q.val).hasCredit o.hdr.vc (stitchesOf o.hdr.size) = false →
    exec .c0Inject s = .next (withChip s s.chip.restall))

/-- Table commands of EDG, RTE, PEG and MCG (R226 to R229, R401, R407): a read fills the data registers from the entry, the
rest with 0; a write puts the words of the data registers into the entry, or reports RESULT 2 for the value and 1 while the
entry is in use. The command runs where the page is ON, and GO then reads 1 for at most 1,000 ns (log entry 85), in which a
further one is refused. Completes TABLE_READ and TABLE_WRITE. Weights and out bits (R209 to R211, R215): the seam weights
must total 256; a 1 written to PEG_PORT_OUT clears that bit; a port ACTIVE for RETURN_DELAY with AUTO_RETURN set has its bit
cleared, while the PEG page is ON; a member counts while its port is ACTIVE and not out. Completes RTE_SEAM_W_WRITE,
PEG_PORT_OUT_CLEAR and PEG_RETURN. -/
def Obligations.TableCommandsAndWeights : Prop :=
  (∀ (dom : Dom) (q : Fin 4) (pg : Nat) (addr cmd : Word) (s : State),
    0x40 ≤ pg → pg ≤ 0x43 → addr.toNat = regAddr q.val pg 0x100 → cmd.toNat &&& 0xEF0FFFFF = cmd.toNat →
    s.chip.isOn q.val pg = true → MayWrite s.chip dom q.val pg 0x100 (goWord cmd.toNat true) →
    (s.chip.goBusy (regAddr q.val pg 0x100) = false → exec (.tableWrite dom addr cmd) s = .next (withChip s
      ((s.chip.tblCommand q.val pg (goWord cmd.toNat true)).startGo (regAddr q.val pg 0x100) 1000))) ∧
    (s.chip.goBusy (regAddr q.val pg 0x100) = true → exec (.tableWrite dom addr cmd) s = .next (withChip s
      (s.chip.recordErr (regAddr q.val pg 0) 6 0x100 (goWord cmd.toNat true) (dom == .fabric))))) ∧
  (∀ (dom : Dom) (q : Fin 4) (pg : Nat) (addr cmd : Word) (s : State),
    0x40 ≤ pg → pg ≤ 0x43 → addr.toNat = regAddr q.val pg 0x100 → cmd.toNat &&& 0xEF0FFFFF = cmd.toNat →
    s.chip.isOn q.val pg = true → MayWrite s.chip dom q.val pg 0x100 (goWord cmd.toNat false) →
    (s.chip.goBusy (regAddr q.val pg 0x100) = false → exec (.tableRead dom addr cmd) s = .next (withChip s
      ((s.chip.tblCommand q.val pg (goWord cmd.toNat false)).startGo (regAddr q.val pg 0x100) 1000))) ∧
    (s.chip.goBusy (regAddr q.val pg 0x100) = true → exec (.tableRead dom addr cmd) s = .next (withChip s
      (s.chip.recordErr (regAddr q.val pg 0) 6 0x100 (goWord cmd.toNat false) (dom == .fabric))))) ∧
  (∀ (q : Fin 4) (pg t v : Nat) (c d : Chip) (ws : List Word),
    tblOf pg (fld v 27 24) = some t → fld v 19 0 < tblSize t → d = c.setReg (regAddr q.val pg 0x100) (v % 2 ^ 31) →
    ws = d.dataWords (regAddr q.val pg 0x140) (tblMask t).length → bit v 30 = true →
    (tblValueOk t ws = false → c.tblCommand q.val pg v = d.setReg (regAddr q.val pg 0x104) 2) ∧
    (tblValueOk t ws = true → d.syncing = false → d.tblInUse q.val t (bit v 29) (fld v 19 0) ws = true →
      c.tblCommand q.val pg v = d.setReg (regAddr q.val pg 0x104) 1) ∧
    (tblValueOk t ws = true → d.syncing = false → d.twin.txOn = false →
      d.tblInUse q.val t (bit v 29) (fld v 19 0) ws = false →
      c.tblCommand q.val pg v =
        (d.putEntry q.val t (bit v 29) (fld v 19 0) ws).setReg (regAddr q.val pg 0x104) 0)) ∧
  (∀ (q : Fin 4) (pg t v i : Nat) (c : Chip),
    0x40 ≤ pg → pg ≤ 0x43 → tblOf pg (fld v 27 24) = some t → fld v 19 0 < tblSize t → bit v 30 = false → c.badEnt = [] →
    i < 36 →
    (c.tblCommand q.val pg v).reg (regAddr q.val pg (0x140 + 4 * i)) =
      word (c.entry q.val t (bit v 29) (fld v 19 0)) i ∧
    (c.tblCommand q.val pg v).reg (regAddr q.val pg 0x104) = 0) ∧
  (∀ (dom : Dom) (q : Fin 4) (i : Fin 3) (val : Word) (s : State),
    MayWrite s.chip dom q.val 0x41 (0x210 + 4 * i.val) val.toNat → val.toNat < 2 ^ 27 → s.chip.syncing = false →
    s.chip.twin.txOn = false →
    (fld val.toNat 8 0 + fld val.toNat 17 9 + fld val.toNat 26 18 = 256 →
      exec (.rteSeamWWrite dom q i val) s =
        .next (withChip s (s.chip.setReg (regAddr q.val 0x41 (0x210 + 4 * i.val)) val.toNat))) ∧
    (fld val.toNat 8 0 + fld val.toNat 17 9 + fld val.toNat 26 18 ≠ 256 →
      exec (.rteSeamWWrite dom q i val) s = .next (withChip s
        (s.chip.recordErr (regAddr q.val 0x41 0) 1 (0x210 + 4 * i.val) val.toNat (dom == .fabric))))) ∧
  (∀ (dom : Dom) (q : Fin 4) (i : Fin 8) (val : Word) (s : State),
    MayWrite s.chip dom q.val 0x42 (0x200 + 4 * i.val) val.toNat →
    exec (.pegPortOutClear dom q i val) s = .next (withChip s
      (s.chip.setReg (regAddr q.val 0x42 (0x200 + 4 * i.val))
        (s.chip.reg (regAddr q.val 0x42 (0x200 + 4 * i.val)) -
          (s.chip.reg (regAddr q.val 0x42 (0x200 + 4 * i.val)) &&& val.toNat))))) ∧
  (∀ (p : Fin 1024) (s : State), s.chip.active p.val = true → s.chip.pegOut p.val = true →
    bit (s.chip.reg (regAddr (p.val / 256) 0x42 0x220)) 16 = true → s.chip.isOn (p.val / 256) 0x42 = true →
    exec (.pegReturn p) s = .next (withChip s
      ((s.chip.till ((s.chip.port p.val).activeAt + fld (s.chip.reg (regAddr (p.val / 256) 0x42 0x220)) 9 0 * 1000000)).setRegBit
        (pegOutReg p.val) (p.val % 32) false))) ∧
  (∀ (p : Fin 1024) (s : State), s.chip.active p.val = false ∨ s.chip.isOn (p.val / 256) 0x42 = false →
    exec (.pegReturn p) s = .next s) ∧
  (∀ (p : Fin 1024) (c : Chip), c.active p.val = true → c.regBit (pegOutReg p.val) (p.val % 32) = true →
    c.live p.val = false ∧ (c.setRegBit (pegOutReg p.val) (p.val % 32) false).live p.val = true)

/-- An entry reads as it was last written, and no other entry of any table, bank or quadrant changes (R226, R228, R401; the
switch route table has one bank). -/
def Obligations.TableEntriesStandApart : Prop :=
  ∀ (q q' : Fin 4) (t t' : Fin 7) (bank bank' : Bool) (i i' : Nat) (ws : List Word) (c : Chip),
    i < tblSize t.val → i' < tblSize t'.val →
    (c.putEntry q.val t.val bank i ws).entry q'.val t'.val bank' i' =
      if q' = q ∧ t' = t ∧ i' = i ∧ (t.val = 3 ∨ bank' = bank) then ws else c.entry q'.val t'.val bank' i'

/-- Storage (R237 to R240, R242 to R244, R248, R249): what waits longest is stored once it fits, and the tail that waited
with it; a growing chain takes the next FREE cell and links it; a chain is freed cell by cell along its links, and behind a
bad link the rest stays held; a damaged link is one that log entry 51 marks; a packet that waited is stored in the mode in
force when it is resumed (DESIGN CHOICE, log entry 102); a hamper's cache below CACHE_LOW takes up to 128 handles from its
ring and one above CACHE_HIGH gives its 128 oldest, none being lost; every move of handles keeps HEAD, TAIL and the lap bits
of the ring in form (R248). What nothing will read needs no storage (R280). Completes POOL0_WAIT_RESUME, CHAIN_CELL_TAKE,
CHAIN_FREE_CELL, HAMPER_REFILL and HAMPER_SPILL. A packet's storage (R241 to R243, R246, R251): a lowering of REF above 1
leaves the storage held with REF one lower; the last one takes the store away, returns its credits and frees what storage it
has; a lowering at REF 0, or through a handle that fails its check, is refused, counted and recorded with cause 8; storage
whose REF cannot be read is held, its word by the marks of log entry 51 and its errors counted as log entry 54 has it. -/
def Obligations.StorageMoves : Prop :=
  (∀ (q : Fin 4) (st : Store) (t : Nat × Nat × Bool) (c : Chip) (s : State),
    s.chip.stores.find? (fun x => x.q == q.val && x.wait && !s.chip.unread x) = some st →
    s.chip.takeStore q.val (s.chip.sizeOf st.pkt - 24) = (some t, c) →
    (st.tailWait = false →
      exec (.pool0WaitResume q) s = .next (withChip s (c.placeStore st (s.chip.sizeOf st.pkt - 24) t).restall)) ∧
    (st.tailWait = true →
      exec (.pool0WaitResume q) s = .next (withChip s ((c.placeStore st (s.chip.sizeOf st.pkt - 24) t).tailResume st).restall))) ∧
  (∀ (q : Fin 4) (st : Store) (s : State), s.chip.stores.find? (fun x => x.q == q.val && x.wait && !s.chip.unread x) = some st →
    (s.chip.takeStore q.val (s.chip.sizeOf st.pkt - 24)).1 = none → exec (.pool0WaitResume q) s = .next (withChip s s.chip.restall)) ∧
  (∀ (q : Fin 4) (s : State), s.chip.stores.find? (fun x => x.q == q.val && x.wait && !s.chip.unread x) = none →
    (∀ st, s.chip.stores.find? (fun x => x.q == q.val && x.tailWait) = some st →
      exec (.pool0WaitResume q) s = .next (withChip s (s.chip.tailResume st).restall)) ∧
    (s.chip.stores.find? (fun x => x.q == q.val && x.tailWait) = none → exec (.pool0WaitResume q) s = .next (withChip s s.chip.restall))) ∧
  (∀ (q : Fin 4) (st : Store) (s : State),
    s.chip.stores.find? (fun x => x.q == q.val && x.chain && !x.wait && !x.tailIn && !s.chip.unread x &&
      decide (x.cells.length < x.need) && decide (248 * x.cells.length < x.got)) = some st →
    (∀ x c, s.chip.takeCell q.val st.pooled = (some x, c) → exec (.chainCellTake q) s = .next (withChip s
      ((c.chainCell q.val (s.chip.sizeOf st.pkt) st.cells x).onStore st.sid (fun y => { y with cells := y.cells ++ [x] })).restall)) ∧
    (∀ c, s.chip.takeCell q.val st.pooled = (none, c) →
      exec (.chainCellTake q) s = .next (withChip s (c.pool0Wait q.val).restall))) ∧
  (∀ (q : Fin 4) (size x : Nat) (rest : List Nat) (tl : List (Nat × List Nat)) (c : Chip) (s : State),
    (s.chip.buf q.val).freeing = (size, x :: rest) :: tl →
    (s.chip.linkBad q.val x size = false → exec (.chainFreeCell q) s = .next (withChip s
      ((s.chip.onBuf q.val (fun b => { b with
        freeing := if rest.isEmpty then tl else (size - 248, rest) :: tl,
        links := SMap.del b.links x, badLink := b.badLink.filter (· != x) })).cellFreed q.val x).restall)) ∧
    (s.chip.linkBad q.val x size = true →
      c = (if (s.chip.buf q.val).badLink.contains x then s.chip.countUe q.val 0 (32 * x + 31) else s.chip) →
      exec (.chainFreeCell q) s = .next (withChip s
        (((c.onBuf q.val (fun b => { b with
          freeing := tl, lost := b.lost ++ rest,
          links := SMap.del b.links x, badLink := b.badLink.filter (· != x) })).handleErr q.val).cellFreed q.val x).restall))) ∧
  (∀ (q p : Fin 4) (h : Hamper) (n : Nat) (s : State), h = (s.chip.buf q.val).hamper p.val →
    n = s.chip.ringLen q.val p.val → RingOk h n → h.cache.length < fld (s.chip.reg (bufPage q.val + 0x108)) 8 0 →
    s.chip.works q.val 0x44 = true → (s.chip.buf q.val).hamp.length = 4 →
    ∃ t, exec (.hamperRefill q p) s = .next t ∧ t.sram = s.sram ∧ t.pending = s.pending ∧
      ((t.chip.buf q.val).hamper p.val).cache.length = h.cache.length + min 128 (h.count n) ∧
      ((t.chip.buf q.val).hamper p.val).count n = h.count n - 128 ∧
      ((t.chip.buf q.val).hamper p.val).tail = h.tail ∧ RingOk ((t.chip.buf q.val).hamper p.val) n ∧ (t.chip.buf q.val).ringMem = (s.chip.buf q.val).ringMem ∧
      t.chip.poolFree q.val p.val = s.chip.poolFree q.val p.val ∧ t.chip.regs = s.chip.regs ∧ t.chip.stores = s.chip.stores) ∧
  (∀ (q p : Fin 4) (h : Hamper) (n : Nat) (s : State), h = (s.chip.buf q.val).hamper p.val →
    n = s.chip.ringLen q.val p.val → RingOk h n → fld (s.chip.reg (bufPage q.val + 0x108)) 24 16 < h.cache.length →
    128 ≤ h.cache.length → s.chip.works q.val 0x44 = true → (s.chip.buf q.val).hamp.length = 4 → h.count n + 128 ≤ n →
    ∃ t, exec (.hamperSpill q p) s = .next t ∧ t.sram = s.sram ∧ t.pending = s.pending ∧
      ((t.chip.buf q.val).hamper p.val).cache = h.cache.take (h.cache.length - 128) ∧
      ((t.chip.buf q.val).hamper p.val).count n = h.count n + 128 ∧
      ((t.chip.buf q.val).hamper p.val).head = h.head ∧ RingOk ((t.chip.buf q.val).hamper p.val) n ∧
      t.chip.poolFree q.val p.val = s.chip.poolFree q.val p.val ∧ t.chip.regs = s.chip.regs ∧ t.chip.stores = s.chip.stores) ∧
  (∀ (q p : Fin 4) (x : Nat) (c : Chip), RingOk ((c.buf q.val).hamper p.val) (c.ringLen q.val p.val) →
    (c.buf q.val).hamp.length = 4 → ((c.buf q.val).hamper p.val).cache.length < 512 →
    RingOk (((c.pushHandle q.val p.val x).buf q.val).hamper p.val) (c.ringLen q.val p.val) ∧
    ((c.pushHandle q.val p.val x).poolFree q.val p.val = c.poolFree q.val p.val + 1)) ∧
  (∀ (sid : Nat) (st : Store) (c : Chip), c.store? sid = some st → st.sid = sid →
    (st.ref = 0 ∨ (st.wait = false ∧ c.handleOk st.q st.handle st.chain st.pooled = false) →
      c.lowerRef sid = (((c.bump (bufPage st.q + 0x1C4) 1).recordErr (bufPage st.q) 8 0 st.handle false).raise
        (bufPage st.q) 2).fenceEvent) ∧
    (st.ref ≠ 0 → st.wait = false → c.handleOk st.q st.handle st.chain st.pooled = true →
      (c.buf st.q).badRef.contains (fld st.handle 19 0) = true →
      c.lowerRef sid = (c.countUe st.q 1 (fld st.handle 19 0)).creditCheck sid) ∧
    (1 < st.ref → st.wait = true ∨ (c.handleOk st.q st.handle st.chain st.pooled = true ∧
      (c.buf st.q).badRef.contains (fld st.handle 19 0) = false) → st.owed = [] →
      c.lowerRef sid = c.onStore sid (fun s => { s with ref := s.ref - 1 })) ∧
    (st.ref = 1 → st.wait = false → c.handleOk st.q st.handle st.chain st.pooled = true →
      (c.buf st.q).badRef.contains (fld st.handle 19 0) = false →
      c.lowerRef sid =
        (((Chip.returnCredits { c with stores := c.stores.filter (fun t => t.sid != sid) } st.rx st.vc
          st.owed.length).freeStore st (c.sizeOf st.pkt)).gcPkt st.pkt)) ∧
    (st.ref = 1 → st.wait = true → c.lowerRef sid =
      (Chip.returnCredits { c with stores := c.stores.filter (fun t => t.sid != sid) } st.rx st.vc st.owed.length).gcPkt st.pkt))

/-- Modes, layouts and moves of the buffer (R257 to R261, R263): MODE switches to chained-cell mode, and to pool mode only
on a built hamper with a good layout and HAVE at least NEED; a layout register is written in chained-cell mode with no unit
held and clears BUILT; REBUILD and BUF_MOVE start their work, REBUILD at any other time being refused with cause 2; the
rebuild ends with BUILT set, one that the controller began in pool mode, the move with its boundary written, and the
controller does both on its own; within 10 ms of the last rebuild a trigger raises HANDLE_ERR again instead. That BUF_MOVE
is refused without GO too, and with which of causes 1 and 2, is the model's (log entry 41). Completes BUF_MODE_WRITE,
BUF_LAYOUT_WRITE, REBUILD, REBUILD_DONE, BUF_MOVE, MOVE_DONE, AUTO_REBUILD and POOL_BALANCE. -/
def Obligations.BufferModesAndMoves : Prop :=
  (∀ (dom : Dom) (q : Fin 4) (val : Word) (s : State), MayWrite s.chip dom q.val 0x44 0x100 val.toNat →
    val.toNat &&& 0xFF0101 = val.toNat → fld val.toNat 23 16 ≠ 0 →
    (bit val.toNat 0 = false →
      exec (.bufModeWrite dom q val) s = .next (withChip s
        (if (s.chip.buf q.val).mode then (s.chip.setReg (bufPage q.val + 0x100) val.toNat).setMode q.val false
         else s.chip.setReg (bufPage q.val + 0x100) val.toNat))) ∧
    (bit val.toNat 0 = true → (s.chip.buf q.val).mode = false → s.chip.poolModeOk q.val = true →
      exec (.bufModeWrite dom q val) s = .next (withChip s
        ((s.chip.setReg (bufPage q.val + 0x100) val.toNat).setMode q.val true))) ∧
    (bit val.toNat 0 = true → (s.chip.buf q.val).mode = false → s.chip.poolModeOk q.val = false →
      exec (.bufModeWrite dom q val) s = .next (withChip s
        (s.chip.recordErr (bufPage q.val) 2 0x100 val.toNat (dom == .fabric))))) ∧
  (∀ (dom : Dom) (q : Fin 4) (off : BitVec 12) (d : RegDef) (val : Word) (s : State),
    MayWrite s.chip dom q.val 0x44 off.toNat val.toNat → 0x110 ≤ off.toNat → off.toNat < 0x150 →
    regDef .buf 0 off.toNat = some d → val.toNat &&& d.rw = val.toNat → (s.chip.buf q.val).rebuilding = false →
    ((s.chip.buf q.val).mode = false → (∀ p < 4, s.chip.poolHeld q.val p = 0) →
      exec (.bufLayoutWrite dom q off val) s = .next (withChip s
        ((s.chip.setReg (bufPage q.val + off.toNat) val.toNat).onBuf q.val (fun b => { b with built := false })))) ∧
    ((s.chip.buf q.val).mode = true →
      exec (.bufLayoutWrite dom q off val) s = .next (withChip s
        (s.chip.recordErr (bufPage q.val) 2 off.toNat val.toNat (dom == .fabric))))) ∧
  (∀ (dom : Dom) (q : Fin 4) (s : State),
    MayWrite s.chip dom q.val 0x44 0x100 (s.chip.reg (bufPage q.val + 0x100) ||| 0x10) → s.chip.isOn q.val 0x44 = true →
    s.chip.reg (bufPage q.val + 0x100) &&& 0xFF0100 = s.chip.reg (bufPage q.val + 0x100) →
    fld (s.chip.reg (bufPage q.val + 0x100)) 23 16 ≠ 0 → (s.chip.buf q.val).mode = false →
    (s.chip.buf q.val).rebuilding = false → (s.chip.buf q.val).move = none →
    exec (.rebuild dom q) s = .next (withChip s
      ((s.chip.setReg (bufPage q.val + 0x100) (s.chip.reg (bufPage q.val + 0x100))).rebuildStart q.val))) ∧
  (∀ (q : Fin 4) (s : State), (s.chip.buf q.val).rebuilding = true → (s.chip.buf q.val).auto = false →
    exec (.rebuildDone q) s = .next (withChip s
      (((s.chip.each (List.range 4) (fun c p => c.visit q.val p (c.poolCount q.val p) none)).onBuf q.val
        (fun b => { b with rebuilding := false, built := true })).raise (bufPage q.val) 0x20).restall)) ∧
  (∀ (q : Fin 4) (c : Chip) (s : State), (s.chip.buf q.val).rebuilding = true → (s.chip.buf q.val).auto = true →
    c = (((s.chip.each (List.range 4) (fun c p => c.visit q.val p (c.poolCount q.val p) none)).onBuf q.val
      (fun b => { b with rebuilding := false, built := true })).raise (bufPage q.val) 0x20).onBuf q.val
        (fun b => { b with auto := false }) →
    (c.rebuildOn q.val = true → c.poolModeOk q.val = true → exec (.rebuildDone q) s = .next (withChip s
      ((c.setMode q.val true).setRegBit (bufPage q.val + 0x100) 0 true).restall)) ∧
    (c.rebuildOn q.val = false ∨ c.poolModeOk q.val = false →
      exec (.rebuildDone q) s = .next (withChip s c.restall))) ∧
  (∀ (dom : Dom) (q : Fin 4) (s : State),
    MayWrite s.chip dom q.val 0x44 0x100 (s.chip.reg (bufPage q.val + 0x100) ||| 0x10) → s.chip.isOn q.val 0x44 = true →
    s.chip.reg (bufPage q.val + 0x100) &&& 0xFF0101 = s.chip.reg (bufPage q.val + 0x100) →
    (s.chip.buf q.val).mode = true ∨ (s.chip.buf q.val).rebuilding = true ∨ (s.chip.buf q.val).move.isSome = true →
    exec (.rebuild dom q) s = .next (withChip s (s.chip.recordErr (bufPage q.val) 2 0x100
      (s.chip.reg (bufPage q.val + 0x100) ||| 0x10) (dom == .fabric)))) ∧
  (∀ (dom : Dom) (q : Fin 4) (val : Word) (s : State), MayWrite s.chip dom q.val 0x44 0x1B0 val.toNat →
    val.toNat &&& 0x803FFFFF = val.toNat → s.chip.isOn q.val 0x44 = true →
    (bit val.toNat 31 = true → s.chip.moveOk q.val (fld val.toNat 21 20) (sx 20 (fld val.toNat 19 0)) = true →
      exec (.bufMove dom q val) s = .next (withChip s ((s.chip.setReg (bufPage q.val + 0x1B0) val.toNat).moveStart q.val
        (fld val.toNat 21 20) (sx 20 (fld val.toNat 19 0))))) ∧
    (bit val.toNat 31 = false → s.chip.moveOk q.val (fld val.toNat 21 20) (sx 20 (fld val.toNat 19 0)) = true →
      exec (.bufMove dom q val) s = .next (withChip s (s.chip.setReg (bufPage q.val + 0x1B0) val.toNat))) ∧
    (s.chip.moveOk q.val (fld val.toNat 21 20) (sx 20 (fld val.toNat 19 0)) = false →
      exec (.bufMove dom q val) s = .next (withChip s (s.chip.recordErr (bufPage q.val)
        (if (s.chip.buf q.val).move.isSome then 6
         else if fld val.toNat 21 20 = 0 ∨ (sx 20 (fld val.toNat 19 0)).natAbs % moveStep (fld val.toNat 21 20) ≠ 0 then 1 else 2)
        0x1B0 val.toNat (dom == .fabric))))) ∧
  (∀ (q : Fin 4) (m : Move) (r : Nat × Nat) (s : State), (s.chip.buf q.val).move = some m →
    s.chip.movingRegion q.val = some r → s.chip.moveReady q.val = true → s.chip.works q.val 0x44 = true →
    exec (.moveDone q) s = .next (withChip s (s.chip.moveFinish q.val m r).restall)) ∧
  (∀ (q : Fin 4) (s : State), (s.chip.buf q.val).trigger = true → s.chip.rebuildOn q.val = true → s.chip.isOn q.val 0x44 = true →
    ((s.chip.buf q.val).rebuilding = false → (s.chip.buf q.val).move = none →
      exec (.autoRebuild q) s = .next (withChip s
        ((((s.chip.setMode q.val false).setRegBit (bufPage q.val + 0x100) 0 false).rebuildStart q.val).onBuf q.val
          (fun b => { b with trigger := false, auto := true, lastRebuild := some s.chip.now })))) ∧
    ((s.chip.buf q.val).rebuilding = true ∨ (s.chip.buf q.val).move.isSome = true →
      exec (.autoRebuild q) s = .next (withChip s ((s.chip.setMode q.val false).setRegBit (bufPage q.val + 0x100) 0 false))) ∧
    ((s.chip.buf q.val).rebuilding = true ∨ (s.chip.buf q.val).move.isSome = true →
      ((s.chip.setMode q.val false).buf q.val).trigger = true)) ∧
  (∀ (q : Fin 4) (c : Chip), c.rebuildOn q.val = true →
    ((c.buf q.val).lastRebuild = none → c.rebuildTrigger q.val = c.onBuf q.val (fun b => { b with trigger := true })) ∧
    (∀ at_, (c.buf q.val).lastRebuild = some at_ →
      (at_ + 10000000 ≤ c.now → c.rebuildTrigger q.val = c.onBuf q.val (fun b => { b with trigger := true })) ∧
      (c.now < at_ + 10000000 → c.rebuildTrigger q.val = c.raise (bufPage q.val) 1))) ∧
  (∀ (q : Fin 4) (b : Fin 3) (delta : Int) (s : State), (s.chip.buf q.val).holdUp = true → s.chip.policy 2 = true →
    0 < delta → s.chip.richest q.val (b.val + 1) = true → s.chip.moveOk q.val (b.val + 1) delta = true →
    exec (.poolBalance q b delta) s = .next (withChip s
      (((s.chip.moveStart q.val (b.val + 1) delta).setReg (bufPage q.val + 0x1B0)
        (2 ^ 31 + put (b.val + 1) 20 + toTwos 20 delta)).onBuf q.val
        (fun b => { b with holdUp := false, spillUp := false }))))

/-- The rebuild finds every unit whose cells are all FREE, and no other (R249, R261): what it visits of a pool it pushes,
and after it has visited the whole pool from empty caches and rings the pool holds as many free handles as it has such
units. -/
def Obligations.RebuildFindsEveryFreeUnit : Prop :=
  (∀ (q p : Fin 4) (c : Chip), (c.buf q.val).hamp.length = 4 → (c.buf q.val).hamper p.val = {} →
    cnt (c.buf q.val).visited p.val = 0 → c.poolCount q.val p.val ≤ c.ringLen q.val p.val →
    (c.visit q.val p.val (c.poolCount q.val p.val) none).poolFree q.val p.val =
      (c.freeUnits q.val p.val 0 (c.poolCount q.val p.val)).length ∧
    (c.visit q.val p.val (c.poolCount q.val p.val) none).regs = c.regs) ∧
  (∀ (q p : Fin 4) (i n : Nat) (e : HEnt) (c : Chip), i < n →
    e = { w := handleOf p.val (c.poolBase q.val p.val + i * unitCells p.val) } →
    (e ∈ c.freeUnits q.val p.val 0 n ↔ ∀ x ∈ c.heldCells q.val, c.inPool q.val p.val x = true →
      c.unitOf q.val p.val x ≠ c.poolBase q.val p.val + i * unitCells p.val))

/-- Queues (R272, R278, R279, R281, R553): the TC3 gate follows TC3_ADMIT and TC3_HOLD with its event; an entry whose head
has not left is discarded whole at its age limit, while the QUE page works, and one whose head has left ends in zeros and
STOMPED; a new age limit, 1 to 16,000 µs, is stored, any other refused. Completes TC3_GATE_CHANGE, ENTRY_AGED,
ENTRY_AGED_STOMP and QUE_AGE_LIMIT_WRITE. Edge windows (R283, R286 to R289): a new epoch begins on a tick of P_E; an epoch
of age 16 × P_E leaves OUT and its count joins WIN_EXPIRED; a new period is 16 to 16,000; a write of WIN_LIMIT opens or
closes the window at once; a window is closed exactly while LIMIT is above 0 and OUT at least LIMIT, on a port that
advertises credits on VC4 to VC7; an island whose WIN page is neither ON nor DISABLING keeps its epochs (R553). Completes
WINDOW_EPOCH_START, WINDOW_EPOCH_EXPIRE, WIN_EXPIRE_WRITE and WIN_LIMIT_WRITE. -/
def Obligations.GateAgeingAndWindows : Prop :=
  (∀ (q : Fin 4) (s : State), s.chip.gateOpen q.val = s.chip.gateWanted q.val ∨ s.chip.works q.val 0x45 = false →
    exec (.tc3GateChange q) s = .next s) ∧
  (∀ (q : Fin 4) (s : State), s.chip.gateOpen q.val ≠ s.chip.gateWanted q.val → s.chip.works q.val 0x45 = true →
    exec (.tc3GateChange q) s = .next (withChip s
      (Chip.raise { s.chip with gate := s.chip.gate.set q.val (s.chip.gateWanted q.val) } (quePage q.val) 4))) ∧
  (∀ (l : LinkId) (vc : Fin 10) (i : Nat) (x : Copy) (k : Pkt) (s : State), linkKey l < 1040 →
    (s.chip.queue (linkKey l) vc.val)[i]? = some x → s.chip.pkt? x.pkt = some k → x.headSent = false →
    s.chip.works (linkQuad (linkKey l)) 0x45 = true →
    exec (.entryAged l vc i) s = .next (withChip s
      ((((s.chip.untilFabric (k.stamp + s.chip.ageLimit (linkQuad (linkKey l)) k.hdr.tc)).agedCount (linkKey l) k.hdr.tc
        false).dropCopy x.id .aged).restall))) ∧
  (∀ (l : LinkId) (vc : Fin 10) (i : Nat) (s : State), linkKey l < 1040 → s.chip.works (linkQuad (linkKey l)) 0x45 = false →
    exec (.entryAged l vc i) s = .next (withChip s s.chip.restall) ∧
    exec (.entryAgedStomp l vc) s = .next (withChip s s.chip.restall)) ∧
  (∀ (l : LinkId) (vc : Fin 10) (x : Copy) (tl : List Copy) (k : Pkt) (c : Chip) (s : State), linkKey l < 1040 →
    s.chip.queue (linkKey l) vc.val = x :: tl → s.chip.pkt? x.pkt = some k → x.headSent = true → x.zeros = false →
    s.chip.works (linkQuad (linkKey l)) 0x45 = true →
    c = ((s.chip.untilFabric (k.stamp + s.chip.ageLimit (linkQuad (linkKey l)) k.hdr.tc)).agedCount (linkKey l) k.hdr.tc
      true).dropCount x .aged →
    exec (.entryAgedStomp l vc) s = .next (withChip s
      (((((((c.onCopy x.id (fun y => { y with
        zeros := true, cut := minCut (c.cutOf y) (some y.sent), code := max (c.codeOf y k) 2 })).lowerRef x.sid).tailDead
        x.sid).creditCheck x.sid).gcPkt x.pkt).mcCheck x.pkt).restall))) ∧
  (∀ (dom : Dom) (q tc : Fin 4) (val : Word) (s : State), MayWrite s.chip dom q.val 0x45 (0x110 + 4 * tc.val) val.toNat →
    val.toNat < 2 ^ 14 →
    (1 ≤ val.toNat → val.toNat ≤ 16000 →
      exec (.queAgeLimitWrite dom q tc val) s =
        .next (withChip s (s.chip.setReg (quePage q.val + 0x110 + 4 * tc.val) val.toNat))) ∧
    (val.toNat = 0 ∨ 16000 < val.toNat →
      exec (.queAgeLimitWrite dom q tc val) s = .next (withChip s
        (s.chip.recordErr (quePage q.val) 1 (0x110 + 4 * tc.val) val.toNat (dom == .fabric))))) ∧
  (∀ (p : Fin 1024) (tc : Fin 4) (e : Nat × Nat) (c : Chip) (s : State), (s.chip.win p.val tc.val).epochs = [e] →
    0 < s.chip.epochLen p.val → s.chip.winWorks p.val = true →
    c = s.chip.untilFabric (e.1 / s.chip.epochLen p.val * s.chip.epochLen p.val + s.chip.epochLen p.val) →
    c.time.ft / s.chip.epochLen p.val * s.chip.epochLen p.val ≠ e.1 →
    exec (.windowEpochStart p tc) s = .next (withChip s { c with
      wins := SMap.set c.wins (4 * p.val + tc.val)
        { epochs := [e, (c.time.ft / s.chip.epochLen p.val * s.chip.epochLen p.val, 0)],
          closed := (s.chip.win p.val tc.val).closed } })) ∧
  (∀ (p : Fin 1024) (tc : Fin 4) (e : Nat × Nat) (tl : List (Nat × Nat)) (s : State),
    (s.chip.win p.val tc.val).epochs = e :: tl → s.chip.winWorks p.val = true →
    exec (.windowEpochExpire p tc) s = .next (withChip s
      ((s.chip.untilFabric (e.1 + 16 * s.chip.epochLen p.val)).expireEpochs p.val tc.val))) ∧
  (∀ (p : Fin 1024) (tc : Fin 4) (s : State), s.chip.winWorks p.val = false →
    exec (.windowEpochStart p tc) s = .next s ∧ exec (.windowEpochExpire p tc) s = .next s) ∧
  (∀ (p : Fin 1024) (tc : Fin 4) (e : Nat × Nat) (tl : List (Nat × Nat)) (c : Chip),
    (c.win p.val tc.val).epochs = e :: tl → e.1 + 16 * c.epochLen p.val ≤ c.time.ft →
    (∀ x ∈ tl, c.time.ft < x.1 + 16 * c.epochLen p.val) → c.winLimit p.val tc.val = 0 → (c.win p.val tc.val).closed = false →
    c.expireEpochs p.val tc.val = { c.bump (winPage p.val + 0x304) e.2 with
      wins := SMap.set c.wins (4 * p.val + tc.val) { epochs := tl, closed := false } }) ∧
  (∀ (dom : Dom) (q : Fin 4) (d : Fin 16) (val : Word) (s : State),
    MayWrite s.chip dom q.val (0x30 + d.val) 0x300 val.toNat → val.toNat < 2 ^ 14 →
    (16 ≤ val.toNat → val.toNat ≤ 16000 →
      exec (.winExpireWrite dom q d val) s = .next (withChip s
        ((s.chip.setReg (regAddr q.val (0x30 + d.val) 0x300) val.toNat).each (islandPorts q.val d.val)
          (fun c p => c.each (List.range 4) (fun c t => c.expireEpochs p t))))) ∧
    (val.toNat < 16 ∨ 16000 < val.toNat →
      exec (.winExpireWrite dom q d val) s = .next (withChip s
        (s.chip.recordErr (regAddr q.val (0x30 + d.val) 0) 1 0x300 val.toNat (dom == .fabric))))) ∧
  (∀ (dom : Dom) (q : Fin 4) (d : Fin 16) (i : Fin 64) (val : Word) (s : State),
    MayWrite s.chip dom q.val (0x30 + d.val) (0x100 + 4 * i.val) val.toNat → val.toNat < 2 ^ 16 →
    exec (.winLimitWrite dom q d i val) s = .next (withChip s
      ((s.chip.setReg (regAddr q.val (0x30 + d.val) (0x100 + 4 * i.val)) val.toNat).winCheck
        (256 * q.val + 16 * d.val + i.val % 16) (i.val / 16)))) ∧
  (∀ (p : Fin 1024) (tc : Fin 4) (c : Chip), (c.port p.val).st = .init ∨ (c.port p.val).st = .quarantine ∨
    (c.port p.val).st = .active →
    ((c.winCheck p.val tc.val).win p.val tc.val).closed =
      (decide (0 < c.winLimit p.val tc.val) && decide (c.winLimit p.val tc.val ≤ (c.win p.val tc.val).out) &&
        (List.range 4).any (fun i => cnt (c.port p.val).advPriv (4 + i) != 0)))

/-- Contributions (R69, R137, R165, R338 to R340, R343, R344, R351, R354, R364): the front contribution of a press die
leaves its line, and the credits of its stitches return, while the die's pages work (log entry 115); at a context that is
not ON it is discarded and counted, STOMPED or SEVERED it is dropped; below the root of an all-gather it goes on to the
parent in the context's job with payload and tail code unchanged; beyond the window it sets AHEAD and its event; under
another template than its chunk's, or the bank's before the chunk opens, or without a slot it is counted, as it is for a
slot or a segment that has come already; otherwise it opens its chunk if it is the first or joins the OPEN one, enters its
slot, and completes the chunk when every slot has come. Completes CONTRIBUTION_TAKE. -/
def Obligations.Contributions : Prop :=
  (∀ (d : Fin 4) (x : Nat) (a : Arr) (s : State), s.chip.pressFront d.val = some (x, a) → a.hdr.op ≠ 5 →
    s.chip.pressWorks d.val x = true →
    exec (.contributionTake d) s = .next (withChip s ((s.chip.pressPop d.val).contribution d.val x a))) ∧
  (∀ (d : Fin 4) (x : Nat) (a : Arr) (s : State), s.chip.pressFront d.val = some (x, a) →
    s.chip.pressWorks d.val x = false → exec (.contributionTake d) s = .next s) ∧
  (∀ (d : Fin 4) (x : Nat) (a : Arr) (rest : List (Nat × Arr)) (c : Chip),
    c.pressIn = (32 * d.val + x, a) :: rest → x < 32 →
    c.pressPop d.val = Chip.returnCredits { c with pressIn := rest } (ppLink d.val) a.vc a.stitches) ∧
  (∀ (d : Fin 4) (s : State), s.chip.pressFront d.val = none → exec (.contributionTake d) s = .next s) ∧
  (∀ (d x : Nat) (a : Arr) (c : Chip), (c.ctx (24 * d + x)).st ≠ 1 → c.contribution d x a = c.bump (col d 0x400) 1) ∧
  (∀ (d x : Nat) (a : Arr) (c : Chip), (c.ctx (24 * d + x)).st = 1 → 2 ≤ a.code → c.contribution d x a = c) ∧
  (∀ (d x : Nat) (a : Arr) (b : Tmpl) (c : Chip), (c.ctx (24 * d + x)).st = 1 → a.code < 2 → a.hdr.op = 4 →
    b = c.tmpl d x a.hdr.bank → b.valid = true → b.kind = 1 → b.role ≠ 3 →
    (b.slotOf a.hdr.src = none → c.contribution d x a = c.bump (col d 0x408) 1) ∧
    ((b.slotOf a.hdr.src).isSome = true → c.contribution d x a = c.pressSend d (c.pressPkt
      { tc := b.tc, op := 4, mc := true, gen := a.hdr.gen, dest := a.hdr.dest, src := c.switchId d, job := c.ctxJob d x,
        seq := a.hdr.aux, aux := a.hdr.aux } a.payload a.code))) ∧
  (∀ (d x dd : Nat) (a : Arr) (b : Tmpl) (c : Chip), (c.ctx (24 * d + x)).st = 1 → a.code < 2 → b = c.tmpl d x a.hdr.bank →
    ¬ (a.hdr.op = 4 ∧ b.valid = true ∧ b.kind = 1 ∧ b.role ≠ 3) →
    dd = (a.hdr.aux + 2 ^ 24 - (c.ctx (24 * d + x)).floor) % 2 ^ 24 →
    (2 ^ 23 ≤ dd → c.contribution d x a = c.duplicate d x a) ∧
    (dd < 2 ^ 23 → (c.ctx (24 * d + x)).openMax ≤ dd → c.contribution d x a =
      ((c.bump (col d 0x410) 1).onCtx (24 * d + x) (fun y => { y with ahead := true })).raise (col d 0) 0x10) ∧
    (dd < 2 ^ 23 → dd < (c.ctx (24 * d + x)).openMax →
      (∀ k, (c.ctx (24 * d + x)).chunks.find? (fun k => k.c == a.hdr.aux) = some k → k.done = true →
        c.contribution d x a = c.duplicate d x a) ∧
      ((c.ctx (24 * d + x)).chunks.find? (fun k => k.c == a.hdr.aux) = none →
        (b.accepts (c.ctxJob d x) a.hdr = false → c.contribution d x a = c.bump (col d 0x404) 1) ∧
        (b.accepts (c.ctxJob d x) a.hdr = true → b.slotFor a.hdr.aux a.hdr.src = none →
          c.contribution d x a = c.bump (col d 0x408) 1) ∧
        (∀ (i scale : Nat) (child : Bool) (c1 : Chip) (k : Chunk),
          b.accepts (c.ctxJob d x) a.hdr = true → b.slotFor a.hdr.aux a.hdr.src = some (i, child, scale) →
          c1 = (((c.onCtx (24 * d + x) (fun y => { y with chunks := y.chunks ++
              [{ c := a.hdr.aux, done := false, bank := a.hdr.bank, tmpl := b, slots := [],
                 openAt := c.now, late := false, poisoned := false }] })).pmc (4 + d) 8 0x7001 (some (x % 16))
              (some (x / 16))).takeSlot d x a.hdr.aux i (child && b.kind != 1) a) →
          (c1.ctx (24 * d + x)).chunks.find? (fun k => k.c == a.hdr.aux) = some k →
          c.contribution d x a = if k.expect.all k.has then c1.chunkComplete d x k else c1)) ∧
      (∀ (k : Chunk), (c.ctx (24 * d + x)).chunks.find? (fun k => k.c == a.hdr.aux) = some k → k.done = false →
        (k.tmpl.accepts (c.ctxJob d x) a.hdr = false → c.contribution d x a = c.bump (col d 0x404) 1) ∧
        (k.tmpl.accepts (c.ctxJob d x) a.hdr = true → k.tmpl.slotFor a.hdr.aux a.hdr.src = none →
          c.contribution d x a = c.bump (col d 0x408) 1) ∧
        (∀ (i scale : Nat) (child : Bool), k.tmpl.accepts (c.ctxJob d x) a.hdr = true →
          k.tmpl.slotFor a.hdr.aux a.hdr.src = some (i, child, scale) → k.already i (child && k.tmpl.kind != 1) a = true →
          c.contribution d x a = c.bump (col d 0x40C) 1) ∧
        (∀ (i scale : Nat) (child : Bool) (c1 : Chip) (k1 : Chunk), k.tmpl.accepts (c.ctxJob d x) a.hdr = true →
          k.tmpl.slotFor a.hdr.aux a.hdr.src = some (i, child, scale) → k.already i (child && k.tmpl.kind != 1) a = false →
          c1 = c.takeSlot d x a.hdr.aux i (child && k.tmpl.kind != 1) a →
          (c1.ctx (24 * d + x)).chunks.find? (fun k => k.c == a.hdr.aux) = some k1 →
          c.contribution d x a = if k1.expect.all k1.has then c1.chunkComplete d x k1 else c1)))) ∧
  (∀ (d x i : Nat) (k : Chunk) (a : Arr) (c : Chip),
    (c.ctx (24 * d + x)).chunks.find? (fun k => k.c == a.hdr.aux) = some k →
    c.takeSlot d x a.hdr.aux i false a = c.onChunk d x a.hdr.aux (fun z => { z with
      slots := z.slots.filter (fun r => r.slot != i) ++
        [{ (k.slots.find? (fun r => r.slot == i)).getD { slot := i, segs := [], count := 0, full := false, refused := false } with
            segs := [(0, 0, k.tmpl.elems a.hdr.aux, a.payload)], count := 1, full := true }],
      poisoned := z.poisoned || a.code == 1 }))

/-- The reduction (R303, R306 to R309): slots join in a fixed tree over slot order, an odd one passing up unchanged; exact
states join by exact addition in the two's complement of their accumulator, so that any number of them up to the 512 that
the tree's nine levels hold gives the one sum of all; a sum beyond the accumulator wraps (DEDUCED, log entry 105). -/
def Obligations.ReductionTree : Prop :=
  (∀ (m : Mode) (a b c d e : Leaf),
    m.reduce [[a]] = [a] ∧ m.reduce [[a], [b]] = [m.node a b] ∧ m.reduce [[a], [b], [c]] = [m.node (m.node a b) c] ∧
    m.reduce [[a], [b], [c], [d]] = [m.node (m.node a b) (m.node c d)] ∧
    m.reduce [[a], [b], [c], [d], [e]] = [m.node (m.node (m.node a b) (m.node c d)) e]) ∧
  (∀ (m : Mode) (l : List Exact), l ≠ [] → l.length ≤ 512 → (∀ s ∈ l, exactInt m.accF s.a = s.a) →
    m.reduce (l.map (fun s => [Leaf.exact s])) = [Leaf.exact (l.foldr (Exact.merge m.accF) {})]) ∧
  (∀ (f : Nat) (x y : Exact), ∃ (i : Int), (Exact.merge f x y).a = x.a + y.a + i * 2 ^ (32 * exactLimbs f) ∧
    - 2 ^ (32 * exactLimbs f - 1) ≤ (Exact.merge f x y).a ∧ (Exact.merge f x y).a < 2 ^ (32 * exactLimbs f - 1) ∧
    exactInt f (Exact.merge f x y).a = (Exact.merge f x y).a) ∧
  exactLimbs 12 = 10 ∧ exactLimbs 13 = 3 ∧ exactLimbs 14 = 2

/-- Conversion is exact where it can be (R293, R324): a value that a format represents is given back as that encoding, and
the format's zero keeps its sign. -/
def Obligations.RepresentableValuesKeepTheirEncoding : Prop :=
  ∀ (f n m : Nat) (neg : Bool) (e : Int), f ≤ 4 → n < 2 ^ (1 + (floatFmt f).eb + (floatFmt f).fb) →
    (floatFmt f).value n = .fin neg m e → (floatFmt f).round neg m e = some n

/-- Lateness and retention (R357 to R359, R361, R365, R366): a chunk that stays OPEN for CONTRIB_TIMEOUT is late, with its
event, and the first late chunk of a context sends a NOTICE, repeated after 1 ms; a retained copy ends with RETAIN_TIME; a
root resends what it retains, at most once per µs, and counts a miss otherwise; an uncorrectable error that the resend's
read finds stops it before its head or ends it POISONED, and revokes the copy; below the root a RESEND_REQ goes on
unchanged; at a context that is not ON it counts a miss of the context; nothing of this happens while the die's pages do not
work (log entry 115). Completes CHUNK_LATE, LATE_NOTICE_REPEAT, RETAIN_EXPIRE, RESEND_REQ_ROOT and RESEND_REQ_RELAY. -/
def Obligations.LateAndRetained : Prop :=
  (∀ (d : Fin 4) (x : Fin 24) (ch : BitVec 24) (k : Chunk) (c : Chip) (s : State),
    (s.chip.ctx (24 * d.val + x.val)).chunks.find? (fun k => k.c == ch.toNat) = some k → k.done = false → k.late = false →
    s.chip.pressWorks d.val x.val = true →
    c = (((s.chip.till (k.openAt + k.tmpl.timeout)).onChunk d.val x.val ch.toNat (fun k => { k with late := true })).raise
      (col d.val 0) 2).pmc (4 + d.val) 8 0x7003 (some (x.val % 16)) (some (x.val / 16)) →
    exec (.chunkLate d x ch) s = .next (withChip s
      (if (s.chip.ctx (24 * d.val + x.val)).chunks.any (fun k => k.late) then c else c.lateNotice d.val x.val))) ∧
  (∀ (d : Fin 4) (x : Fin 24) (t : Nat) (s : State), (s.chip.ctx (24 * d.val + x.val)).noticeAt = some t →
    (s.chip.ctx (24 * d.val + x.val)).chunks.any (fun k => k.late) = true →
    s.chip.pressWorks d.val x.val = true →
    exec (.lateNoticeRepeat d x) s = .next (withChip s ((s.chip.till (t + 1000000)).lateNotice d.val x.val))) ∧
  (∀ (d : Fin 4) (x : Fin 24) (g : BitVec 2) (ch : BitVec 24) (r : Retained) (s : State),
    (s.chip.ctx (24 * d.val + x.val)).kept.find? (fun r => r.gen == g.toNat && r.c == ch.toNat) = some r →
    s.chip.pressWorks d.val x.val = true →
    ∃ t, exec (.retainExpire d x g ch) s = .next t ∧ t.sram = s.sram ∧ t.pending = s.pending ∧
      t.chip.now = max s.chip.now (r.at_ + r.tmpl.retainTime) ∧
      (t.chip.ctx (24 * d.val + x.val)).kept =
        (s.chip.ctx (24 * d.val + x.val)).kept.filter (fun z => !(z.gen == g.toNat && z.c == ch.toNat)) ∧
      t.chip.regs = s.chip.regs ∧ t.chip.copies = s.chip.copies) ∧
  (∀ (d : Fin 4) (x : Fin 24) (g : BitVec 2) (ch : BitVec 24) (s : State), s.chip.pressWorks d.val x.val = false →
    exec (.chunkLate d x ch) s = .next s ∧ exec (.lateNoticeRepeat d x) s = .next s ∧
    exec (.retainExpire d x g ch) s = .next s ∧ exec (.ctxStopDone d x) s = .next s) ∧
  (∀ (d : Fin 4) (x : Nat) (bad : Option Bool) (a : Arr) (s : State), s.chip.pressFront d.val = some (x, a) → a.hdr.op = 5 →
    (s.chip.pressWorks d.val x = false → exec (.resendReqRoot ⟨d, bad⟩) s = .next s ∧ exec (.resendReqRelay d) s = .next s) ∧
    (s.chip.pressWorks d.val x = true → (s.chip.ctx (24 * d.val + x)).st ≠ 1 →
      exec (.resendReqRoot ⟨d, bad⟩) s = .next (withChip s ((s.chip.pressPop d.val).bump (col d.val 0x400) 1))) ∧
    (s.chip.pressWorks d.val x = true → (s.chip.ctx (24 * d.val + x)).st = 1 → 2 ≤ a.code →
      exec (.resendReqRoot ⟨d, bad⟩) s = .next (withChip s (s.chip.pressPop d.val)))) ∧
  (∀ (d : Fin 4) (x : Nat) (bad : Option Bool) (a : Arr) (c : Chip) (s : State),
    s.chip.pressFront d.val = some (x, a) → a.hdr.op = 5 → s.chip.pressWorks d.val x = true →
    (s.chip.ctx (24 * d.val + x)).st = 1 → a.code < 2 → c = s.chip.pressPop d.val →
    ((s.chip.tmpl d.val x a.hdr.bank).valid = false →
      exec (.resendReqRoot ⟨d, bad⟩) s = .next (withChip s (c.bump (col d.val 0x41C) 1))) ∧
    ((s.chip.tmpl d.val x a.hdr.bank).valid = true → (s.chip.tmpl d.val x a.hdr.bank).role = 3 →
      (s.chip.ctx (24 * d.val + x)).kept.find? (fun r => r.gen == a.hdr.gen && r.c == a.hdr.aux) = none →
      exec (.resendReqRoot ⟨d, bad⟩) s = .next (withChip s (c.bump (col d.val 0x41C) 1))) ∧
    (∀ r, (s.chip.tmpl d.val x a.hdr.bank).valid = true → (s.chip.tmpl d.val x a.hdr.bank).role = 3 →
      (s.chip.ctx (24 * d.val + x)).kept.find? (fun r => r.gen == a.hdr.gen && r.c == a.hdr.aux) = some r →
      r.resentAt = none →
      (bad = none → exec (.resendReqRoot ⟨d, bad⟩) s = .next (withChip s
        (((c.resendCopy d.val x r).bump (col d.val 0x418) 1).pmc (4 + d.val) 8 0x7004 (some (x % 16)) (some (x / 16))))) ∧
      (bad = some false → exec (.resendReqRoot ⟨d, bad⟩) s = .next (withChip s
        ((c.countUe (4 + d.val) 6 x).revoke d.val x r))) ∧
      (bad = some true → exec (.resendReqRoot ⟨d, bad⟩) s = .next (withChip s
        ((((((c.resendCopy d.val x { r with pkts := r.pkts.map (fun p => { p with code := max p.code 1 }) }).bump
          (col d.val 0x418) 1).pmc (4 + d.val) 8 0x7004 (some (x % 16)) (some (x / 16))).countUe (4 + d.val) 6 x).revoke d.val x
          r))))) ∧
    (∀ r at_, (s.chip.tmpl d.val x a.hdr.bank).valid = true → (s.chip.tmpl d.val x a.hdr.bank).role = 3 →
      (s.chip.ctx (24 * d.val + x)).kept.find? (fun r => r.gen == a.hdr.gen && r.c == a.hdr.aux) = some r →
      r.resentAt = some at_ → s.chip.now < at_ + 1000 →
      exec (.resendReqRoot ⟨d, bad⟩) s = .next (withChip s c)) ∧
    ((s.chip.tmpl d.val x a.hdr.bank).valid = true → (s.chip.tmpl d.val x a.hdr.bank).role ≠ 3 →
      exec (.resendReqRelay d) s = .next (withChip s
        (c.pressSend d.val { hdr := a.hdr, payload := [], sealW := sealOf a.hdr [], code := a.code }))))

/-- Context commands (R348, R349, R358, R363, R368 to R370): START takes an IDLE context whose two banks' templates pass and
whose SRAM region is free to ON, with FLOOR at RESUME and no chunk; STOP takes an ON context to STOPPING, and its end to
IDLE; CLEAR takes a FAILED one to IDLE; CHECK only reports; a context in another state answers RESULT 1; a flip to a
template of another generation drops the chunks, partials and FLOOR of the old one, and one to a template that fails its
check fails the context. GO then reads 1 for a free time of at most 10 µs, and a further command in it is refused with cause
6 (log entry 85, a choice of the model). Completes CTX_START, CTX_STOP, CTX_CLEAR, CTX_CHECK and CTX_STOP_DONE. Templates
and their tables (R300, R347, R371, R401, R402, R408): a COL table command writes or reads one entry; an RWB register is
written in the bank of R408 unless that bank is in use; PRS_CTX_MODE takes only the settings of R300; PRS_CTX_JOB is written
while the context is IDLE. GO of the table command is by log entry 85. Completes COL_TABLE_WRITE, COL_TABLE_READ,
PRS_CTX_MODE_WRITE, RWB_WRITE and PRS_CTX_JOB_WRITE. -/
def Obligations.ContextsAndTemplates : Prop :=
  (∀ (dom : Dom) (d : Fin 4) (x : Fin 24) (c : Chip) (s : State), s.chip.isOn (4 + d.val) 0x41 = true →
    MayWrite s.chip dom (4 + d.val) 0x41 0x180 (ctxWord 1 x.val false) →
    s.chip.goBusy (col d.val 0x180) = false →
    c = s.chip.setReg (col d.val 0x180) (put 1 24 + x.val) →
    ((c.ctx (24 * d.val + x.val)).st = 0 → c.tmplOk d.val x.val false = true → c.tmplOk d.val x.val true = true →
      c.sramUnits d.val x.val ≠ 0 → c.regionTaken d.val x.val = false →
      ∃ t, exec (.ctxStart dom d x) s = .next t ∧ t.sram = s.sram ∧ t.pending = s.pending ∧
        (t.chip.ctx (24 * d.val + x.val)).st = 1 ∧
        (t.chip.ctx (24 * d.val + x.val)).floor = fld (c.reg (col d.val (0x300 + 4 * x.val))) 23 0 ∧
        (t.chip.ctx (24 * d.val + x.val)).openMax = (c.curTmpl d.val x.val).openMax ∧
        (t.chip.ctx (24 * d.val + x.val)).chunks = [] ∧ (t.chip.ctx (24 * d.val + x.val)).kept = [] ∧
        t.chip.reg (col d.val 0x184) = 0 ∧ t.chip.tables = s.chip.tables ∧ t.chip.jobs = s.chip.jobs) ∧
    ((c.ctx (24 * d.val + x.val)).st = 0 → c.tmplOk d.val x.val false = false →
      exec (.ctxStart dom d x) s = .next (withChip s ((c.setReg (col d.val 0x184) 2).startGo (col d.val 0x180) 10000))) ∧
    ((c.ctx (24 * d.val + x.val)).st ≠ 0 →
      exec (.ctxStart dom d x) s = .next (withChip s ((c.setReg (col d.val 0x184) 1).startGo (col d.val 0x180) 10000)))) ∧
  (∀ (dom : Dom) (d : Fin 4) (x : Fin 24) (s : State), s.chip.isOn (4 + d.val) 0x41 = true →
    MayWrite s.chip dom (4 + d.val) 0x41 0x180 (ctxWord 2 x.val false) →
    s.chip.goBusy (col d.val 0x180) = false → (s.chip.ctx (24 * d.val + x.val)).st = 1 →
    exec (.ctxStop dom d x) s = .next (withChip s
      ((((s.chip.setReg (col d.val 0x180) (put 2 24 + x.val)).onCtx (24 * d.val + x.val)
        (fun y => { y with st := 2, chunks := [], noticeAt := none })).setReg (col d.val 0x184) 0).startGo (col d.val 0x180) 10000))) ∧
  (∀ (dom : Dom) (d : Fin 4) (x : Fin 24) (s : State), s.chip.isOn (4 + d.val) 0x41 = true →
    MayWrite s.chip dom (4 + d.val) 0x41 0x180 (ctxWord 4 x.val false) →
    s.chip.goBusy (col d.val 0x180) = false → (s.chip.ctx (24 * d.val + x.val)).st = 3 →
    exec (.ctxClear dom d x) s = .next (withChip s
      (((((s.chip.setReg (col d.val 0x180) (put 4 24 + x.val)).ctxClearState d.val x.val).onCtx (24 * d.val + x.val)
        (fun y => { y with st := 0 })).setReg (col d.val 0x184) 0).startGo (col d.val 0x180) 10000))) ∧
  (∀ (dom : Dom) (d : Fin 4) (x : Fin 24) (b : Bool) (c : Chip) (s : State), s.chip.isOn (4 + d.val) 0x41 = true →
    MayWrite s.chip dom (4 + d.val) 0x41 0x180 (ctxWord 3 x.val b) →
    s.chip.goBusy (col d.val 0x180) = false →
    c = s.chip.setReg (col d.val 0x180) (put 3 24 + put (b2n b) 8 + x.val) →
    exec (.ctxCheck dom d x b) s = .next (withChip s
      ((c.setReg (col d.val 0x184) (if c.tmplOk d.val x.val b then 0 else 2 + put (b2n b) 2)).startGo (col d.val 0x180) 10000))) ∧
  (∀ (dom : Dom) (d : Fin 4) (x : Fin 24) (s : State), s.chip.isOn (4 + d.val) 0x41 = true →
    MayWrite s.chip dom (4 + d.val) 0x41 0x180 (ctxWord 1 x.val false) → s.chip.goBusy (col d.val 0x180) = true →
    exec (.ctxStart dom d x) s = .next (withChip s
      (s.chip.recordErr (col d.val 0) 6 0x180 (ctxWord 1 x.val false) (dom == .fabric)))) ∧
  (∀ (d x : Nat) (b : Bool) (new : Tmpl) (c c1 : Chip), new = c.tmpl d x (!b) →
    c1 = (if (c.tmpl d x b).gen = new.gen then c else c.onCtx (24 * d + x) (fun y => { y with
      chunks := [], noticeAt := none, floor := fld (c.reg (col d (0x300 + 4 * x))) 23 0, openMax := new.openMax,
      kept := y.kept.filter (fun r => r.tmpl.role == 3) })) →
    (((c.ctx (24 * d + x)).st ≠ 1 ∧ (c.ctx (24 * d + x)).st ≠ 2) ∨ c1.tmplOk d x (!b) = true → c.ctxFlip d x b = c1) ∧
    ((c.ctx (24 * d + x)).st = 1 ∨ (c.ctx (24 * d + x)).st = 2 → c1.tmplOk d x (!b) = false →
      c.ctxFlip d x b = c1.ctxFail d x)) ∧
  (∀ (d : Fin 4) (x : Fin 24) (s : State), (s.chip.ctx (24 * d.val + x.val)).st = 2 → s.chip.pressWorks d.val x.val = true →
    exec (.ctxStopDone d x) s = .next (withChip s
      ((s.chip.ctxClearState d.val x.val).onCtx (24 * d.val + x.val) (fun y => { y with st := 0 })))) ∧
  (∀ (dom : Dom) (d : Fin 4) (cmd : Word) (t x i : Nat) (b : Bool) (c : Chip) (ws : List Word) (s : State),
    s.chip.isOn (4 + d.val) 0x41 = true → cmd.toNat &&& 0xFF81FFFF = cmd.toNat →
    MayWrite s.chip dom (4 + d.val) 0x41 0x100 (goWord cmd.toNat true) → s.chip.goBusy (col d.val 0x100) = false →
    t = fld cmd.toNat 28 28 → x = fld cmd.toNat 27 23 → i = fld cmd.toNat 16 0 → b = bit cmd.toNat 29 → x ≤ 23 →
    i < (if t = 0 then 256 else 65536) →
    c = s.chip.setReg (col d.val 0x100) (goWord cmd.toNat true % 2 ^ 31) →
    ws = c.dataWords (col d.val 0x140) (if t = 0 then 2 else 1) →
    maskOk (if t = 0 then [0xC000FFFF, 0xFFFFFFFF] else [0x80FFFFFF]) ws = true → c.syncing = false → c.twin.txOn = false →
    (c.ctxBankInUse d.val x b = false →
      exec (.colTableWrite dom d cmd) s = .next (withChip s ((Chip.setReg
        { c with tables := SMap.set c.tables (colKey d.val x t b i) ws } (col d.val 0x104) 0).startGo (col d.val 0x100) 1000))) ∧
    (c.ctxBankInUse d.val x b = true →
      exec (.colTableWrite dom d cmd) s = .next (withChip s ((c.setReg (col d.val 0x104) 1).startGo (col d.val 0x100) 1000)))) ∧
  (∀ (dom : Dom) (d : Fin 4) (cmd : Word) (t x i : Nat) (b : Bool) (s : State),
    s.chip.isOn (4 + d.val) 0x41 = true → cmd.toNat &&& 0xFF81FFFF = cmd.toNat →
    MayWrite s.chip dom (4 + d.val) 0x41 0x100 (goWord cmd.toNat false) → s.chip.goBusy (col d.val 0x100) = false →
    t = fld cmd.toNat 28 28 → x = fld cmd.toNat 27 23 → i = fld cmd.toNat 16 0 → b = bit cmd.toNat 29 → x ≤ 23 →
    i < (if t = 0 then 256 else 65536) →
    ∃ u, exec (.colTableRead dom d cmd) s = .next u ∧ u.sram = s.sram ∧ u.pending = s.pending ∧
      u.chip.reg (col d.val 0x140) = word (SMap.getD s.chip.tables (colKey d.val x t b i) []) 0 ∧
      u.chip.reg (col d.val 0x144) = word (SMap.getD s.chip.tables (colKey d.val x t b i) []) 1 ∧
      u.chip.reg (col d.val 0x104) = 0 ∧ u.chip.tables = s.chip.tables ∧ u.chip.ctxs = s.chip.ctxs) ∧
  (∀ (dom : Dom) (d : Fin 4) (x : Fin 24) (val : Word) (s : State),
    MayWrite s.chip dom (4 + d.val) 0x40 (0x200 + 4 * x.val) val.toNat → val.toNat &&& 0x7F03FFFF = val.toNat →
    s.chip.syncing = false → s.chip.twin.txOn = false →
    (modeOk val.toNat = true →
      s.chip.ctxBankInUse d.val x.val (s.chip.rwbTarget d.val (0x200 + 4 * x.val)) = false →
      exec (.prsCtxModeWrite dom d x val) s = .next (withChip s (s.chip.setReg
        (banked (prs d.val (0x200 + 4 * x.val)) (s.chip.rwbTarget d.val (0x200 + 4 * x.val))) val.toNat))) ∧
    (modeOk val.toNat = false →
      exec (.prsCtxModeWrite dom d x val) s = .next (withChip s (s.chip.recordErr (prs d.val 0) 1 (0x200 + 4 * x.val)
        val.toNat (dom == .fabric))))) ∧
  (∀ (dom : Dom) (d : Fin 4) (off : Nat) (rd : RegDef) (addr val : Word) (s : State),
    addr.toNat = prs d.val off → 0x400 ≤ off → off < 0x700 → regDef .prs 0 off = some rd → rd.rwb = true →
    val.toNat &&& rd.rw = val.toNat → MayWrite s.chip dom (4 + d.val) 0x40 off val.toNat → s.chip.syncing = false →
    s.chip.twin.txOn = false →
    (s.chip.ctxBankInUse d.val (rwbCtx off) (s.chip.rwbTarget d.val off) = false →
      exec (.rwbWrite dom addr val) s = .next (withChip s (s.chip.setReg
        (banked (prs d.val off) (s.chip.rwbTarget d.val off)) val.toNat))) ∧
    (s.chip.ctxBankInUse d.val (rwbCtx off) (s.chip.rwbTarget d.val off) = true →
      exec (.rwbWrite dom addr val) s = .next (withChip s (s.chip.recordErr (prs d.val 0) 2 off val.toNat
        (dom == .fabric))))) ∧
  (∀ (dom : Dom) (d : Fin 4) (x : Fin 24) (val : Word) (s : State),
    MayWrite s.chip dom (4 + d.val) 0x40 (0x41C + 0x20 * x.val) val.toNat → val.toNat < 4096 → s.chip.syncing = false →
    s.chip.twin.txOn = false →
    ((s.chip.ctx (24 * d.val + x.val)).st = 0 →
      exec (.prsCtxJobWrite dom d x val) s = .next (withChip s (s.chip.setReg (prs d.val (0x41C + 0x20 * x.val)) val.toNat))) ∧
    ((s.chip.ctx (24 * d.val + x.val)).st ≠ 0 →
      exec (.prsCtxJobWrite dom d x val) s = .next (withChip s (s.chip.recordErr (prs d.val 0) 2 (0x41C + 0x20 * x.val)
        val.toNat (dom == .fabric)))))

/-- Barrier arrivals (R376 to R380, R388): the oldest arrival of a quadrant's barrier unit is taken by its counter; one that
the counter's VALID and JOB do not match is counted with its event; of the counter's epoch it joins MASK, ARRIVED, VOTE and
STAMP, and the EXPECTth completes the epoch; of the epoch before it brings the stored release again; of any other it is
counted stale. Completes BARRIER_ARRIVE_TAKE. -/
def Obligations.BarrierArrivals : Prop :=
  (∀ (q : Fin 4) (x : Nat × Arr) (s : State), s.chip.syncFront q.val 0x20 = some x → s.chip.isOn q.val 0x47 = true →
    exec (.barrierArriveTake q) s = .next (withChip s (Chip.arrive { s.chip with syncIn := s.chip.syncIn.erase x } x.2.hdr.dest
      { port := x.2.port, epoch := fld x.2.hdr.aux 15 0, job := x.2.hdr.job, vote := payVote x.2.payload,
        stamp := payStamp x.2.payload }))) ∧
  (∀ (q : Fin 4) (s : State), s.chip.syncFront q.val 0x20 = none → exec (.barrierArriveTake q) s = .next s) ∧
  (∀ (b : Nat) (a : Arrival) (c : Chip), (c.bar b).valid = false ∨ (c.bar b).job ≠ a.job →
    c.arrive b a = (c.bump (synQ (b / 1024) 0x21C) 1).raise (synQ (b / 1024) 0) 2) ∧
  (∀ (b : Nat) (a : Arrival) (c d : Chip), (c.bar b).valid = true → (c.bar b).bad = false → (c.bar b).job = a.job →
    d = (c.bump (synQ (b / 1024) 0x210) 1).pmcQM (b / 1024) 0x5001 →
    (a.epoch = (c.bar b).epoch → (c.bar b).has a.port = false → (c.bar b).wait = false → a.port < 1024 →
      (c.bar b).arrived + 1 ≠ (c.bar b).expect →
      (c.arrive b a).bar b = { d.bar b with
        vote := (d.bar b).vote ||| a.vote, stamp := max (d.bar b).stamp a.stamp, mask := a.port :: (d.bar b).mask,
        arrived := (d.bar b).arrived + 1, since := if (d.bar b).arrived = 0 then d.now else (d.bar b).since } ∧
      (c.arrive b a).regs = d.regs) ∧
    (a.epoch = (c.bar b).epoch → (c.bar b).has a.port = false → (c.bar b).wait = false → a.port < 1024 →
      (c.bar b).arrived + 1 = (c.bar b).expect →
      ∃ e, c.arrive b a = Chip.complete Chip.placeSwap e b ∧ e.regs = d.regs ∧ e.bar b = { d.bar b with
        vote := (d.bar b).vote ||| a.vote, stamp := max (d.bar b).stamp a.stamp, mask := a.port :: (d.bar b).mask,
        arrived := (d.bar b).arrived + 1, since := if (d.bar b).arrived = 0 then d.now else (d.bar b).since }) ∧
    (a.epoch ≠ (c.bar b).epoch → a.epoch ≠ ((c.bar b).epoch + 65535) % 65536 →
      c.arrive b a = d.bump (synQ (b / 1024) 0x218) 1) ∧
    (∀ pay, a.epoch ≠ (c.bar b).epoch → a.epoch = ((c.bar b).epoch + 65535) % 65536 → (c.bar b).record = some pay →
      c.arrive b a = Chip.resendDown Chip.placeSwap d b a.port pay))

/-- Releases and completion (R379 to R381, R385, R398): a root releases at once, with ACTION 1 naming the swap time LEAD µs
ahead; any other counter waits and sends its combined arrival; a counter in WAIT takes the release of its epoch and job that
comes from its parent, and any other is counted stale; a counter that stays in COLLECT with arrivals, or in WAIT, for
SYN_BAR_TIMEOUT is late once. The bank that a counter's parent is looked up under is the model's choice (log entry 23).
Completes BARRIER_RELEASE_RECEIVE and BARRIER_LATE. The barrier table (R386, R400): a write of the counter's home quadrant
configures it with its runtime state cleared, RESULT 2 for a value of R386, RESULT 1 while arrivals stand and FORCE is 0;
another quadrant's page changes no counter; a read shows the counter. GO of the table command is by log entry 85 (a choice
of the model). Completes SYN_TABLE_WRITE and SYN_TABLE_READ. -/
def Obligations.BarrierReleasesAndTable : Prop :=
  (∀ (b : Nat) (c : Chip), (c.bar b).root = false →
    Chip.complete Chip.placeSwap c b =
      (c.onBar b (fun k => { k with wait := true, since := c.now, upAt := some c.now })).sendUp b) ∧
  (∀ (b : Nat) (c : Chip), (c.bar b).root = true → (c.bar b).action = 1 →
    Chip.complete Chip.placeSwap c b = Chip.releaseDown Chip.placeSwap c b
      (barPayload (c.bar b).vote (c.bar b).stamp c.time.ft ((c.time.ft + 1000 * (c.bar b).lead) % 2 ^ 64) 1
        (b2n (c.bar b).swapBank))) ∧
  (∀ (q : Fin 4) (x : Nat × Arr) (c : Chip) (s : State), s.chip.syncFront q.val 0x21 = some x → s.chip.isOn q.val 0x47 = true →
    c = { s.chip with syncIn := s.chip.syncIn.erase x } →
    ((c.bar x.2.hdr.dest).valid = true → (c.bar x.2.hdr.dest).bad = false → (c.bar x.2.hdr.dest).root = false →
      (c.bar x.2.hdr.dest).wait = true → (c.bar x.2.hdr.dest).job = x.2.hdr.job →
      fld x.2.hdr.aux 15 0 = (c.bar x.2.hdr.dest).epoch →
      c.isParent q.val (c.parentBank q.val x.2.hdr.job) (c.bar x.2.hdr.dest).parent x.2.port = true →
      exec (.barrierReleaseReceive q) s = .next (withChip s
        (Chip.releaseDown Chip.placeSwap c x.2.hdr.dest x.2.payload))) ∧
    ((c.bar x.2.hdr.dest).wait = false ∨ fld x.2.hdr.aux 15 0 ≠ (c.bar x.2.hdr.dest).epoch →
      exec (.barrierReleaseReceive q) s = .next (withChip s (c.bump (synQ q.val 0x218) 1)))) ∧
  (∀ (b : BitVec 12) (s : State), (s.chip.bar b.toNat).valid = true → (s.chip.bar b.toNat).late = false →
    (s.chip.bar b.toNat).wait = true ∨ 0 < (s.chip.bar b.toNat).arrived → s.chip.isOn (b.toNat / 1024) 0x47 = true →
    exec (.barrierLate b) s = .next (withChip s
      ((((s.chip.till ((s.chip.bar b.toNat).since +
          1000 * fld (s.chip.reg (synQ (b.toNat / 1024) 0x200)) 9 0)).onBar b.toNat (fun k => { k with late := true })).bump
        (synQ (b.toNat / 1024) 0x220) 1).raise (synQ (b.toNat / 1024) 0) 1))) ∧
  (∀ (b : BitVec 12) (s : State), (s.chip.bar b.toNat).late = true → exec (.barrierLate b) s = .next s) ∧
  (∀ (dom : Dom) (q : Fin 4) (cmd : Word) (b : Nat) (c : Chip) (ws : List Word) (s : State),
    s.chip.isOn q.val 0x47 = true → cmd.toNat &&& 0xE0000FFF = cmd.toNat →
    MayWrite s.chip dom q.val 0x47 0x100 (goWord cmd.toNat true) → s.chip.goBusy (synQ q.val 0x100) = false → b = fld cmd.toNat 11 0 →
    c = s.chip.setReg (synQ q.val 0x100) (goWord cmd.toNat true % 2 ^ 31) → ws = c.dataWords (synQ q.val 0x140) 4 →
    (b / 1024 ≠ q.val → exec (.synTableWrite dom q cmd) s = .next (withChip s
      ((c.setReg (synQ q.val 0x104) 0).startGo (synQ q.val 0x100) 1000))) ∧
    (b / 1024 = q.val → barValueOk ws = false →
      exec (.synTableWrite dom q cmd) s = .next (withChip s ((c.setReg (synQ q.val 0x104) 2).startGo (synQ q.val 0x100) 1000))) ∧
    (b / 1024 = q.val → barValueOk ws = true → c.syncing = false → bit cmd.toNat 29 = false → 0 < (c.bar b).arrived →
      exec (.synTableWrite dom q cmd) s = .next (withChip s ((c.setReg (synQ q.val 0x104) 1).startGo (synQ q.val 0x100) 1000))) ∧
    (b / 1024 = q.val → barValueOk ws = true → c.syncing = false → c.twin.txOn = false →
      bit cmd.toNat 29 = true ∨ ((c.bar b).arrived = 0 ∧ (c.bar b).wait = false) →
      exec (.synTableWrite dom q cmd) s = .next (withChip s
        (((c.onBar b (fun _ => Bar.ofWords ws)).setReg (synQ q.val 0x104) 0).startGo (synQ q.val 0x100) 1000)))) ∧
  (∀ (dom : Dom) (q : Fin 4) (cmd : Word) (i : Nat) (s : State),
    s.chip.isOn q.val 0x47 = true → cmd.toNat &&& 0xE0000FFF = cmd.toNat →
    MayWrite s.chip dom q.val 0x47 0x100 (goWord cmd.toNat false) → s.chip.goBusy (synQ q.val 0x100) = false → fld cmd.toNat 11 0 / 1024 = q.val →
    (s.chip.bar (fld cmd.toNat 11 0)).bad = false → i < 40 →
    ∃ t, exec (.synTableRead dom q cmd) s = .next t ∧ t.sram = s.sram ∧ t.pending = s.pending ∧
      t.chip.reg (synQ q.val (0x140 + 4 * i)) = word (s.chip.bar (fld cmd.toNat 11 0)).words i ∧
      t.chip.reg (synQ q.val 0x104) = 0 ∧ t.chip.bars = s.chip.bars) ∧
  (∀ (ws : List Word), (Bar.ofWords ws).arrived = 0 ∧ (Bar.ofWords ws).mask = [] ∧ (Bar.ofWords ws).loc = false ∧
    (Bar.ofWords ws).wait = false ∧ (Bar.ofWords ws).vote = 0 ∧ (Bar.ofWords ws).stamp = 0 ∧ (Bar.ofWords ws).record = none)

/-- Fabric time (R391 to R397): a root or a LOCKED follower sends TIME_SYNC on its downstream ports at each tick of PERIOD,
the tick that fabric time stands at if the sender has yet to take it, otherwise the next; a follower steps when it is not
LOCKED and the offset is above 1 µs, and otherwise slews towards it by at most 200 ppm (the size itself is free; log entry
13), with STAGE one above its upstream's; 10 periods without one bring HOLDOVER; the set command loads the time on a root
alone. Completes TIME_SYNC_SEND, TIME_SYNC_RECEIVE, TIME_HOLDOVER and SYN_TIME_SET_GO. -/
def Obligations.FabricTime : Prop :=
  (∀ (c : Chip) (s : State), s.chip.isOn 24 0x47 = true → s.chip.timeRoot = true ∨ s.chip.time.locked = true →
    s.chip.regBit (synC 0x300) 30 = true → s.chip.rst.c0Up = true →
    c = s.chip.tick 0 s.chip.period →
    ∃ t, exec .timeSyncSend s = .next t ∧ t.sram = s.sram ∧ t.pending = s.pending ∧
      t.chip.time.ft = c.time.ft ∧ t.chip.now = c.now ∧ t.chip.ticks = c.ticks ∧ t.chip.regs = s.chip.regs ∧
      t.chip.c0Out = s.chip.c0Out ++ s.chip.timeDown.map (fun p =>
        { hdr := { net := 2, op := 0x22, src := s.chip.ownId, plane := s.chip.plane, len := (c.timePayload p).length },
          payload := c.timePayload p, code := 0, via := some p })) ∧
  (∀ (u p : Nat) (c d : Chip), 0 < p → d = c.untilFabric ((c.time.ft / p + 1) * p) →
    (c.time.was < c.time.ft / p * p → SMap.getD c.ticks u 0 ≠ c.time.ft / p * p →
      c.tick u p = { c with ticks := SMap.set c.ticks u (c.time.ft / p * p) }) ∧
    (c.time.ft / p * p ≤ c.time.was ∨ SMap.getD c.ticks u 0 = c.time.ft / p * p →
      c.tick u p = { d with ticks := SMap.set d.ticks u (d.time.ft / p * p) })) ∧
  (∀ (x : Nat × Arr) (rest : List (Nat × Arr)) (o : Int) (s : State), s.chip.timeIn = x :: rest → s.chip.timeRoot = false →
    s.chip.upstream = some x.2.port → s.chip.isOn 24 0x47 = true →
    o = ((leAt x.2.payload 0 8 + s.chip.delay x.2.port s.chip.free : Nat) : Int) - (x.2.stamp : Int) →
    ∃ t, exec .timeSyncReceive s = .next t ∧ t.sram = s.sram ∧ t.pending = s.pending ∧ t.chip.timeIn = rest ∧
      t.chip.time.stage = (byteAt x.2.payload 10 + 1) % 256 ∧ t.chip.time.rootId = leAt x.2.payload 8 2 ∧
      t.chip.time.lastSync = s.chip.now ∧ t.chip.time.holdover = false ∧ t.chip.time.offset = o ∧
      t.chip.time.slew.natAbs ≤ 200 ∧ (0 < o → 0 ≤ t.chip.time.slew) ∧ (o < 0 → t.chip.time.slew ≤ 0) ∧
      (s.chip.time.locked = false → 1000 < o.natAbs →
        t.chip.time.ft = ((s.chip.time.ft : Int) + o).toNat ∧ t.chip.time.slew = 0) ∧
      (s.chip.time.locked = true ∨ o.natAbs ≤ 1000 → t.chip.time.ft = s.chip.time.ft) ∧
      t.chip.ports = s.chip.ports ∧ t.chip.copies = s.chip.copies ∧ t.chip.c0Out = s.chip.c0Out) ∧
  (∀ (s : State), s.chip.timeRoot = false → s.chip.time.holdover = false → s.chip.isOn 24 0x47 = true →
    ∃ t, exec .timeHoldover s = .next t ∧ t.sram = s.sram ∧ t.pending = s.pending ∧
      t.chip.now = max s.chip.now (s.chip.time.lastSync + 10 * s.chip.period) ∧ t.chip.time.holdover = true ∧
      bit (t.chip.reg (synC 0x18)) 1 = true ∧ t.chip.time.locked = s.chip.time.locked) ∧
  (∀ (dom : Dom) (s : State), MayWrite s.chip dom 24 0x47 0x3A0 1 → s.chip.isOn 24 0x47 = true →
    (s.chip.timeRoot = true →
      exec (.synTimeSetGo dom) s = .next (withChip s { s.chip with
        time := { s.chip.time with ft := s.chip.reg (synC 0x398) + 2 ^ 32 * s.chip.reg (synC 0x39C), frac := 0 } })) ∧
    (s.chip.timeRoot = false →
      exec (.synTimeSetGo dom) s = .next (withChip s (s.chip.recordErr (synC 0) 2 0x3A0 1 (dom == .fabric)))))

/-- Banks of jobs and rinses (R64, R403, R404, R411 to R414, R417, R419): SET places a job that has no rinse, no flip and no
packet in flight, SET_IDLE every such job; RINSE is accepted with two counters of the job, and then holds it; hold in effect
starts a round; a drained job reports on the drain counter with its VOTE, and again after 5 µs without a release, as its
arrival on the swap counter does; ABORT ends the rinse; past the limit it is late once; a held packet at its age limit is
discarded; and an island takes a scheduled flip when its fabric time reaches it. The model's own are: GO of BNK_CMD (log
entry 85), that ABORT keeps a scheduled flip (29), that SET is refused while a flip is under way or the part is SYNCING
(59), and the STAMP of the swap arrival (16). Completes SET, SET_IDLE, RINSE, ABORT, HOLD_EFFECTIVE, DRAINED_REPORT,
DRAINED_REPORT_REPEAT, SWAP_ARRIVAL_REPEAT, RINSE_LATE, HELD_PACKET_AGED and BANK_FLIP. -/
def Obligations.BanksAndRinses : Prop :=
  (∀ (dom : Dom) (j : BitVec 12) (b : Bool) (c : Chip) (s : State), s.chip.isOn 24 0x40 = true →
    MayWrite s.chip dom 24 0x40 0x100 (bnkWord 1 j.toNat b) → s.chip.goBusy (bnk 0x100) = false → c = s.chip.setReg (bnk 0x100) (bnkWord 1 j.toNat b % 2 ^ 31) →
    (c.setOk j.toNat = true →
      exec (.set dom j b) s = .next (withChip s (((c.setBank j.toNat b).setReg (bnk 0x104) 0).startGo (bnk 0x100) 2000))) ∧
    (c.setOk j.toNat = false → exec (.set dom j b) s = .next (withChip s ((c.setReg (bnk 0x104) 1).startGo (bnk 0x100) 2000)))) ∧
  (∀ (dom : Dom) (b : Bool) (c : Chip) (s : State), s.chip.isOn 24 0x40 = true →
    MayWrite s.chip dom 24 0x40 0x100 (bnkWord 4 0 b) → s.chip.goBusy (bnk 0x100) = false → c = s.chip.setReg (bnk 0x100) (bnkWord 4 0 b % 2 ^ 31) →
    exec (.setIdle dom b) s = .next (withChip s (((c.each (List.range 4096)
      (fun c j => if c.setOk j then c.setBank j b else c)).setReg (bnk 0x104) 0).startGo (bnk 0x100) 2000))) ∧
  (∀ (dom : Dom) (j : BitVec 12) (c : Chip) (s : State), s.chip.isOn 24 0x40 = true →
    MayWrite s.chip dom 24 0x40 0x100 (bnkWord 2 j.toNat false) → s.chip.goBusy (bnk 0x100) = false →
    c = s.chip.setReg (bnk 0x100) (bnkWord 2 j.toNat false % 2 ^ 31) →
    (c.rinseResult j.toNat = 0 →
      ∃ t r, exec (.rinse dom j) s = .next t ∧ t.sram = s.sram ∧ t.pending = s.pending ∧ t.chip.rinses = s.chip.rinses ++ [r] ∧
        r.job = j.toNat ∧ r.drain = fld (c.reg (bnk 0x108)) 11 0 ∧ r.swap = fld (c.reg (bnk 0x108)) 27 16 ∧ r.phase = 1 ∧
        r.round = 0 ∧ r.start = s.chip.now ∧ t.chip.reg (bnk 0x104) = 0 ∧ t.chip.jobs = s.chip.jobs ∧ t.chip.bars = s.chip.bars) ∧
    (c.rinseResult j.toNat ≠ 0 →
      exec (.rinse dom j) s = .next (withChip s ((c.setReg (bnk 0x104) (c.rinseResult j.toNat)).startGo (bnk 0x100) 2000)))) ∧
  (∀ (dom : Dom) (j : BitVec 12) (c : Chip) (s : State), s.chip.isOn 24 0x40 = true →
    MayWrite s.chip dom 24 0x40 0x100 (bnkWord 3 j.toNat false) → s.chip.goBusy (bnk 0x100) = false →
    c = s.chip.setReg (bnk 0x100) (bnkWord 3 j.toNat false % 2 ^ 31) →
    (c.rinseOf j.toNat = none → exec (.abort dom j) s = .next (withChip s ((c.setReg (bnk 0x104) 1).startGo (bnk 0x100) 2000))) ∧
    ((c.rinseOf j.toNat).isSome = true →
      exec (.abort dom j) s = .next (withChip s (((c.endRinse j.toNat false).setReg (bnk 0x104) 0).startGo (bnk 0x100) 2000)))) ∧
  (∀ (dom : Dom) (j : BitVec 12) (s : State), s.chip.isOn 24 0x40 = true →
    MayWrite s.chip dom 24 0x40 0x100 (bnkWord 3 j.toNat false) → s.chip.goBusy (bnk 0x100) = true →
    exec (.abort dom j) s = .next (withChip s
      (s.chip.recordErr (bnk 0) 6 0x100 (bnkWord 3 j.toNat false) (dom == .fabric)))) ∧
  (∀ (j : BitVec 12) (r : Rinse) (s : State), s.chip.rinseOf j.toNat = some r → r.phase = 1 →
    exec (.holdEffective j) s = .next (withChip s ((s.chip.onRinse j.toNat (fun r => { r with
      phase := 2, round := r.round + 1, reported := none })).bump (bnk 0x144) 1))) ∧
  (∀ (j : BitVec 12) (r : Rinse) (rep : Report) (s : State), s.chip.rinseOf j.toNat = some r → r.phase = 2 → r.reported = none →
    s.chip.drain j.toNat = 0 →
    rep = { epoch := (s.chip.bar r.drain).epoch, vote := if r.round = 1 ∨ r.rose = true then 1 else 0,
            stamp := s.chip.time.ft, at_ := s.chip.now } →
    exec (.drainedReport j) s = .next (withChip s (Chip.placeReport Chip.placeSwap
      (s.chip.onRinse j.toNat (fun r => { r with reported := some rep, rose := false })) r.drain j.toNat rep))) ∧
  (∀ (j : BitVec 12) (r : Rinse) (rep rep' : Report) (s : State), s.chip.rinseOf j.toNat = some r → r.reported = some rep →
    rep' = { rep with at_ := (s.chip.till (rep.at_ + 5000)).now } →
    (r.phase = 2 → exec (.drainedReportRepeat j) s = .next (withChip s (Chip.placeReport Chip.placeSwap
      ((s.chip.till (rep.at_ + 5000)).onRinse j.toNat (fun r => { r with reported := some rep' })) r.drain j.toNat rep'))) ∧
    (r.phase = 3 → exec (.swapArrivalRepeat j) s = .next (withChip s (Chip.placeReport Chip.placeSwap
      ((s.chip.till (rep.at_ + 5000)).onRinse j.toNat (fun r => { r with reported := some rep' })) r.swap j.toNat rep')))) ∧
  (∀ (j : BitVec 12) (r : Rinse) (s : State), s.chip.rinseOf j.toNat = some r → r.late = false →
    exec (.rinseLate j) s = .next (withChip s
      ((((s.chip.till (r.start + 1000 * fld (s.chip.reg (bnk 0x10C)) 15 0)).onRinse j.toNat
        (fun r => { r with late := true })).bump (bnk 0x14C) 1).raise (bnk 0) 4))) ∧
  (∀ (p : Fin 1024) (vc : Fin 10) (h : Held) (k : Pkt) (s : State),
    s.chip.held.find? (fun h => h.port == p.val && h.vc == vc.val) = some h → s.chip.pkt? h.pkt = some k →
    exec (.heldPacketAged p vc) s = .next (withChip s
      ((((((s.chip.untilFabric (k.stamp + s.chip.ageLimit (p.val / 256) k.hdr.tc)).bump (regAddr 24 0x40 0x148) 1).raise
        (regAddr 24 0x40 0) 8).pmcDiscard p.val 7).discardPkt h.pkt).release))) ∧
  (∀ (i : Island) (j : BitVec 12) (b : Bool) (t : Nat) (s : State), (s.chip.job j.toNat).pend = some (b, t) →
    exec (.bankFlip i j) s = .next (withChip s ((s.chip.untilFabric t).flipIsland (islandKey i) j.toNat b))) ∧
  (∀ (i : Island) (j : BitVec 12) (s : State), (s.chip.job j.toNat).pend = none → exec (.bankFlip i j) s = .next s)

/-- One island's flip touches that island's copy of the job's bank alone (R64, R403): until every island has flipped, the
others still select the bank they had. -/
def Obligations.IslandsFlipOneByOne : Prop :=
  ∀ (i isl : Fin 68) (j j' : Nat) (b : Bool) (c : Chip), (c.job j).bankIn i.val ≠ b → c.held = [] →
    (c.job j).moved.contains i.val = false → (c.job j).moved.length < 72 →
    ((c.flipIsland i.val j b).job j).bankIn i.val = b ∧
    (isl ≠ i → ((c.flipIsland i.val j b).job j).bankIn isl.val = (c.job j).bankIn isl.val) ∧
    (j' ≠ j → (c.flipIsland i.val j b).job j' = c.job j') ∧
    (c.flipIsland i.val j b).regs = c.regs ∧ (c.flipIsland i.val j b).pkts = c.pkts

/-- Twin mode and roles (R422, R423, R430, R432, R439, R445): EN 1 is taken with a pair id and a two-lane twin link, and
makes the part STANDBY; EN 0 ends it, with its pairing, its paths, its digests and its fencing; TWN_LINK is fixed while EN
is 1; without a beat for LEASE PAIRED ends, and once LEASE has also passed since its role was entered (log entry 88) a
STANDBY part promotes with a term above both and PARTITION, an ACTIVE one enters PARTITION, a SYNCING one is FENCED;
PARTITION is notified every 1 ms; UNFENCE, RESYNC and RELINQUISH act in their own role and report RESULT 1 otherwise; GO of
TWN_CMD then reads 1 for a free time of at most 2 µs (log entry 85). What a part does with rinses of its own in progress is
by log entry 86. Completes TWN_CTL_WRITE, TWN_LINK_WRITE, LEASE_EXPIRE, PARTITION_NOTICE_REPEAT, UNFENCE, RESYNC and
RELINQUISH. -/
def Obligations.TwinRoles : Prop :=
  (∀ (dom : Dom) (val : Word) (s : State), MayWrite s.chip dom 24 0x4A 0x100 val.toNat →
    val.toNat &&& 0xFFFF000D = val.toNat →
    (bit val.toNat 0 = true → fld val.toNat 31 16 ≠ 0 → s.chip.regBit (twn 0x104) 31 = true →
      s.chip.width (fld (s.chip.reg (twn 0x104)) 9 0) = 2 → s.chip.regBit (twn 0x100) 0 = false →
      exec (.twnCtlWrite dom val) s = .next (withChip s ((s.chip.setReg (twn 0x100) val.toNat).setRole 1))) ∧
    (bit val.toNat 0 = true → fld val.toNat 31 16 = 0 →
      exec (.twnCtlWrite dom val) s = .next (withChip s
        (s.chip.recordErr (twn 0) 1 0x100 val.toNat (dom == .fabric)))) ∧
    (bit val.toNat 0 = false → s.chip.regBit (twn 0x100) 0 = false →
      exec (.twnCtlWrite dom val) s = .next (withChip s (s.chip.setReg (twn 0x100) val.toNat))) ∧
    (bit val.toNat 0 = false → s.chip.regBit (twn 0x100) 0 = true →
      exec (.twnCtlWrite dom val) s = .next (withChip s (s.chip.setReg (twn 0x100) val.toNat).twinOff))) ∧
  (∀ (c d : Chip), c.twin.role ≠ 0 → d = c.twinOff →
    d.twin.role = 0 ∧ d.twin.partition = false ∧ d.twin.paired = false ∧ d.twin.lastBeat = none ∧ d.twin.clashAt = none ∧
    d.twin.mismatchAt = none ∧ d.twin.fenceAt = none ∧ d.twin.fencedAt = none ∧ d.twin.own = [] ∧ d.twin.peer = [] ∧
    d.twin.txOn = false ∧ d.twin.rsOn = false ∧ (c.twin.paths.length = 2 → d.twin.paths = [false, false]) ∧
    d.twin.term = c.twin.term ∧ bit (d.reg (twn 0x18)) 0 = true ∧ (c.twin.paired = true → bit (d.reg (twn 0x18)) 2 = true) ∧
    d.ports = c.ports ∧ d.tables = c.tables ∧ d.pkts = c.pkts) ∧
  (∀ (c : Chip), c.twin.role = 0 → c.twinOff = c) ∧
  (∀ (dom : Dom) (val : Word) (s : State), MayWrite s.chip dom 24 0x4A 0x104 val.toNat →
    val.toNat &&& 0x800003FF = val.toNat →
    (s.chip.regBit (twn 0x100) 0 = false →
      exec (.twnLinkWrite dom val) s = .next (withChip s (s.chip.setReg (twn 0x104) val.toNat))) ∧
    (s.chip.regBit (twn 0x100) 0 = true →
      exec (.twnLinkWrite dom val) s = .next (withChip s
        (s.chip.recordErr (twn 0) 2 0x104 val.toNat (dom == .fabric))))) ∧
  (∀ (s : State), s.chip.twinOn = true → s.chip.twin.partition = false → s.chip.twin.role = 1 ∨ s.chip.twin.role = 2 →
    s.chip.twin.paired = false ∨ s.chip.twin.armedAt ≤ s.chip.twin.lastBeat.getD 0 →
    ∃ t, exec .leaseExpire s = .next t ∧ t.sram = s.sram ∧ t.pending = s.pending ∧
      t.chip.now = max s.chip.now (max (s.chip.twin.lastBeat.getD 0) s.chip.twin.armedAt + 20000) ∧
      t.chip.twin.role = 2 ∧ t.chip.twin.partition = true ∧ t.chip.twin.paired = false ∧
      t.chip.twin.term = (if s.chip.twin.role = 1 then (max s.chip.twin.term s.chip.twin.peerTerm + 1) % 2 ^ 32
        else s.chip.twin.term) ∧ t.chip.ports = s.chip.ports ∧ t.chip.copies = s.chip.copies) ∧
  (∀ (s : State), s.chip.twinOn = true → s.chip.twin.paired = true →
    max s.chip.now (s.chip.twin.lastBeat.getD 0 + 20000) < s.chip.twin.armedAt + 20000 →
    ∃ t, exec .leaseExpire s = .next t ∧ t.sram = s.sram ∧ t.pending = s.pending ∧ t.chip.twin.paired = false ∧
      t.chip.twin.role = s.chip.twin.role ∧ t.chip.twin.partition = s.chip.twin.partition) ∧
  (∀ (s : State), s.chip.twinOn = true → s.chip.twin.partition = false → s.chip.twin.role = 3 →
    s.chip.twin.paired = false ∨ s.chip.twin.armedAt ≤ s.chip.twin.lastBeat.getD 0 →
    ∃ t, exec .leaseExpire s = .next t ∧ t.sram = s.sram ∧ t.pending = s.pending ∧ t.chip.twin.role = 4 ∧
      t.chip.twin.paired = false) ∧
  (∀ (c : Chip) (s : State), s.chip.twinOn = true → s.chip.twin.partition = true →
    c = s.chip.till (s.chip.twin.partAt + 1000000) →
    exec .partitionNoticeRepeat s = .next (withChip s
      ((c.onTwin (fun t => { t with partAt := c.now })).twinEvent 3 0 0 0 0 false))) ∧
  (∀ (dom : Dom) (c : Chip) (s : State), s.chip.isOn 24 0x4A = true → MayWrite s.chip dom 24 0x4A 0x120 (2 ^ 31 + put 1 24) →
    c = s.chip.setReg (twn 0x120) (put 1 24) →
    (c.twin.role ≠ 4 → exec (.unfence dom) s = .next (withChip s ((c.setReg (twn 0x124) 1).startGo (twn 0x120) 2000))) ∧
    (c.twin.role = 4 → c.regBit (twn 0x100) 3 = true →
      exec (.unfence dom) s = .next (withChip s (((c.startSync.each ((List.range 1024).filter c.startSync.isAdmitted)
        (fun c p => c.tryActive p)).setReg (twn 0x124) 0).startGo (twn 0x120) 2000))) ∧
    (c.twin.role = 4 → c.regBit (twn 0x100) 3 = false →
      exec (.unfence dom) s = .next (withChip s ((((c.setRole 1).each ((List.range 1024).filter (c.setRole 1).isAdmitted)
        (fun c p => c.tryActive p)).setReg (twn 0x124) 0).startGo (twn 0x120) 2000)))) ∧
  (∀ (dom : Dom) (c : Chip) (s : State), s.chip.isOn 24 0x4A = true → MayWrite s.chip dom 24 0x4A 0x120 (2 ^ 31 + put 2 24) →
    c = s.chip.setReg (twn 0x120) (put 2 24) →
    (c.twin.role = 1 → c.twin.peerRole = 2 → c.twin.paired = true → c.rinses = [] →
      exec (.resync dom) s = .next (withChip s ((c.startSync.setReg (twn 0x124) 0).startGo (twn 0x120) 2000))) ∧
    (c.twin.role ≠ 1 ∨ c.twin.peerRole ≠ 2 ∨ c.rinses ≠ [] →
      exec (.resync dom) s = .next (withChip s ((c.setReg (twn 0x124) 1).startGo (twn 0x120) 2000)))) ∧
  (∀ (dom : Dom) (c : Chip) (s : State), s.chip.isOn 24 0x4A = true → MayWrite s.chip dom 24 0x4A 0x120 (2 ^ 31 + put 3 24) →
    c = s.chip.setReg (twn 0x120) (put 3 24) →
    (c.twin.role = 2 → c.twin.peerRole = 1 → c.twin.paired = true →
      exec (.relinquish dom) s = .next (withChip s (((c.setRole 1).setReg (twn 0x124) 0).startGo (twn 0x120) 2000))) ∧
    (c.twin.role ≠ 2 ∨ c.twin.peerRole ≠ 1 →
      exec (.relinquish dom) s = .next (withChip s ((c.setReg (twn 0x124) 1).startGo (twn 0x120) 2000))))

/-- Beats (R166, R423, R425 to R428, R441): every 1 µs on the twin link, every 4 µs in-band, where each pair of destination
and TC has a SEQ stream of its own, a record of 32 bytes with its fields (R425); a record of the twin link's own is taken, a
relayed one for this part is taken as in-band, any other passed on; whatever the part's role, a record of the right pair and
side whose BEAT_SEQ is above the last taken brings PAIRED, the peer's role and term and the time of its path, and then the
role follows its table (R430); one whose BEAT_SEQ is not above the last is dropped; a path without a beat for 14 µs goes
stale. Completes TWIN_BEAT_SEND, INBAND_BEAT_SEND, TWIN_BEAT_RECEIVE, INBAND_BEAT_RECEIVE and PATH_STALE. -/
def Obligations.Beats : Prop :=
  (∀ (c : Chip) (s : State), s.chip.twinOn = true → s.chip.twinLinkUp = true → c = (s.chip.tick 1 1000).flagsExpire →
    exec .twinBeatSend s = .next (withChip s (c.twinSend 0x30 (c.beat false 0)).beatSent)) ∧
  (∀ (c : Chip) (s : State), s.chip.twinOn = true → s.chip.regBit (twn 0x108) 31 = true → c = (s.chip.tick 2 4000).flagsExpire →
    exec .inbandBeatSend s = .next (withChip s
      (c.inband (fld (c.reg (twn 0x108)) 15 0) (c.beat true c.ownId)).beatSent)) ∧
  (∀ (relayed : Bool) (target : Nat) (c : Chip), c.twin.role < 8 → target < 2 ^ 16 → (c.beat relayed target).length = 32 ∧
    leAt (c.beat relayed target) 0 2 = c.pairId ∧ byteAt (c.beat relayed target) 2 =
      c.sideCode + 2 * c.twin.role + 16 * b2n relayed + 32 * b2n c.twin.partition ∧ byteAt (c.beat relayed target) 3 = 0 ∧
    leAt (c.beat relayed target) 4 4 = c.twin.term % 2 ^ 32 ∧ leAt (c.beat relayed target) 8 4 = c.twin.beatSeq % 2 ^ 32 ∧
    leAt (c.beat relayed target) 12 4 = min c.errSeen 0xFFFFFFFF ∧ leAt (c.beat relayed target) 16 4 = c.twin.sseq % 2 ^ 30 ∧
    leAt (c.beat relayed target) 20 2 = target ∧ (c.beat relayed target).drop 22 = leBytes 10 0) ∧
  (∀ (dest k n : Nat) (record : List Byte) (c : Chip), c.rst.c0Up = true →
    k = put (fld (c.reg (twn 0x108)) 17 16) 16 + dest → n = SMap.getD c.twin.ibSeq k 0 →
    ∃ o, (c.inband dest record).c0Out = c.c0Out ++ [o] ∧ o.hdr.op = 6 ∧ o.hdr.dest = dest ∧ o.hdr.seq = n ∧
      SMap.getD (c.inband dest record).twin.ibSeq k 0 = (n + 1) % 2 ^ 24 ∧
      (∀ j, j ≠ k → SMap.getD (c.inband dest record).twin.ibSeq j 0 = SMap.getD c.twin.ibSeq j 0)) ∧
  (∀ (x : Nat × Arr) (c : Chip) (s : State), s.chip.twinFront 0x30 = some x → s.chip.twinOn = true →
    s.chip.isTwinLink x.2.port = true → x.2.payload.length = 32 → c = { s.chip with twinIn := s.chip.twinIn.erase x } →
    (bit (byteAt x.2.payload 2) 4 = false →
      exec .twinBeatReceive s = .next (withChip s (c.takeBeat 0 x.2.payload))) ∧
    (bit (byteAt x.2.payload 2) 4 = true → leAt x.2.payload 20 2 = c.ownId →
      exec .twinBeatReceive s = .next (withChip s (c.takeBeat 1 x.2.payload))) ∧
    (bit (byteAt x.2.payload 2) 4 = true → leAt x.2.payload 20 2 ≠ c.ownId →
      exec .twinBeatReceive s = .next (withChip s (c.relayIn x.2.payload)))) ∧
  (∀ (x : Nat × Arr) (c : Chip) (s : State), s.chip.c0In.find? (fun x => beatRequest x.2) = some x → s.chip.twinOn = true →
    x.2.payload.length = 40 → c = { s.chip with c0In := s.chip.c0In.erase x } →
    (leAt (x.2.payload.drop 8) 20 2 = c.ownId →
      exec .inbandBeatReceive s = .next (withChip s (c.takeBeat 1 (x.2.payload.drop 8)))) ∧
    (leAt (x.2.payload.drop 8) 20 2 ≠ c.ownId → s.chip.twinLinkUp = true →
      exec .inbandBeatReceive s = .next (withChip s ((c.twinSend 0x30 (x.2.payload.drop 8)).bump (twn 0x158) 1)))) ∧
  (∀ (path : Nat) (l : List Byte) (c : Chip), leAt l 0 2 = c.pairId → fld (byteAt l 2) 0 0 ≠ c.sideCode →
    (∀ k, c.twin.peerSeq = some k → leAt l 8 4 ≤ k → c.takeBeat path l = c.flagsExpire) ∧
    (∀ d, c.twin.peerSeq.all (fun k => decide (k < leAt l 8 4)) = true →
      d = (c.flagsExpire.bump (twn (if path = 0 then 0x140 else 0x144)) 1).onTwin (fun t => { t with
        peerSeq := some (leAt l 8 4), peerRole := fld (byteAt l 2) 3 1, peerTerm := leAt l 4 4, peerErr := leAt l 12 4,
        peerSseq := leAt l 16 4, paired := true, partition := false, lastBeat := some c.now,
        lastLink := if path = 0 then some c.now else t.lastLink, lastIb := if path = 0 then t.lastIb else some c.now,
        sseq := if t.role = 2 then t.sseq else leAt l 16 4 % 2 ^ 30,
        fenceAt := if fld (byteAt l 2) 3 1 = 4 then none else t.fenceAt,
        count := if c.twin.paired then t.count else [] }) →
      (c.twin.paired = true → c.takeBeat path l =
        (if path = 0 then d.twinLinkPath else d.twinPath path true).beatRole false) ∧
      (c.twin.paired = false → c.takeBeat path l =
        (if path = 0 then (d.raise (twn 0) 4).twinLinkPath else (d.raise (twn 0) 4).twinPath path true).beatRole true))) ∧
  (∀ (path : Nat) (b : Bool) (c : Chip), (c.twinPath path b).twin.role = c.twin.role ∧
    (c.twinPath path b).twin.paired = c.twin.paired ∧ (c.twinPath path b).twin.peerSeq = c.twin.peerSeq ∧
    (c.twinPath path b).twin.peerRole = c.twin.peerRole ∧ (c.twinPath path b).twin.peerTerm = c.twin.peerTerm ∧
    (c.twinPath path b).twin.lastBeat = c.twin.lastBeat) ∧
  (∀ (first : Bool) (c : Chip),
    (c.twin.role = 2 → c.twin.peerRole = 2 →
      c.twin.term < c.twin.peerTerm ∨ (c.twin.term = c.twin.peerTerm ∧ c.sideCode = 1) → c.beatRole first = c.setRole 1) ∧
    (c.twin.role = 2 → c.twin.peerRole = 2 →
      c.twin.peerTerm < c.twin.term ∨ (c.twin.term = c.twin.peerTerm ∧ c.sideCode = 0) → c.beatRole first = c) ∧
    (c.twin.role = 2 → c.twin.peerRole = 3 → c.beatRole first = c.rsStart) ∧
    (c.twin.role = 1 → c.twin.peerRole = 4 ∨ (c.twin.peerRole = 1 ∧ c.sideCode = 0) → c.beatRole first = c.promote false) ∧
    (c.twin.role = 1 → c.twin.peerRole = 3 → c.beatRole first = (c.promote false).rsStart) ∧
    (c.twin.role = 1 → c.twin.peerRole = 2 → first = true → c.regBit (twn 0x100) 3 = true → c.beatRole first = c.startSync) ∧
    (c.twin.role = 1 → c.twin.peerRole = 2 → first = false ∨ c.regBit (twn 0x100) 3 = false → c.beatRole first = c) ∧
    (c.twin.role = 1 → c.twin.peerRole = 1 → c.sideCode = 1 → c.beatRole first = c) ∧
    (c.twin.role = 3 ∨ c.twin.role = 4 → c.beatRole first = c)) ∧
  (∀ (path : Bool) (s : State), s.chip.twinOn = true → s.chip.twin.paths.getD (b2n path) false = true →
    exec (.pathStale path) s = .next (withChip s
      ((s.chip.till ((if path then s.chip.twin.lastIb else s.chip.twin.lastLink).getD 0 + 14000)).twinPath (b2n path) false)))

/-- Digests and fencing (R436 to R439): a digest carries the next 596 chunk entries and the counts of 256 ports and goes out
on the twin link; the peer's entries and counts join, every own entry is compared with its partner and every port's window
with the peer's, and a test that fails is a mismatch (that this happens at each digest received, and for a port only once
both windows hold CMP_WIN counts, is DEDUCED, log entry 32); an entry at DIGEST_HOLD leaves, counted as skipped when unsent
and as unmatched without a partner; a decision is acted on at its time, into FENCED, and then ADMIT is cleared on every port
but the twin link. Completes TWIN_DIGEST_SEND, TWIN_DIGEST_RECEIVE, DIGEST_ENTRY_EXPIRE, FENCE_ACT and FENCE_ADMIT_CLEAR. -/
def Obligations.DigestsAndFencing : Prop :=
  (∀ (s : State), s.chip.twinOn = true → s.chip.twinLinkUp = true →
    ∃ t o, exec .twinDigestSend s = .next t ∧ t.sram = s.sram ∧ t.pending = s.pending ∧ t.chip.c0Out = s.chip.c0Out ++ [o] ∧
      o.hdr.net = 3 ∧ o.hdr.op = 0x31 ∧ o.via = some (fld (s.chip.reg (twn 0x104)) 9 0) ∧
      o.payload.length = 1040 + 12 * ((s.chip.twin.own.filter (fun e => !e.sent)).take 596).length ∧
      t.chip.twin.digestSeq = (s.chip.twin.digestSeq + 1) % 2 ^ 32 ∧ t.chip.twin.own = markSent 596 s.chip.twin.own ∧
      t.chip.regs = s.chip.regs ∧ t.chip.twin.role = s.chip.twin.role) ∧
  (∀ (x : Nat × Arr) (l : List Byte) (base : Nat) (ents : List DigEnt) (c d : Chip) (s : State),
    s.chip.twinFront 0x31 = some x → s.chip.twinOn = true → s.chip.isTwinLink x.2.port = true → l = x.2.payload →
    leAt l 0 2 = s.chip.pairId → byteAt l 2 ≠ s.chip.sideCode → base = 256 * (leAt l 4 4 % 4) →
    ents = (List.range (leAt l 8 2)).map (fun i => { chunk := leAt l (1040 + 12 * i) 4, cstate := byteAt l (1044 + 12 * i),
                                                     crc := leAt l (1048 + 12 * i) 4, at_ := s.chip.now, sent := true,
                                                     matched := false }) →
    c = Chip.onTwin { s.chip with twinIn := s.chip.twinIn.erase x } (fun t => { t with
      peer := t.peer ++ ents,
      peerHist := (List.range 256).foldl (fun m i => histAdd s.chip.cmpWin m (base + i)
        (leAt l (16 + 4 * i) 4 % 2 ^ 31, bit (leAt l (16 + 4 * i) 4) 31)) t.peerHist }) →
    d = c.each s.chip.twin.own (fun c e => c.digestMatch e) →
    exec .twinDigestReceive s = .next (withChip s (d.each (List.range 256) (fun c i => c.portTest (base + i))))) ∧
  (∀ (p da db : Nat) (a b : List (Nat × Bool)) (c : Chip), a = SMap.getD c.twin.ownHist p [] → b = SMap.getD c.twin.peerHist p [] →
    da = histRise a → db = histRise b →
    (a.length = c.cmpWin → b.length = c.cmpWin → (∀ x ∈ a ++ b, x.2 = false) →
      fld (c.reg (twn 0x114)) 15 0 + max da db / 2 ^ fld (c.reg (twn 0x114)) 27 24 < max da db - min da db →
      c.portTest p = c.mismatch 2 p da db) ∧
    (a.length ≠ c.cmpWin ∨ b.length ≠ c.cmpWin ∨ (∃ x ∈ a ++ b, x.2 = true) ∨
      max da db - min da db ≤ fld (c.reg (twn 0x114)) 15 0 + max da db / 2 ^ fld (c.reg (twn 0x114)) 27 24 →
      c.portTest p = c)) ∧
  (∀ (e : DigEnt) (c : Chip), e.matched = true ∨ e.at_ + c.digestHold < c.now ∨
      c.twin.peer.find? (fun p => !p.matched && p.same e && decide (c.now ≤ p.at_ + c.digestHold)) = none →
    c.digestMatch e = c) ∧
  (∀ (e p : DigEnt) (c : Chip), c.now ≤ e.at_ + c.digestHold → e.matched = false →
    c.twin.peer.find? (fun p => !p.matched && p.same e && decide (c.now ≤ p.at_ + c.digestHold)) = some p → e.crc = p.crc →
    bit e.cstate 2 = bit p.cstate 2 →
    c.digestMatch e = c.onTwin (fun t => { t with
      own := t.own.map (fun x => if x = e then { x with matched := true } else x),
      peer := t.peer.map (fun x => if x = p then { x with matched := true } else x) })) ∧
  (∀ (e p : DigEnt) (c : Chip), c.now ≤ e.at_ + c.digestHold → e.matched = false →
    c.twin.peer.find? (fun p => !p.matched && p.same e && decide (c.now ≤ p.at_ + c.digestHold)) = some p →
    e.crc ≠ p.crc ∨ bit e.cstate 2 ≠ bit p.cstate 2 →
    c.digestMatch e = (c.onTwin (fun t => { t with
      own := t.own.map (fun x => if x = e then { x with matched := true } else x),
      peer := t.peer.map (fun x => if x = p then { x with matched := true } else x) })).mismatch 1 e.chunk e.crc p.crc) ∧
  (∀ (e : DigEnt) (tl : List DigEnt) (s : State),
    (s.chip.twin.own = e :: tl ∧ ∀ k ∈ tl ++ s.chip.twin.peer, e.at_ ≤ k.at_) ∨
      (s.chip.twin.own = [] ∧ s.chip.twin.peer = e :: tl ∧ ∀ k ∈ tl, e.at_ ≤ k.at_) →
    ∃ t, exec .digestEntryExpire s = .next t ∧ t.sram = s.sram ∧ t.pending = s.pending ∧
      t.chip.now = max s.chip.now (e.at_ + s.chip.digestHold) ∧
      (s.chip.twin.own ≠ [] → t.chip.twin.own = tl ∧ t.chip.twin.peer = s.chip.twin.peer) ∧
      (s.chip.twin.own = [] → t.chip.twin.own = [] ∧ t.chip.twin.peer = tl) ∧
      t.chip.reg (twn 0x14C) = (if e.matched then s.chip.reg (twn 0x14C) else min (s.chip.reg (twn 0x14C) + 1) 0xFFFFFFFF) ∧
      t.chip.reg (twn 0x150) = (if e.sent then s.chip.reg (twn 0x150) else min (s.chip.reg (twn 0x150) + 1) 0xFFFFFFFF)) ∧
  (∀ (at_ : Nat) (s : State), s.chip.twin.fenceAt = some at_ → s.chip.twinOn = true →
    s.chip.twin.role = 1 ∨ s.chip.twin.role = 2 →
    ∃ t, exec .fenceAct s = .next t ∧ t.sram = s.sram ∧ t.pending = s.pending ∧ t.chip.twin.role = 4 ∧
      t.chip.twin.fenceAt = none ∧ t.chip.twin.fencedAt = some (max s.chip.now at_) ∧ t.chip.ports = s.chip.ports) ∧
  (∀ (at_ : Nat) (c : Chip) (s : State), s.chip.twin.fencedAt = some at_ →
    (c = s.chip.onTwin (fun t => { t with fencedAt := none }) ∧ (∀ o ∈ s.chip.c0Out, o.hdr.op ≠ 0x1A) ∧
        (∀ k ∈ s.chip.pkts, k.hdr.op ≠ 0x1A ∨ k.origin ≠ .ctl)) ∨
      (c = (s.chip.till (at_ + 2000)).onTwin (fun t => { t with fencedAt := none }) ∧
        ((∃ o ∈ s.chip.c0Out, o.hdr.op = 0x1A) ∨ ∃ k ∈ s.chip.pkts, k.hdr.op = 0x1A ∧ k.origin = .ctl)) →
    exec .fenceAdmitClear s = .next (withChip s (c.each
      ((List.range 1024).filter (fun p => c.isAdmitted p && !c.isTwinLink p)) (fun c p => c.clearAdmit p))))

/-- Resynchronisation (R443, R444): a part in SYNCING starts its count with START, applies each record, and END with the
same count completes it while another count, or 1 ms without a packet, fails it; the active part sends the FLOOR of every
context that is then ON and END once, and ends its tail 1 ms later. Completes TWIN_RESYNC_RECEIVE, RESYNC_GAP_TIMEOUT,
RESYNC_END_SEND and RESYNC_TAIL_END. -/
def Obligations.Resynchronisation : Prop :=
  (∀ (x : Nat × Arr) (c : Chip) (s : State), s.chip.twinFront 0x32 = some x → s.chip.twinOn = true →
    s.chip.isTwinLink x.2.port = true → leAt x.2.payload 0 2 = s.chip.pairId → s.chip.twin.role = 3 →
    c = Chip.onTwin { s.chip with twinIn := s.chip.twinIn.erase x } (fun t => { t with rsAt := s.chip.now }) →
    (byteAt x.2.payload 2 = 1 →
      exec .twinResyncReceive s = .next (withChip s (c.onTwin (fun t => { t with rsCount := 0 })))) ∧
    (byteAt x.2.payload 2 = 2 →
      exec .twinResyncReceive s = .next (withChip s (Chip.rsEntries 1024 c (x.2.payload.drop 16)))) ∧
    (byteAt x.2.payload 2 = 3 → leAt x.2.payload 4 4 = s.chip.twin.rsCount →
      exec .twinResyncReceive s = .next (withChip s c.syncDone)) ∧
    (byteAt x.2.payload 2 = 3 → leAt x.2.payload 4 4 ≠ s.chip.twin.rsCount →
      exec .twinResyncReceive s = .next (withChip s c.syncFail))) ∧
  (∀ (s : State), s.chip.twinOn = true → s.chip.twin.role = 3 →
    exec .resyncGapTimeout s = .next (withChip s (s.chip.till (s.chip.twin.rsAt + 1000000)).syncFail)) ∧
  (∀ (c : Chip) (s : State), s.chip.twinOn = true → s.chip.twin.txOn = true → s.chip.twin.txTail = none →
    c = s.chip.rsSend s.chip.rsFloorRecs →
    exec .resyncEndSend s = .next (withChip s ((c.twinSend 0x32 (c.rsPayload 3 c.twin.txCount [])).onTwin
      (fun t => { t with txTail := some c.now })))) ∧
  (∀ (k : Fin 96) (c : Chip), (c.ctx k.val).st = 1 →
    regRec (col (k.val / 24) (0x280 + 4 * (k.val % 24))) (c.ctx k.val).floor ∈ c.rsFloorRecs) ∧
  (∀ (at_ : Nat) (s : State), s.chip.twin.txTail = some at_ → s.chip.twin.txOn = true →
    exec .resyncTailEnd s = .next (withChip s ((s.chip.till (at_ + 1000000)).onTwin
      (fun t => { t with txOn := false, txTail := none }))))

/-- A record of a table entry, applied by a resync, writes the entry in all four quadrants alike (R443, R444). -/
def Obligations.ResyncWritesEveryQuadrant : Prop :=
  ∀ (q : Fin 4) (blk t idx : Nat) (bank : Bool) (ws : List Word) (k : Nat) (c : Chip), blk ≤ 3 → t ≤ 15 →
    tblOf (0x40 + blk) t = some k → idx < tblSize k →
    (c.rsApply blk (t + put (b2n bank) 4) idx ws).entry q.val k bank idx = ws ∧
    (c.rsApply blk (t + put (b2n bank) 4) idx ws).regs = c.regs ∧ (c.rsApply blk (t + put (b2n bank) 4) idx ws).bars = c.bars

/-- Congestion maps (R391, R448 to R452): at each quadrant's own tick of 1 µs every output's depth and stalled share of the
interval join its held levels, the larger of each, and its interval begins again; which channels are stalled follows every
step that may change it, and looking at it changes no packet, store, copy or port; a window's end keeps the levels with the
ACTIVE ports and starts the next with none; the ended window's MAP is sent while maps are on, has a destination and the
policy, and is a counted gap while owned effects are suppressed or the cores do not run; with its policy's bit at 0 it is
dropped uncounted. SHIFT, and that such a dropped window is no gap, are by log entry 34, the stalled cycles of an interval
by log entry 84 (all the model's). Completes CGM_SAMPLE, MAP_WINDOW_END and MAP_PUBLISH. Performance counters (R63, R454 to
R459): PMC_EVT takes an event of its island's class; CHAIN is refused on an even counter; a value is written only while EN
is 0; FREEZE clears every EN and CLEAR every value of the page; a counter that wraps goes to 0 and sets its PMC_OVF bit, or
carries into its enabled chain; a counter in level mode adds a number of cycles within what its island can count in the time
its condition held (how many is free, log entry 38), and two counters of one page on one time add the same (R63); the high
half of a chain counts the carries of its low half alone; a page that is not on counts nothing. Completes PMC_EVT_WRITE,
PMC_CFG_WRITE, PMC_VAL_WRITE, PMC_FREEZE, PMC_CLEAR and PMC_WRAP. -/
def Obligations.CongestionAndCounters : Prop :=
  (∀ (q : Fin 4) (n : Nat) (c : Chip) (s : State), s.chip.isOn q.val 0x48 = true → c = s.chip.restall.tick (16 + q.val) 1000 →
    exec (.cgmSample q n) s = .next (withChip s
      ((c.each (List.range 260) (fun d i => d.grade q.val (SMap.getD c.tele.cgmAt q.val 0) n i)).onTele
        (fun t => { t with cgmAt := SMap.set t.cgmAt q.val c.now })))) ∧
  (∀ (q : Fin 4) (i since n : Nat) (c : Chip), i < 260 → c.level q.val i ≤ 255 →
    (c.grade q.val since n i).level q.val i = levelMax (c.level q.val i)
      (stallLevel (stalledCycles ((c.link (outLink q.val i)).stallSum c.now) (c.now - since) n) n)
      (occLevel (fld (c.reg (regAddr q.val 0x48 0x100)) 3 0)
        ((List.range 8).map (fun v => c.depth (outLink q.val i) v)).sum) ∧
    ((c.grade q.val since n i).link (outLink q.val i)).stallSum c.now = 0) ∧
  (∀ (stalled len : Nat), 0 < len → stalled ≤ len →
    stallLevel stalled len ≤ 15 ∧ (16 * stalled < 16 * len → stallLevel stalled len = 16 * stalled / len)) ∧
  (∀ (ns len n : Nat), ns ≤ len → stalledCycles ns len n ≤ n ∧ (0 < len → n = len → stalledCycles ns len n = ns)) ∧
  (∀ (l : Nat) (c : Chip), ((c.restallOne l).link l).stall = c.stalledVcs l ∧
    ((c.restallOne l).link l).stallSum c.now = (c.link l).stallSum c.now) ∧
  (∀ (c : Chip), c.restall.pkts = c.pkts ∧ c.restall.stores = c.stores ∧ c.restall.copies = c.copies ∧
    c.restall.ports = c.ports ∧ c.restall.tables = c.tables ∧ c.restall.rx = c.rx ∧ c.restall.out = c.out ∧
    c.restall.now = c.now) ∧
  (∀ (u depth : Nat), occLevel u depth ≤ 15 ∧ (occLevel u depth = 0 ↔ depth < 2 ^ u) ∧
    (0 < occLevel u depth → 2 ^ (occLevel u depth - 1) * 2 ^ u ≤ depth)) ∧
  (∀ (s : State), s.chip.isOn 24 0x48 = true →
    ∃ t e, exec .mapWindowEnd s = .next t ∧ t.sram = s.sram ∧ t.pending = s.pending ∧ t.chip.tele.winEnd = some e ∧
      e.w = s.chip.tele.winW ∧ e.active = (List.range 1024).filter s.chip.active ∧ e.levels = s.chip.levelBytes ∧
      t.chip.tele.cgm = [] ∧ t.chip.tele.winW = fld (s.chip.reg (cgmC 0x100)) 13 0 ∧ t.chip.regs = s.chip.regs ∧
      t.chip.ports = s.chip.ports) ∧
  (∀ (e : WinEnd) (c : Chip) (s : State), s.chip.tele.winEnd = some e → c = s.chip.onTele (fun t => { t with winEnd := none }) →
    s.chip.regBit (cgmC 0x100) 31 = true → fld (s.chip.reg (cgmC 0x104)) 15 0 ≠ 0xFFFF →
    s.chip.regBit (ctlR 0x108) 4 = true → s.chip.isOn 24 0x48 = true →
    (s.chip.suppressed = false → s.chip.policy 4 = true →
      exec .mapPublish s = .next (withChip s
        (((c.sideSend 0x16 0x10 (fld (s.chip.reg (cgmC 0x104)) 15 0) (fld (s.chip.reg (cgmC 0x100)) 25 24)
          (e.body c.tele.gap)).onTele (fun t => { t with gap := false })).bump (cgmC 0x108) 1))) ∧
    (s.chip.suppressed = true ∨ s.chip.policy 4 = false →
      exec .mapPublish s = .next (withChip s ((c.onTele (fun t => { t with gap := true })).bump (cgmC 0x10C) 1)))) ∧
  (∀ (e : WinEnd) (s : State), s.chip.tele.winEnd = some e →
    s.chip.regBit (cgmC 0x100) 31 = false ∨ fld (s.chip.reg (cgmC 0x104)) 15 0 = 0xFFFF ∨ s.chip.regBit (ctlR 0x108) 4 = false ∨
      s.chip.isOn 24 0x48 = false →
    exec .mapPublish s = .next (withChip s (s.chip.onTele (fun t => { t with winEnd := none })))) ∧
  (∀ (dom : Dom) (die i k m : Nat) (addr val : Word) (s : State), pageOf die (0x60 + i) = some (.pmc, i) →
    k < pmcCount die i → addr.toNat = regAddr die (0x60 + i) (0x200 + 4 * k) →
    MayWrite s.chip dom die (0x60 + i) (0x200 + 4 * k) val.toNat → evtQuals (fld val.toNat 15 0) = some m →
    (fld val.toNat 15 0 / 4096 = 0 ∨ fld val.toNat 15 0 / 4096 = pmcClass die i →
      m = 0 ∨ fld val.toNat 31 16 &&& m = fld val.toNat 31 16 →
      exec (.pmcEvtWrite dom addr val) s = .next (withChip s
        (s.chip.pmcRewrite (regAddr die (0x60 + i) 0) k (fun c => c.setReg addr.toNat val.toNat)))) ∧
    (fld val.toNat 15 0 / 4096 ≠ 0 → fld val.toNat 15 0 / 4096 ≠ pmcClass die i →
      exec (.pmcEvtWrite dom addr val) s = .next (withChip s
        (s.chip.recordErr (regAddr die (0x60 + i) 0) 1 (0x200 + 4 * k) val.toNat (dom == .fabric))))) ∧
  (∀ (dom : Dom) (die i k : Nat) (addr val : Word) (s : State), pageOf die (0x60 + i) = some (.pmc, i) →
    k < pmcCount die i → addr.toNat = regAddr die (0x60 + i) (0x400 + 4 * k) → val.toNat &&& 0xF7 = val.toNat →
    MayWrite s.chip dom die (0x60 + i) (0x400 + 4 * k) val.toNat →
    (bit val.toNat 2 = false ∨ k % 2 = 1 →
      exec (.pmcCfgWrite dom addr val) s = .next (withChip s
        (s.chip.pmcRewrite (regAddr die (0x60 + i) 0) k (fun c => c.setReg addr.toNat val.toNat)))) ∧
    (k % 2 = 0 → bit val.toNat 2 = true →
      exec (.pmcCfgWrite dom addr val) s = .next (withChip s
        (s.chip.recordErr (regAddr die (0x60 + i) 0) 1 (0x400 + 4 * k) val.toNat (dom == .fabric))))) ∧
  (∀ (dom : Dom) (die i k : Nat) (addr val : Word) (s : State), pageOf die (0x60 + i) = some (.pmc, i) →
    k < pmcCount die i → addr.toNat = regAddr die (0x60 + i) (0x800 + 8 * k) →
    MayWrite s.chip dom die (0x60 + i) (0x800 + 8 * k) val.toNat →
    (s.chip.regBit (regAddr die (0x60 + i) (0x400 + 4 * k)) 0 = false →
      exec (.pmcValWrite dom addr val) s = .next (withChip s (s.chip.setReg addr.toNat val.toNat))) ∧
    (s.chip.regBit (regAddr die (0x60 + i) (0x400 + 4 * k)) 0 = true →
      exec (.pmcValWrite dom addr val) s = .next (withChip s
        (s.chip.recordErr (regAddr die (0x60 + i) 0) 2 (0x800 + 8 * k) val.toNat (dom == .fabric))))) ∧
  (∀ (dom : Dom) (die i : Nat) (page : Word) (s : State), pageOf die (0x60 + i) = some (.pmc, i) →
    page.toNat = regAddr die (0x60 + i) 0 → s.chip.isOn die (0x60 + i) = true →
    (MayWrite s.chip dom die (0x60 + i) 0x100 1 →
      ∃ t, exec (.pmcFreeze dom page) s = .next t ∧ t.sram = s.sram ∧ t.pending = s.pending ∧
        (∀ k < pmcCount die i, t.chip.regBit (regAddr die (0x60 + i) (0x400 + 4 * k)) 0 = false ∧
          t.chip.pmcVal (regAddr die (0x60 + i) 0) k =
            (s.chip.pmcSettle (regAddr die (0x60 + i) 0)).pmcVal (regAddr die (0x60 + i) 0) k)) ∧
    (MayWrite s.chip dom die (0x60 + i) 0x100 2 →
      ∃ t, exec (.pmcClear dom page) s = .next t ∧ t.sram = s.sram ∧ t.pending = s.pending ∧
        (∀ k < pmcCount die i, t.chip.pmcVal (regAddr die (0x60 + i) 0) k = 0 ∧
          t.chip.reg (regAddr die (0x60 + i) (0x400 + 4 * k)) = s.chip.reg (regAddr die (0x60 + i) (0x400 + 4 * k))))) ∧
  (∀ (die i : Nat) (k : Fin 128) (page : Word) (s : State), pageOf die (0x60 + i) = some (.pmc, i) →
    page.toNat = regAddr die (0x60 + i) 0 → k.val < pmcCount die i → s.chip.isOn die (0x60 + i) = true →
    s.chip.regBit (regAddr die (0x60 + i) (0x400 + 4 * k.val)) 0 = true →
    s.chip.pmcVal (regAddr die (0x60 + i) 0) k.val = 2 ^ 48 - 1 →
    (s.chip.pmcChained (regAddr die (0x60 + i) 0) k.val = false →
      exec (.pmcWrap page k) s = .next (withChip s (s.chip.pmcCount (regAddr die (0x60 + i) 0) k.val))) ∧
    (s.chip.pmcChained (regAddr die (0x60 + i) 0) k.val = true → exec (.pmcWrap page k) s = .next s)) ∧
  (∀ (die i k : Nat) (c : Chip), pageOf die (0x60 + i) = some (.pmc, i) → k < pmcCount die i → k % 2 = 1 →
    c.pmcVal (regAddr die (0x60 + i) 0) k = 2 ^ 48 - 1 →
    (c.pmcCount (regAddr die (0x60 + i) 0) k).pmcVal (regAddr die (0x60 + i) 0) k = 0 ∧
    (c.pmcCount (regAddr die (0x60 + i) 0) k).regBit (regAddr die (0x60 + i) (0x104 + 4 * (k / 32))) (k % 32) = true ∧
    (c.pmcCount (regAddr die (0x60 + i) 0) k).regBit (regAddr die (0x60 + i) 0x18) 0 = true) ∧
  (∀ (die i k : Nat) (c : Chip), pageOf die (0x60 + i) = some (.pmc, i) → k < pmcCount die i →
    c.pmcVal (regAddr die (0x60 + i) 0) k < 2 ^ 48 - 1 →
    (c.pmcCount (regAddr die (0x60 + i) 0) k).pmcVal (regAddr die (0x60 + i) 0) k =
      c.pmcVal (regAddr die (0x60 + i) 0) k + 1) ∧
  (∀ (die i k : Nat) (f : Chip → Chip) (c : Chip), pageOf die (0x60 + i) = some (.pmc, i) → k < pmcCount die i →
    c.levelAt (regAddr die (0x60 + i) 0) k = none → (f c).regBit (regAddr die (0x60 + i) (0x400 + 4 * k)) 0 = false →
    c.pmcRewrite (regAddr die (0x60 + i) 0) k f = f c) ∧
  (∀ (die i k t tm n0 ns : Nat) (whole : Bool) (c : Chip), pageOf die (0x60 + i) = some (.pmc, i) → k < pmcCount die i →
    c.levelAt (regAddr die (0x60 + i) 0) k = some t → SMap.getD c.tele.clk (32 * die + i) (0, 0) = (tm, n0) → t ≤ n0 → tm < c.now →
    ns = c.now - tm →
    c.pmcVal (regAddr die (0x60 + i) 0) k + (n0 - t + cyclesMax die i ns) < 2 ^ 48 →
    ∃ n, n ≤ n0 - t + cyclesMax die i ns ∧ (whole = true → n0 - t + cyclesMin die i ns ≤ n) ∧
      (c.levelAdd (regAddr die (0x60 + i) 0) k whole).pmcVal (regAddr die (0x60 + i) 0) k =
        c.pmcVal (regAddr die (0x60 + i) 0) k + n ∧
      (c.levelAdd (regAddr die (0x60 + i) 0) k whole).levelAt (regAddr die (0x60 + i) 0) k = none) ∧
  (∀ (die i k k' t tm n0 ns : Nat) (c d : Chip), pageOf die (0x60 + i) = some (.pmc, i) → k < pmcCount die i →
    k' < pmcCount die i → k ≠ k' → c.levelAt (regAddr die (0x60 + i) 0) k = some t →
    c.levelAt (regAddr die (0x60 + i) 0) k' = some t → SMap.getD c.tele.clk (32 * die + i) (0, 0) = (tm, n0) → t ≤ n0 →
    ns = c.now - tm → d = c.levelAdd (regAddr die (0x60 + i) 0) k true →
    c.pmcVal (regAddr die (0x60 + i) 0) k + (n0 - t + cyclesMax die i ns) < 2 ^ 48 →
    c.pmcVal (regAddr die (0x60 + i) 0) k' + (n0 - t + cyclesMax die i ns) < 2 ^ 48 →
    (d.levelAdd (regAddr die (0x60 + i) 0) k' true).pmcVal (regAddr die (0x60 + i) 0) k' + c.pmcVal (regAddr die (0x60 + i) 0) k =
      d.pmcVal (regAddr die (0x60 + i) 0) k + c.pmcVal (regAddr die (0x60 + i) 0) k') ∧
  (∀ (die i code : Nat) (qual sub : Option Nat) (was now_ : List Nat) (c : Chip), c.isOn die (0x60 + i) = false →
    c.pmc die i code qual sub = c ∧ c.pmcEdgeOf die i code sub was now_ = c)

/-- Dumps (R461 to R465): a tick copies the counters of the selected pages and makes one record, or is missed and counted
while the last one is not written; a written record stands at WR in the ring, in SRAM, WR and SEQ advance, and a full ring
loses its oldest; RD takes values below the number of slots. WR counts slots modulo their number, and a page that is not ON
keeps its last copy, by the model's choice (log entry 35). Completes DUMP_CAPTURE, DUMP_RECORD_WRITTEN and
DMP_RING_RD_WRITE. -/
def Obligations.Dumps : Prop :=
  (∀ (c : Chip) (s : State), s.chip.isOn 24 0x4B = true → s.chip.regBit (dmp 0x100) 0 = true → s.chip.tele.dumpRec = none →
    c = s.chip.tick 5 (1000 * fld (s.chip.reg (dmp 0x104)) 19 0) →
    ∃ t r, exec .dumpCapture s = .next t ∧ t.sram = s.sram ∧ t.pending = s.pending ∧ t.chip.tele.dumpRec = some r ∧
      t.chip.tele.dumpSkipped = 0 ∧ t.chip.tele.dumpFirst = false ∧
      r = (c.each c.dumpPages (fun c d => c.snap d.1 d.2)).dumpRecord (c.time.ft /
        max (1000 * fld (s.chip.reg (dmp 0x104)) 19 0) 1 * (1000 * fld (s.chip.reg (dmp 0x104)) 19 0)) ∧
      t.chip.regs = (c.each c.dumpPages (fun c d => c.snap d.1 d.2)).regs ∧ t.chip.ports = s.chip.ports) ∧
  (∀ (s : State), s.chip.isOn 24 0x4B = true → s.chip.regBit (dmp 0x100) 0 = true → s.chip.tele.dumpRec.isSome = true →
    exec .dumpCapture s = .next (withChip s
      (((s.chip.tick 5 (1000 * fld (s.chip.reg (dmp 0x104)) 19 0)).bump (dmp 0x144) 1).onTele
        (fun t => { t with dumpSkipped := t.dumpSkipped + 1 })))) ∧
  (∀ (r : List Byte) (n wr rd : Nat) (s : State), s.chip.tele.dumpRec = some r → n = max s.chip.dumpSlots 1 →
    wr = s.chip.reg (dmp 0x118) % n → rd = s.chip.reg (dmp 0x11C) → s.chip.regBit (dmp 0x100) 1 = false →
    s.chip.isOn 24 0x64 = false →
    ∃ t, exec .dumpRecordWritten s = .next t ∧ t.pending = s.pending ∧
      t.sram = s.sram.putAll (s.chip.reg (dmp 0x10C) + wr * s.chip.recordLen) r ∧ t.chip.tele.dumpRec = none ∧
      t.chip.reg (dmp 0x118) = (wr + 1) % n % 2 ^ 32 ∧ t.chip.reg (dmp 0x140) = (s.chip.reg (dmp 0x140) + 1) % 2 ^ 32 ∧
      t.chip.reg (dmp 0x11C) = (if (wr + 1) % n = rd % n then (rd + 1) % n % 2 ^ 32 else rd) ∧
      t.chip.reg (dmp 0x148) = (if (wr + 1) % n = rd % n then min (s.chip.reg (dmp 0x148) + 1) 0xFFFFFFFF
        else s.chip.reg (dmp 0x148)) ∧
      t.chip.ports = s.chip.ports ∧ t.chip.c0Out = s.chip.c0Out) ∧
  (∀ (dom : Dom) (val : Word) (s : State), MayWrite s.chip dom 24 0x4B 0x11C val.toNat →
    (val.toNat < s.chip.dumpSlots →
      exec (.dmpRingRdWrite dom val) s = .next (withChip s (s.chip.setReg (dmp 0x11C) val.toNat))) ∧
    (s.chip.dumpSlots ≤ val.toNat →
      exec (.dmpRingRdWrite dom val) s = .next (withChip s
        (s.chip.recordErr (dmp 0) 1 0x11C val.toNat (dom == .fabric))))) ∧
  (∀ (c : Chip), (∀ d ∈ c.dumpPages, d ∈ pmcPages) ∧ c.recordLen = 64 + 8 * (c.dumpPages.map (fun p => counters p.1 p.2)).sum ∧
    ∀ tick, (c.dumpRecord tick).length = c.recordLen)

/-- Lint (R467 to R472): the packet a tap chose starts its record, or is dropped with four in progress; a record whose tail
has passed enters the queue of 64, or is dropped; C0 writes the oldest record of a quadrant into the ring, or drops it when
it does not fit; a batch leaves as one LINT with its records' bytes, no earlier than the records before it allow, and is
counted and lost while owned effects are suppressed. Where a record stands in the ring, and that a batch's records leave the
ring with it, is the model's reading (log entry 33). Completes LINT_TAKE, LINT_RECORD_COMPLETE, LINT_RING_WRITE and
LINT_BATCH_SEND. -/
def Obligations.Lint : Prop :=
  (∀ (q : Fin 4) (t : Nat) (r : LintRec) (rest : List LintRec) (s : State), t < 32 → (s.chip.tap q.val t).due = r :: rest →
    s.chip.isOn q.val 0x49 = true → s.chip.isOn q.val 0x72 = false →
    (4 ≤ (s.chip.tap q.val t).busy.length →
      ∃ u, exec (.lintTake q t) s = .next u ∧ u.sram = s.sram ∧ u.pending = s.pending ∧ (u.chip.tap q.val t).due = rest ∧
        (u.chip.tap q.val t).busy = (s.chip.tap q.val t).busy ∧ u.chip.tele.dropped = s.chip.tele.dropped + 1 ∧
        u.chip.reg (lnt q.val 0x300) = min (s.chip.reg (lnt q.val 0x300) + 1) 0xFFFFFFFF) ∧
    ((s.chip.tap q.val t).busy.length < 4 →
      ∃ u, exec (.lintTake q t) s = .next u ∧ u.sram = s.sram ∧ u.pending = s.pending ∧ (u.chip.tap q.val t).due = rest ∧
        (u.chip.tap q.val t).busy = (s.chip.tap q.val t).busy ++ [r] ∧
        u.chip.reg (lnt q.val (0x280 + 4 * t)) = min (s.chip.reg (lnt q.val (0x280 + 4 * t)) + 1) 0xFFFFFFFF ∧
        u.chip.tele.dropped = s.chip.tele.dropped)) ∧
  (∀ (q : Fin 4) (t : Nat) (r : LintRec) (s : State), t < 32 → (s.chip.tap q.val t).busy.find? (fun r => r.done) = some r →
    s.chip.works q.val 0x49 = true →
    exec (.lintRecordComplete q t) s = .next (withChip s
      ((s.chip.onTap q.val t (fun x => { x with busy := x.busy.erase r })).lintQueue q.val
        (lintRecord q.val t r.copy.isSome r false)))) ∧
  (∀ (q : Nat) (b : List Byte) (c : Chip), (c.tele.lintQ.filter (fun x => x.1 == q)).length < 64 →
    c.lintQueue q b = c.onTele (fun t => { t with lintQ := t.lintQ ++ [(q, b)] })) ∧
  (∀ (q : Fin 4) (x : Nat × List Byte) (s : State), s.chip.tele.lintQ.find? (fun x => x.1 == q.val) = some x →
    s.chip.isOn 24 0x49 = true → s.chip.rst.c0Up = true →
    (s.chip.ringUsed + x.2.length ≤ s.chip.reg (lntC 0x114) →
      ∃ t, exec (.lintRingWrite q) s = .next t ∧ t.pending = s.pending ∧ t.chip.tele.lintQ = s.chip.tele.lintQ.erase x ∧
        t.chip.tele.ring = s.chip.tele.ring ++ [(s.chip.tele.ringWr, x.2.length, s.chip.now)] ∧
        t.sram = s.chip.lintPut s.sram s.chip.tele.ringWr x.2 ∧ t.chip.regs = s.chip.regs) ∧
    (s.chip.reg (lntC 0x114) < s.chip.ringUsed + x.2.length →
      ∃ t, exec (.lintRingWrite q) s = .next t ∧ t.pending = s.pending ∧ t.sram = s.sram ∧
        t.chip.tele.lintQ = s.chip.tele.lintQ.erase x ∧ t.chip.tele.ring = s.chip.tele.ring ∧
        t.chip.tele.dropped = s.chip.tele.dropped + 1)) ∧
  (∀ (r0 : Nat × Nat × Nat) (rs : List (Nat × Nat × Nat)) (b : List (Nat × Nat × Nat)) (s : State),
    s.chip.tele.ring = r0 :: rs → s.chip.isOn 24 0x49 = true → s.chip.rst.c0Up = true → s.chip.regBit (lntC 0x100) 0 = true →
    fld (s.chip.reg (lntC 0x104)) 15 0 ≠ 0xFFFF → b = batchOf 8176 s.chip.tele.ring →
    (s.chip.suppressed = true →
      ∃ t, exec .lintBatchSend s = .next t ∧ t.pending = s.pending ∧ t.sram = s.sram ∧
        t.chip.tele.ring = s.chip.tele.ring.drop b.length ∧ t.chip.c0Out = s.chip.c0Out ∧
        t.chip.reg (lntC 0x138) = min (s.chip.reg (lntC 0x138) + b.length) 0xFFFFFFFF) ∧
    (s.chip.suppressed = false → s.chip.isOn 24 0x64 = false →
      ∃ t o, exec .lintBatchSend s = .next t ∧ t.pending = s.pending ∧ t.sram = s.sram ∧
        t.chip.tele.ring = s.chip.tele.ring.drop b.length ∧ t.chip.tele.dropped = 0 ∧ t.chip.c0Out = s.chip.c0Out ++ [o] ∧
        s.chip.tele.batchAt ≤ t.chip.now ∧ t.chip.tele.batchAt = t.chip.now + 500 * b.length ∧
        o.hdr.op = 0x18 ∧ o.hdr.dest = fld (s.chip.reg (lntC 0x104)) 15 0 ∧
        t.chip.reg (lntC 0x130) = min (s.chip.reg (lntC 0x130) + b.length) 0xFFFFFFFF))

/-- The check-value engine (R473, R475 to R484): START loads STATE from INIT and FOLD joins the seed, in that order; a feed
takes its bytes from low to high, or from high to low with SWAP; STATE is written as it stands; a read of a low half gives
STATE or RESULT and latches the high half, which the next read of it returns; the low half of POLY, INIT or XOROUT waits for
its high half, and the pair is taken whole, or refused with cause 1 where it sets a bit at or above WIDTH or POLY is even;
CFG is refused with cause 1 for a WIDTH outside 8 to 64, a SEED_SHIFT of WIDTH or more and a WIDTH that cuts a setting;
channels 29 to 31 refuse every write with cause 2. That STATE and the settings are written while the page is not ON too is
DEDUCED (log entry 58); what channels 29 to 31 read as is log entry 26. Completes CVE_START, CVE_FOLD, CVE_FEED_B,
CVE_FEED_H, CVE_FEED_W, CVE_STATE_WRITE, CVE_STATE_READ and CVE_SETTING_WRITE. -/
def Obligations.CheckValues : Prop :=
  (∀ (dom : Dom) (k : Fin 32) (fold : Bool) (s : State), k.val < 29 → s.chip.isOn 24 0x4C = true →
    MayWrite s.chip dom 24 0x4C (0x12C + 0x40 * k.val) (1 + 2 * b2n fold) →
    exec (.cveStart dom k fold) s = .next (withChip s (s.chip.setCveState k.val
      (if fold then (s.chip.cveOf k.val).fold (s.chip.cveOf k.val).start else (s.chip.cveOf k.val).start)))) ∧
  (∀ (dom : Dom) (k : Fin 32) (s : State), k.val < 29 → s.chip.isOn 24 0x4C = true →
    MayWrite s.chip dom 24 0x4C (0x12C + 0x40 * k.val) 2 →
    exec (.cveFold dom k) s = .next (withChip s (s.chip.setCveState k.val
      ((s.chip.cveOf k.val).fold (s.chip.cveState k.val))))) ∧
  (∀ (dom : Dom) (k : Fin 32) (val : Word) (s : State), k.val < 29 → s.chip.isOn 24 0x4C = true →
    MayWrite s.chip dom 24 0x4C (0x120 + 0x40 * k.val) val.toNat → val.toNat < 256 →
    exec (.cveFeedB dom k val) s = .next (withChip s (s.chip.setCveState k.val
      ((s.chip.cveOf k.val).feedByte (s.chip.cveState k.val) val.toNat)))) ∧
  (∀ (dom : Dom) (k : Fin 32) (val : Word) (s : State), k.val < 29 → s.chip.isOn 24 0x4C = true →
    MayWrite s.chip dom 24 0x4C (0x124 + 0x40 * k.val) val.toNat → val.toNat < 65536 →
    (s.chip.cveOf k.val).swap = false →
    exec (.cveFeedH dom k val) s = .next (withChip s (s.chip.setCveState k.val
      ((s.chip.cveOf k.val).feedByte ((s.chip.cveOf k.val).feedByte (s.chip.cveState k.val) (val.toNat % 256))
        (val.toNat / 256))))) ∧
  (∀ (dom : Dom) (k : Fin 32) (val : Word) (s : State), k.val < 29 → s.chip.isOn 24 0x4C = true →
    MayWrite s.chip dom 24 0x4C (0x124 + 0x40 * k.val) val.toNat → val.toNat < 65536 →
    (s.chip.cveOf k.val).swap = true →
    exec (.cveFeedH dom k val) s = .next (withChip s (s.chip.setCveState k.val
      ((s.chip.cveOf k.val).feedByte ((s.chip.cveOf k.val).feedByte (s.chip.cveState k.val) (val.toNat / 256))
        (val.toNat % 256))))) ∧
  (∀ (k : Cve) (s : Nat), k.start = (if k.refin then reflect k.width k.init else k.init) ∧
    k.fold s = s ^^^ (k.seed * 2 ^ k.shift % 2 ^ k.width)) ∧
  (∀ (dom : Dom) (k : Fin 32) (val : Word) (s : State), k.val < 29 → s.chip.isOn 24 0x4C = true →
    MayWrite s.chip dom 24 0x4C (0x128 + 0x40 * k.val) val.toNat →
    exec (.cveFeedW dom k val) s = .next (withChip s (s.chip.setCveState k.val
      ((((s.chip.cveOf k.val).feedOrder 4 val.toNat).foldl (s.chip.cveOf k.val).feedByte (s.chip.cveState k.val)))))) ∧
  (∀ (k : Cve) (v : Nat), k.feedOrder 4 v =
    (if k.swap then [fld v 31 24, fld v 23 16, fld v 15 8, fld v 7 0]
      else [fld v 7 0, fld v 15 8, fld v 23 16, fld v 31 24])) ∧
  (∀ (dom : Dom) (k : Fin 32) (hi : Bool) (val : Word) (s : State), k.val < 29 →
    MayWrite s.chip dom 24 0x4C (0x100 + 0x40 * k.val + (if hi then 0x34 else 0x30)) val.toNat →
    exec (.cveStateWrite dom k hi val) s = .next (withChip s (s.chip.setReg (cve k.val (if hi then 0x34 else 0x30))
      val.toNat))) ∧
  (∀ (dom : Dom) (k : Fin 32) (s : State), s.chip.mayManage dom = true →
    (s.chip.allowed dom (cve k.val 0x38) none = true →
      ∃ t, exec (.cveStateRead dom k 0x38) s = .next t ∧ t.sram = s.sram ∧ t.pending = s.pending ∧
        t.chip.out = .read dom (cve k.val 0x38)
          (BitVec.ofNat 32 ((s.chip.cveOf k.val).result (s.chip.cveState k.val))) :: s.chip.out ∧
        t.chip.regs = s.chip.regs ∧ SMap.getD t.chip.latch (latchKey dom (cve k.val 0x38)) 0 =
          BitVec.ofNat 32 ((s.chip.cveOf k.val).result (s.chip.cveState k.val) / 2 ^ 32)) ∧
    (s.chip.allowed dom (cve k.val 0x30) none = true →
      ∃ t, exec (.cveStateRead dom k 0x30) s = .next t ∧ t.sram = s.sram ∧ t.pending = s.pending ∧
        t.chip.out = .read dom (cve k.val 0x30) (BitVec.ofNat 32 (s.chip.cveState k.val)) :: s.chip.out ∧
        t.chip.regs = s.chip.regs ∧ SMap.getD t.chip.latch (latchKey dom (cve k.val 0x30)) 0 =
          BitVec.ofNat 32 (s.chip.cveState k.val / 2 ^ 32)) ∧
    ∀ (off : BitVec 12), off = 0x34 ∨ off = 0x3C → s.chip.allowed dom (cve k.val off.toNat) none = true →
      exec (.cveStateRead dom k off) s = .next (withChip s (s.chip.emit (.read dom (cve k.val off.toNat)
        (SMap.getD s.chip.latch (latchKey dom (cve k.val (off.toNat - 4))) 0))))) ∧
  (∀ (dom : Dom) (k : Fin 32) (val : Word) (s : State), k.val < 29 → MayWrite s.chip dom 24 0x4C (0x118 + 0x40 * k.val) val.toNat →
    val.toNat &&& 0x003F077F = val.toNat → 8 ≤ fld val.toNat 6 0 → fld val.toNat 6 0 ≤ 64 →
    fld val.toNat 21 16 < fld val.toNat 6 0 → (s.chip.cveOf k.val).poly < 2 ^ fld val.toNat 6 0 →
    (s.chip.cveOf k.val).init < 2 ^ fld val.toNat 6 0 → (s.chip.cveOf k.val).xorout < 2 ^ fld val.toNat 6 0 →
    exec (.cveSettingWrite dom k 0x18 val) s = .next (withChip s (s.chip.setReg (cve k.val 0x18) val.toNat))) ∧
  (∀ (dom : Dom) (k : Fin 32) (val : Word) (s : State), k.val < 29 → MayWrite s.chip dom 24 0x4C (0x118 + 0x40 * k.val) val.toNat →
    val.toNat &&& 0x003F077F = val.toNat →
    fld val.toNat 6 0 < 8 ∨ 64 < fld val.toNat 6 0 ∨ fld val.toNat 6 0 ≤ fld val.toNat 21 16 ∨
      2 ^ fld val.toNat 6 0 ≤ (s.chip.cveOf k.val).poly ∨ 2 ^ fld val.toNat 6 0 ≤ (s.chip.cveOf k.val).init ∨
      2 ^ fld val.toNat 6 0 ≤ (s.chip.cveOf k.val).xorout →
    exec (.cveSettingWrite dom k 0x18 val) s = .next (withChip s
      (s.chip.recordErr (regAddr 24 0x4C 0) 1 (0x118 + 0x40 * k.val) val.toNat (dom == .fabric)))) ∧
  (∀ (dom : Dom) (k : Fin 32) (val : Word) (s : State), k.val < 29 → MayWrite s.chip dom 24 0x4C (0x11C + 0x40 * k.val) val.toNat →
    exec (.cveSettingWrite dom k 0x1C val) s = .next (withChip s (s.chip.setReg (cve k.val 0x1C) val.toNat))) ∧
  (∀ (dom : Dom) (k : Fin 32) (off : BitVec 12) (val : Word) (s : State), k.val < 29 → off = 0 ∨ off = 8 ∨ off = 0x10 →
    MayWrite s.chip dom 24 0x4C (0x100 + 0x40 * k.val + off.toNat) val.toNat →
    exec (.cveSettingWrite dom k off val) s = .next (withChip s (s.chip.setReg (lowHalf (cve k.val off.toNat)) val.toNat))) ∧
  (∀ (dom : Dom) (k : Fin 32) (off : BitVec 12) (val : Word) (lo : Nat) (s : State), k.val < 29 → off = 0 ∨ off = 8 ∨ off = 0x10 →
    MayWrite s.chip dom 24 0x4C (0x104 + 0x40 * k.val + off.toNat) val.toNat →
    lo = ((SMap.get? s.chip.regs (lowHalf (cve k.val off.toNat))).map (fun w => w.toNat)).getD (s.chip.reg (cve k.val off.toNat)) →
    (lo + 2 ^ 32 * val.toNat < 2 ^ (s.chip.cveOf k.val).width → (off = 0 → lo % 2 = 1) →
      ∃ t, exec (.cveSettingWrite dom k (off + 4) val) s = .next t ∧ t.sram = s.sram ∧ t.pending = s.pending ∧
        t.chip.regs = SMap.del ((s.chip.setReg (cve k.val off.toNat) lo).setReg (cve k.val off.toNat + 4) val.toNat).regs
          (lowHalf (cve k.val off.toNat)) ∧
        t.chip = { s.chip with regs := t.chip.regs }) ∧
    (2 ^ (s.chip.cveOf k.val).width ≤ lo + 2 ^ 32 * val.toNat ∨ (off = 0 ∧ lo % 2 = 0) →
      exec (.cveSettingWrite dom k (off + 4) val) s = .next (withChip s (s.chip.recordErr (regAddr 24 0x4C 0) 1
        (0x104 + 0x40 * k.val + off.toNat) val.toNat (dom == .fabric))))) ∧
  (∀ (dom : Dom) (k : Fin 32) (hi fold : Bool) (off : BitVec 12) (val : Word) (o v : Nat) (i : Instr) (s : State), 29 ≤ k.val →
    (off.toNat ≤ 0x1C ∧ off.toNat % 4 = 0 ∧ (off = 0x18 → val.toNat &&& 0x003F077F = val.toNat) ∧
        i = .cveSettingWrite dom k off val ∧ o = off.toNat ∧ v = val.toNat) ∨
      (val.toNat < 256 ∧ i = .cveFeedB dom k val ∧ o = 0x20 ∧ v = val.toNat) ∨
      (val.toNat < 65536 ∧ i = .cveFeedH dom k val ∧ o = 0x24 ∧ v = val.toNat) ∨
      (i = .cveFeedW dom k val ∧ o = 0x28 ∧ v = val.toNat) ∨
      (i = .cveStart dom k fold ∧ o = 0x2C ∧ v = 1 + 2 * b2n fold) ∨
      (i = .cveFold dom k ∧ o = 0x2C ∧ v = 2) ∨
      (i = .cveStateWrite dom k hi val ∧ o = (if hi then 0x34 else 0x30) ∧ v = val.toNat) →
    MayWrite s.chip dom 24 0x4C (0x100 + 0x40 * k.val + o) v →
    exec i s = .next (withChip s (s.chip.recordErr (regAddr 24 0x4C 0) 2 (0x100 + 0x40 * k.val + o) v (dom == .fabric))))

/-- STATE keeps to its WIDTH (R475): a byte is taken into STATE by the function that the rule gives, written here over words
of 64 bits as the rule writes it; whatever byte is fed, a STATE below 2 to the WIDTH stays so; reversing the low bits of a
number gives a number of as many bits, and twice gives the number back. -/
def Obligations.CheckValuesKeepTheirWidth : Prop :=
  (∀ (k : Cve) (s b : Nat) (top mask : BitVec 64), 0 < k.width → k.width ≤ 64 → k.poly < 2 ^ k.width → s < 2 ^ k.width → b < 256 →
    top = 1#64 <<< (k.width - 1) → mask = top ||| (top - 1#64) →
    k.feedByte s b = ((List.range 8).foldl (fun (st : BitVec 64) i =>
      if k.refin = true then
        (if (st ^^^ (BitVec.ofNat 64 b >>> i)) &&& 1#64 = 1#64 then (st >>> 1) ^^^ BitVec.ofNat 64 (reflect k.width k.poly) else st >>> 1)
      else
        (if (st &&& top ≠ 0#64) = ((BitVec.ofNat 64 b >>> (7 - i)) &&& 1#64 = 1#64) then (st <<< 1) &&& mask
         else ((st <<< 1) &&& mask) ^^^ BitVec.ofNat 64 k.poly)) (BitVec.ofNat 64 s)).toNat) ∧
  reflect 32 0x1EDC6F41 = 0x82F63B78 ∧
  (∀ (k : Cve) (s b : Nat), 0 < k.width → k.poly < 2 ^ k.width → s < 2 ^ k.width → k.feedByte s b < 2 ^ k.width) ∧
  (∀ (w x : Nat), reflect w x < 2 ^ w) ∧
  (∀ (w x : Nat), x < 2 ^ w → reflect w (reflect w x) = x)

/-- The thread (R491 to R496, R515): light passes a part by while its bypass is engaged; a frame with a bad FCS, a reserved
KIND or LEN above 8,192 is counted and discarded; a good one past 63 hops, or the part's own, is counted and stripped; an
ENUM takes its address and goes on with the part's record, or gives none above 0x3E; one for the part is taken, the
broadcast is taken and sent on, and any other is sent on with its hop count raised; HELLO goes out without an address, and
EVENT frames of up to 64 entries with one. That a frame of another size than 12 + LEN is a bad one and that a number's low
byte comes first (log entry 27), and that a frame sets RX_LOCK (log entry 42), are the model's. Completes
THREAD_FRAME_RECEIVE, HELLO_SEND and EVENT_FRAME_SEND. -/
def Obligations.ThreadFrames : Prop :=
  (∀ (l : List Byte) (s : State), s.chip.threadOn = false → exec (.threadFrameReceive l) s = .next s) ∧
  (∀ (l : List Byte) (s : State), s.chip.threadOn = true →
    (8192 < leAt l 4 2 ∨ byteAt l 2 = 0 ∨ 5 < byteAt l 2 ∨ l.length ≠ 12 + leAt l 4 2 ∨
      leAt l (8 + leAt l 4 2) 4 ≠ (crc32 (l.take (8 + leAt l 4 2))).toNat) →
    exec (.threadFrameReceive l) s =
      .next (withChip s ((s.chip.onMgmt (fun m => { m with rxLock := true })).bump (thr 0x110) 1))) ∧
  (∀ (dst src kind hops : Nat) (pay : List Byte) (c : Chip) (s : State), s.chip.threadOn = true → dst < 256 → src < 256 →
    1 ≤ kind → kind ≤ 5 → hops < 256 → pay.length ≤ 8192 →
    c = (s.chip.onMgmt (fun m => { m with rxLock := true })).bump (thr 0x108) 1 →
    (63 ≤ hops → exec (.threadFrameReceive (threadFrame dst src kind hops pay)) s =
      .next (withChip s (c.bump (thr 0x114) 1))) ∧
    (hops < 63 → s.chip.mgmt.addr = some src → exec (.threadFrameReceive (threadFrame dst src kind hops pay)) s =
      .next (withChip s (c.bump (thr 0x118) 1))) ∧
    (hops < 63 → s.chip.mgmt.addr ≠ some src → kind ≠ 1 → s.chip.mgmt.addr = some dst →
      exec (.threadFrameReceive (threadFrame dst src kind hops pay)) s = .next (withChip s (c.threadTake src kind pay))) ∧
    (hops < 63 → s.chip.mgmt.addr ≠ some src → kind ≠ 1 → s.chip.mgmt.addr ≠ some dst → dst = 0x3F →
      exec (.threadFrameReceive (threadFrame dst src kind hops pay)) s =
        .next (withChip s ((c.threadTake src kind pay).threadSend dst src kind (hops + 1) pay))) ∧
    (hops < 63 → s.chip.mgmt.addr ≠ some src → kind ≠ 1 → s.chip.mgmt.addr ≠ some dst → dst ≠ 0x3F →
      exec (.threadFrameReceive (threadFrame dst src kind hops pay)) s =
        .next (withChip s (c.threadSend dst src kind (hops + 1) pay)))) ∧
  (∀ (next flags count hops : Nat) (recs : List Byte) (c : Chip) (s : State), s.chip.threadOn = true → next < 256 → flags < 2 →
    count < 65536 → hops < 63 → recs.length ≤ 8188 → s.chip.mgmt.addr ≠ some 0 →
    c = (s.chip.onMgmt (fun m => { m with rxLock := true })).bump (thr 0x108) 1 →
    (next ≤ 0x3E → (flags = 1 ∨ s.chip.mgmt.addr = none) →
      exec (.threadFrameReceive (threadFrame 0x3F 0 1 hops (leBytes 1 next ++ leBytes 1 flags ++ leBytes 2 count ++ recs))) s =
        .next (withChip s ((c.onMgmt (fun m => { m with addr := some next })).threadSend 0x3F 0 1 (hops + 1)
          (leBytes 1 (next + 1) ++ leBytes 1 flags ++ leBytes 2 (count + 1) ++ recs ++ c.enumRecord next)))) ∧
    (∀ a, flags = 0 → s.chip.mgmt.addr = some a →
      exec (.threadFrameReceive (threadFrame 0x3F 0 1 hops (leBytes 1 next ++ leBytes 1 flags ++ leBytes 2 count ++ recs))) s =
        .next (withChip s (c.threadSend 0x3F 0 1 (hops + 1)
          (leBytes 1 next ++ leBytes 1 flags ++ leBytes 2 (count + 1) ++ recs ++ c.enumRecord a)))) ∧
    (0x3E < next → (flags = 1 ∨ s.chip.mgmt.addr = none) →
      exec (.threadFrameReceive (threadFrame 0x3F 0 1 hops (leBytes 1 next ++ leBytes 1 flags ++ leBytes 2 count ++ recs))) s =
        .next (withChip s ((c.onMgmt (fun m => { m with addr := none })).threadSend 0x3F 0 1 (hops + 1)
          (leBytes 1 next ++ leBytes 1 flags ++ leBytes 2 (count + 1) ++ recs ++ c.enumRecord 0xFE))))) ∧
  (∀ (c : Chip) (s : State), s.chip.threadOn = true → s.chip.mgmt.addr = none → c = s.chip.till s.chip.mgmt.helloAt →
    exec .helloSend s = .next (withChip s
      ((c.threadSend 0 0xFE 2 0 (c.enumRecord 0xFE)).onMgmt (fun m => { m with helloAt := c.now + 1000000 })))) ∧
  (∀ (a : Nat) (q : List EvEnt) (s : State), s.chip.threadOn = true → s.chip.mgmt.addr = some a →
    s.chip.regBit (thr 0x100) 0 = true → s.chip.mgmt.evq.getD 0 [] = q → q ≠ [] →
    exec .eventFrameSend s = .next (withChip s
      ((s.chip.onMgmt (fun m => { m with evq := m.evq.set 0 (q.drop 64), evLost := m.evLost.set 0 0, evAt := s.chip.now })).threadSend
        0 a 5 0 (leBytes 4 (min (s.chip.mgmt.evLost.getD 0 0) 0xFFFFFFFF) ++ leBytes 2 (min 64 q.length) ++ leBytes 2 0 ++
          (q.take 64).flatMap EvEnt.bytes))))

/-- Requests (R499, R501, R503, R506 to R509): a request that C0 takes from the thread belongs to the owner; a payload that
is not in the format is answered MALFORMED, a response that would be too long TOO_LONG, a full ring BUSY and counted, a
stored TAG with the stored response, one still running not at all, and any other request is queued. The requests of a ring
start in order, and one with PASS may start while every one before it waits (log entry 107); a command in progress has a
number of its own, under which it completes; with STOP, one that is not OK skips the rest; what no row can be completes with
BAD_ARG in its turn. An in-band request is discarded before firmware runs and, in twin mode, by the side that it does not
select; any other belongs to the domain of its SRC. SIDE_SEL 1, reserved, makes an in-band request in twin mode MALFORMED by
the model's choice (log entry 28). The first request whose commands have all completed is answered, and its response kept
when it has a TAG; one whose command started a PART reset is not answered (R560). Completes MGMT_REQUEST and MGMT_RESPONSE.
-/
def Obligations.RequestsAndResponses : Prop :=
  (∀ (x : Nat × Arr) (s : State), s.chip.c0In.find? (fun x => !beatRequest x.2) = some x → s.chip.rst.c0Up = true →
    x.2.hdr.op = 6 → x.2.port = 1025 →
    exec .mgmtRequest s = .next (withChip s
      (Chip.takeRequest { s.chip with c0In := s.chip.c0In.erase x } .owner (.thread x.2.hdr.src) x.2.payload))) ∧
  (∀ (x : Nat × Arr) (s : State), s.chip.c0In.find? (fun x => !beatRequest x.2) = some x → s.chip.rst.c0Up = true →
    x.2.hdr.op = 6 → x.2.port ≠ 1025 → s.chip.mgmt.fw < 3 →
    exec .mgmtRequest s = .next (withChip s { s.chip with c0In := s.chip.c0In.erase x })) ∧
  (∀ (x : Nat × Arr) (s : State), s.chip.c0In.find? (fun x => !beatRequest x.2) = some x → s.chip.rst.c0Up = true →
    x.2.hdr.op = 6 → x.2.port ≠ 1025 → 3 ≤ s.chip.mgmt.fw → s.chip.twin.role ≠ 0 →
    2 ≤ fld (leAt x.2.payload 4 4) 1 0 → fld (leAt x.2.payload 4 4) 1 0 ≠ 2 + s.chip.sideCode →
    exec .mgmtRequest s = .next (withChip s (Chip.bump { s.chip with c0In := s.chip.c0In.erase x } (ctlR 0x130) 1))) ∧
  (∀ (x : Nat × Arr) (s : State), s.chip.c0In.find? (fun x => !beatRequest x.2) = some x → s.chip.rst.c0Up = true →
    x.2.hdr.op = 6 → x.2.port ≠ 1025 → 3 ≤ s.chip.mgmt.fw →
    (s.chip.twin.role = 0 ∨ fld (leAt x.2.payload 4 4) 1 0 < 2 → exec .mgmtRequest s = .next (withChip s
      (Chip.takeRequest { s.chip with c0In := s.chip.c0In.erase x } (s.chip.domainOf x.2.hdr.src)
        (.inband x.2.hdr.src x.2.port x.2.hdr.tc x.2.hdr.label x.2.hdr.seq ((s.chip.port x.2.port).st == .quarantine) false)
        x.2.payload))) ∧
    (s.chip.twin.role ≠ 0 → fld (leAt x.2.payload 4 4) 1 0 = 2 + s.chip.sideCode → exec .mgmtRequest s = .next (withChip s
      (Chip.takeRequest { s.chip with c0In := s.chip.c0In.erase x } (s.chip.domainOf x.2.hdr.src)
        (.inband x.2.hdr.src x.2.port x.2.hdr.tc x.2.hdr.label x.2.hdr.seq ((s.chip.port x.2.port).st == .quarantine) true)
        x.2.payload)))) ∧
  (∀ (src : Nat) (c : Chip), c.domainOf src =
    (if src ≠ 0xFFFF ∧ (fld (c.reg (ctlR 0x104)) 15 0 = src ∨ fld (c.reg (ctlR 0x104)) 31 16 = src) then .owner else .fabric)) ∧
  (∀ (dom : Dom) (who : Requester) (pay : List Byte) (c : Chip),
    (pay.length < 8 ∨ leAt pay 0 2 ≠ 1 ∨ 16 ≤ leAt pay 4 4 ∨ c.sideReserved who (leAt pay 4 4) = true ∨
      parseCmds 33 (pay.drop 8) = none ∨
      (parseCmds 33 (pay.drop 8)).any (fun l => l.isEmpty || decide (32 < l.length)) = true) →
    c.takeRequest dom who pay = c.respond who (c.responseBytes (leAt pay 0 2) (leAt pay 2 2) 2 [])) ∧
  (∀ (dom : Dom) (who : Requester) (pay : List Byte) (cmds : List MCmd) (ctrl tag : Nat) (c : Chip),
    8 ≤ pay.length → leAt pay 0 2 = 1 → tag = leAt pay 2 2 → ctrl = leAt pay 4 4 → ctrl < 16 → c.sideReserved who ctrl = false →
    parseCmds 33 (pay.drop 8) = some cmds → cmds ≠ [] → cmds.length ≤ 32 →
    (∀ x, tag ≠ 0 → (c.mgmt.stored.getD (domIdx dom) []).find? (fun s => s.2.1 == tag && Requester.same s.1 who) = some x →
      c.takeRequest dom who pay = c.respond who x.2.2) ∧
    (∀ r ∈ c.mgmt.reqs.getD (domIdx dom) [], tag ≠ 0 → r.tag = tag → Requester.same r.who who = true →
      (∀ x ∈ c.mgmt.stored.getD (domIdx dom) [], ¬ (x.2.1 = tag ∧ Requester.same x.1 who = true)) → c.takeRequest dom who pay = c) ∧
    ((tag = 0 ∨ ((∀ x ∈ c.mgmt.stored.getD (domIdx dom) [], ¬ (x.2.1 = tag ∧ Requester.same x.1 who = true)) ∧
        ∀ r ∈ c.mgmt.reqs.getD (domIdx dom) [], ¬ (r.tag = tag ∧ Requester.same r.who who = true))) →
      (8184 < (cmds.map (fun m => 8 + 4 * m.results)).sum →
        c.takeRequest dom who pay = c.respond who (c.responseBytes 1 tag 3 [])) ∧
      ((cmds.map (fun m => 8 + 4 * m.results)).sum ≤ 8184 → 4096 < c.cmdsHeld (domIdx dom) + cmds.length →
        c.takeRequest dom who pay =
          ((c.bump (ctlR 0x128) 1).raise (ctlR 0) 8).respond who
            (((c.bump (ctlR 0x128) 1).raise (ctlR 0) 8).responseBytes 1 tag 1 [])) ∧
      ((cmds.map (fun m => 8 + 4 * m.results)).sum ≤ 8184 → c.cmdsHeld (domIdx dom) + cmds.length ≤ 4096 →
        c.takeRequest dom who pay = c.onMgmt (fun m =>
          { m with reqs := upd m.reqs (domIdx dom) (fun l => settleRing true (l ++
              [{ who := who, tag := tag, pass := bit ctrl 2, stop := bit ctrl 3, cmds := cmds, done := [] }])) })))) ∧
  (∀ (first : Bool) (r r1 : Req) (t : List Req), r1 = r.settle 33 →
    (first = false → r.pass = false → settleRing first (r :: t) = r :: settleRing false t) ∧
    (first = true ∨ r.pass = true → r1.next? = none → settleRing first (r :: t) = r1 :: settleRing first t) ∧
    (first = true ∨ r.pass = true → r1.next?.isSome = true → r1.waiting = true →
      settleRing first (r :: t) = r1 :: settleRing false t) ∧
    (first = true ∨ r.pass = true → r1.next?.isSome = true → r1.waiting = false → settleRing first (r :: t) = r1 :: t)) ∧
  (∀ (n : Nat) (r : Req) (m : MCmd), r.next? = some m →
    (m.unknown = true → Req.settle (n + 1) r = Req.settle n (r.take stBadArg m.noWords)) ∧
    (m.unknown = false → Req.settle (n + 1) r = r)) ∧
  (∀ (st : Nat) (ws : List Word) (r : Req) (m : MCmd), r.next? = some m →
    (r.stop = false ∨ st = 0 → r.take st ws = { r with busy := none, done := r.done ++ [(m.code, st, ws)] }) ∧
    (r.stop = true → st ≠ 0 → r.take st ws = { r with
      busy := none,
      done := r.done ++ [(m.code, st, ws)] ++ (r.cmds.drop (r.done.length + 1)).map (fun k => (k.code, stSkipped, k.noWords)) })) ∧
  (∀ (m : MCmd) (first : Bool) (r : Req) (t : List Req),
    (r.next? = none → findReq m first (r :: t) = (findReq m first t).map (fun i => i + 1)) ∧
    (∀ k, r.next? = some k → first = false → r.pass = false →
      findReq m first (r :: t) = (findReq m false t).map (fun i => i + 1)) ∧
    (r.next? = some m → first = true ∨ r.pass = true → r.busy = none → findReq m first (r :: t) = some 0) ∧
    (∀ k, r.next? = some k → first = true ∨ r.pass = true → r.waiting = true →
      findReq m first (r :: t) = (findReq m false t).map (fun i => i + 1)) ∧
    (∀ k, r.next? = some k → first = true ∨ r.pass = true → r.waiting = false → r.busy.isSome = true ∨ k ≠ m →
      findReq m first (r :: t) = none)) ∧
  (∀ (dom : Dom) (m : MCmd) (c : Chip), (c.begin dom m).1 = c.mgmt.seq ∧
    (findReq m true (c.reqsOf dom) = none → (c.begin dom m).2 = c.onMgmt (fun x => { x with seq := x.seq + 1 })) ∧
    (∀ i, findReq m true (c.reqsOf dom) = some i → (c.begin dom m).2 = c.onMgmt (fun x => { x with
      seq := x.seq + 1,
      reqs := upd x.reqs (domIdx dom) (fun rs => settleRing true (upd rs i (fun r => { r with busy := some c.mgmt.seq }))) }))) ∧
  (∀ (n i : Nat) (rs : List Req), findRun n rs = some i → (rs[i]?).any (fun r => r.busy == some n) = true ∧
    (rs.take i).all (fun r => r.busy != some n) = true) ∧
  (∀ (dom : Dom) (r : Req) (s : State), (s.chip.waitsOf (domIdx dom)).evs = [] →
    (s.chip.mgmt.reqs.getD (domIdx dom) []).find? (fun r => r.done.length == r.cmds.length) = some r →
    r.mute = false →
    ∃ m, exec (.mgmtResponse dom) s = .next (withChip s ((s.chip.onMgmt (fun _ => m)).respond r.who
        (s.chip.responseBytes 1 r.tag 0 r.done))) ∧
      m.reqs = s.chip.mgmt.reqs.set (domIdx dom) ((s.chip.mgmt.reqs.getD (domIdx dom) []).erase r) ∧
      (r.tag = 0 → m.stored = s.chip.mgmt.stored) ∧
      (r.tag ≠ 0 → domIdx dom < s.chip.mgmt.stored.length → (m.stored.getD (domIdx dom) []).getLast? =
        some (r.who, r.tag, s.chip.responseBytes 1 r.tag 0 r.done)) ∧
      m.evq = s.chip.mgmt.evq ∧ m.waits = s.chip.mgmt.waits ∧ m.keys = s.chip.mgmt.keys) ∧
  (∀ (dom : Dom) (r : Req) (s : State), (s.chip.waitsOf (domIdx dom)).evs = [] →
    (s.chip.mgmt.reqs.getD (domIdx dom) []).find? (fun r => r.done.length == r.cmds.length) = some r → r.mute = true →
    exec (.mgmtResponse dom) s = .next (withChip s (s.chip.onMgmt (fun m =>
      { m with reqs := m.reqs.set (domIdx dom) ((s.chip.mgmt.reqs.getD (domIdx dom) []).erase r) }))))

/-- READ, WRITE, MODIFY and WAIT (R502, R504, R505, R590, R591): 1 to 64 registers, each with its own status and the first
that is not OK reported; a MODIFY writes (old AND NOT MASK) OR (VALUE AND MASK); a WAIT reads again each microsecond, and
completes on a match or, with TIMEOUT, at its end. A command that stands in its domain's ring starts when its turn has come
(the model's reading, log entry 107), and a read of a queue depth whose word has an uncorrectable error is REFUSED and
counted (R564, R590), as the model reads them (log entry 106); the answer to a command that starts a PART reset is withheld
(R560); WAIT_POLL passes 1,000 ns and puts the poll last, which is the model's choice of the moment (log entry 48).
Completes READ, WRITE, MODIFY, WAIT and WAIT_POLL. -/
def Obligations.RegisterCommands : Prop :=
  (∀ (dom : Dom) (addr : Word) (count : Nat) (s : State), s.chip.mayStart dom { code := 1, addr := addr.toNat, args := [BitVec.ofNat 32 count] } = true → 1 ≤ count → count ≤ 64 →
    badAddr addr.toNat = false → adOff addr.toNat + 4 * (count - 1) ≤ 0xFFC → adDie addr.toNat < 30 →
    ∃ st ws c, s.chip.readWords dom count addr.toNat = (st, ws, c) ∧ ws.length = count ∧
      exec (.read dom addr count) s =
        .next (withChip s (c.finish dom { code := 1, addr := addr.toNat, args := [BitVec.ofNat 32 count] } st ws))) ∧
  (∀ (dom : Dom) (n a : Nat) (c : Chip), c.readWords dom (n + 1) a =
    (let x := c.readWord dom a;
     let r := x.2.2.readWords dom n (a + 4);
     (if x.1 = 0 then r.1 else x.1, BitVec.ofNat 32 x.2.1 :: r.2.1, r.2.2))) ∧
  (∀ (dom : Dom) (addr : Word) (count : Nat) (s : State), s.chip.mayStart dom { code := 1, addr := addr.toNat, args := [BitVec.ofNat 32 count] } = true →
    (count = 0 ∨ 64 < count →
      exec (.read dom addr count) s = .next (withChip s
        (s.chip.finish dom { code := 1, addr := addr.toNat, args := [BitVec.ofNat 32 count] } stBadArg []))) ∧
    (1 ≤ count → count ≤ 64 →
      badAddr addr.toNat = true ∨ 0xFFC < adOff addr.toNat + 4 * (count - 1) ∨ 30 ≤ adDie addr.toNat →
      exec (.read dom addr count) s = .next (withChip s
        (s.chip.finish dom { code := 1, addr := addr.toNat, args := [BitVec.ofNat 32 count] } stBadAddr
          (List.replicate count 0))))) ∧
  (∀ (dom : Dom) (addr : Word) (vals : List Word) (s : State), s.chip.mayStart dom { code := 2, addr := addr.toNat, args := vals } = true → 1 ≤ vals.length → vals.length ≤ 64 →
    badAddr addr.toNat = false → adOff addr.toNat + 4 * (vals.length - 1) ≤ 0xFFC →
    (Chip.muteIf s.chip (s.chip.writeWords dom vals addr.toNat).2 dom
      { code := 2, addr := addr.toNat, args := vals }).rst.c0Up = true →
    exec (.write dom addr vals) s = .next (withChip s
      ((Chip.muteIf s.chip (s.chip.writeWords dom vals addr.toNat).2 dom { code := 2, addr := addr.toNat, args := vals }).finish dom { code := 2, addr := addr.toNat, args := vals }
        (s.chip.writeWords dom vals addr.toNat).1 []))) ∧
  (∀ (dom : Dom) (v : Word) (t : List Word) (a : Nat) (c : Chip), c.rst.c0Up = true → c.writeWords dom (v :: t) a =
    (let x := c.writeWord dom a v.toNat;
     let r := x.2.writeWords dom t (a + 4);
     (if x.1 = 0 then r.1 else x.1, r.2))) ∧
  (∀ (dom : Dom) (addr mask val old new : Word) (c : Chip) (s : State), s.chip.mayStart dom { code := 3, addr := addr.toNat, args := [mask, val] } = true →
    s.chip.readWord dom addr.toNat = (0, old.toNat, c) →
    new = (old &&& ~~~ mask) ||| (val &&& mask) →
    s.chip.allowed dom addr.toNat (some new.toNat) = true → (Chip.muteIf s.chip (c.writeWord dom addr.toNat new.toNat).2 dom
      { code := 3, addr := addr.toNat, args := [mask, val] }).rst.c0Up = true →
    exec (.modify dom addr mask val) s = .next (withChip s
      ((Chip.muteIf s.chip (c.writeWord dom addr.toNat new.toNat).2 dom
          { code := 3, addr := addr.toNat, args := [mask, val] }).finish dom { code := 3, addr := addr.toNat, args := [mask, val] }
        (c.writeWord dom addr.toNat new.toNat).1 [old]))) ∧
  (∀ (dom : Dom) (addr mask val : Word) (st v : Nat) (c : Chip) (s : State), s.chip.mayStart dom { code := 3, addr := addr.toNat, args := [mask, val] } = true →
    s.chip.readWord dom addr.toNat = (st, v, c) → st ≠ 0 →
    exec (.modify dom addr mask val) s = .next (withChip s (c.finish dom { code := 3, addr := addr.toNat, args := [mask, val] } st [0]))) ∧
  (∀ (dom : Dom) (a : Nat) (c : Chip), badAddr a = false → adDie a < 30 → c.allowed dom a none = true →
    c.readWord dom a = (if c.depthError a = 0 then (0, c.readReg dom a)
      else (1, 0, c.countUe (adDie a) 5 (c.depthError a - 1)))) ∧
  (∀ (was c : Chip) (dom : Dom) (m : MCmd), (c.partDue = false ∨ was.partDue = true → Chip.muteIf was c dom m = c) ∧
    (∀ i, c.partDue = true → was.partDue = false → findReq m true (c.mgmt.reqs.getD (domIdx dom) []) = some i →
      Chip.muteIf was c dom m = c.onMgmt (fun x =>
        { x with reqs := upd x.reqs (domIdx dom) (fun l => upd l i (fun r => { r with mute := true })) }))) ∧
  (∀ (dom : Dom) (addr mask val : Word) (timeout : Nat) (s : State), s.chip.mayStart dom { code := 4, addr := addr.toNat, args := [mask, val, BitVec.ofNat 32 timeout] } = true → s.chip.mgmt.fw = 3 →
    1 ≤ timeout → timeout ≤ 1000000 → badAddr addr.toNat = false → adDie addr.toNat < 30 →
    s.chip.allowed dom addr.toNat none = true →
    ∀ b, b = s.chip.begin dom { code := 4, addr := addr.toNat, args := [mask, val, BitVec.ofNat 32 timeout] } →
    exec (.wait dom addr mask val timeout) s = .next (withChip s (b.2.joinPoll dom
      { addr := addr.toNat, mask := mask.toNat, val := val.toNat, time := timeout, start := s.chip.now, last := 0, id := b.1,
        seq := 0 }))) ∧
  (∀ (dom : Dom) (p : Poll) (c : Chip), c.joinPoll dom p = c.onMgmt (fun m => { m with
    seq := m.seq + 1,
    waits := m.waits.set (domIdx dom) { c.waitsOf (domIdx dom) with
      polls := (c.waitsOf (domIdx dom)).polls ++ [{ p with seq := c.mgmt.seq }] } })) ∧
  (∀ (dom : Dom) (addr mask val : Word) (timeout : Nat) (s : State), s.chip.mayStart dom { code := 4, addr := addr.toNat, args := [mask, val, BitVec.ofNat 32 timeout] } = true → s.chip.mgmt.fw ≠ 3 →
    exec (.wait dom addr mask val timeout) s = .next (withChip s (s.chip.finish dom
      { code := 4, addr := addr.toNat, args := [mask, val, BitVec.ofNat 32 timeout] } stNoFw [0]))) ∧
  (∀ (dom : Dom) (p : Poll) (rest : List Poll) (v : Nat) (c : Chip) (s : State), s.chip.mgmt.fw = 3 →
    (s.chip.waitsOf (domIdx dom)).polls = p :: rest → (s.chip.pass 1000).readReg dom p.addr = (v, c) →
    (v &&& p.mask = p.val →
      exec (.waitPoll dom) s = .next (withChip s
        ((c.onWaits (domIdx dom) (fun w => { w with polls := rest })).finishRun dom p.id 4 stOk [BitVec.ofNat 32 v]))) ∧
    (v &&& p.mask ≠ p.val → p.start + 1000 * p.time ≤ c.now →
      exec (.waitPoll dom) s = .next (withChip s
        ((c.onWaits (domIdx dom) (fun w => { w with polls := rest })).finishRun dom p.id 4 stTimeout [BitVec.ofNat 32 v]))) ∧
    (v &&& p.mask ≠ p.val → c.now < p.start + 1000 * p.time →
      exec (.waitPoll dom) s = .next (withChip s
        ((c.onWaits (domIdx dom) (fun w => { w with polls := rest })).joinPoll dom { p with last := v }))))

/-- MEM_READ, MEM_WRITE and TABLE_LOAD (R487, R502, R504, R507, R512, R592): a read of 4 to 8,000 bytes answers the words of
SRAM, those of the regions that the part keeps for itself at free values (the model's choice, log entry 66), and one that
meets a word with an uncorrectable error is REFUSED with words of 0 and counts the error; which words have one is the
model's (log entry 51). A read outside what the domain may read is DENIED; that a read tests its range first and a write its
domain first is the model's (log entry 116). A write reaches staging and the free region (log entry 18), and the image
region while the boot ROM runs, whole or not at all. TABLE_LOAD writes its entries from SRAM, one per TBL_CMD, in stints of
40 by the model's choice (log entry 47): its first stint runs at once, on a core that is free (log entry 48), and it is
answered after the stint in which an entry is refused or the last one written, with the number written, where it stopped,
the RESULT and the die. Completes MEM_READ, MEM_WRITE and TABLE_LOAD. -/
def Obligations.SramCommands : Prop :=
  (∀ (dom : Dom) (off : Word) (len : Nat) (s : State),
    s.chip.mayStart dom { code := 0x10, addr := off.toNat, args := [BitVec.ofNat 32 len] } = true → off.toNat % 4 = 0 → len % 4 = 0 → 4 ≤ len →
    len ≤ 8000 →
    (off.toNat + len ≤ 0x4000000 → s.chip.mayReadMem dom off.toNat len = true → s.chip.badWord? off.toNat len = none →
      exec (.memRead dom off len) s = .next (withChip s (s.chip.drawn.finish dom
        { code := 0x10, addr := off.toNat, args := [BitVec.ofNat 32 len] } stOk
        ((List.range (len / 4)).map (fun i => s.chip.sramWord s.sram (off.toNat + 4 * i)))))) ∧
    (off.toNat + len ≤ 0x4000000 → s.chip.mayReadMem dom off.toNat len = true → ∀ w, s.chip.badWord? off.toNat len = some w →
      exec (.memRead dom off len) s = .next (withChip s
        ((s.chip.countUe 24 (if w < sramCode9 then 8 else 9) (w % sramCode9)).finish dom
          { code := 0x10, addr := off.toNat, args := [BitVec.ofNat 32 len] } stRefused (List.replicate (len / 4) 0)))) ∧
    (off.toNat + len ≤ 0x4000000 → s.chip.mayReadMem dom off.toNat len = false →
      exec (.memRead dom off len) s = .next (withChip s (s.chip.finish dom
        { code := 0x10, addr := off.toNat, args := [BitVec.ofNat 32 len] } stDenied (List.replicate (len / 4) 0)))) ∧
    (0x4000000 < off.toNat + len →
      exec (.memRead dom off len) s = .next (withChip s (s.chip.finish dom
        { code := 0x10, addr := off.toNat, args := [BitVec.ofNat 32 len] } stBadAddr (List.replicate (len / 4) 0))))) ∧
  (∀ (off len : Nat) (c : Chip), c.mayReadMem .owner off len = true ∧ (c.mayReadMem .fabric off len = true ↔
    c.granted 14 = true ∨
    (c.granted 2 = true ∧ c.reg (dmp 0x10C) ≤ off ∧ off + len ≤ c.reg (dmp 0x10C) + c.reg (dmp 0x110)) ∨
    (c.granted 9 = true ∧ c.reg (lntC 0x110) ≤ off ∧ off + len ≤ c.reg (lntC 0x110) + c.reg (lntC 0x114)))) ∧
  (∀ (dom : Dom) (off : Word) (words : List Word) (s : State),
    s.chip.mayStart dom { code := 0x11, addr := off.toNat, args := words } = true → off.toNat % 4 = 0 → 1 ≤ words.length →
    words.length ≤ 2000 → (dom = .fabric → s.chip.granted 14 = true) →
    ((0x2E00000 ≤ off.toNat ∧ off.toNat + 4 * words.length ≤ 0x3000000) ∨
        (0x3C00000 ≤ off.toNat ∧ off.toNat + 4 * words.length ≤ 0x4000000) ∨
        (s.chip.mgmt.fw < 3 ∧ off.toNat + 4 * words.length ≤ 0x2000000) →
      ∃ t, exec (.memWrite dom off words) s = .next t ∧ t.pending = s.pending ∧
        t.chip = (s.chip.sramWritten off.toNat (4 * words.length)).finish dom { code := 0x11, addr := off.toNat, args := words } stOk [] ∧
        t.sram = s.sram.putAll off.toNat (words.flatMap (fun w => leBytes 4 w.toNat))) ∧
    ((off.toNat < 0x2E00000 ∧ (3 ≤ s.chip.mgmt.fw ∨ 0x2000000 < off.toNat + 4 * words.length)) ∨
        (0x2E00000 ≤ off.toNat ∧ off.toNat < 0x3C00000 ∧ 0x3000000 < off.toNat + 4 * words.length) ∨
        0x4000000 < off.toNat + 4 * words.length →
      exec (.memWrite dom off words) s = .next (withChip s
        (s.chip.finish dom { code := 0x11, addr := off.toNat, args := words } stBadAddr [])))) ∧
  (∀ (m : Memory) (a : Nat) (words : List Word), m.wf = true →
    (∀ i, i < words.length → (m.putAll a (words.flatMap (fun w => leBytes 4 w.toNat))).word (a + 4 * i) = words.getD i 0) ∧
    (∀ b, b < a ∨ a + 4 * words.length ≤ b → (m.putAll a (words.flatMap (fun w => leBytes 4 w.toNat))).byte b = m.byte b)) ∧
  (∀ (c : Chip) (o n w : Nat), (w ∈ (c.sramWritten o n).mgmt.badSram ↔ w ∈ c.mgmt.badSram ∧ (8 * w < o ∨ o + n < 8 * w + 8)) ∧
    c.sramWritten o n = { c with mgmt := { c.mgmt with badSram := (c.sramWritten o n).mgmt.badSram } }) ∧
  (∀ (off : Word) (words : List Word) (s : State), s.chip.mayStart .fabric { code := 0x11, addr := off.toNat, args := words } = true →
    off.toNat % 4 = 0 → 1 ≤ words.length → words.length ≤ 2000 → s.chip.granted 14 = false →
    exec (.memWrite .fabric off words) s = .next (withChip s
      (s.chip.finish .fabric { code := 0x11, addr := off.toNat, args := words } stDenied []))) ∧
  (∀ (dom : Dom) (addr source : Word) (first count : Nat) (cmd : Word) (words k st n res die : Nat) (m : MCmd) (b : Nat × Chip) (c : Chip) (s : State),
    m = { code := 0x20, addr := addr.toNat,
          args := [source, BitVec.ofNat 32 first, BitVec.ofNat 32 count, cmd, BitVec.ofNat 32 words] } →
    s.chip.mayStart dom m = true → s.chip.mgmt.fw = 3 → badAddr addr.toNat = false → tblIndexBits addr.toNat = some k →
    1 ≤ words → words ≤ 40 → source.toNat % 4 = 0 → bit cmd.toNat 31 = false → cmd.toNat % 2 ^ k = 0 → first + count ≤ 2 ^ k →
    source.toNat + 4 * words * count ≤ 0x4000000 → s.chip.allowed dom addr.toNat (some cmd.toNat) = true →
    b = s.chip.stintStarts.begin dom m →
    Chip.loadEntries (s.chip.sramWord s.sram) dom addr.toNat source.toNat first cmd.toNat words (min 40 count) 0 b.2.drawn =
      (st, n, res, die, c) → c.rst.c0Up = true →
    (st ≠ 0 ∨ n = count → exec (.tableLoad dom addr source first count cmd words) s = .next (withChip s
      (c.finishRun dom b.1 0x20 st
        [BitVec.ofNat 32 n, BitVec.ofNat 32 (first + n), BitVec.ofNat 32 res, BitVec.ofNat 32 die]))) ∧
    (st = 0 → n < count → exec (.tableLoad dom addr source first count cmd words) s = .next (withChip s (c.joinLoad dom
      { addr := addr.toNat, source := source.toNat, first := first, count := count, cmd := cmd.toNat, words := words, next := n,
        id := b.1, seq := 0 })))) ∧
  (∀ (dom : Dom) (l : Load) (c : Chip), c.joinLoad dom l = c.onMgmt (fun m => { m with
    seq := m.seq + 1, loads := m.loads.set (domIdx dom) (c.loadsOf (domIdx dom) ++ [{ l with seq := c.mgmt.seq }]) })) ∧
  (∀ (c : Chip), c.stintStarts = (c.draw Config.pick).2.pmc 24 (1 + (c.draw Config.pick).1 % 3) 0xA002 none none) ∧
  (∀ (dom : Dom) (addr source : Word) (first count : Nat) (cmd : Word) (words : Nat) (m : MCmd) (s : State),
    m = { code := 0x20, addr := addr.toNat,
          args := [source, BitVec.ofNat 32 first, BitVec.ofNat 32 count, cmd, BitVec.ofNat 32 words] } →
    s.chip.mayStart dom m = true → s.chip.mgmt.fw ≠ 3 →
    exec (.tableLoad dom addr source first count cmd words) s = .next (withChip s (s.chip.finish dom m stNoFw
      [0, BitVec.ofNat 32 first, 0, BitVec.ofNat 32 (adDie addr.toNat)]))) ∧
  (∀ (rd : Nat → Word) (dom : Dom) (addr source first cmd words n i : Nat) (x y : Nat × Chip) (z c : Chip),
    x = c.writeWords dom ((List.range words).map (fun k => rd (source + 4 * words * i + 4 * k))) (addr + 0x40) → x.1 = 0 →
    y = x.2.writeWord dom addr (2 ^ 31 + cmd + (first + i)) → y.1 = 0 →
    z = y.2.goWait ((windowDies addr).map (inDie addr)) → (∀ d ∈ windowDies addr, z.tblResult addr d = 0) →
    Chip.loadEntries rd dom addr source first cmd words (n + 1) i c =
      Chip.loadEntries rd dom addr source first cmd words n (i + 1) z) ∧
  (∀ (rd : Nat → Word) (dom : Dom) (addr source first cmd words n i d : Nat) (x y : Nat × Chip) (z c : Chip),
    x = c.writeWords dom ((List.range words).map (fun k => rd (source + 4 * words * i + 4 * k))) (addr + 0x40) → x.1 = 0 →
    y = x.2.writeWord dom addr (2 ^ 31 + cmd + (first + i)) → y.1 = 0 →
    z = y.2.goWait ((windowDies addr).map (inDie addr)) → (windowDies addr).find? (fun d => z.tblResult addr d != 0) = some d →
    Chip.loadEntries rd dom addr source first cmd words (n + 1) i c = (stRefused, i, z.tblResult addr d, d, z)) ∧
  (∀ (m : Memory) (a : Nat) (c : Chip), a < 0x2000000 ∨ 0x2E00000 ≤ a → c.sramWord m a = m.word a)

/-- EVENT_WAIT and IDENT (R495, R504, R514, R515): EVENT_WAIT answers LOST and up to 32 entries of the domain's queue at
once, waits where none is queued, and completes at its TIMEOUT; IDENT answers the part's record and CTL_FW_STATUS in six
words. That a TIMEOUT completes OK, with no entry and LOST set to 0, is the model's reading (log entry 46). Completes
EVENT_WAIT, EVENT_WAIT_TIMEOUT and IDENT. -/
def Obligations.EventWaitsAndIdent : Prop :=
  (∀ (dom : Dom) (d timeout : Nat) (q : List EvEnt) (b : Nat × Chip) (s : State), d = domIdx dom →
    s.chip.mayStart dom { code := 0x30, addr := 0, args := [BitVec.ofNat 32 timeout] } = true →
    3 ≤ s.chip.mgmt.fw → timeout ≤ 1000000 → s.chip.waitTakes d = true → s.chip.mgmt.evq.getD d [] = q →
    b = s.chip.begin dom { code := 0x30, addr := 0, args := [BitVec.ofNat 32 timeout] } →
    (q ≠ [] → exec (.eventWait dom timeout) s = .next (withChip s
      ((b.2.onMgmt (fun m => { m with evq := m.evq.set d (q.drop 32), evLost := m.evLost.set d 0,
                                      evAt := if d = 0 then s.chip.now else m.evAt })).finishRun dom b.1 0x30 stOk
        (BitVec.ofNat 32 (min (s.chip.mgmt.evLost.getD d 0) 0xFFFFFFFF) :: (q.take 32).flatMap EvEnt.words)))) ∧
    (q = [] → exec (.eventWait dom timeout) s = .next (withChip s
      (b.2.onWaits d (fun w => { w with evs := w.evs ++ [(timeout, s.chip.now, b.1)] }))))) ∧
  (∀ (dom : Dom) (timeout : Nat) (s : State),
    s.chip.mayStart dom { code := 0x30, addr := 0, args := [BitVec.ofNat 32 timeout] } = true → s.chip.mgmt.fw < 3 →
    exec (.eventWait dom timeout) s = .next (withChip s
      (s.chip.finish dom { code := 0x30, addr := 0, args := [BitVec.ofNat 32 timeout] } stNoFw []))) ∧
  (∀ (dom : Dom) (d : Nat) (e : Nat × Nat × Nat) (rest : List (Nat × Nat × Nat)) (c : Chip) (s : State), d = domIdx dom →
    d < s.chip.mgmt.waits.length → (s.chip.waitsOf d).evs = e :: rest → s.chip.mgmt.evq.getD d [] = [] →
    d < s.chip.mgmt.evq.length → c = s.chip.till (e.2.1 + 1000 * e.1) →
    exec (.eventWaitTimeout dom) s = .next (withChip s
      (((c.onWaits d (fun w => { w with evs := rest })).onMgmt
          (fun m => { m with evLost := m.evLost.set d 0, evAt := if d = 0 then c.now else m.evAt })).finishRun dom e.2.2 0x30 stOk
        [BitVec.ofNat 32 (min (s.chip.mgmt.evLost.getD d 0) 0xFFFFFFFF)]))) ∧
  (∀ (dom : Dom) (s : State), s.chip.mayStart dom { code := 0x40, addr := 0, args := [] } = true →
    ∃ ws, exec (.ident dom) s = .next (withChip s (s.chip.finish dom { code := 0x40, addr := 0, args := [] } stOk ws)) ∧
      ws.length = 6 ∧ ws.getD 5 0 = BitVec.ofNat 32 s.chip.fwWord ∧
      ws.take 5 = wordsOf 5 (leBytes 1 (s.chip.mgmt.addr.getD 0xFE) ++
        leBytes 1 (s.chip.rst.pos + put (b2n s.chip.rst.side) 3) ++ leBytes 1 s.chip.mgmt.fw ++ leBytes 1 0xB1 ++
        (List.finRange 12).map Config.serial ++ leBytes 4 s.chip.mgmt.fwVersion))

/-- Firmware and fuses (R497 to R500): FW_START begins the checks from WAIT or FAILED and is refused elsewhere; when they
end the image runs, with its version, in a first stint of CC0 (R460), or FW_STATE is FAILED with the reason of the first
check that failed, whose order the last clauses state; a fuse operation is accepted in WAIT or FAILED alone, slots 0, 1 and
a programmed slot are not programmed, and FLOOR is never lowered. That a refused FW_START has no result word (log entry 45),
that a refused FUSE has its one and that an equal FLOOR is taken (log entry 49), and that the image is checked when
FW_START_DONE comes (log entry 50) are the model's. Completes FW_START, FW_START_DONE, FUSE_PROGRAM, FUSE_REVOKE and
FUSE_FLOOR. -/
def Obligations.FirmwareAndFuses : Prop :=
  (∀ (dom : Dom) (b : Nat × Chip) (s : State), s.chip.mayStart dom { code := 0x60, addr := 0, args := [] } = true →
    b = s.chip.begin dom { code := 0x60, addr := 0, args := [] } →
    (s.chip.mgmt.fw = 0 ∨ s.chip.mgmt.fw = 2 →
      exec (.fwStart dom) s = .next (withChip s
        (b.2.onMgmt (fun m => { m with fw := 1, reason := 0, fwBy := some (domIdx dom, b.1) })))) ∧
    (s.chip.mgmt.fw ≠ 0 → s.chip.mgmt.fw ≠ 2 →
      exec (.fwStart dom) s = .next (withChip s (s.chip.finish dom { code := 0x60, addr := 0, args := [] } stRefused [])))) ∧
  (∀ (dom : Dom) (n : Nat) (s : State), s.chip.mgmt.fw = 1 → s.chip.mgmt.fwBy = some (domIdx dom, n) →
    exec .fwStartDone s = .next (withChip s (if s.chip.imageReason s.sram = 0 then
      ((Chip.scrubStarts s.chip (s.chip.onMgmt (fun m =>
          { m with fw := 3, reason := 0, running := 1, fwVersion := leAt (s.sram.bytes 8 4) 0 4, fwBy := none }))).pmc 24 0 0xA002
            none none).finishRun dom n 0x60 stOk [BitVec.ofNat 32 (leAt (s.sram.bytes 8 4) 0 4)]
      else
      (s.chip.onMgmt (fun m => { m with fw := 2, reason := s.chip.imageReason s.sram, fwVersion := 0, running := 0,
                                        fwBy := none })).finishRun dom n 0x60 stBadImage []))) ∧
  (∀ (c : Chip) (m : Memory), (leAt (m.bytes 0 1024) 0 4 ≠ 0x5746534B ∨ leAt (m.bytes 0 1024) 4 4 ≠ 1 → c.imageReason m = 1) ∧
    (leAt (m.bytes 0 1024) 0 4 = 0x5746534B → leAt (m.bytes 0 1024) 4 4 = 1 →
      (leAt (m.bytes 0 1024) 12 4 % 4096 ≠ 0 ∨ leAt (m.bytes 0 1024) 12 4 < 8192 ∨ 0x2000000 < leAt (m.bytes 0 1024) 12 4 ∨
        leAt (m.bytes 0 1024) 16 4 < 1024 ∨ leAt (m.bytes 0 1024) 12 4 ≤ leAt (m.bytes 0 1024) 16 4 → c.imageReason m = 2) ∧
      (leAt (m.bytes 0 1024) 12 4 % 4096 = 0 → 8192 ≤ leAt (m.bytes 0 1024) 12 4 → leAt (m.bytes 0 1024) 12 4 ≤ 0x2000000 →
        1024 ≤ leAt (m.bytes 0 1024) 16 4 → leAt (m.bytes 0 1024) 16 4 < leAt (m.bytes 0 1024) 12 4 →
        (c.keyHash (byteAt (m.bytes 0 1024) 20) = none → c.imageReason m = 3) ∧
        (∀ k, c.keyHash (byteAt (m.bytes 0 1024) 20) = some k →
          (sha384 (((m.bytes 0 1024).drop 512).take 97) ≠ k → c.imageReason m = 4) ∧
          (sha384 (((m.bytes 0 1024).drop 512).take 97) = k → leAt (m.bytes 0 1024) 8 4 < c.mgmt.floor → c.imageReason m = 5) ∧
          (sha384 (((m.bytes 0 1024).drop 512).take 97) = k → c.mgmt.floor ≤ leAt (m.bytes 0 1024) 8 4 →
            (pubKey (((m.bytes 0 1024).drop 512).take 97) = none → c.imageReason m = 6) ∧
            ∀ q, pubKey (((m.bytes 0 1024).drop 512).take 97) = some q → c.imageReason m =
              (if ecdsaOk q (sha384 ((m.bytes 0 1024).take 640 ++ m.bytes 1024 (leAt (m.bytes 0 1024) 12 4 - 1024)))
                  (ofBe (((m.bytes 0 1024).drop 640).take 48)) (ofBe (((m.bytes 0 1024).drop 688).take 48)) = false then 6
                else if ∃ i ∈ List.range 1024, ((21 ≤ i ∧ i < 512) ∨ (609 ≤ i ∧ i < 640) ∨ 736 ≤ i) ∧ m.byte i ≠ 0 then 7 else 0))))) ∧
    (∀ i, bit c.mgmt.revoked i = true → c.keyHash i = none)) ∧
  (∀ (dom : Dom) (slot : Word) (s : State), s.chip.mayStart dom { code := 0x61, addr := 0, args := [1, slot] } = true → slot.toNat = 2 ∨ slot.toNat = 3 →
    (s.chip.mgmt.fw = 0 ∨ s.chip.mgmt.fw = 2 → s.chip.mgmt.keys.getD (slot.toNat - 2) none = none →
      ∃ c, c = s.chip.onMgmt (fun m => { m with
          keys := m.keys.set (slot.toNat - 2) (some (BitVec.ofNat 384 (ofBe (s.sram.bytes 0x2E00000 48)))) }) ∧
        exec (.fuseProgram dom slot) s = .next (withChip s
          (c.finish dom { code := 0x61, addr := 0, args := [1, slot] } stOk [BitVec.ofNat 32 c.fuseWord]))) ∧
    ((s.chip.mgmt.fw ≠ 0 ∧ s.chip.mgmt.fw ≠ 2) ∨ (s.chip.mgmt.keys.getD (slot.toNat - 2) none).isSome = true →
      exec (.fuseProgram dom slot) s = .next (withChip s
        (s.chip.finish dom { code := 0x61, addr := 0, args := [1, slot] } stRefused [BitVec.ofNat 32 s.chip.fuseWord])))) ∧
  (∀ (dom : Dom) (slot : Word) (s : State), s.chip.mayStart dom { code := 0x61, addr := 0, args := [1, slot] } = true → slot.toNat < 2 →
    exec (.fuseProgram dom slot) s = .next (withChip s
      (s.chip.finish dom { code := 0x61, addr := 0, args := [1, slot] } stRefused [BitVec.ofNat 32 s.chip.fuseWord]))) ∧
  (∀ (dom : Dom) (slot : Word) (s : State), s.chip.mayStart dom { code := 0x61, addr := 0, args := [2, slot] } = true → slot.toNat < 4 →
    s.chip.mgmt.fw = 0 ∨ s.chip.mgmt.fw = 2 →
    ∃ c, c = s.chip.onMgmt (fun m => { m with revoked := setBit m.revoked slot.toNat true }) ∧
      exec (.fuseRevoke dom slot) s = .next (withChip s
        (c.finish dom { code := 0x61, addr := 0, args := [2, slot] } stOk [BitVec.ofNat 32 c.fuseWord]))) ∧
  (∀ (r i j : Nat), bit (setBit r i true) i = true ∧ (i ≠ j → bit (setBit r i true) j = bit r j)) ∧
  (∀ (dom : Dom) (floor : Word) (s : State), s.chip.mayStart dom { code := 0x61, addr := 0, args := [3, floor] } = true → floor.toNat ≤ 64 →
    (s.chip.mgmt.fw = 0 ∨ s.chip.mgmt.fw = 2 → s.chip.mgmt.floor ≤ floor.toNat →
      ∃ c, c = s.chip.onMgmt (fun m => { m with floor := floor.toNat }) ∧
        exec (.fuseFloor dom floor) s = .next (withChip s
          (c.finish dom { code := 0x61, addr := 0, args := [3, floor] } stOk [BitVec.ofNat 32 c.fuseWord]))) ∧
    (floor.toNat < s.chip.mgmt.floor ∨ (s.chip.mgmt.fw ≠ 0 ∧ s.chip.mgmt.fw ≠ 2) →
      exec (.fuseFloor dom floor) s = .next (withChip s
        (s.chip.finish dom { code := 0x61, addr := 0, args := [3, floor] } stRefused [BitVec.ofNat 32 s.chip.fuseWord]))))

/-- Cores and policies (R50, R510 to R512, R517): a core that ends a stint shows as running; a stint past 40 µs is counted
and raised; one of 1 ms halts all cores and sets WATCHDOG; HALT halts them, so that every WAIT and TABLE_LOAD in progress
completes with NO_FW and what it had come to, RUN resumes them and clears WATCHDOG, RESTART checks the image again; the
default policies act on no halted core; a cleared policy bit stops its policy (R517). That a stint's end is what shows a
core as running and takes the next firmware command of the domain in turn, a TABLE_LOAD for its next entries or a WAIT for
its next read (log entries 47 and 48), that HALT acts at once (log entry 62) and that a cleared bit forgets what its policy
has not acted on (log entry 55) are the model's choices, and that the scrub's PERIOD runs anew from when its policy or the
cores last started is DEDUCED (log entry 51). Completes STINT_END, STINT_LONG, CORE_WATCHDOG, HALT, RUN, RESTART and
CTL_POLICY_WRITE. -/
def Obligations.CoresAndPolicies : Prop :=
  (∀ (core : Fin 4) (s : State), s.chip.mgmt.fw = 3 →
    (∀ c, c = (s.chip.onMgmt (fun m => { m with running := setBit m.running core.val true })).pmc 24 core.val 0xA002 none none →
      (core = 0 ∨ (c.oldestFw .owner = none ∧ c.oldestFw .fabric = none) → exec (.stintEnd core) s = .next (withChip s c)) ∧
      (∀ (dom : Dom) (n : Nat) (d : Chip), core ≠ 0 → dom = c.fwTurn → c.oldestFw dom = some n →
        d = c.onMgmt (fun m => { m with turn := 1 - domIdx dom }) →
        (∀ (l : Load) (rest : List Load), c.loadsOf (domIdx dom) = l :: rest → l.seq = n → exec (.stintEnd core) s = .next (withChip s
          ((d.setLoads (domIdx dom) rest).loadStint (c.sramWord s.sram) dom l))) ∧
        (c.loadsOf (domIdx dom) = [] ∨ (c.loadsOf (domIdx dom)).head?.any (fun l => l.seq != n) = true →
          exec (.stintEnd core) s = .next (withChip s (Sys2Proof.Machine.waitPoll dom d))))) ∧
    exec (.stintLong core) s = .next (withChip s ((s.chip.bump (ctlR 0x124) 1).raise (ctlR 0) 2)) ∧
    exec (.coreWatchdog core) s = .next (withChip s ((s.chip.haltCores true).raise (ctlR 0) 1))) ∧
  (∀ (dom : Dom) (c : Chip),
    (∀ (p : Poll) (ps : List Poll), (c.waitsOf (domIdx dom)).polls = p :: ps →
      (c.loadsOf (domIdx dom) = [] → c.oldestFw dom = some p.seq) ∧
      (∀ (l : Load) (ls : List Load), c.loadsOf (domIdx dom) = l :: ls → c.oldestFw dom = some (min p.seq l.seq))) ∧
    ((c.waitsOf (domIdx dom)).polls = [] →
      (c.loadsOf (domIdx dom) = [] → c.oldestFw dom = none) ∧
      (∀ (l : Load) (ls : List Load), c.loadsOf (domIdx dom) = l :: ls → c.oldestFw dom = some l.seq)) ∧
    (domIdx dom = c.mgmt.turn → (c.oldestFw dom).isSome = true → c.fwTurn = dom) ∧
    (domIdx dom ≠ c.mgmt.turn → c.mgmt.turn < 2 → c.oldestFw (if dom = .owner then .fabric else .owner) = none →
      c.fwTurn = dom)) ∧
  (∀ (rd : Nat → Word) (dom : Dom) (l : Load) (c d : Chip) (st n res die : Nat),
    Chip.loadEntries rd dom l.addr l.source l.first l.cmd l.words (min 40 (l.count - l.next)) l.next c.drawn = (st, n, res, die, d) →
    (st = 0 → n < l.count → c.loadStint rd dom l = d.joinLoad dom { l with next := n }) ∧
    (st ≠ 0 ∨ l.count ≤ n → d.rst.c0Up = true →
      c.loadStint rd dom l = d.finishRun dom l.id 0x20 st
        [BitVec.ofNat 32 n, BitVec.ofNat 32 (l.first + n), BitVec.ofNat 32 res, BitVec.ofNat 32 die])) ∧
  (∀ (wd : Bool) (c d : Chip), c.mgmt.waits.length = 2 → c.mgmt.loads.length = 2 → d = c.haltCores wd →
    (∀ (dom : Dom), (d.waitsOf (domIdx dom)).polls = [] ∧ d.loadsOf (domIdx dom) = [] ∧
      (d.waitsOf (domIdx dom)).evs = (c.waitsOf (domIdx dom)).evs) ∧
    d.out = ([Dom.owner, Dom.fabric].flatMap (fun k =>
      (c.waitsOf (domIdx k)).polls.map (fun p => Emit.complete k 4 stNoFw [BitVec.ofNat 32 p.last]) ++
      (c.loadsOf (domIdx k)).map (fun l => Emit.complete k 0x20 stNoFw
        [BitVec.ofNat 32 l.next, BitVec.ofNat 32 (l.first + l.next), 0, BitVec.ofNat 32 (adDie l.addr)]))).reverse ++ c.out ∧
    d.regs = c.regs ∧ d.tables = c.tables) ∧
  (∀ (wd : Bool) (c : Chip), (c.haltCores wd).mgmt.halted = true ∧ (c.haltCores wd).mgmt.fw = 4 ∧
    (c.haltCores wd).mgmt.watchdog = (c.mgmt.watchdog || wd) ∧ ∀ i, (c.haltCores wd).policy i = false) ∧
  (∀ (dom : Dom) (s : State), s.chip.isOn 24 1 = true →
    (MayWrite s.chip dom 24 1 0x10C 0x100 → s.chip.mgmt.fw = 3 →
      exec (.halt dom) s = .next (withChip s (s.chip.haltCores false))) ∧
    (MayWrite s.chip dom 24 1 0x10C 0x200 → s.chip.mgmt.fw = 4 →
      exec (.run dom) s = .next (withChip s
        (Chip.scrubStarts s.chip (s.chip.onMgmt (fun m => { m with fw := 3, halted := false, watchdog := false }))))) ∧
    (MayWrite s.chip dom 24 1 0x10C 0x400 → s.chip.mgmt.fw ≠ 1 →
      exec (.restart dom) s = .next (withChip s ((s.chip.onMgmt (fun m =>
        { m with fw := 1, reason := 0, running := 0, halted := false, fwBy := none, fwVersion := 0 })).dropPolls)))) ∧
  (∀ (dom : Dom) (val : Word) (c : Chip) (s : State), val.toNat ≤ 0x7F → MayWrite s.chip dom 24 1 0x108 val.toNat →
    c = s.chip.each (List.range 4) (fun c q => c.onBuf q (fun b =>
      { b with trigger := b.trigger && bit val.toNat 3, holdUp := b.holdUp && bit val.toNat 2,
               spillUp := b.spillUp && bit val.toNat 2 })) →
    s.chip.reg (ctlR 0x108) ≤ 0x7F →
    exec (.ctlPolicyWrite dom val) s = .next (withChip s (Chip.scrubStarts s.chip (c.setReg (ctlR 0x108) val.toNat)))) ∧
  (∀ (was c : Chip), (c.policy 5 = false ∨ was.policy 5 = true → Chip.scrubStarts was c = c) ∧
    (c.policy 5 = true → was.policy 5 = false →
      Chip.scrubStarts was c = { c with rst := { c.rst with scrubAt := c.now, scrubLate := false } }))

/-- A step takes the command at the front of the queue and runs it on the queue's rest; with no command waiting one
nanosecond passes and nothing else happens (the model's choice, log entry 2). -/
def Obligations.StepRunsTheFrontCommand : Prop :=
  (∀ (c : Instr) (rest : List Instr) (s : State), s.pending = c :: rest → step s = exec c { s with pending := rest }) ∧
  (∀ (s : State), s.pending = [] → ∃ t, step s = .next t ∧ t.pending = [] ∧ t.sram = s.sram ∧ t.chip.now = s.chip.now + 1 ∧
    t.chip = { s.chip with now := s.chip.now + 1, time := t.chip.time } ∧ (s.chip.rst.c0Up = false → t.chip.time = s.chip.time))

/-- Every command completes in every state, with the queue as it was: nothing stops the block. -/
def Obligations.EveryCommandCompletes : Prop :=
  (∀ (c : Instr) (s : State), ∃ t, exec c s = .next t ∧ t.pending = s.pending) ∧ (∀ s : State, StepSafe s)

/-- The reset state (R487, R493, R550, R552), with the Reset columns of the chapters' tables: the queue is empty and SRAM
lists nothing, the pages that are always on are ON and every other is OFF, the bypass is engaged, FW_STATE is WAIT, and
every register of the tables holds the value of its Reset column: EVT_EN the implemented event bits, BANK of a press page
READ_CURRENT, the registers of the list below the values it gives, and every other 0 (the identity registers, the numbers of
a page's counters and the fuses among them are made on a read from what the part is, and no statement is made of them here).
SRAM's contents are the model's choice (log entry 3). -/
def Obligations.ResetState : Prop :=
  (SramCanonical State.reset ∧ State.reset.pending = [] ∧ State.reset.chip.mgmt.bypass = true ∧ State.reset.chip.mgmt.fw = 0 ∧
  State.reset.chip.mgmt.addr = none ∧ State.reset.chip.twin.role = 0) ∧
  (∀ (die pg i : Nat) (b : Block), pageOf die pg = some (b, i) →
    (State.reset.chip.page (pageKey die pg)).st = (if die = 24 ∧ 1 ≤ pg ∧ pg ≤ 7 then 2 else 0)) ∧
  (∀ (a i : Nat) (b : Block) (d : RegDef), pageOf (adDie a) (adPage a) = some (b, i) → regDef b i (adOff a) = some d → adOff a < 0x100 →
    State.reset.chip.reg a = (if adOff a = 0x1C then evtMask b else if adOff a = 0x30 ∧ b = .prs then 2 else 0)) ∧
  (∀ (a i : Nat) (b : Block) (d : RegDef), pageOf (adDie a) (adPage a) = some (b, i) → regDef b i (adOff a) = some d → 0x100 ≤ adOff a →
    State.reset.chip.reg a =
      (((match b with
        | .oen => [(0x110, 1, 4, 3), (0x114, 1, 4, 200), (0x200, 64, 4, 0x80008000), (0x300, 8, 4, 0x80008000), (0x320, 5, 4, 0x80008000)]
        | .lne => [(0x100, 1, 4, 0x249), (0x108, 1, 4, 0xFFFFFFFF), (0x110, 1, 4, 10)]
        | .lnk => [(0x100, 16, 4, 2), (0x1C0, 16, 4, 0xFFFF), (0x400, 1, 4, 0x06404020)]
        | .rte => [(0x200, 1, 4, 0xFFFF), (0x204, 1, 4, 0xFFFFFFFF), (0x210, 3, 4, 0xC060A0)]
        | .peg => [(0x220, 1, 4, 0x10001)]
        | .buf => [(0x100, 1, 4, 0x100100), (0x108, 1, 4, 0x1800080), (0x120, 1, 4, 0x60000), (0x130, 1, 4, 0x78000),
            (0x140, 1, 4, 0x90000), (0x114, 1, 4, 0x60000), (0x124, 1, 4, 0x78000), (0x134, 1, 4, 0x90000), (0x144, 1, 4, 0x9DFE9),
            (0x118, 1, 4, 0x9E000), (0x128, 1, 4, 0x9FC00), (0x138, 1, 4, 0x9FE00), (0x148, 1, 4, 0x9FF00), (0x11C, 1, 4, 0x70000),
            (0x12C, 1, 4, 0x8000), (0x13C, 1, 4, 0x4000), (0x14C, 1, 4, 0x2000), (0x1B4, 1, 4, 0xD8A4), (0x1B8, 2, 4, 0x9E000)]
        | .que => [(0x100, 1, 4, 7), (0x110, 3, 4, 4000), (0x11C, 1, 4, 250), (0x120, 1, 4, 0x76800), (0x124, 1, 4, 0x4000),
            (0x130, 1, 4, 0x11111111)]
        | .win => [(0x300, 1, 4, 8000)]
        | .prs => [(0x404, 24, 0x20, 0x400008), (0x418, 24, 0x20, 0x200014)]
        | .synQ => [(0x200, 1, 4, 100)]
        | .synC => [(0x300, 1, 4, 0x4000000A), (0x304, 1, 4, 0xFF), (0x3B4, 1, 4, 0xFFFF)]
        | .bnk => [(0x10C, 1, 4, 1000), (0x130, 1, 4, 0x1000)]
        | .twn => [(0x100, 1, 4, 12), (0x10C, 2, 4, 0xFFFF), (0x114, 1, 4, 0x04FF0100), (0x118, 1, 4, 0x640064)]
        | .cgmC => [(0x100, 1, 4, 0x81000040), (0x104, 1, 4, 0xFFFF)]
        | .cgmQ => [(0x100, 1, 4, 4)]
        | .dmp => [(0x104, 1, 4, 100), (0x108, 1, 4, 0xFFFF), (0x10C, 1, 4, 0x3000000), (0x110, 1, 4, 0x800000), (0x114, 1, 4, 0xC440),
            (0x120, 4, 4, 0xFFFFFFFF), (0x130, 1, 4, 0x3FFFFFF)]
        | .lntQ => [(0x100, 32, 4, 0xFF0)]
        | .lntC => [(0x104, 1, 4, 0xFFFF), (0x108, 1, 4, 0x1E8480), (0x10C, 1, 4, 10), (0x110, 1, 4, 0x3800000), (0x114, 1, 4, 0x400000),
            (0x120, 1, 4, 1)]
        | .cve => [(0x100, 32, 0x40, 0x1EDC6F41), (0x108, 32, 0x40, 0xFFFFFFFF), (0x110, 32, 0x40, 0xFFFFFFFF), (0x118, 32, 0x40, 0x320),
            (0x130, 32, 0x40, 0xFFFFFFFF)]
        | .ctl => [(0x100, 1, 4, 0x1F), (0x104, 1, 4, 0xFFFFFFFF), (0x108, 1, 4, 0x7F)]
        | .thr => [(0x100, 1, 4, 1), (0x104, 1, 4, 0xFE01), (0x11C, 1, 4, 0x80008000)]
        | .pwr => [(0x100, 2, 4, 3400), (0x108, 1, 4, 5), (0x10C, 1, 4, 0x076C0008)]
        | .thm => [(0x100, 1, 4, 0x6E665F), (0x108, 1, 4, 0x8000), (0x200, 90, 4, 0x80008000)]
        | .rst => [(0x110, 1, 4, 20)]
        | .clk => [(0x100, 1, 4, 5)]
        | .ras => [(0x100, 1, 4, 100)]
        | _ => []) : List (Nat × Nat × Nat × Nat)).find? (fun e => inArr (adOff a) e.1 e.2.1 e.2.2.1)).elim 0 (fun e => e.2.2.2))

/-- C0's SRAM keeps its canonical form in every step. -/
def Obligations.SramStaysCanonical : Prop :=
  ∀ (s t : State), SramCanonical s → step s = .next t → SramCanonical t

/-- Only MEM_WRITE, DUMP_RECORD_WRITTEN and LINT_RING_WRITE write C0's SRAM, each inside its own range; any other command
leaves it, unless C0 enters reset and SRAM is lost (R487, R462, R471, R558). -/
def Obligations.SramIsWrittenByThree : Prop :=
  (∀ (c : Instr) (s t : State), exec c s = .next t → (∀ dom off ws, c ≠ .memWrite dom off ws) → c ≠ .dumpRecordWritten →
    (∀ q, c ≠ .lintRingWrite q) →
    t.sram = s.sram ∨ (s.chip.rst.c0Up = true ∧ t.chip.rst.c0Up = false ∧ t.sram = [])) ∧
  (∀ (dom : Dom) (off : Word) (ws : List Word) (s t : State), SramCanonical s → exec (.memWrite dom off ws) s = .next t →
    ∀ a, a < off.toNat ∨ off.toNat + 4 * ws.length ≤ a ∨ (0x2000000 ≤ a ∧ a < 0x2E00000) ∨ (0x3000000 ≤ a ∧ a < 0x3C00000) ∨
      (a < 0x2000000 ∧ 3 ≤ s.chip.mgmt.fw) ∨ 0x4000000 ≤ a → t.sram.byte a = s.sram.byte a) ∧
  (∀ (s t : State) (lo : Nat), SramCanonical s → exec .dumpRecordWritten s = .next t →
    lo = s.chip.reg (dmp 0x10C) + s.chip.reg (dmp 0x118) % max s.chip.dumpSlots 1 * s.chip.recordLen →
    ∀ a, a < lo ∨ lo + (s.chip.tele.dumpRec.getD []).length ≤ a → t.sram.byte a = s.sram.byte a) ∧
  (∀ (q : Fin 4) (s t : State), SramCanonical s → exec (.lintRingWrite q) s = .next t →
    ∀ a, a < s.chip.reg (lntC 0x110) ∨ s.chip.reg (lntC 0x110) + max (s.chip.reg (lntC 0x114)) 1 ≤ a →
      t.sram.byte a = s.sram.byte a)
end

