-- ==== Sys2Proof/Laws/Maps.lean ====
section
/-! SUPPORT. Sorted maps: what a key reads as after it, or another key, has been set; the numbers that fields and addresses
are made of. -/
namespace Sys2Proof.Machine

/-- A key that has been set reads as the value set. -/
@[simp] theorem SMap.get?_set_self {α : Type} (m : SMap α) (x : Nat) (v : α) : SMap.get? (SMap.set m x v) x = some v := by
  induction m with
  | nil => simp [SMap.set, SMap.get?]
  | cons p t ih =>
    obtain ⟨k, w⟩ := p
    simp only [SMap.set]
    split
    · simp [SMap.get?]
    · split
      · simp [SMap.get?, *]
      · rename_i h1 h2
        have : ¬ k = x := fun h => h2 h.symm
        simp [SMap.get?, this, h1, ih]

/-- Setting a key leaves every other key. -/
theorem SMap.get?_set_other {α : Type} (m : SMap α) (x y : Nat) (v : α) (h : y ≠ x) :
    SMap.get? (SMap.set m x v) y = SMap.get? m y := by
  induction m with
  | nil =>
    have h' : ¬ x = y := fun e => h e.symm
    simp [SMap.set, SMap.get?, h']
  | cons p t ih =>
    obtain ⟨k, w⟩ := p
    simp only [SMap.set]
    have h' : ¬ x = y := fun e => h e.symm
    split
    · rename_i hlt
      simp only [SMap.get?, h', if_false]
      split
      · have : ¬ k = y := by omega
        have : y < k := by omega
        simp [*]
      · rfl
    · split
      · rename_i e
        subst e
        simp [SMap.get?, h']
      · simp [SMap.get?, ih]

/-- A key that has been set reads as the value set, whatever the default. -/
@[simp] theorem SMap.getD_set_self {α : Type} (m : SMap α) (x : Nat) (v d : α) : SMap.getD (SMap.set m x v) x d = v := by
  simp [SMap.getD]

/-- Setting a key leaves what another key reads as. -/
theorem SMap.getD_set_other {α : Type} (m : SMap α) (x y : Nat) (v d : α) (h : y ≠ x) :
    SMap.getD (SMap.set m x v) y d = SMap.getD m y d := by
  simp [SMap.getD, SMap.get?_set_other m x y v h]

/-- Replacing an element keeps the length. -/
theorem upd_length {α : Type} (l : List α) (i : Nat) (f : α → α) : (upd l i f).length = l.length := by
  induction l generalizing i with
  | nil => rfl
  | cons a t ih => cases i <;> simp [upd, ih]

end Sys2Proof.Machine
end

