-- ==== Sys2Proof/Laws/Memory.lean ====
section
/-! SUPPORT. C0's SRAM: reading back what was written, and the canonical form, which every operation on memory keeps. -/
namespace Sys2Proof.Machine

/-- The canonical form of a list with a first entry: the entry is no 0, the rest is canonical and starts higher. -/
theorem Memory.wf_cons (k : Nat) (w : Byte) (t : Memory) :
    Memory.wf ((k, w) :: t) = true ↔ w ≠ 0 ∧ (∀ x, t.head? = some x → k < x.1) ∧ Memory.wf t = true := by
  cases t with
  | nil => simp [Memory.wf]
  | cons y t => simp [Memory.wf, and_assoc]

/-- Below the first entry of a canonical memory every byte reads 0. -/
theorem Memory.byte_below (m : Memory) (a : Nat) (h : ∀ x, m.head? = some x → a < x.1) : m.byte a = 0 := by
  cases m with
  | nil => rfl
  | cons y t =>
    have := h y rfl
    obtain ⟨k, w⟩ := y
    have hk : ¬ k = a := by simp at this; omega
    simp only [Memory.byte, if_neg hk]
    exact if_pos this

/-- A byte that has been written reads as written. -/
theorem Memory.byte_put_self (m : Memory) (a : Nat) (v : Byte) (h : m.wf = true) : (m.put a v).byte a = v := by
  induction m with
  | nil =>
    simp only [Memory.put]
    split <;> simp_all [Memory.byte]
  | cons x t ih =>
    obtain ⟨k, w⟩ := x
    obtain ⟨-, hk, ht⟩ := (Memory.wf_cons k w t).1 h
    simp only [Memory.put]
    split
    · rename_i hlt
      have : ¬ k = a := by omega
      split <;> simp_all [Memory.byte]
    · split
      · rename_i e
        subst e
        split
        · rename_i hv
          rw [hv]
          exact Memory.byte_below t a hk
        · simp [Memory.byte]
      · rename_i h1 h2
        have : ¬ k = a := fun e => h2 e.symm
        simp [Memory.byte, this, h1, ih ht]

/-- Writing one byte leaves every other byte. -/
theorem Memory.byte_put_other (m : Memory) (a b : Nat) (v : Byte) (h : m.wf = true) (hb : b ≠ a) :
    (m.put a v).byte b = m.byte b := by
  have hab : ¬ a = b := fun e => hb e.symm
  induction m with
  | nil =>
    simp only [Memory.put]
    split <;> simp [Memory.byte, hab]
  | cons x t ih =>
    obtain ⟨k, w⟩ := x
    obtain ⟨-, hk, ht⟩ := (Memory.wf_cons k w t).1 h
    simp only [Memory.put]
    split
    · rename_i hlt
      split
      · rfl
      · by_cases hba : b < a
        · have h1 : ¬ k = b := by omega
          have h2 : b < k := by omega
          simp [Memory.byte, hab, hba, h1, h2]
        · simp [Memory.byte, hab, hba]
    · split
      · rename_i e
        subst e
        split
        · by_cases hba : b < a
          · have : Memory.byte t b = 0 := Memory.byte_below t b (fun x hx => Nat.lt_trans hba (hk x hx))
            simp [Memory.byte, hab, hba, this]
          · simp [Memory.byte, hab, hba]
        · simp [Memory.byte, hab]
      · simp [Memory.byte, ih ht]

/-- The first entry after one byte is written lies at the written offset or was the first before. -/
theorem Memory.head_put (m : Memory) (a : Nat) (v : Byte) (k : Nat) (hm : ∀ x, m.head? = some x → k < x.1)
    (hw : m.wf = true) (ha : k < a) : ∀ x, (m.put a v).head? = some x → k < x.1 := by
  cases m with
  | nil =>
    intro x hx
    simp only [Memory.put] at hx
    split at hx <;> simp at hx
    subst hx; exact ha
  | cons y t =>
    obtain ⟨j, w⟩ := y
    have hj : k < j := hm (j, w) rfl
    obtain ⟨-, ht, -⟩ := (Memory.wf_cons j w t).1 hw
    intro x hx
    simp only [Memory.put] at hx
    split at hx
    · split at hx <;> simp at hx <;> subst hx <;> assumption
    · split at hx
      · split at hx
        · exact Nat.lt_trans hj (ht x hx)
        · simp at hx; subst hx; exact ha
      · simp at hx; subst hx; exact hj

/-- Writing one byte keeps the canonical form. -/
theorem Memory.wf_put (m : Memory) (a : Nat) (v : Byte) (h : m.wf = true) : (m.put a v).wf = true := by
  induction m with
  | nil =>
    simp only [Memory.put]
    split <;> simp_all [Memory.wf]
  | cons x t ih =>
    obtain ⟨k, w⟩ := x
    have hc := (Memory.wf_cons k w t).1 h
    simp only [Memory.put]
    split
    · split
      · exact h
      · exact (Memory.wf_cons a v _).2 ⟨by assumption, by simpa, h⟩
    · split
      · split
        · exact hc.2.2
        · rename_i e _
          subst e
          exact (Memory.wf_cons a v t).2 ⟨by assumption, hc.2.1, hc.2.2⟩
      · exact (Memory.wf_cons k w _).2 ⟨hc.1, Memory.head_put t a v k hc.2.1 hc.2.2 (by omega), ih hc.2.2⟩

/-- Writing bytes keeps the canonical form. -/
theorem Memory.wf_putAll (l : List Byte) (m : Memory) (a : Nat) (h : m.wf = true) : (m.putAll a l).wf = true := by
  induction l generalizing m a with
  | nil => exact h
  | cons b t ih => exact ih _ _ (Memory.wf_put m a b h)

/-- Writing bytes leaves every byte outside the bytes written. -/
theorem Memory.byte_putAll_other (l : List Byte) (m : Memory) (a b : Nat) (h : m.wf = true)
    (hb : b < a ∨ a + l.length ≤ b) : (m.putAll a l).byte b = m.byte b := by
  induction l generalizing m a with
  | nil => rfl
  | cons x t ih =>
    simp only [List.length_cons] at hb
    simp only [Memory.putAll]
    rw [ih _ _ (Memory.wf_put m a x h) (by omega), Memory.byte_put_other m a b x h (by omega)]

/-- Bytes written read back. -/
theorem Memory.byte_putAll (l : List Byte) (m : Memory) (a i : Nat) (h : m.wf = true) (hi : i < l.length) :
    (m.putAll a l).byte (a + i) = l[i] := by
  induction l generalizing m a i with
  | nil => simp at hi
  | cons x t ih =>
    simp only [Memory.putAll]
    cases i with
    | zero =>
      rw [Memory.byte_putAll_other t _ _ _ (Memory.wf_put m a x h) (by omega)]
      simpa using Memory.byte_put_self m a x h
    | succ i =>
      have := ih (m.put a x) (a + 1) i (Memory.wf_put m a x h) (by simpa using hi)
      rw [show a + (i + 1) = a + 1 + i by omega, this]
      rfl

/-- Bytes put into the lint ring keep the canonical form. -/
theorem Chip.lintPut_wf (c : Chip) (l : List Byte) (m : Memory) (o : Nat) (h : m.wf = true) : (c.lintPut m o l).wf = true := by
  induction l generalizing m o with
  | nil => exact h
  | cons b t ih => exact ih _ _ (Memory.wf_put m _ b h)

/-- SRAM after a change of the part is SRAM before it, or nothing. -/
theorem keepSram_cases (was is_ : Chip) (m : Memory) : keepSram was is_ m = m ∨ keepSram was is_ m = [] := by
  unfold keepSram
  split <;> simp

/-- A reset of C0 keeps the canonical form. -/
theorem keepSram_wf (was is_ : Chip) (m : Memory) (h : m.wf = true) : (keepSram was is_ m).wf = true := by
  rcases keepSram_cases was is_ m with e | e <;> rw [e]
  · exact h
  · rfl

/-- The dump ring write keeps the canonical form. -/
theorem dumpWritten_wf (s : State) (h : s.sram.wf = true) : (dumpWritten s).sram.wf = true := by
  simp only [dumpWritten]
  split
  · exact h
  · exact Memory.wf_putAll _ _ _ h

/-- The lint ring write keeps the canonical form. -/
theorem lintRingWrite_wf (q : Nat) (s : State) (h : s.sram.wf = true) : (lintRingWrite q s).sram.wf = true := by
  simp only [lintRingWrite]
  split
  · exact h
  · split
    · exact h
    · split
      · exact h
      · exact Chip.lintPut_wf _ _ _ _ h

/-- Sending lint records leaves SRAM. -/
theorem lintBatchSend_sram (s : State) : (lintBatchSend s).sram = s.sram := by
  simp only [lintBatchSend]
  repeat' split
  all_goals rfl

/-- MEM_READ leaves SRAM. -/
theorem memRead_sram (dom : Dom) (off : Word) (n : Nat) (s : State) : (memRead dom off n s).sram = s.sram := by
  simp only [memRead]
  repeat' split
  all_goals rfl

/-- MEM_WRITE keeps the canonical form. -/
theorem memWrite_wf (dom : Dom) (off : Word) (ws : List Word) (s : State) (h : s.sram.wf = true) :
    (memWrite dom off ws s).sram.wf = true := by
  simp only [memWrite]
  repeat' split
  all_goals first | exact h | exact Memory.wf_putAll _ _ _ h

end Sys2Proof.Machine
end

