-- ==== Sys2Proof/Laws/State.lean ====
section
/-! SUPPORT. What each update of the part does to each field: the field it writes takes its value, every other field stays.
One lemma per field per update, for `simp`; then what a register, a page, a port reads as after an update of one. -/
namespace Sys2Proof.Machine

variable (c : Chip)

/-! ### `Chip.setReg` -/

@[simp] theorem Chip.setReg_now (a v : Nat) : (c.setReg a v).now = c.now := rfl
@[simp] theorem Chip.setReg_free (a v : Nat) : (c.setReg a v).free = c.free := rfl
@[simp] theorem Chip.setReg_ids (a v : Nat) : (c.setReg a v).ids = c.ids := rfl
@[simp] theorem Chip.setReg_regs (a v : Nat) : (c.setReg a v).regs = SMap.set c.regs a (BitVec.ofNat 32 v) := rfl
@[simp] theorem Chip.setReg_latch (a v : Nat) : (c.setReg a v).latch = c.latch := rfl
@[simp] theorem Chip.setReg_pages (a v : Nat) : (c.setReg a v).pages = c.pages := rfl
@[simp] theorem Chip.setReg_ports (a v : Nat) : (c.setReg a v).ports = c.ports := rfl
@[simp] theorem Chip.setReg_links (a v : Nat) : (c.setReg a v).links = c.links := rfl
@[simp] theorem Chip.setReg_seams (a v : Nat) : (c.setReg a v).seams = c.seams := rfl
@[simp] theorem Chip.setReg_engBad (a v : Nat) : (c.setReg a v).engBad = c.engBad := rfl
@[simp] theorem Chip.setReg_engLock (a v : Nat) : (c.setReg a v).engLock = c.engLock := rfl
@[simp] theorem Chip.setReg_bufs (a v : Nat) : (c.setReg a v).bufs = c.bufs := rfl
@[simp] theorem Chip.setReg_tables (a v : Nat) : (c.setReg a v).tables = c.tables := rfl
@[simp] theorem Chip.setReg_badEnt (a v : Nat) : (c.setReg a v).badEnt = c.badEnt := rfl
@[simp] theorem Chip.setReg_gate (a v : Nat) : (c.setReg a v).gate = c.gate := rfl
@[simp] theorem Chip.setReg_pkts (a v : Nat) : (c.setReg a v).pkts = c.pkts := rfl
@[simp] theorem Chip.setReg_stores (a v : Nat) : (c.setReg a v).stores = c.stores := rfl
@[simp] theorem Chip.setReg_copies (a v : Nat) : (c.setReg a v).copies = c.copies := rfl
@[simp] theorem Chip.setReg_rx (a v : Nat) : (c.setReg a v).rx = c.rx := rfl
@[simp] theorem Chip.setReg_probeIn (a v : Nat) : (c.setReg a v).probeIn = c.probeIn := rfl
@[simp] theorem Chip.setReg_held (a v : Nat) : (c.setReg a v).held = c.held := rfl
@[simp] theorem Chip.setReg_wins (a v : Nat) : (c.setReg a v).wins = c.wins := rfl
@[simp] theorem Chip.setReg_jobs (a v : Nat) : (c.setReg a v).jobs = c.jobs := rfl
@[simp] theorem Chip.setReg_rinses (a v : Nat) : (c.setReg a v).rinses = c.rinses := rfl
@[simp] theorem Chip.setReg_bars (a v : Nat) : (c.setReg a v).bars = c.bars := rfl
@[simp] theorem Chip.setReg_time (a v : Nat) : (c.setReg a v).time = c.time := rfl
@[simp] theorem Chip.setReg_ticks (a v : Nat) : (c.setReg a v).ticks = c.ticks := rfl
@[simp] theorem Chip.setReg_busy (a v : Nat) : (c.setReg a v).busy = c.busy := rfl
@[simp] theorem Chip.setReg_ctxs (a v : Nat) : (c.setReg a v).ctxs = c.ctxs := rfl
@[simp] theorem Chip.setReg_pressIn (a v : Nat) : (c.setReg a v).pressIn = c.pressIn := rfl
@[simp] theorem Chip.setReg_syncIn (a v : Nat) : (c.setReg a v).syncIn = c.syncIn := rfl
@[simp] theorem Chip.setReg_timeIn (a v : Nat) : (c.setReg a v).timeIn = c.timeIn := rfl
@[simp] theorem Chip.setReg_twinIn (a v : Nat) : (c.setReg a v).twinIn = c.twinIn := rfl
@[simp] theorem Chip.setReg_c0In (a v : Nat) : (c.setReg a v).c0In = c.c0In := rfl
@[simp] theorem Chip.setReg_c0Out (a v : Nat) : (c.setReg a v).c0Out = c.c0Out := rfl
@[simp] theorem Chip.setReg_twin (a v : Nat) : (c.setReg a v).twin = c.twin := rfl
@[simp] theorem Chip.setReg_tele (a v : Nat) : (c.setReg a v).tele = c.tele := rfl
@[simp] theorem Chip.setReg_mgmt (a v : Nat) : (c.setReg a v).mgmt = c.mgmt := rfl
@[simp] theorem Chip.setReg_power (a v : Nat) : (c.setReg a v).power = c.power := rfl
@[simp] theorem Chip.setReg_rst (a v : Nat) : (c.setReg a v).rst = c.rst := rfl
@[simp] theorem Chip.setReg_out (a v : Nat) : (c.setReg a v).out = c.out := rfl

/-! ### `Chip.setPage` -/

@[simp] theorem Chip.setPage_now (k : Nat) (p : PageSt) : (c.setPage k p).now = c.now := rfl
@[simp] theorem Chip.setPage_free (k : Nat) (p : PageSt) : (c.setPage k p).free = c.free := rfl
@[simp] theorem Chip.setPage_ids (k : Nat) (p : PageSt) : (c.setPage k p).ids = c.ids := rfl
@[simp] theorem Chip.setPage_regs (k : Nat) (p : PageSt) : (c.setPage k p).regs = c.regs := rfl
@[simp] theorem Chip.setPage_latch (k : Nat) (p : PageSt) : (c.setPage k p).latch = c.latch := rfl
@[simp] theorem Chip.setPage_pages (k : Nat) (p : PageSt) : (c.setPage k p).pages = SMap.set c.pages k p := rfl
@[simp] theorem Chip.setPage_ports (k : Nat) (p : PageSt) : (c.setPage k p).ports = c.ports := rfl
@[simp] theorem Chip.setPage_links (k : Nat) (p : PageSt) : (c.setPage k p).links = c.links := rfl
@[simp] theorem Chip.setPage_seams (k : Nat) (p : PageSt) : (c.setPage k p).seams = c.seams := rfl
@[simp] theorem Chip.setPage_engBad (k : Nat) (p : PageSt) : (c.setPage k p).engBad = c.engBad := rfl
@[simp] theorem Chip.setPage_engLock (k : Nat) (p : PageSt) : (c.setPage k p).engLock = c.engLock := rfl
@[simp] theorem Chip.setPage_bufs (k : Nat) (p : PageSt) : (c.setPage k p).bufs = c.bufs := rfl
@[simp] theorem Chip.setPage_tables (k : Nat) (p : PageSt) : (c.setPage k p).tables = c.tables := rfl
@[simp] theorem Chip.setPage_badEnt (k : Nat) (p : PageSt) : (c.setPage k p).badEnt = c.badEnt := rfl
@[simp] theorem Chip.setPage_gate (k : Nat) (p : PageSt) : (c.setPage k p).gate = c.gate := rfl
@[simp] theorem Chip.setPage_pkts (k : Nat) (p : PageSt) : (c.setPage k p).pkts = c.pkts := rfl
@[simp] theorem Chip.setPage_stores (k : Nat) (p : PageSt) : (c.setPage k p).stores = c.stores := rfl
@[simp] theorem Chip.setPage_copies (k : Nat) (p : PageSt) : (c.setPage k p).copies = c.copies := rfl
@[simp] theorem Chip.setPage_rx (k : Nat) (p : PageSt) : (c.setPage k p).rx = c.rx := rfl
@[simp] theorem Chip.setPage_probeIn (k : Nat) (p : PageSt) : (c.setPage k p).probeIn = c.probeIn := rfl
@[simp] theorem Chip.setPage_held (k : Nat) (p : PageSt) : (c.setPage k p).held = c.held := rfl
@[simp] theorem Chip.setPage_wins (k : Nat) (p : PageSt) : (c.setPage k p).wins = c.wins := rfl
@[simp] theorem Chip.setPage_jobs (k : Nat) (p : PageSt) : (c.setPage k p).jobs = c.jobs := rfl
@[simp] theorem Chip.setPage_rinses (k : Nat) (p : PageSt) : (c.setPage k p).rinses = c.rinses := rfl
@[simp] theorem Chip.setPage_bars (k : Nat) (p : PageSt) : (c.setPage k p).bars = c.bars := rfl
@[simp] theorem Chip.setPage_time (k : Nat) (p : PageSt) : (c.setPage k p).time = c.time := rfl
@[simp] theorem Chip.setPage_ticks (k : Nat) (p : PageSt) : (c.setPage k p).ticks = c.ticks := rfl
@[simp] theorem Chip.setPage_busy (k : Nat) (p : PageSt) : (c.setPage k p).busy = c.busy := rfl
@[simp] theorem Chip.setPage_ctxs (k : Nat) (p : PageSt) : (c.setPage k p).ctxs = c.ctxs := rfl
@[simp] theorem Chip.setPage_pressIn (k : Nat) (p : PageSt) : (c.setPage k p).pressIn = c.pressIn := rfl
@[simp] theorem Chip.setPage_syncIn (k : Nat) (p : PageSt) : (c.setPage k p).syncIn = c.syncIn := rfl
@[simp] theorem Chip.setPage_timeIn (k : Nat) (p : PageSt) : (c.setPage k p).timeIn = c.timeIn := rfl
@[simp] theorem Chip.setPage_twinIn (k : Nat) (p : PageSt) : (c.setPage k p).twinIn = c.twinIn := rfl
@[simp] theorem Chip.setPage_c0In (k : Nat) (p : PageSt) : (c.setPage k p).c0In = c.c0In := rfl
@[simp] theorem Chip.setPage_c0Out (k : Nat) (p : PageSt) : (c.setPage k p).c0Out = c.c0Out := rfl
@[simp] theorem Chip.setPage_twin (k : Nat) (p : PageSt) : (c.setPage k p).twin = c.twin := rfl
@[simp] theorem Chip.setPage_tele (k : Nat) (p : PageSt) : (c.setPage k p).tele = c.tele := rfl
@[simp] theorem Chip.setPage_mgmt (k : Nat) (p : PageSt) : (c.setPage k p).mgmt = c.mgmt := rfl
@[simp] theorem Chip.setPage_power (k : Nat) (p : PageSt) : (c.setPage k p).power = c.power := rfl
@[simp] theorem Chip.setPage_rst (k : Nat) (p : PageSt) : (c.setPage k p).rst = c.rst := rfl
@[simp] theorem Chip.setPage_out (k : Nat) (p : PageSt) : (c.setPage k p).out = c.out := rfl

/-! ### `Chip.setPort` -/

@[simp] theorem Chip.setPort_now (p : Nat) (v : Port) : (c.setPort p v).now = c.now := rfl
@[simp] theorem Chip.setPort_free (p : Nat) (v : Port) : (c.setPort p v).free = c.free := rfl
@[simp] theorem Chip.setPort_ids (p : Nat) (v : Port) : (c.setPort p v).ids = c.ids := rfl
@[simp] theorem Chip.setPort_regs (p : Nat) (v : Port) : (c.setPort p v).regs = c.regs := rfl
@[simp] theorem Chip.setPort_latch (p : Nat) (v : Port) : (c.setPort p v).latch = c.latch := rfl
@[simp] theorem Chip.setPort_pages (p : Nat) (v : Port) : (c.setPort p v).pages = c.pages := rfl
@[simp] theorem Chip.setPort_ports (p : Nat) (v : Port) : (c.setPort p v).ports = SMap.set c.ports p v := rfl
@[simp] theorem Chip.setPort_links (p : Nat) (v : Port) : (c.setPort p v).links = c.links := rfl
@[simp] theorem Chip.setPort_seams (p : Nat) (v : Port) : (c.setPort p v).seams = c.seams := rfl
@[simp] theorem Chip.setPort_engBad (p : Nat) (v : Port) : (c.setPort p v).engBad = c.engBad := rfl
@[simp] theorem Chip.setPort_engLock (p : Nat) (v : Port) : (c.setPort p v).engLock = c.engLock := rfl
@[simp] theorem Chip.setPort_bufs (p : Nat) (v : Port) : (c.setPort p v).bufs = c.bufs := rfl
@[simp] theorem Chip.setPort_tables (p : Nat) (v : Port) : (c.setPort p v).tables = c.tables := rfl
@[simp] theorem Chip.setPort_badEnt (p : Nat) (v : Port) : (c.setPort p v).badEnt = c.badEnt := rfl
@[simp] theorem Chip.setPort_gate (p : Nat) (v : Port) : (c.setPort p v).gate = c.gate := rfl
@[simp] theorem Chip.setPort_pkts (p : Nat) (v : Port) : (c.setPort p v).pkts = c.pkts := rfl
@[simp] theorem Chip.setPort_stores (p : Nat) (v : Port) : (c.setPort p v).stores = c.stores := rfl
@[simp] theorem Chip.setPort_copies (p : Nat) (v : Port) : (c.setPort p v).copies = c.copies := rfl
@[simp] theorem Chip.setPort_rx (p : Nat) (v : Port) : (c.setPort p v).rx = c.rx := rfl
@[simp] theorem Chip.setPort_probeIn (p : Nat) (v : Port) : (c.setPort p v).probeIn = c.probeIn := rfl
@[simp] theorem Chip.setPort_held (p : Nat) (v : Port) : (c.setPort p v).held = c.held := rfl
@[simp] theorem Chip.setPort_wins (p : Nat) (v : Port) : (c.setPort p v).wins = c.wins := rfl
@[simp] theorem Chip.setPort_jobs (p : Nat) (v : Port) : (c.setPort p v).jobs = c.jobs := rfl
@[simp] theorem Chip.setPort_rinses (p : Nat) (v : Port) : (c.setPort p v).rinses = c.rinses := rfl
@[simp] theorem Chip.setPort_bars (p : Nat) (v : Port) : (c.setPort p v).bars = c.bars := rfl
@[simp] theorem Chip.setPort_time (p : Nat) (v : Port) : (c.setPort p v).time = c.time := rfl
@[simp] theorem Chip.setPort_ticks (p : Nat) (v : Port) : (c.setPort p v).ticks = c.ticks := rfl
@[simp] theorem Chip.setPort_busy (p : Nat) (v : Port) : (c.setPort p v).busy = c.busy := rfl
@[simp] theorem Chip.setPort_ctxs (p : Nat) (v : Port) : (c.setPort p v).ctxs = c.ctxs := rfl
@[simp] theorem Chip.setPort_pressIn (p : Nat) (v : Port) : (c.setPort p v).pressIn = c.pressIn := rfl
@[simp] theorem Chip.setPort_syncIn (p : Nat) (v : Port) : (c.setPort p v).syncIn = c.syncIn := rfl
@[simp] theorem Chip.setPort_timeIn (p : Nat) (v : Port) : (c.setPort p v).timeIn = c.timeIn := rfl
@[simp] theorem Chip.setPort_twinIn (p : Nat) (v : Port) : (c.setPort p v).twinIn = c.twinIn := rfl
@[simp] theorem Chip.setPort_c0In (p : Nat) (v : Port) : (c.setPort p v).c0In = c.c0In := rfl
@[simp] theorem Chip.setPort_c0Out (p : Nat) (v : Port) : (c.setPort p v).c0Out = c.c0Out := rfl
@[simp] theorem Chip.setPort_twin (p : Nat) (v : Port) : (c.setPort p v).twin = c.twin := rfl
@[simp] theorem Chip.setPort_tele (p : Nat) (v : Port) : (c.setPort p v).tele = c.tele := rfl
@[simp] theorem Chip.setPort_mgmt (p : Nat) (v : Port) : (c.setPort p v).mgmt = c.mgmt := rfl
@[simp] theorem Chip.setPort_power (p : Nat) (v : Port) : (c.setPort p v).power = c.power := rfl
@[simp] theorem Chip.setPort_rst (p : Nat) (v : Port) : (c.setPort p v).rst = c.rst := rfl
@[simp] theorem Chip.setPort_out (p : Nat) (v : Port) : (c.setPort p v).out = c.out := rfl

/-! ### `Chip.onLink` -/

@[simp] theorem Chip.onLink_now (k : Nat) (f : Link → Link) : (c.onLink k f).now = c.now := rfl
@[simp] theorem Chip.onLink_free (k : Nat) (f : Link → Link) : (c.onLink k f).free = c.free := rfl
@[simp] theorem Chip.onLink_ids (k : Nat) (f : Link → Link) : (c.onLink k f).ids = c.ids := rfl
@[simp] theorem Chip.onLink_regs (k : Nat) (f : Link → Link) : (c.onLink k f).regs = c.regs := rfl
@[simp] theorem Chip.onLink_latch (k : Nat) (f : Link → Link) : (c.onLink k f).latch = c.latch := rfl
@[simp] theorem Chip.onLink_pages (k : Nat) (f : Link → Link) : (c.onLink k f).pages = c.pages := rfl
@[simp] theorem Chip.onLink_ports (k : Nat) (f : Link → Link) : (c.onLink k f).ports = c.ports := rfl
@[simp] theorem Chip.onLink_links (k : Nat) (f : Link → Link) : (c.onLink k f).links = SMap.set c.links k (f (c.link k)) := rfl
@[simp] theorem Chip.onLink_seams (k : Nat) (f : Link → Link) : (c.onLink k f).seams = c.seams := rfl
@[simp] theorem Chip.onLink_engBad (k : Nat) (f : Link → Link) : (c.onLink k f).engBad = c.engBad := rfl
@[simp] theorem Chip.onLink_engLock (k : Nat) (f : Link → Link) : (c.onLink k f).engLock = c.engLock := rfl
@[simp] theorem Chip.onLink_bufs (k : Nat) (f : Link → Link) : (c.onLink k f).bufs = c.bufs := rfl
@[simp] theorem Chip.onLink_tables (k : Nat) (f : Link → Link) : (c.onLink k f).tables = c.tables := rfl
@[simp] theorem Chip.onLink_badEnt (k : Nat) (f : Link → Link) : (c.onLink k f).badEnt = c.badEnt := rfl
@[simp] theorem Chip.onLink_gate (k : Nat) (f : Link → Link) : (c.onLink k f).gate = c.gate := rfl
@[simp] theorem Chip.onLink_pkts (k : Nat) (f : Link → Link) : (c.onLink k f).pkts = c.pkts := rfl
@[simp] theorem Chip.onLink_stores (k : Nat) (f : Link → Link) : (c.onLink k f).stores = c.stores := rfl
@[simp] theorem Chip.onLink_copies (k : Nat) (f : Link → Link) : (c.onLink k f).copies = c.copies := rfl
@[simp] theorem Chip.onLink_rx (k : Nat) (f : Link → Link) : (c.onLink k f).rx = c.rx := rfl
@[simp] theorem Chip.onLink_probeIn (k : Nat) (f : Link → Link) : (c.onLink k f).probeIn = c.probeIn := rfl
@[simp] theorem Chip.onLink_held (k : Nat) (f : Link → Link) : (c.onLink k f).held = c.held := rfl
@[simp] theorem Chip.onLink_wins (k : Nat) (f : Link → Link) : (c.onLink k f).wins = c.wins := rfl
@[simp] theorem Chip.onLink_jobs (k : Nat) (f : Link → Link) : (c.onLink k f).jobs = c.jobs := rfl
@[simp] theorem Chip.onLink_rinses (k : Nat) (f : Link → Link) : (c.onLink k f).rinses = c.rinses := rfl
@[simp] theorem Chip.onLink_bars (k : Nat) (f : Link → Link) : (c.onLink k f).bars = c.bars := rfl
@[simp] theorem Chip.onLink_time (k : Nat) (f : Link → Link) : (c.onLink k f).time = c.time := rfl
@[simp] theorem Chip.onLink_ticks (k : Nat) (f : Link → Link) : (c.onLink k f).ticks = c.ticks := rfl
@[simp] theorem Chip.onLink_busy (k : Nat) (f : Link → Link) : (c.onLink k f).busy = c.busy := rfl
@[simp] theorem Chip.onLink_ctxs (k : Nat) (f : Link → Link) : (c.onLink k f).ctxs = c.ctxs := rfl
@[simp] theorem Chip.onLink_pressIn (k : Nat) (f : Link → Link) : (c.onLink k f).pressIn = c.pressIn := rfl
@[simp] theorem Chip.onLink_syncIn (k : Nat) (f : Link → Link) : (c.onLink k f).syncIn = c.syncIn := rfl
@[simp] theorem Chip.onLink_timeIn (k : Nat) (f : Link → Link) : (c.onLink k f).timeIn = c.timeIn := rfl
@[simp] theorem Chip.onLink_twinIn (k : Nat) (f : Link → Link) : (c.onLink k f).twinIn = c.twinIn := rfl
@[simp] theorem Chip.onLink_c0In (k : Nat) (f : Link → Link) : (c.onLink k f).c0In = c.c0In := rfl
@[simp] theorem Chip.onLink_c0Out (k : Nat) (f : Link → Link) : (c.onLink k f).c0Out = c.c0Out := rfl
@[simp] theorem Chip.onLink_twin (k : Nat) (f : Link → Link) : (c.onLink k f).twin = c.twin := rfl
@[simp] theorem Chip.onLink_tele (k : Nat) (f : Link → Link) : (c.onLink k f).tele = c.tele := rfl
@[simp] theorem Chip.onLink_mgmt (k : Nat) (f : Link → Link) : (c.onLink k f).mgmt = c.mgmt := rfl
@[simp] theorem Chip.onLink_power (k : Nat) (f : Link → Link) : (c.onLink k f).power = c.power := rfl
@[simp] theorem Chip.onLink_rst (k : Nat) (f : Link → Link) : (c.onLink k f).rst = c.rst := rfl
@[simp] theorem Chip.onLink_out (k : Nat) (f : Link → Link) : (c.onLink k f).out = c.out := rfl

/-! ### `Chip.onSeam` -/

@[simp] theorem Chip.onSeam_now (k : Nat) (f : Seam → Seam) : (c.onSeam k f).now = c.now := rfl
@[simp] theorem Chip.onSeam_free (k : Nat) (f : Seam → Seam) : (c.onSeam k f).free = c.free := rfl
@[simp] theorem Chip.onSeam_ids (k : Nat) (f : Seam → Seam) : (c.onSeam k f).ids = c.ids := rfl
@[simp] theorem Chip.onSeam_regs (k : Nat) (f : Seam → Seam) : (c.onSeam k f).regs = c.regs := rfl
@[simp] theorem Chip.onSeam_latch (k : Nat) (f : Seam → Seam) : (c.onSeam k f).latch = c.latch := rfl
@[simp] theorem Chip.onSeam_pages (k : Nat) (f : Seam → Seam) : (c.onSeam k f).pages = c.pages := rfl
@[simp] theorem Chip.onSeam_ports (k : Nat) (f : Seam → Seam) : (c.onSeam k f).ports = c.ports := rfl
@[simp] theorem Chip.onSeam_links (k : Nat) (f : Seam → Seam) : (c.onSeam k f).links = c.links := rfl
@[simp] theorem Chip.onSeam_seams (k : Nat) (f : Seam → Seam) : (c.onSeam k f).seams = SMap.set c.seams k (f (c.seam k)) := rfl
@[simp] theorem Chip.onSeam_engBad (k : Nat) (f : Seam → Seam) : (c.onSeam k f).engBad = c.engBad := rfl
@[simp] theorem Chip.onSeam_engLock (k : Nat) (f : Seam → Seam) : (c.onSeam k f).engLock = c.engLock := rfl
@[simp] theorem Chip.onSeam_bufs (k : Nat) (f : Seam → Seam) : (c.onSeam k f).bufs = c.bufs := rfl
@[simp] theorem Chip.onSeam_tables (k : Nat) (f : Seam → Seam) : (c.onSeam k f).tables = c.tables := rfl
@[simp] theorem Chip.onSeam_badEnt (k : Nat) (f : Seam → Seam) : (c.onSeam k f).badEnt = c.badEnt := rfl
@[simp] theorem Chip.onSeam_gate (k : Nat) (f : Seam → Seam) : (c.onSeam k f).gate = c.gate := rfl
@[simp] theorem Chip.onSeam_pkts (k : Nat) (f : Seam → Seam) : (c.onSeam k f).pkts = c.pkts := rfl
@[simp] theorem Chip.onSeam_stores (k : Nat) (f : Seam → Seam) : (c.onSeam k f).stores = c.stores := rfl
@[simp] theorem Chip.onSeam_copies (k : Nat) (f : Seam → Seam) : (c.onSeam k f).copies = c.copies := rfl
@[simp] theorem Chip.onSeam_rx (k : Nat) (f : Seam → Seam) : (c.onSeam k f).rx = c.rx := rfl
@[simp] theorem Chip.onSeam_probeIn (k : Nat) (f : Seam → Seam) : (c.onSeam k f).probeIn = c.probeIn := rfl
@[simp] theorem Chip.onSeam_held (k : Nat) (f : Seam → Seam) : (c.onSeam k f).held = c.held := rfl
@[simp] theorem Chip.onSeam_wins (k : Nat) (f : Seam → Seam) : (c.onSeam k f).wins = c.wins := rfl
@[simp] theorem Chip.onSeam_jobs (k : Nat) (f : Seam → Seam) : (c.onSeam k f).jobs = c.jobs := rfl
@[simp] theorem Chip.onSeam_rinses (k : Nat) (f : Seam → Seam) : (c.onSeam k f).rinses = c.rinses := rfl
@[simp] theorem Chip.onSeam_bars (k : Nat) (f : Seam → Seam) : (c.onSeam k f).bars = c.bars := rfl
@[simp] theorem Chip.onSeam_time (k : Nat) (f : Seam → Seam) : (c.onSeam k f).time = c.time := rfl
@[simp] theorem Chip.onSeam_ticks (k : Nat) (f : Seam → Seam) : (c.onSeam k f).ticks = c.ticks := rfl
@[simp] theorem Chip.onSeam_busy (k : Nat) (f : Seam → Seam) : (c.onSeam k f).busy = c.busy := rfl
@[simp] theorem Chip.onSeam_ctxs (k : Nat) (f : Seam → Seam) : (c.onSeam k f).ctxs = c.ctxs := rfl
@[simp] theorem Chip.onSeam_pressIn (k : Nat) (f : Seam → Seam) : (c.onSeam k f).pressIn = c.pressIn := rfl
@[simp] theorem Chip.onSeam_syncIn (k : Nat) (f : Seam → Seam) : (c.onSeam k f).syncIn = c.syncIn := rfl
@[simp] theorem Chip.onSeam_timeIn (k : Nat) (f : Seam → Seam) : (c.onSeam k f).timeIn = c.timeIn := rfl
@[simp] theorem Chip.onSeam_twinIn (k : Nat) (f : Seam → Seam) : (c.onSeam k f).twinIn = c.twinIn := rfl
@[simp] theorem Chip.onSeam_c0In (k : Nat) (f : Seam → Seam) : (c.onSeam k f).c0In = c.c0In := rfl
@[simp] theorem Chip.onSeam_c0Out (k : Nat) (f : Seam → Seam) : (c.onSeam k f).c0Out = c.c0Out := rfl
@[simp] theorem Chip.onSeam_twin (k : Nat) (f : Seam → Seam) : (c.onSeam k f).twin = c.twin := rfl
@[simp] theorem Chip.onSeam_tele (k : Nat) (f : Seam → Seam) : (c.onSeam k f).tele = c.tele := rfl
@[simp] theorem Chip.onSeam_mgmt (k : Nat) (f : Seam → Seam) : (c.onSeam k f).mgmt = c.mgmt := rfl
@[simp] theorem Chip.onSeam_power (k : Nat) (f : Seam → Seam) : (c.onSeam k f).power = c.power := rfl
@[simp] theorem Chip.onSeam_rst (k : Nat) (f : Seam → Seam) : (c.onSeam k f).rst = c.rst := rfl
@[simp] theorem Chip.onSeam_out (k : Nat) (f : Seam → Seam) : (c.onSeam k f).out = c.out := rfl

/-! ### `Chip.onBuf` -/

@[simp] theorem Chip.onBuf_now (q : Nat) (f : Buf → Buf) : (c.onBuf q f).now = c.now := rfl
@[simp] theorem Chip.onBuf_free (q : Nat) (f : Buf → Buf) : (c.onBuf q f).free = c.free := rfl
@[simp] theorem Chip.onBuf_ids (q : Nat) (f : Buf → Buf) : (c.onBuf q f).ids = c.ids := rfl
@[simp] theorem Chip.onBuf_regs (q : Nat) (f : Buf → Buf) : (c.onBuf q f).regs = c.regs := rfl
@[simp] theorem Chip.onBuf_latch (q : Nat) (f : Buf → Buf) : (c.onBuf q f).latch = c.latch := rfl
@[simp] theorem Chip.onBuf_pages (q : Nat) (f : Buf → Buf) : (c.onBuf q f).pages = c.pages := rfl
@[simp] theorem Chip.onBuf_ports (q : Nat) (f : Buf → Buf) : (c.onBuf q f).ports = c.ports := rfl
@[simp] theorem Chip.onBuf_links (q : Nat) (f : Buf → Buf) : (c.onBuf q f).links = c.links := rfl
@[simp] theorem Chip.onBuf_seams (q : Nat) (f : Buf → Buf) : (c.onBuf q f).seams = c.seams := rfl
@[simp] theorem Chip.onBuf_engBad (q : Nat) (f : Buf → Buf) : (c.onBuf q f).engBad = c.engBad := rfl
@[simp] theorem Chip.onBuf_engLock (q : Nat) (f : Buf → Buf) : (c.onBuf q f).engLock = c.engLock := rfl
@[simp] theorem Chip.onBuf_bufs (q : Nat) (f : Buf → Buf) : (c.onBuf q f).bufs = SMap.set c.bufs q (f (c.buf q)) := rfl
@[simp] theorem Chip.onBuf_tables (q : Nat) (f : Buf → Buf) : (c.onBuf q f).tables = c.tables := rfl
@[simp] theorem Chip.onBuf_badEnt (q : Nat) (f : Buf → Buf) : (c.onBuf q f).badEnt = c.badEnt := rfl
@[simp] theorem Chip.onBuf_gate (q : Nat) (f : Buf → Buf) : (c.onBuf q f).gate = c.gate := rfl
@[simp] theorem Chip.onBuf_pkts (q : Nat) (f : Buf → Buf) : (c.onBuf q f).pkts = c.pkts := rfl
@[simp] theorem Chip.onBuf_stores (q : Nat) (f : Buf → Buf) : (c.onBuf q f).stores = c.stores := rfl
@[simp] theorem Chip.onBuf_copies (q : Nat) (f : Buf → Buf) : (c.onBuf q f).copies = c.copies := rfl
@[simp] theorem Chip.onBuf_rx (q : Nat) (f : Buf → Buf) : (c.onBuf q f).rx = c.rx := rfl
@[simp] theorem Chip.onBuf_probeIn (q : Nat) (f : Buf → Buf) : (c.onBuf q f).probeIn = c.probeIn := rfl
@[simp] theorem Chip.onBuf_held (q : Nat) (f : Buf → Buf) : (c.onBuf q f).held = c.held := rfl
@[simp] theorem Chip.onBuf_wins (q : Nat) (f : Buf → Buf) : (c.onBuf q f).wins = c.wins := rfl
@[simp] theorem Chip.onBuf_jobs (q : Nat) (f : Buf → Buf) : (c.onBuf q f).jobs = c.jobs := rfl
@[simp] theorem Chip.onBuf_rinses (q : Nat) (f : Buf → Buf) : (c.onBuf q f).rinses = c.rinses := rfl
@[simp] theorem Chip.onBuf_bars (q : Nat) (f : Buf → Buf) : (c.onBuf q f).bars = c.bars := rfl
@[simp] theorem Chip.onBuf_time (q : Nat) (f : Buf → Buf) : (c.onBuf q f).time = c.time := rfl
@[simp] theorem Chip.onBuf_ticks (q : Nat) (f : Buf → Buf) : (c.onBuf q f).ticks = c.ticks := rfl
@[simp] theorem Chip.onBuf_busy (q : Nat) (f : Buf → Buf) : (c.onBuf q f).busy = c.busy := rfl
@[simp] theorem Chip.onBuf_ctxs (q : Nat) (f : Buf → Buf) : (c.onBuf q f).ctxs = c.ctxs := rfl
@[simp] theorem Chip.onBuf_pressIn (q : Nat) (f : Buf → Buf) : (c.onBuf q f).pressIn = c.pressIn := rfl
@[simp] theorem Chip.onBuf_syncIn (q : Nat) (f : Buf → Buf) : (c.onBuf q f).syncIn = c.syncIn := rfl
@[simp] theorem Chip.onBuf_timeIn (q : Nat) (f : Buf → Buf) : (c.onBuf q f).timeIn = c.timeIn := rfl
@[simp] theorem Chip.onBuf_twinIn (q : Nat) (f : Buf → Buf) : (c.onBuf q f).twinIn = c.twinIn := rfl
@[simp] theorem Chip.onBuf_c0In (q : Nat) (f : Buf → Buf) : (c.onBuf q f).c0In = c.c0In := rfl
@[simp] theorem Chip.onBuf_c0Out (q : Nat) (f : Buf → Buf) : (c.onBuf q f).c0Out = c.c0Out := rfl
@[simp] theorem Chip.onBuf_twin (q : Nat) (f : Buf → Buf) : (c.onBuf q f).twin = c.twin := rfl
@[simp] theorem Chip.onBuf_tele (q : Nat) (f : Buf → Buf) : (c.onBuf q f).tele = c.tele := rfl
@[simp] theorem Chip.onBuf_mgmt (q : Nat) (f : Buf → Buf) : (c.onBuf q f).mgmt = c.mgmt := rfl
@[simp] theorem Chip.onBuf_power (q : Nat) (f : Buf → Buf) : (c.onBuf q f).power = c.power := rfl
@[simp] theorem Chip.onBuf_rst (q : Nat) (f : Buf → Buf) : (c.onBuf q f).rst = c.rst := rfl
@[simp] theorem Chip.onBuf_out (q : Nat) (f : Buf → Buf) : (c.onBuf q f).out = c.out := rfl

/-! ### `Chip.onCtx` -/

@[simp] theorem Chip.onCtx_now (k : Nat) (f : Ctx → Ctx) : (c.onCtx k f).now = c.now := rfl
@[simp] theorem Chip.onCtx_free (k : Nat) (f : Ctx → Ctx) : (c.onCtx k f).free = c.free := rfl
@[simp] theorem Chip.onCtx_ids (k : Nat) (f : Ctx → Ctx) : (c.onCtx k f).ids = c.ids := rfl
@[simp] theorem Chip.onCtx_regs (k : Nat) (f : Ctx → Ctx) : (c.onCtx k f).regs = c.regs := rfl
@[simp] theorem Chip.onCtx_latch (k : Nat) (f : Ctx → Ctx) : (c.onCtx k f).latch = c.latch := rfl
@[simp] theorem Chip.onCtx_pages (k : Nat) (f : Ctx → Ctx) : (c.onCtx k f).pages = c.pages := rfl
@[simp] theorem Chip.onCtx_ports (k : Nat) (f : Ctx → Ctx) : (c.onCtx k f).ports = c.ports := rfl
@[simp] theorem Chip.onCtx_links (k : Nat) (f : Ctx → Ctx) : (c.onCtx k f).links = c.links := rfl
@[simp] theorem Chip.onCtx_seams (k : Nat) (f : Ctx → Ctx) : (c.onCtx k f).seams = c.seams := rfl
@[simp] theorem Chip.onCtx_engBad (k : Nat) (f : Ctx → Ctx) : (c.onCtx k f).engBad = c.engBad := rfl
@[simp] theorem Chip.onCtx_engLock (k : Nat) (f : Ctx → Ctx) : (c.onCtx k f).engLock = c.engLock := rfl
@[simp] theorem Chip.onCtx_bufs (k : Nat) (f : Ctx → Ctx) : (c.onCtx k f).bufs = c.bufs := rfl
@[simp] theorem Chip.onCtx_tables (k : Nat) (f : Ctx → Ctx) : (c.onCtx k f).tables = c.tables := rfl
@[simp] theorem Chip.onCtx_badEnt (k : Nat) (f : Ctx → Ctx) : (c.onCtx k f).badEnt = c.badEnt := rfl
@[simp] theorem Chip.onCtx_gate (k : Nat) (f : Ctx → Ctx) : (c.onCtx k f).gate = c.gate := rfl
@[simp] theorem Chip.onCtx_pkts (k : Nat) (f : Ctx → Ctx) : (c.onCtx k f).pkts = c.pkts := rfl
@[simp] theorem Chip.onCtx_stores (k : Nat) (f : Ctx → Ctx) : (c.onCtx k f).stores = c.stores := rfl
@[simp] theorem Chip.onCtx_copies (k : Nat) (f : Ctx → Ctx) : (c.onCtx k f).copies = c.copies := rfl
@[simp] theorem Chip.onCtx_rx (k : Nat) (f : Ctx → Ctx) : (c.onCtx k f).rx = c.rx := rfl
@[simp] theorem Chip.onCtx_probeIn (k : Nat) (f : Ctx → Ctx) : (c.onCtx k f).probeIn = c.probeIn := rfl
@[simp] theorem Chip.onCtx_held (k : Nat) (f : Ctx → Ctx) : (c.onCtx k f).held = c.held := rfl
@[simp] theorem Chip.onCtx_wins (k : Nat) (f : Ctx → Ctx) : (c.onCtx k f).wins = c.wins := rfl
@[simp] theorem Chip.onCtx_jobs (k : Nat) (f : Ctx → Ctx) : (c.onCtx k f).jobs = c.jobs := rfl
@[simp] theorem Chip.onCtx_rinses (k : Nat) (f : Ctx → Ctx) : (c.onCtx k f).rinses = c.rinses := rfl
@[simp] theorem Chip.onCtx_bars (k : Nat) (f : Ctx → Ctx) : (c.onCtx k f).bars = c.bars := rfl
@[simp] theorem Chip.onCtx_time (k : Nat) (f : Ctx → Ctx) : (c.onCtx k f).time = c.time := rfl
@[simp] theorem Chip.onCtx_ticks (k : Nat) (f : Ctx → Ctx) : (c.onCtx k f).ticks = c.ticks := rfl
@[simp] theorem Chip.onCtx_busy (k : Nat) (f : Ctx → Ctx) : (c.onCtx k f).busy = c.busy := rfl
@[simp] theorem Chip.onCtx_ctxs (k : Nat) (f : Ctx → Ctx) : (c.onCtx k f).ctxs = SMap.set c.ctxs k (f (c.ctx k)) := rfl
@[simp] theorem Chip.onCtx_pressIn (k : Nat) (f : Ctx → Ctx) : (c.onCtx k f).pressIn = c.pressIn := rfl
@[simp] theorem Chip.onCtx_syncIn (k : Nat) (f : Ctx → Ctx) : (c.onCtx k f).syncIn = c.syncIn := rfl
@[simp] theorem Chip.onCtx_timeIn (k : Nat) (f : Ctx → Ctx) : (c.onCtx k f).timeIn = c.timeIn := rfl
@[simp] theorem Chip.onCtx_twinIn (k : Nat) (f : Ctx → Ctx) : (c.onCtx k f).twinIn = c.twinIn := rfl
@[simp] theorem Chip.onCtx_c0In (k : Nat) (f : Ctx → Ctx) : (c.onCtx k f).c0In = c.c0In := rfl
@[simp] theorem Chip.onCtx_c0Out (k : Nat) (f : Ctx → Ctx) : (c.onCtx k f).c0Out = c.c0Out := rfl
@[simp] theorem Chip.onCtx_twin (k : Nat) (f : Ctx → Ctx) : (c.onCtx k f).twin = c.twin := rfl
@[simp] theorem Chip.onCtx_tele (k : Nat) (f : Ctx → Ctx) : (c.onCtx k f).tele = c.tele := rfl
@[simp] theorem Chip.onCtx_mgmt (k : Nat) (f : Ctx → Ctx) : (c.onCtx k f).mgmt = c.mgmt := rfl
@[simp] theorem Chip.onCtx_power (k : Nat) (f : Ctx → Ctx) : (c.onCtx k f).power = c.power := rfl
@[simp] theorem Chip.onCtx_rst (k : Nat) (f : Ctx → Ctx) : (c.onCtx k f).rst = c.rst := rfl
@[simp] theorem Chip.onCtx_out (k : Nat) (f : Ctx → Ctx) : (c.onCtx k f).out = c.out := rfl

/-! ### `Chip.onJob` -/

@[simp] theorem Chip.onJob_now (j : Nat) (f : Job → Job) : (c.onJob j f).now = c.now := rfl
@[simp] theorem Chip.onJob_free (j : Nat) (f : Job → Job) : (c.onJob j f).free = c.free := rfl
@[simp] theorem Chip.onJob_ids (j : Nat) (f : Job → Job) : (c.onJob j f).ids = c.ids := rfl
@[simp] theorem Chip.onJob_regs (j : Nat) (f : Job → Job) : (c.onJob j f).regs = c.regs := rfl
@[simp] theorem Chip.onJob_latch (j : Nat) (f : Job → Job) : (c.onJob j f).latch = c.latch := rfl
@[simp] theorem Chip.onJob_pages (j : Nat) (f : Job → Job) : (c.onJob j f).pages = c.pages := rfl
@[simp] theorem Chip.onJob_ports (j : Nat) (f : Job → Job) : (c.onJob j f).ports = c.ports := rfl
@[simp] theorem Chip.onJob_links (j : Nat) (f : Job → Job) : (c.onJob j f).links = c.links := rfl
@[simp] theorem Chip.onJob_seams (j : Nat) (f : Job → Job) : (c.onJob j f).seams = c.seams := rfl
@[simp] theorem Chip.onJob_engBad (j : Nat) (f : Job → Job) : (c.onJob j f).engBad = c.engBad := rfl
@[simp] theorem Chip.onJob_engLock (j : Nat) (f : Job → Job) : (c.onJob j f).engLock = c.engLock := rfl
@[simp] theorem Chip.onJob_bufs (j : Nat) (f : Job → Job) : (c.onJob j f).bufs = c.bufs := rfl
@[simp] theorem Chip.onJob_tables (j : Nat) (f : Job → Job) : (c.onJob j f).tables = c.tables := rfl
@[simp] theorem Chip.onJob_badEnt (j : Nat) (f : Job → Job) : (c.onJob j f).badEnt = c.badEnt := rfl
@[simp] theorem Chip.onJob_gate (j : Nat) (f : Job → Job) : (c.onJob j f).gate = c.gate := rfl
@[simp] theorem Chip.onJob_pkts (j : Nat) (f : Job → Job) : (c.onJob j f).pkts = c.pkts := rfl
@[simp] theorem Chip.onJob_stores (j : Nat) (f : Job → Job) : (c.onJob j f).stores = c.stores := rfl
@[simp] theorem Chip.onJob_copies (j : Nat) (f : Job → Job) : (c.onJob j f).copies = c.copies := rfl
@[simp] theorem Chip.onJob_rx (j : Nat) (f : Job → Job) : (c.onJob j f).rx = c.rx := rfl
@[simp] theorem Chip.onJob_probeIn (j : Nat) (f : Job → Job) : (c.onJob j f).probeIn = c.probeIn := rfl
@[simp] theorem Chip.onJob_held (j : Nat) (f : Job → Job) : (c.onJob j f).held = c.held := rfl
@[simp] theorem Chip.onJob_wins (j : Nat) (f : Job → Job) : (c.onJob j f).wins = c.wins := rfl
@[simp] theorem Chip.onJob_jobs (j : Nat) (f : Job → Job) : (c.onJob j f).jobs = SMap.set c.jobs j (f (c.job j)) := rfl
@[simp] theorem Chip.onJob_rinses (j : Nat) (f : Job → Job) : (c.onJob j f).rinses = c.rinses := rfl
@[simp] theorem Chip.onJob_bars (j : Nat) (f : Job → Job) : (c.onJob j f).bars = c.bars := rfl
@[simp] theorem Chip.onJob_time (j : Nat) (f : Job → Job) : (c.onJob j f).time = c.time := rfl
@[simp] theorem Chip.onJob_ticks (j : Nat) (f : Job → Job) : (c.onJob j f).ticks = c.ticks := rfl
@[simp] theorem Chip.onJob_busy (j : Nat) (f : Job → Job) : (c.onJob j f).busy = c.busy := rfl
@[simp] theorem Chip.onJob_ctxs (j : Nat) (f : Job → Job) : (c.onJob j f).ctxs = c.ctxs := rfl
@[simp] theorem Chip.onJob_pressIn (j : Nat) (f : Job → Job) : (c.onJob j f).pressIn = c.pressIn := rfl
@[simp] theorem Chip.onJob_syncIn (j : Nat) (f : Job → Job) : (c.onJob j f).syncIn = c.syncIn := rfl
@[simp] theorem Chip.onJob_timeIn (j : Nat) (f : Job → Job) : (c.onJob j f).timeIn = c.timeIn := rfl
@[simp] theorem Chip.onJob_twinIn (j : Nat) (f : Job → Job) : (c.onJob j f).twinIn = c.twinIn := rfl
@[simp] theorem Chip.onJob_c0In (j : Nat) (f : Job → Job) : (c.onJob j f).c0In = c.c0In := rfl
@[simp] theorem Chip.onJob_c0Out (j : Nat) (f : Job → Job) : (c.onJob j f).c0Out = c.c0Out := rfl
@[simp] theorem Chip.onJob_twin (j : Nat) (f : Job → Job) : (c.onJob j f).twin = c.twin := rfl
@[simp] theorem Chip.onJob_tele (j : Nat) (f : Job → Job) : (c.onJob j f).tele = c.tele := rfl
@[simp] theorem Chip.onJob_mgmt (j : Nat) (f : Job → Job) : (c.onJob j f).mgmt = c.mgmt := rfl
@[simp] theorem Chip.onJob_power (j : Nat) (f : Job → Job) : (c.onJob j f).power = c.power := rfl
@[simp] theorem Chip.onJob_rst (j : Nat) (f : Job → Job) : (c.onJob j f).rst = c.rst := rfl
@[simp] theorem Chip.onJob_out (j : Nat) (f : Job → Job) : (c.onJob j f).out = c.out := rfl

/-! ### `Chip.onBar` -/

@[simp] theorem Chip.onBar_now (b : Nat) (f : Bar → Bar) : (c.onBar b f).now = c.now := rfl
@[simp] theorem Chip.onBar_free (b : Nat) (f : Bar → Bar) : (c.onBar b f).free = c.free := rfl
@[simp] theorem Chip.onBar_ids (b : Nat) (f : Bar → Bar) : (c.onBar b f).ids = c.ids := rfl
@[simp] theorem Chip.onBar_regs (b : Nat) (f : Bar → Bar) : (c.onBar b f).regs = c.regs := rfl
@[simp] theorem Chip.onBar_latch (b : Nat) (f : Bar → Bar) : (c.onBar b f).latch = c.latch := rfl
@[simp] theorem Chip.onBar_pages (b : Nat) (f : Bar → Bar) : (c.onBar b f).pages = c.pages := rfl
@[simp] theorem Chip.onBar_ports (b : Nat) (f : Bar → Bar) : (c.onBar b f).ports = c.ports := rfl
@[simp] theorem Chip.onBar_links (b : Nat) (f : Bar → Bar) : (c.onBar b f).links = c.links := rfl
@[simp] theorem Chip.onBar_seams (b : Nat) (f : Bar → Bar) : (c.onBar b f).seams = c.seams := rfl
@[simp] theorem Chip.onBar_engBad (b : Nat) (f : Bar → Bar) : (c.onBar b f).engBad = c.engBad := rfl
@[simp] theorem Chip.onBar_engLock (b : Nat) (f : Bar → Bar) : (c.onBar b f).engLock = c.engLock := rfl
@[simp] theorem Chip.onBar_bufs (b : Nat) (f : Bar → Bar) : (c.onBar b f).bufs = c.bufs := rfl
@[simp] theorem Chip.onBar_tables (b : Nat) (f : Bar → Bar) : (c.onBar b f).tables = c.tables := rfl
@[simp] theorem Chip.onBar_badEnt (b : Nat) (f : Bar → Bar) : (c.onBar b f).badEnt = c.badEnt := rfl
@[simp] theorem Chip.onBar_gate (b : Nat) (f : Bar → Bar) : (c.onBar b f).gate = c.gate := rfl
@[simp] theorem Chip.onBar_pkts (b : Nat) (f : Bar → Bar) : (c.onBar b f).pkts = c.pkts := rfl
@[simp] theorem Chip.onBar_stores (b : Nat) (f : Bar → Bar) : (c.onBar b f).stores = c.stores := rfl
@[simp] theorem Chip.onBar_copies (b : Nat) (f : Bar → Bar) : (c.onBar b f).copies = c.copies := rfl
@[simp] theorem Chip.onBar_rx (b : Nat) (f : Bar → Bar) : (c.onBar b f).rx = c.rx := rfl
@[simp] theorem Chip.onBar_probeIn (b : Nat) (f : Bar → Bar) : (c.onBar b f).probeIn = c.probeIn := rfl
@[simp] theorem Chip.onBar_held (b : Nat) (f : Bar → Bar) : (c.onBar b f).held = c.held := rfl
@[simp] theorem Chip.onBar_wins (b : Nat) (f : Bar → Bar) : (c.onBar b f).wins = c.wins := rfl
@[simp] theorem Chip.onBar_jobs (b : Nat) (f : Bar → Bar) : (c.onBar b f).jobs = c.jobs := rfl
@[simp] theorem Chip.onBar_rinses (b : Nat) (f : Bar → Bar) : (c.onBar b f).rinses = c.rinses := rfl
@[simp] theorem Chip.onBar_bars (b : Nat) (f : Bar → Bar) : (c.onBar b f).bars = SMap.set c.bars b (f (c.bar b)) := rfl
@[simp] theorem Chip.onBar_time (b : Nat) (f : Bar → Bar) : (c.onBar b f).time = c.time := rfl
@[simp] theorem Chip.onBar_ticks (b : Nat) (f : Bar → Bar) : (c.onBar b f).ticks = c.ticks := rfl
@[simp] theorem Chip.onBar_busy (b : Nat) (f : Bar → Bar) : (c.onBar b f).busy = c.busy := rfl
@[simp] theorem Chip.onBar_ctxs (b : Nat) (f : Bar → Bar) : (c.onBar b f).ctxs = c.ctxs := rfl
@[simp] theorem Chip.onBar_pressIn (b : Nat) (f : Bar → Bar) : (c.onBar b f).pressIn = c.pressIn := rfl
@[simp] theorem Chip.onBar_syncIn (b : Nat) (f : Bar → Bar) : (c.onBar b f).syncIn = c.syncIn := rfl
@[simp] theorem Chip.onBar_timeIn (b : Nat) (f : Bar → Bar) : (c.onBar b f).timeIn = c.timeIn := rfl
@[simp] theorem Chip.onBar_twinIn (b : Nat) (f : Bar → Bar) : (c.onBar b f).twinIn = c.twinIn := rfl
@[simp] theorem Chip.onBar_c0In (b : Nat) (f : Bar → Bar) : (c.onBar b f).c0In = c.c0In := rfl
@[simp] theorem Chip.onBar_c0Out (b : Nat) (f : Bar → Bar) : (c.onBar b f).c0Out = c.c0Out := rfl
@[simp] theorem Chip.onBar_twin (b : Nat) (f : Bar → Bar) : (c.onBar b f).twin = c.twin := rfl
@[simp] theorem Chip.onBar_tele (b : Nat) (f : Bar → Bar) : (c.onBar b f).tele = c.tele := rfl
@[simp] theorem Chip.onBar_mgmt (b : Nat) (f : Bar → Bar) : (c.onBar b f).mgmt = c.mgmt := rfl
@[simp] theorem Chip.onBar_power (b : Nat) (f : Bar → Bar) : (c.onBar b f).power = c.power := rfl
@[simp] theorem Chip.onBar_rst (b : Nat) (f : Bar → Bar) : (c.onBar b f).rst = c.rst := rfl
@[simp] theorem Chip.onBar_out (b : Nat) (f : Bar → Bar) : (c.onBar b f).out = c.out := rfl

/-! ### `Chip.emit` -/

@[simp] theorem Chip.emit_now (e : Emit) : (c.emit e).now = c.now := rfl
@[simp] theorem Chip.emit_free (e : Emit) : (c.emit e).free = c.free := rfl
@[simp] theorem Chip.emit_ids (e : Emit) : (c.emit e).ids = c.ids := rfl
@[simp] theorem Chip.emit_regs (e : Emit) : (c.emit e).regs = c.regs := rfl
@[simp] theorem Chip.emit_latch (e : Emit) : (c.emit e).latch = c.latch := rfl
@[simp] theorem Chip.emit_pages (e : Emit) : (c.emit e).pages = c.pages := rfl
@[simp] theorem Chip.emit_ports (e : Emit) : (c.emit e).ports = c.ports := rfl
@[simp] theorem Chip.emit_links (e : Emit) : (c.emit e).links = c.links := rfl
@[simp] theorem Chip.emit_seams (e : Emit) : (c.emit e).seams = c.seams := rfl
@[simp] theorem Chip.emit_engBad (e : Emit) : (c.emit e).engBad = c.engBad := rfl
@[simp] theorem Chip.emit_engLock (e : Emit) : (c.emit e).engLock = c.engLock := rfl
@[simp] theorem Chip.emit_bufs (e : Emit) : (c.emit e).bufs = c.bufs := rfl
@[simp] theorem Chip.emit_tables (e : Emit) : (c.emit e).tables = c.tables := rfl
@[simp] theorem Chip.emit_badEnt (e : Emit) : (c.emit e).badEnt = c.badEnt := rfl
@[simp] theorem Chip.emit_gate (e : Emit) : (c.emit e).gate = c.gate := rfl
@[simp] theorem Chip.emit_pkts (e : Emit) : (c.emit e).pkts = c.pkts := rfl
@[simp] theorem Chip.emit_stores (e : Emit) : (c.emit e).stores = c.stores := rfl
@[simp] theorem Chip.emit_copies (e : Emit) : (c.emit e).copies = c.copies := rfl
@[simp] theorem Chip.emit_rx (e : Emit) : (c.emit e).rx = c.rx := rfl
@[simp] theorem Chip.emit_probeIn (e : Emit) : (c.emit e).probeIn = c.probeIn := rfl
@[simp] theorem Chip.emit_held (e : Emit) : (c.emit e).held = c.held := rfl
@[simp] theorem Chip.emit_wins (e : Emit) : (c.emit e).wins = c.wins := rfl
@[simp] theorem Chip.emit_jobs (e : Emit) : (c.emit e).jobs = c.jobs := rfl
@[simp] theorem Chip.emit_rinses (e : Emit) : (c.emit e).rinses = c.rinses := rfl
@[simp] theorem Chip.emit_bars (e : Emit) : (c.emit e).bars = c.bars := rfl
@[simp] theorem Chip.emit_time (e : Emit) : (c.emit e).time = c.time := rfl
@[simp] theorem Chip.emit_ticks (e : Emit) : (c.emit e).ticks = c.ticks := rfl
@[simp] theorem Chip.emit_busy (e : Emit) : (c.emit e).busy = c.busy := rfl
@[simp] theorem Chip.emit_ctxs (e : Emit) : (c.emit e).ctxs = c.ctxs := rfl
@[simp] theorem Chip.emit_pressIn (e : Emit) : (c.emit e).pressIn = c.pressIn := rfl
@[simp] theorem Chip.emit_syncIn (e : Emit) : (c.emit e).syncIn = c.syncIn := rfl
@[simp] theorem Chip.emit_timeIn (e : Emit) : (c.emit e).timeIn = c.timeIn := rfl
@[simp] theorem Chip.emit_twinIn (e : Emit) : (c.emit e).twinIn = c.twinIn := rfl
@[simp] theorem Chip.emit_c0In (e : Emit) : (c.emit e).c0In = c.c0In := rfl
@[simp] theorem Chip.emit_c0Out (e : Emit) : (c.emit e).c0Out = c.c0Out := rfl
@[simp] theorem Chip.emit_twin (e : Emit) : (c.emit e).twin = c.twin := rfl
@[simp] theorem Chip.emit_tele (e : Emit) : (c.emit e).tele = c.tele := rfl
@[simp] theorem Chip.emit_mgmt (e : Emit) : (c.emit e).mgmt = c.mgmt := rfl
@[simp] theorem Chip.emit_power (e : Emit) : (c.emit e).power = c.power := rfl
@[simp] theorem Chip.emit_rst (e : Emit) : (c.emit e).rst = c.rst := rfl
@[simp] theorem Chip.emit_out (e : Emit) : (c.emit e).out = e :: c.out := rfl

/-! ### `Chip.onPower` -/

@[simp] theorem Chip.onPower_now (f : Power → Power) : (c.onPower f).now = c.now := rfl
@[simp] theorem Chip.onPower_free (f : Power → Power) : (c.onPower f).free = c.free := rfl
@[simp] theorem Chip.onPower_ids (f : Power → Power) : (c.onPower f).ids = c.ids := rfl
@[simp] theorem Chip.onPower_regs (f : Power → Power) : (c.onPower f).regs = c.regs := rfl
@[simp] theorem Chip.onPower_latch (f : Power → Power) : (c.onPower f).latch = c.latch := rfl
@[simp] theorem Chip.onPower_pages (f : Power → Power) : (c.onPower f).pages = c.pages := rfl
@[simp] theorem Chip.onPower_ports (f : Power → Power) : (c.onPower f).ports = c.ports := rfl
@[simp] theorem Chip.onPower_links (f : Power → Power) : (c.onPower f).links = c.links := rfl
@[simp] theorem Chip.onPower_seams (f : Power → Power) : (c.onPower f).seams = c.seams := rfl
@[simp] theorem Chip.onPower_engBad (f : Power → Power) : (c.onPower f).engBad = c.engBad := rfl
@[simp] theorem Chip.onPower_engLock (f : Power → Power) : (c.onPower f).engLock = c.engLock := rfl
@[simp] theorem Chip.onPower_bufs (f : Power → Power) : (c.onPower f).bufs = c.bufs := rfl
@[simp] theorem Chip.onPower_tables (f : Power → Power) : (c.onPower f).tables = c.tables := rfl
@[simp] theorem Chip.onPower_badEnt (f : Power → Power) : (c.onPower f).badEnt = c.badEnt := rfl
@[simp] theorem Chip.onPower_gate (f : Power → Power) : (c.onPower f).gate = c.gate := rfl
@[simp] theorem Chip.onPower_pkts (f : Power → Power) : (c.onPower f).pkts = c.pkts := rfl
@[simp] theorem Chip.onPower_stores (f : Power → Power) : (c.onPower f).stores = c.stores := rfl
@[simp] theorem Chip.onPower_copies (f : Power → Power) : (c.onPower f).copies = c.copies := rfl
@[simp] theorem Chip.onPower_rx (f : Power → Power) : (c.onPower f).rx = c.rx := rfl
@[simp] theorem Chip.onPower_probeIn (f : Power → Power) : (c.onPower f).probeIn = c.probeIn := rfl
@[simp] theorem Chip.onPower_held (f : Power → Power) : (c.onPower f).held = c.held := rfl
@[simp] theorem Chip.onPower_wins (f : Power → Power) : (c.onPower f).wins = c.wins := rfl
@[simp] theorem Chip.onPower_jobs (f : Power → Power) : (c.onPower f).jobs = c.jobs := rfl
@[simp] theorem Chip.onPower_rinses (f : Power → Power) : (c.onPower f).rinses = c.rinses := rfl
@[simp] theorem Chip.onPower_bars (f : Power → Power) : (c.onPower f).bars = c.bars := rfl
@[simp] theorem Chip.onPower_time (f : Power → Power) : (c.onPower f).time = c.time := rfl
@[simp] theorem Chip.onPower_ticks (f : Power → Power) : (c.onPower f).ticks = c.ticks := rfl
@[simp] theorem Chip.onPower_busy (f : Power → Power) : (c.onPower f).busy = c.busy := rfl
@[simp] theorem Chip.onPower_ctxs (f : Power → Power) : (c.onPower f).ctxs = c.ctxs := rfl
@[simp] theorem Chip.onPower_pressIn (f : Power → Power) : (c.onPower f).pressIn = c.pressIn := rfl
@[simp] theorem Chip.onPower_syncIn (f : Power → Power) : (c.onPower f).syncIn = c.syncIn := rfl
@[simp] theorem Chip.onPower_timeIn (f : Power → Power) : (c.onPower f).timeIn = c.timeIn := rfl
@[simp] theorem Chip.onPower_twinIn (f : Power → Power) : (c.onPower f).twinIn = c.twinIn := rfl
@[simp] theorem Chip.onPower_c0In (f : Power → Power) : (c.onPower f).c0In = c.c0In := rfl
@[simp] theorem Chip.onPower_c0Out (f : Power → Power) : (c.onPower f).c0Out = c.c0Out := rfl
@[simp] theorem Chip.onPower_twin (f : Power → Power) : (c.onPower f).twin = c.twin := rfl
@[simp] theorem Chip.onPower_tele (f : Power → Power) : (c.onPower f).tele = c.tele := rfl
@[simp] theorem Chip.onPower_mgmt (f : Power → Power) : (c.onPower f).mgmt = c.mgmt := rfl
@[simp] theorem Chip.onPower_power (f : Power → Power) : (c.onPower f).power = f c.power := rfl
@[simp] theorem Chip.onPower_rst (f : Power → Power) : (c.onPower f).rst = c.rst := rfl
@[simp] theorem Chip.onPower_out (f : Power → Power) : (c.onPower f).out = c.out := rfl

/-! ### `Chip.onMgmt` -/

@[simp] theorem Chip.onMgmt_now (f : Mgmt → Mgmt) : (c.onMgmt f).now = c.now := rfl
@[simp] theorem Chip.onMgmt_free (f : Mgmt → Mgmt) : (c.onMgmt f).free = c.free := rfl
@[simp] theorem Chip.onMgmt_ids (f : Mgmt → Mgmt) : (c.onMgmt f).ids = c.ids := rfl
@[simp] theorem Chip.onMgmt_regs (f : Mgmt → Mgmt) : (c.onMgmt f).regs = c.regs := rfl
@[simp] theorem Chip.onMgmt_latch (f : Mgmt → Mgmt) : (c.onMgmt f).latch = c.latch := rfl
@[simp] theorem Chip.onMgmt_pages (f : Mgmt → Mgmt) : (c.onMgmt f).pages = c.pages := rfl
@[simp] theorem Chip.onMgmt_ports (f : Mgmt → Mgmt) : (c.onMgmt f).ports = c.ports := rfl
@[simp] theorem Chip.onMgmt_links (f : Mgmt → Mgmt) : (c.onMgmt f).links = c.links := rfl
@[simp] theorem Chip.onMgmt_seams (f : Mgmt → Mgmt) : (c.onMgmt f).seams = c.seams := rfl
@[simp] theorem Chip.onMgmt_engBad (f : Mgmt → Mgmt) : (c.onMgmt f).engBad = c.engBad := rfl
@[simp] theorem Chip.onMgmt_engLock (f : Mgmt → Mgmt) : (c.onMgmt f).engLock = c.engLock := rfl
@[simp] theorem Chip.onMgmt_bufs (f : Mgmt → Mgmt) : (c.onMgmt f).bufs = c.bufs := rfl
@[simp] theorem Chip.onMgmt_tables (f : Mgmt → Mgmt) : (c.onMgmt f).tables = c.tables := rfl
@[simp] theorem Chip.onMgmt_badEnt (f : Mgmt → Mgmt) : (c.onMgmt f).badEnt = c.badEnt := rfl
@[simp] theorem Chip.onMgmt_gate (f : Mgmt → Mgmt) : (c.onMgmt f).gate = c.gate := rfl
@[simp] theorem Chip.onMgmt_pkts (f : Mgmt → Mgmt) : (c.onMgmt f).pkts = c.pkts := rfl
@[simp] theorem Chip.onMgmt_stores (f : Mgmt → Mgmt) : (c.onMgmt f).stores = c.stores := rfl
@[simp] theorem Chip.onMgmt_copies (f : Mgmt → Mgmt) : (c.onMgmt f).copies = c.copies := rfl
@[simp] theorem Chip.onMgmt_rx (f : Mgmt → Mgmt) : (c.onMgmt f).rx = c.rx := rfl
@[simp] theorem Chip.onMgmt_probeIn (f : Mgmt → Mgmt) : (c.onMgmt f).probeIn = c.probeIn := rfl
@[simp] theorem Chip.onMgmt_held (f : Mgmt → Mgmt) : (c.onMgmt f).held = c.held := rfl
@[simp] theorem Chip.onMgmt_wins (f : Mgmt → Mgmt) : (c.onMgmt f).wins = c.wins := rfl
@[simp] theorem Chip.onMgmt_jobs (f : Mgmt → Mgmt) : (c.onMgmt f).jobs = c.jobs := rfl
@[simp] theorem Chip.onMgmt_rinses (f : Mgmt → Mgmt) : (c.onMgmt f).rinses = c.rinses := rfl
@[simp] theorem Chip.onMgmt_bars (f : Mgmt → Mgmt) : (c.onMgmt f).bars = c.bars := rfl
@[simp] theorem Chip.onMgmt_time (f : Mgmt → Mgmt) : (c.onMgmt f).time = c.time := rfl
@[simp] theorem Chip.onMgmt_ticks (f : Mgmt → Mgmt) : (c.onMgmt f).ticks = c.ticks := rfl
@[simp] theorem Chip.onMgmt_busy (f : Mgmt → Mgmt) : (c.onMgmt f).busy = c.busy := rfl
@[simp] theorem Chip.onMgmt_ctxs (f : Mgmt → Mgmt) : (c.onMgmt f).ctxs = c.ctxs := rfl
@[simp] theorem Chip.onMgmt_pressIn (f : Mgmt → Mgmt) : (c.onMgmt f).pressIn = c.pressIn := rfl
@[simp] theorem Chip.onMgmt_syncIn (f : Mgmt → Mgmt) : (c.onMgmt f).syncIn = c.syncIn := rfl
@[simp] theorem Chip.onMgmt_timeIn (f : Mgmt → Mgmt) : (c.onMgmt f).timeIn = c.timeIn := rfl
@[simp] theorem Chip.onMgmt_twinIn (f : Mgmt → Mgmt) : (c.onMgmt f).twinIn = c.twinIn := rfl
@[simp] theorem Chip.onMgmt_c0In (f : Mgmt → Mgmt) : (c.onMgmt f).c0In = c.c0In := rfl
@[simp] theorem Chip.onMgmt_c0Out (f : Mgmt → Mgmt) : (c.onMgmt f).c0Out = c.c0Out := rfl
@[simp] theorem Chip.onMgmt_twin (f : Mgmt → Mgmt) : (c.onMgmt f).twin = c.twin := rfl
@[simp] theorem Chip.onMgmt_tele (f : Mgmt → Mgmt) : (c.onMgmt f).tele = c.tele := rfl
@[simp] theorem Chip.onMgmt_mgmt (f : Mgmt → Mgmt) : (c.onMgmt f).mgmt = f c.mgmt := rfl
@[simp] theorem Chip.onMgmt_power (f : Mgmt → Mgmt) : (c.onMgmt f).power = c.power := rfl
@[simp] theorem Chip.onMgmt_rst (f : Mgmt → Mgmt) : (c.onMgmt f).rst = c.rst := rfl
@[simp] theorem Chip.onMgmt_out (f : Mgmt → Mgmt) : (c.onMgmt f).out = c.out := rfl

/-! ### `Chip.onRst` -/

@[simp] theorem Chip.onRst_now (f : Reset → Reset) : (c.onRst f).now = c.now := rfl
@[simp] theorem Chip.onRst_free (f : Reset → Reset) : (c.onRst f).free = c.free := rfl
@[simp] theorem Chip.onRst_ids (f : Reset → Reset) : (c.onRst f).ids = c.ids := rfl
@[simp] theorem Chip.onRst_regs (f : Reset → Reset) : (c.onRst f).regs = c.regs := rfl
@[simp] theorem Chip.onRst_latch (f : Reset → Reset) : (c.onRst f).latch = c.latch := rfl
@[simp] theorem Chip.onRst_pages (f : Reset → Reset) : (c.onRst f).pages = c.pages := rfl
@[simp] theorem Chip.onRst_ports (f : Reset → Reset) : (c.onRst f).ports = c.ports := rfl
@[simp] theorem Chip.onRst_links (f : Reset → Reset) : (c.onRst f).links = c.links := rfl
@[simp] theorem Chip.onRst_seams (f : Reset → Reset) : (c.onRst f).seams = c.seams := rfl
@[simp] theorem Chip.onRst_engBad (f : Reset → Reset) : (c.onRst f).engBad = c.engBad := rfl
@[simp] theorem Chip.onRst_engLock (f : Reset → Reset) : (c.onRst f).engLock = c.engLock := rfl
@[simp] theorem Chip.onRst_bufs (f : Reset → Reset) : (c.onRst f).bufs = c.bufs := rfl
@[simp] theorem Chip.onRst_tables (f : Reset → Reset) : (c.onRst f).tables = c.tables := rfl
@[simp] theorem Chip.onRst_badEnt (f : Reset → Reset) : (c.onRst f).badEnt = c.badEnt := rfl
@[simp] theorem Chip.onRst_gate (f : Reset → Reset) : (c.onRst f).gate = c.gate := rfl
@[simp] theorem Chip.onRst_pkts (f : Reset → Reset) : (c.onRst f).pkts = c.pkts := rfl
@[simp] theorem Chip.onRst_stores (f : Reset → Reset) : (c.onRst f).stores = c.stores := rfl
@[simp] theorem Chip.onRst_copies (f : Reset → Reset) : (c.onRst f).copies = c.copies := rfl
@[simp] theorem Chip.onRst_rx (f : Reset → Reset) : (c.onRst f).rx = c.rx := rfl
@[simp] theorem Chip.onRst_probeIn (f : Reset → Reset) : (c.onRst f).probeIn = c.probeIn := rfl
@[simp] theorem Chip.onRst_held (f : Reset → Reset) : (c.onRst f).held = c.held := rfl
@[simp] theorem Chip.onRst_wins (f : Reset → Reset) : (c.onRst f).wins = c.wins := rfl
@[simp] theorem Chip.onRst_jobs (f : Reset → Reset) : (c.onRst f).jobs = c.jobs := rfl
@[simp] theorem Chip.onRst_rinses (f : Reset → Reset) : (c.onRst f).rinses = c.rinses := rfl
@[simp] theorem Chip.onRst_bars (f : Reset → Reset) : (c.onRst f).bars = c.bars := rfl
@[simp] theorem Chip.onRst_time (f : Reset → Reset) : (c.onRst f).time = c.time := rfl
@[simp] theorem Chip.onRst_ticks (f : Reset → Reset) : (c.onRst f).ticks = c.ticks := rfl
@[simp] theorem Chip.onRst_busy (f : Reset → Reset) : (c.onRst f).busy = c.busy := rfl
@[simp] theorem Chip.onRst_ctxs (f : Reset → Reset) : (c.onRst f).ctxs = c.ctxs := rfl
@[simp] theorem Chip.onRst_pressIn (f : Reset → Reset) : (c.onRst f).pressIn = c.pressIn := rfl
@[simp] theorem Chip.onRst_syncIn (f : Reset → Reset) : (c.onRst f).syncIn = c.syncIn := rfl
@[simp] theorem Chip.onRst_timeIn (f : Reset → Reset) : (c.onRst f).timeIn = c.timeIn := rfl
@[simp] theorem Chip.onRst_twinIn (f : Reset → Reset) : (c.onRst f).twinIn = c.twinIn := rfl
@[simp] theorem Chip.onRst_c0In (f : Reset → Reset) : (c.onRst f).c0In = c.c0In := rfl
@[simp] theorem Chip.onRst_c0Out (f : Reset → Reset) : (c.onRst f).c0Out = c.c0Out := rfl
@[simp] theorem Chip.onRst_twin (f : Reset → Reset) : (c.onRst f).twin = c.twin := rfl
@[simp] theorem Chip.onRst_tele (f : Reset → Reset) : (c.onRst f).tele = c.tele := rfl
@[simp] theorem Chip.onRst_mgmt (f : Reset → Reset) : (c.onRst f).mgmt = c.mgmt := rfl
@[simp] theorem Chip.onRst_power (f : Reset → Reset) : (c.onRst f).power = c.power := rfl
@[simp] theorem Chip.onRst_rst (f : Reset → Reset) : (c.onRst f).rst = f c.rst := rfl
@[simp] theorem Chip.onRst_out (f : Reset → Reset) : (c.onRst f).out = c.out := rfl

/-! ### `Chip.onTwin` -/

@[simp] theorem Chip.onTwin_now (f : Twin → Twin) : (c.onTwin f).now = c.now := rfl
@[simp] theorem Chip.onTwin_free (f : Twin → Twin) : (c.onTwin f).free = c.free := rfl
@[simp] theorem Chip.onTwin_ids (f : Twin → Twin) : (c.onTwin f).ids = c.ids := rfl
@[simp] theorem Chip.onTwin_regs (f : Twin → Twin) : (c.onTwin f).regs = c.regs := rfl
@[simp] theorem Chip.onTwin_latch (f : Twin → Twin) : (c.onTwin f).latch = c.latch := rfl
@[simp] theorem Chip.onTwin_pages (f : Twin → Twin) : (c.onTwin f).pages = c.pages := rfl
@[simp] theorem Chip.onTwin_ports (f : Twin → Twin) : (c.onTwin f).ports = c.ports := rfl
@[simp] theorem Chip.onTwin_links (f : Twin → Twin) : (c.onTwin f).links = c.links := rfl
@[simp] theorem Chip.onTwin_seams (f : Twin → Twin) : (c.onTwin f).seams = c.seams := rfl
@[simp] theorem Chip.onTwin_engBad (f : Twin → Twin) : (c.onTwin f).engBad = c.engBad := rfl
@[simp] theorem Chip.onTwin_engLock (f : Twin → Twin) : (c.onTwin f).engLock = c.engLock := rfl
@[simp] theorem Chip.onTwin_bufs (f : Twin → Twin) : (c.onTwin f).bufs = c.bufs := rfl
@[simp] theorem Chip.onTwin_tables (f : Twin → Twin) : (c.onTwin f).tables = c.tables := rfl
@[simp] theorem Chip.onTwin_badEnt (f : Twin → Twin) : (c.onTwin f).badEnt = c.badEnt := rfl
@[simp] theorem Chip.onTwin_gate (f : Twin → Twin) : (c.onTwin f).gate = c.gate := rfl
@[simp] theorem Chip.onTwin_pkts (f : Twin → Twin) : (c.onTwin f).pkts = c.pkts := rfl
@[simp] theorem Chip.onTwin_stores (f : Twin → Twin) : (c.onTwin f).stores = c.stores := rfl
@[simp] theorem Chip.onTwin_copies (f : Twin → Twin) : (c.onTwin f).copies = c.copies := rfl
@[simp] theorem Chip.onTwin_rx (f : Twin → Twin) : (c.onTwin f).rx = c.rx := rfl
@[simp] theorem Chip.onTwin_probeIn (f : Twin → Twin) : (c.onTwin f).probeIn = c.probeIn := rfl
@[simp] theorem Chip.onTwin_held (f : Twin → Twin) : (c.onTwin f).held = c.held := rfl
@[simp] theorem Chip.onTwin_wins (f : Twin → Twin) : (c.onTwin f).wins = c.wins := rfl
@[simp] theorem Chip.onTwin_jobs (f : Twin → Twin) : (c.onTwin f).jobs = c.jobs := rfl
@[simp] theorem Chip.onTwin_rinses (f : Twin → Twin) : (c.onTwin f).rinses = c.rinses := rfl
@[simp] theorem Chip.onTwin_bars (f : Twin → Twin) : (c.onTwin f).bars = c.bars := rfl
@[simp] theorem Chip.onTwin_time (f : Twin → Twin) : (c.onTwin f).time = c.time := rfl
@[simp] theorem Chip.onTwin_ticks (f : Twin → Twin) : (c.onTwin f).ticks = c.ticks := rfl
@[simp] theorem Chip.onTwin_busy (f : Twin → Twin) : (c.onTwin f).busy = c.busy := rfl
@[simp] theorem Chip.onTwin_ctxs (f : Twin → Twin) : (c.onTwin f).ctxs = c.ctxs := rfl
@[simp] theorem Chip.onTwin_pressIn (f : Twin → Twin) : (c.onTwin f).pressIn = c.pressIn := rfl
@[simp] theorem Chip.onTwin_syncIn (f : Twin → Twin) : (c.onTwin f).syncIn = c.syncIn := rfl
@[simp] theorem Chip.onTwin_timeIn (f : Twin → Twin) : (c.onTwin f).timeIn = c.timeIn := rfl
@[simp] theorem Chip.onTwin_twinIn (f : Twin → Twin) : (c.onTwin f).twinIn = c.twinIn := rfl
@[simp] theorem Chip.onTwin_c0In (f : Twin → Twin) : (c.onTwin f).c0In = c.c0In := rfl
@[simp] theorem Chip.onTwin_c0Out (f : Twin → Twin) : (c.onTwin f).c0Out = c.c0Out := rfl
@[simp] theorem Chip.onTwin_twin (f : Twin → Twin) : (c.onTwin f).twin = f c.twin := rfl
@[simp] theorem Chip.onTwin_tele (f : Twin → Twin) : (c.onTwin f).tele = c.tele := rfl
@[simp] theorem Chip.onTwin_mgmt (f : Twin → Twin) : (c.onTwin f).mgmt = c.mgmt := rfl
@[simp] theorem Chip.onTwin_power (f : Twin → Twin) : (c.onTwin f).power = c.power := rfl
@[simp] theorem Chip.onTwin_rst (f : Twin → Twin) : (c.onTwin f).rst = c.rst := rfl
@[simp] theorem Chip.onTwin_out (f : Twin → Twin) : (c.onTwin f).out = c.out := rfl

/-! ### `Chip.onTele` -/

@[simp] theorem Chip.onTele_now (f : Tele → Tele) : (c.onTele f).now = c.now := rfl
@[simp] theorem Chip.onTele_free (f : Tele → Tele) : (c.onTele f).free = c.free := rfl
@[simp] theorem Chip.onTele_ids (f : Tele → Tele) : (c.onTele f).ids = c.ids := rfl
@[simp] theorem Chip.onTele_regs (f : Tele → Tele) : (c.onTele f).regs = c.regs := rfl
@[simp] theorem Chip.onTele_latch (f : Tele → Tele) : (c.onTele f).latch = c.latch := rfl
@[simp] theorem Chip.onTele_pages (f : Tele → Tele) : (c.onTele f).pages = c.pages := rfl
@[simp] theorem Chip.onTele_ports (f : Tele → Tele) : (c.onTele f).ports = c.ports := rfl
@[simp] theorem Chip.onTele_links (f : Tele → Tele) : (c.onTele f).links = c.links := rfl
@[simp] theorem Chip.onTele_seams (f : Tele → Tele) : (c.onTele f).seams = c.seams := rfl
@[simp] theorem Chip.onTele_engBad (f : Tele → Tele) : (c.onTele f).engBad = c.engBad := rfl
@[simp] theorem Chip.onTele_engLock (f : Tele → Tele) : (c.onTele f).engLock = c.engLock := rfl
@[simp] theorem Chip.onTele_bufs (f : Tele → Tele) : (c.onTele f).bufs = c.bufs := rfl
@[simp] theorem Chip.onTele_tables (f : Tele → Tele) : (c.onTele f).tables = c.tables := rfl
@[simp] theorem Chip.onTele_badEnt (f : Tele → Tele) : (c.onTele f).badEnt = c.badEnt := rfl
@[simp] theorem Chip.onTele_gate (f : Tele → Tele) : (c.onTele f).gate = c.gate := rfl
@[simp] theorem Chip.onTele_pkts (f : Tele → Tele) : (c.onTele f).pkts = c.pkts := rfl
@[simp] theorem Chip.onTele_stores (f : Tele → Tele) : (c.onTele f).stores = c.stores := rfl
@[simp] theorem Chip.onTele_copies (f : Tele → Tele) : (c.onTele f).copies = c.copies := rfl
@[simp] theorem Chip.onTele_rx (f : Tele → Tele) : (c.onTele f).rx = c.rx := rfl
@[simp] theorem Chip.onTele_probeIn (f : Tele → Tele) : (c.onTele f).probeIn = c.probeIn := rfl
@[simp] theorem Chip.onTele_held (f : Tele → Tele) : (c.onTele f).held = c.held := rfl
@[simp] theorem Chip.onTele_wins (f : Tele → Tele) : (c.onTele f).wins = c.wins := rfl
@[simp] theorem Chip.onTele_jobs (f : Tele → Tele) : (c.onTele f).jobs = c.jobs := rfl
@[simp] theorem Chip.onTele_rinses (f : Tele → Tele) : (c.onTele f).rinses = c.rinses := rfl
@[simp] theorem Chip.onTele_bars (f : Tele → Tele) : (c.onTele f).bars = c.bars := rfl
@[simp] theorem Chip.onTele_time (f : Tele → Tele) : (c.onTele f).time = c.time := rfl
@[simp] theorem Chip.onTele_ticks (f : Tele → Tele) : (c.onTele f).ticks = c.ticks := rfl
@[simp] theorem Chip.onTele_busy (f : Tele → Tele) : (c.onTele f).busy = c.busy := rfl
@[simp] theorem Chip.onTele_ctxs (f : Tele → Tele) : (c.onTele f).ctxs = c.ctxs := rfl
@[simp] theorem Chip.onTele_pressIn (f : Tele → Tele) : (c.onTele f).pressIn = c.pressIn := rfl
@[simp] theorem Chip.onTele_syncIn (f : Tele → Tele) : (c.onTele f).syncIn = c.syncIn := rfl
@[simp] theorem Chip.onTele_timeIn (f : Tele → Tele) : (c.onTele f).timeIn = c.timeIn := rfl
@[simp] theorem Chip.onTele_twinIn (f : Tele → Tele) : (c.onTele f).twinIn = c.twinIn := rfl
@[simp] theorem Chip.onTele_c0In (f : Tele → Tele) : (c.onTele f).c0In = c.c0In := rfl
@[simp] theorem Chip.onTele_c0Out (f : Tele → Tele) : (c.onTele f).c0Out = c.c0Out := rfl
@[simp] theorem Chip.onTele_twin (f : Tele → Tele) : (c.onTele f).twin = c.twin := rfl
@[simp] theorem Chip.onTele_tele (f : Tele → Tele) : (c.onTele f).tele = f c.tele := rfl
@[simp] theorem Chip.onTele_mgmt (f : Tele → Tele) : (c.onTele f).mgmt = c.mgmt := rfl
@[simp] theorem Chip.onTele_power (f : Tele → Tele) : (c.onTele f).power = c.power := rfl
@[simp] theorem Chip.onTele_rst (f : Tele → Tele) : (c.onTele f).rst = c.rst := rfl
@[simp] theorem Chip.onTele_out (f : Tele → Tele) : (c.onTele f).out = c.out := rfl

/-! ### `Chip.setDarkW` -/

@[simp] theorem Chip.setDarkW_now (e m : Nat) : (c.setDarkW e m).now = c.now := rfl
@[simp] theorem Chip.setDarkW_free (e m : Nat) : (c.setDarkW e m).free = c.free := rfl
@[simp] theorem Chip.setDarkW_ids (e m : Nat) : (c.setDarkW e m).ids = c.ids := rfl
@[simp] theorem Chip.setDarkW_regs (e m : Nat) : (c.setDarkW e m).regs = c.regs := rfl
@[simp] theorem Chip.setDarkW_latch (e m : Nat) : (c.setDarkW e m).latch = c.latch := rfl
@[simp] theorem Chip.setDarkW_pages (e m : Nat) : (c.setDarkW e m).pages = c.pages := rfl
@[simp] theorem Chip.setDarkW_ports (e m : Nat) : (c.setDarkW e m).ports = c.ports := rfl
@[simp] theorem Chip.setDarkW_links (e m : Nat) : (c.setDarkW e m).links = c.links := rfl
@[simp] theorem Chip.setDarkW_seams (e m : Nat) : (c.setDarkW e m).seams = c.seams := rfl
@[simp] theorem Chip.setDarkW_engBad (e m : Nat) : (c.setDarkW e m).engBad = c.engBad := rfl
@[simp] theorem Chip.setDarkW_engLock (e m : Nat) : (c.setDarkW e m).engLock = SMap.set c.engLock e m := rfl
@[simp] theorem Chip.setDarkW_bufs (e m : Nat) : (c.setDarkW e m).bufs = c.bufs := rfl
@[simp] theorem Chip.setDarkW_tables (e m : Nat) : (c.setDarkW e m).tables = c.tables := rfl
@[simp] theorem Chip.setDarkW_badEnt (e m : Nat) : (c.setDarkW e m).badEnt = c.badEnt := rfl
@[simp] theorem Chip.setDarkW_gate (e m : Nat) : (c.setDarkW e m).gate = c.gate := rfl
@[simp] theorem Chip.setDarkW_pkts (e m : Nat) : (c.setDarkW e m).pkts = c.pkts := rfl
@[simp] theorem Chip.setDarkW_stores (e m : Nat) : (c.setDarkW e m).stores = c.stores := rfl
@[simp] theorem Chip.setDarkW_copies (e m : Nat) : (c.setDarkW e m).copies = c.copies := rfl
@[simp] theorem Chip.setDarkW_rx (e m : Nat) : (c.setDarkW e m).rx = c.rx := rfl
@[simp] theorem Chip.setDarkW_probeIn (e m : Nat) : (c.setDarkW e m).probeIn = c.probeIn := rfl
@[simp] theorem Chip.setDarkW_held (e m : Nat) : (c.setDarkW e m).held = c.held := rfl
@[simp] theorem Chip.setDarkW_wins (e m : Nat) : (c.setDarkW e m).wins = c.wins := rfl
@[simp] theorem Chip.setDarkW_jobs (e m : Nat) : (c.setDarkW e m).jobs = c.jobs := rfl
@[simp] theorem Chip.setDarkW_rinses (e m : Nat) : (c.setDarkW e m).rinses = c.rinses := rfl
@[simp] theorem Chip.setDarkW_bars (e m : Nat) : (c.setDarkW e m).bars = c.bars := rfl
@[simp] theorem Chip.setDarkW_time (e m : Nat) : (c.setDarkW e m).time = c.time := rfl
@[simp] theorem Chip.setDarkW_ticks (e m : Nat) : (c.setDarkW e m).ticks = c.ticks := rfl
@[simp] theorem Chip.setDarkW_busy (e m : Nat) : (c.setDarkW e m).busy = c.busy := rfl
@[simp] theorem Chip.setDarkW_ctxs (e m : Nat) : (c.setDarkW e m).ctxs = c.ctxs := rfl
@[simp] theorem Chip.setDarkW_pressIn (e m : Nat) : (c.setDarkW e m).pressIn = c.pressIn := rfl
@[simp] theorem Chip.setDarkW_syncIn (e m : Nat) : (c.setDarkW e m).syncIn = c.syncIn := rfl
@[simp] theorem Chip.setDarkW_timeIn (e m : Nat) : (c.setDarkW e m).timeIn = c.timeIn := rfl
@[simp] theorem Chip.setDarkW_twinIn (e m : Nat) : (c.setDarkW e m).twinIn = c.twinIn := rfl
@[simp] theorem Chip.setDarkW_c0In (e m : Nat) : (c.setDarkW e m).c0In = c.c0In := rfl
@[simp] theorem Chip.setDarkW_c0Out (e m : Nat) : (c.setDarkW e m).c0Out = c.c0Out := rfl
@[simp] theorem Chip.setDarkW_twin (e m : Nat) : (c.setDarkW e m).twin = c.twin := rfl
@[simp] theorem Chip.setDarkW_tele (e m : Nat) : (c.setDarkW e m).tele = c.tele := rfl
@[simp] theorem Chip.setDarkW_mgmt (e m : Nat) : (c.setDarkW e m).mgmt = c.mgmt := rfl
@[simp] theorem Chip.setDarkW_power (e m : Nat) : (c.setDarkW e m).power = c.power := rfl
@[simp] theorem Chip.setDarkW_rst (e m : Nat) : (c.setDarkW e m).rst = c.rst := rfl
@[simp] theorem Chip.setDarkW_out (e m : Nat) : (c.setDarkW e m).out = c.out := rfl

/-! ### `Chip.onPkt` -/

@[simp] theorem Chip.onPkt_now (id : Nat) (f : Pkt → Pkt) : (c.onPkt id f).now = c.now := rfl
@[simp] theorem Chip.onPkt_free (id : Nat) (f : Pkt → Pkt) : (c.onPkt id f).free = c.free := rfl
@[simp] theorem Chip.onPkt_ids (id : Nat) (f : Pkt → Pkt) : (c.onPkt id f).ids = c.ids := rfl
@[simp] theorem Chip.onPkt_regs (id : Nat) (f : Pkt → Pkt) : (c.onPkt id f).regs = c.regs := rfl
@[simp] theorem Chip.onPkt_latch (id : Nat) (f : Pkt → Pkt) : (c.onPkt id f).latch = c.latch := rfl
@[simp] theorem Chip.onPkt_pages (id : Nat) (f : Pkt → Pkt) : (c.onPkt id f).pages = c.pages := rfl
@[simp] theorem Chip.onPkt_ports (id : Nat) (f : Pkt → Pkt) : (c.onPkt id f).ports = c.ports := rfl
@[simp] theorem Chip.onPkt_links (id : Nat) (f : Pkt → Pkt) : (c.onPkt id f).links = c.links := rfl
@[simp] theorem Chip.onPkt_seams (id : Nat) (f : Pkt → Pkt) : (c.onPkt id f).seams = c.seams := rfl
@[simp] theorem Chip.onPkt_engBad (id : Nat) (f : Pkt → Pkt) : (c.onPkt id f).engBad = c.engBad := rfl
@[simp] theorem Chip.onPkt_engLock (id : Nat) (f : Pkt → Pkt) : (c.onPkt id f).engLock = c.engLock := rfl
@[simp] theorem Chip.onPkt_bufs (id : Nat) (f : Pkt → Pkt) : (c.onPkt id f).bufs = c.bufs := rfl
@[simp] theorem Chip.onPkt_tables (id : Nat) (f : Pkt → Pkt) : (c.onPkt id f).tables = c.tables := rfl
@[simp] theorem Chip.onPkt_badEnt (id : Nat) (f : Pkt → Pkt) : (c.onPkt id f).badEnt = c.badEnt := rfl
@[simp] theorem Chip.onPkt_gate (id : Nat) (f : Pkt → Pkt) : (c.onPkt id f).gate = c.gate := rfl
@[simp] theorem Chip.onPkt_pkts (id : Nat) (f : Pkt → Pkt) : (c.onPkt id f).pkts = c.pkts.map (fun p => if p.id = id then f p else p) := rfl
@[simp] theorem Chip.onPkt_stores (id : Nat) (f : Pkt → Pkt) : (c.onPkt id f).stores = c.stores := rfl
@[simp] theorem Chip.onPkt_copies (id : Nat) (f : Pkt → Pkt) : (c.onPkt id f).copies = c.copies := rfl
@[simp] theorem Chip.onPkt_rx (id : Nat) (f : Pkt → Pkt) : (c.onPkt id f).rx = c.rx := rfl
@[simp] theorem Chip.onPkt_probeIn (id : Nat) (f : Pkt → Pkt) : (c.onPkt id f).probeIn = c.probeIn := rfl
@[simp] theorem Chip.onPkt_held (id : Nat) (f : Pkt → Pkt) : (c.onPkt id f).held = c.held := rfl
@[simp] theorem Chip.onPkt_wins (id : Nat) (f : Pkt → Pkt) : (c.onPkt id f).wins = c.wins := rfl
@[simp] theorem Chip.onPkt_jobs (id : Nat) (f : Pkt → Pkt) : (c.onPkt id f).jobs = c.jobs := rfl
@[simp] theorem Chip.onPkt_rinses (id : Nat) (f : Pkt → Pkt) : (c.onPkt id f).rinses = c.rinses := rfl
@[simp] theorem Chip.onPkt_bars (id : Nat) (f : Pkt → Pkt) : (c.onPkt id f).bars = c.bars := rfl
@[simp] theorem Chip.onPkt_time (id : Nat) (f : Pkt → Pkt) : (c.onPkt id f).time = c.time := rfl
@[simp] theorem Chip.onPkt_ticks (id : Nat) (f : Pkt → Pkt) : (c.onPkt id f).ticks = c.ticks := rfl
@[simp] theorem Chip.onPkt_busy (id : Nat) (f : Pkt → Pkt) : (c.onPkt id f).busy = c.busy := rfl
@[simp] theorem Chip.onPkt_ctxs (id : Nat) (f : Pkt → Pkt) : (c.onPkt id f).ctxs = c.ctxs := rfl
@[simp] theorem Chip.onPkt_pressIn (id : Nat) (f : Pkt → Pkt) : (c.onPkt id f).pressIn = c.pressIn := rfl
@[simp] theorem Chip.onPkt_syncIn (id : Nat) (f : Pkt → Pkt) : (c.onPkt id f).syncIn = c.syncIn := rfl
@[simp] theorem Chip.onPkt_timeIn (id : Nat) (f : Pkt → Pkt) : (c.onPkt id f).timeIn = c.timeIn := rfl
@[simp] theorem Chip.onPkt_twinIn (id : Nat) (f : Pkt → Pkt) : (c.onPkt id f).twinIn = c.twinIn := rfl
@[simp] theorem Chip.onPkt_c0In (id : Nat) (f : Pkt → Pkt) : (c.onPkt id f).c0In = c.c0In := rfl
@[simp] theorem Chip.onPkt_c0Out (id : Nat) (f : Pkt → Pkt) : (c.onPkt id f).c0Out = c.c0Out := rfl
@[simp] theorem Chip.onPkt_twin (id : Nat) (f : Pkt → Pkt) : (c.onPkt id f).twin = c.twin := rfl
@[simp] theorem Chip.onPkt_tele (id : Nat) (f : Pkt → Pkt) : (c.onPkt id f).tele = c.tele := rfl
@[simp] theorem Chip.onPkt_mgmt (id : Nat) (f : Pkt → Pkt) : (c.onPkt id f).mgmt = c.mgmt := rfl
@[simp] theorem Chip.onPkt_power (id : Nat) (f : Pkt → Pkt) : (c.onPkt id f).power = c.power := rfl
@[simp] theorem Chip.onPkt_rst (id : Nat) (f : Pkt → Pkt) : (c.onPkt id f).rst = c.rst := rfl
@[simp] theorem Chip.onPkt_out (id : Nat) (f : Pkt → Pkt) : (c.onPkt id f).out = c.out := rfl

/-! ### `Chip.onStore` -/

@[simp] theorem Chip.onStore_now (sid : Nat) (f : Store → Store) : (c.onStore sid f).now = c.now := rfl
@[simp] theorem Chip.onStore_free (sid : Nat) (f : Store → Store) : (c.onStore sid f).free = c.free := rfl
@[simp] theorem Chip.onStore_ids (sid : Nat) (f : Store → Store) : (c.onStore sid f).ids = c.ids := rfl
@[simp] theorem Chip.onStore_regs (sid : Nat) (f : Store → Store) : (c.onStore sid f).regs = c.regs := rfl
@[simp] theorem Chip.onStore_latch (sid : Nat) (f : Store → Store) : (c.onStore sid f).latch = c.latch := rfl
@[simp] theorem Chip.onStore_pages (sid : Nat) (f : Store → Store) : (c.onStore sid f).pages = c.pages := rfl
@[simp] theorem Chip.onStore_ports (sid : Nat) (f : Store → Store) : (c.onStore sid f).ports = c.ports := rfl
@[simp] theorem Chip.onStore_links (sid : Nat) (f : Store → Store) : (c.onStore sid f).links = c.links := rfl
@[simp] theorem Chip.onStore_seams (sid : Nat) (f : Store → Store) : (c.onStore sid f).seams = c.seams := rfl
@[simp] theorem Chip.onStore_engBad (sid : Nat) (f : Store → Store) : (c.onStore sid f).engBad = c.engBad := rfl
@[simp] theorem Chip.onStore_engLock (sid : Nat) (f : Store → Store) : (c.onStore sid f).engLock = c.engLock := rfl
@[simp] theorem Chip.onStore_bufs (sid : Nat) (f : Store → Store) : (c.onStore sid f).bufs = c.bufs := rfl
@[simp] theorem Chip.onStore_tables (sid : Nat) (f : Store → Store) : (c.onStore sid f).tables = c.tables := rfl
@[simp] theorem Chip.onStore_badEnt (sid : Nat) (f : Store → Store) : (c.onStore sid f).badEnt = c.badEnt := rfl
@[simp] theorem Chip.onStore_gate (sid : Nat) (f : Store → Store) : (c.onStore sid f).gate = c.gate := rfl
@[simp] theorem Chip.onStore_pkts (sid : Nat) (f : Store → Store) : (c.onStore sid f).pkts = c.pkts := rfl
@[simp] theorem Chip.onStore_stores (sid : Nat) (f : Store → Store) : (c.onStore sid f).stores = c.stores.map (fun s => if s.sid = sid then f s else s) := rfl
@[simp] theorem Chip.onStore_copies (sid : Nat) (f : Store → Store) : (c.onStore sid f).copies = c.copies := rfl
@[simp] theorem Chip.onStore_rx (sid : Nat) (f : Store → Store) : (c.onStore sid f).rx = c.rx := rfl
@[simp] theorem Chip.onStore_probeIn (sid : Nat) (f : Store → Store) : (c.onStore sid f).probeIn = c.probeIn := rfl
@[simp] theorem Chip.onStore_held (sid : Nat) (f : Store → Store) : (c.onStore sid f).held = c.held := rfl
@[simp] theorem Chip.onStore_wins (sid : Nat) (f : Store → Store) : (c.onStore sid f).wins = c.wins := rfl
@[simp] theorem Chip.onStore_jobs (sid : Nat) (f : Store → Store) : (c.onStore sid f).jobs = c.jobs := rfl
@[simp] theorem Chip.onStore_rinses (sid : Nat) (f : Store → Store) : (c.onStore sid f).rinses = c.rinses := rfl
@[simp] theorem Chip.onStore_bars (sid : Nat) (f : Store → Store) : (c.onStore sid f).bars = c.bars := rfl
@[simp] theorem Chip.onStore_time (sid : Nat) (f : Store → Store) : (c.onStore sid f).time = c.time := rfl
@[simp] theorem Chip.onStore_ticks (sid : Nat) (f : Store → Store) : (c.onStore sid f).ticks = c.ticks := rfl
@[simp] theorem Chip.onStore_busy (sid : Nat) (f : Store → Store) : (c.onStore sid f).busy = c.busy := rfl
@[simp] theorem Chip.onStore_ctxs (sid : Nat) (f : Store → Store) : (c.onStore sid f).ctxs = c.ctxs := rfl
@[simp] theorem Chip.onStore_pressIn (sid : Nat) (f : Store → Store) : (c.onStore sid f).pressIn = c.pressIn := rfl
@[simp] theorem Chip.onStore_syncIn (sid : Nat) (f : Store → Store) : (c.onStore sid f).syncIn = c.syncIn := rfl
@[simp] theorem Chip.onStore_timeIn (sid : Nat) (f : Store → Store) : (c.onStore sid f).timeIn = c.timeIn := rfl
@[simp] theorem Chip.onStore_twinIn (sid : Nat) (f : Store → Store) : (c.onStore sid f).twinIn = c.twinIn := rfl
@[simp] theorem Chip.onStore_c0In (sid : Nat) (f : Store → Store) : (c.onStore sid f).c0In = c.c0In := rfl
@[simp] theorem Chip.onStore_c0Out (sid : Nat) (f : Store → Store) : (c.onStore sid f).c0Out = c.c0Out := rfl
@[simp] theorem Chip.onStore_twin (sid : Nat) (f : Store → Store) : (c.onStore sid f).twin = c.twin := rfl
@[simp] theorem Chip.onStore_tele (sid : Nat) (f : Store → Store) : (c.onStore sid f).tele = c.tele := rfl
@[simp] theorem Chip.onStore_mgmt (sid : Nat) (f : Store → Store) : (c.onStore sid f).mgmt = c.mgmt := rfl
@[simp] theorem Chip.onStore_power (sid : Nat) (f : Store → Store) : (c.onStore sid f).power = c.power := rfl
@[simp] theorem Chip.onStore_rst (sid : Nat) (f : Store → Store) : (c.onStore sid f).rst = c.rst := rfl
@[simp] theorem Chip.onStore_out (sid : Nat) (f : Store → Store) : (c.onStore sid f).out = c.out := rfl

/-! ### `Chip.onCopy` -/

@[simp] theorem Chip.onCopy_now (id : Nat) (f : Copy → Copy) : (c.onCopy id f).now = c.now := rfl
@[simp] theorem Chip.onCopy_free (id : Nat) (f : Copy → Copy) : (c.onCopy id f).free = c.free := rfl
@[simp] theorem Chip.onCopy_ids (id : Nat) (f : Copy → Copy) : (c.onCopy id f).ids = c.ids := rfl
@[simp] theorem Chip.onCopy_regs (id : Nat) (f : Copy → Copy) : (c.onCopy id f).regs = c.regs := rfl
@[simp] theorem Chip.onCopy_latch (id : Nat) (f : Copy → Copy) : (c.onCopy id f).latch = c.latch := rfl
@[simp] theorem Chip.onCopy_pages (id : Nat) (f : Copy → Copy) : (c.onCopy id f).pages = c.pages := rfl
@[simp] theorem Chip.onCopy_ports (id : Nat) (f : Copy → Copy) : (c.onCopy id f).ports = c.ports := rfl
@[simp] theorem Chip.onCopy_links (id : Nat) (f : Copy → Copy) : (c.onCopy id f).links = c.links := rfl
@[simp] theorem Chip.onCopy_seams (id : Nat) (f : Copy → Copy) : (c.onCopy id f).seams = c.seams := rfl
@[simp] theorem Chip.onCopy_engBad (id : Nat) (f : Copy → Copy) : (c.onCopy id f).engBad = c.engBad := rfl
@[simp] theorem Chip.onCopy_engLock (id : Nat) (f : Copy → Copy) : (c.onCopy id f).engLock = c.engLock := rfl
@[simp] theorem Chip.onCopy_bufs (id : Nat) (f : Copy → Copy) : (c.onCopy id f).bufs = c.bufs := rfl
@[simp] theorem Chip.onCopy_tables (id : Nat) (f : Copy → Copy) : (c.onCopy id f).tables = c.tables := rfl
@[simp] theorem Chip.onCopy_badEnt (id : Nat) (f : Copy → Copy) : (c.onCopy id f).badEnt = c.badEnt := rfl
@[simp] theorem Chip.onCopy_gate (id : Nat) (f : Copy → Copy) : (c.onCopy id f).gate = c.gate := rfl
@[simp] theorem Chip.onCopy_pkts (id : Nat) (f : Copy → Copy) : (c.onCopy id f).pkts = c.pkts := rfl
@[simp] theorem Chip.onCopy_stores (id : Nat) (f : Copy → Copy) : (c.onCopy id f).stores = c.stores := rfl
@[simp] theorem Chip.onCopy_copies (id : Nat) (f : Copy → Copy) : (c.onCopy id f).copies = c.copies.map (fun x => if x.id = id then f x else x) := rfl
@[simp] theorem Chip.onCopy_rx (id : Nat) (f : Copy → Copy) : (c.onCopy id f).rx = c.rx := rfl
@[simp] theorem Chip.onCopy_probeIn (id : Nat) (f : Copy → Copy) : (c.onCopy id f).probeIn = c.probeIn := rfl
@[simp] theorem Chip.onCopy_held (id : Nat) (f : Copy → Copy) : (c.onCopy id f).held = c.held := rfl
@[simp] theorem Chip.onCopy_wins (id : Nat) (f : Copy → Copy) : (c.onCopy id f).wins = c.wins := rfl
@[simp] theorem Chip.onCopy_jobs (id : Nat) (f : Copy → Copy) : (c.onCopy id f).jobs = c.jobs := rfl
@[simp] theorem Chip.onCopy_rinses (id : Nat) (f : Copy → Copy) : (c.onCopy id f).rinses = c.rinses := rfl
@[simp] theorem Chip.onCopy_bars (id : Nat) (f : Copy → Copy) : (c.onCopy id f).bars = c.bars := rfl
@[simp] theorem Chip.onCopy_time (id : Nat) (f : Copy → Copy) : (c.onCopy id f).time = c.time := rfl
@[simp] theorem Chip.onCopy_ticks (id : Nat) (f : Copy → Copy) : (c.onCopy id f).ticks = c.ticks := rfl
@[simp] theorem Chip.onCopy_busy (id : Nat) (f : Copy → Copy) : (c.onCopy id f).busy = c.busy := rfl
@[simp] theorem Chip.onCopy_ctxs (id : Nat) (f : Copy → Copy) : (c.onCopy id f).ctxs = c.ctxs := rfl
@[simp] theorem Chip.onCopy_pressIn (id : Nat) (f : Copy → Copy) : (c.onCopy id f).pressIn = c.pressIn := rfl
@[simp] theorem Chip.onCopy_syncIn (id : Nat) (f : Copy → Copy) : (c.onCopy id f).syncIn = c.syncIn := rfl
@[simp] theorem Chip.onCopy_timeIn (id : Nat) (f : Copy → Copy) : (c.onCopy id f).timeIn = c.timeIn := rfl
@[simp] theorem Chip.onCopy_twinIn (id : Nat) (f : Copy → Copy) : (c.onCopy id f).twinIn = c.twinIn := rfl
@[simp] theorem Chip.onCopy_c0In (id : Nat) (f : Copy → Copy) : (c.onCopy id f).c0In = c.c0In := rfl
@[simp] theorem Chip.onCopy_c0Out (id : Nat) (f : Copy → Copy) : (c.onCopy id f).c0Out = c.c0Out := rfl
@[simp] theorem Chip.onCopy_twin (id : Nat) (f : Copy → Copy) : (c.onCopy id f).twin = c.twin := rfl
@[simp] theorem Chip.onCopy_tele (id : Nat) (f : Copy → Copy) : (c.onCopy id f).tele = c.tele := rfl
@[simp] theorem Chip.onCopy_mgmt (id : Nat) (f : Copy → Copy) : (c.onCopy id f).mgmt = c.mgmt := rfl
@[simp] theorem Chip.onCopy_power (id : Nat) (f : Copy → Copy) : (c.onCopy id f).power = c.power := rfl
@[simp] theorem Chip.onCopy_rst (id : Nat) (f : Copy → Copy) : (c.onCopy id f).rst = c.rst := rfl
@[simp] theorem Chip.onCopy_out (id : Nat) (f : Copy → Copy) : (c.onCopy id f).out = c.out := rfl

/-! ### `Chip.setRx` -/

@[simp] theorem Chip.setRx_now (p vc : Nat) (r : Rx) : (c.setRx p vc r).now = c.now := rfl
@[simp] theorem Chip.setRx_free (p vc : Nat) (r : Rx) : (c.setRx p vc r).free = c.free := rfl
@[simp] theorem Chip.setRx_ids (p vc : Nat) (r : Rx) : (c.setRx p vc r).ids = c.ids := rfl
@[simp] theorem Chip.setRx_regs (p vc : Nat) (r : Rx) : (c.setRx p vc r).regs = c.regs := rfl
@[simp] theorem Chip.setRx_latch (p vc : Nat) (r : Rx) : (c.setRx p vc r).latch = c.latch := rfl
@[simp] theorem Chip.setRx_pages (p vc : Nat) (r : Rx) : (c.setRx p vc r).pages = c.pages := rfl
@[simp] theorem Chip.setRx_ports (p vc : Nat) (r : Rx) : (c.setRx p vc r).ports = c.ports := rfl
@[simp] theorem Chip.setRx_links (p vc : Nat) (r : Rx) : (c.setRx p vc r).links = c.links := rfl
@[simp] theorem Chip.setRx_seams (p vc : Nat) (r : Rx) : (c.setRx p vc r).seams = c.seams := rfl
@[simp] theorem Chip.setRx_engBad (p vc : Nat) (r : Rx) : (c.setRx p vc r).engBad = c.engBad := rfl
@[simp] theorem Chip.setRx_engLock (p vc : Nat) (r : Rx) : (c.setRx p vc r).engLock = c.engLock := rfl
@[simp] theorem Chip.setRx_bufs (p vc : Nat) (r : Rx) : (c.setRx p vc r).bufs = c.bufs := rfl
@[simp] theorem Chip.setRx_tables (p vc : Nat) (r : Rx) : (c.setRx p vc r).tables = c.tables := rfl
@[simp] theorem Chip.setRx_badEnt (p vc : Nat) (r : Rx) : (c.setRx p vc r).badEnt = c.badEnt := rfl
@[simp] theorem Chip.setRx_gate (p vc : Nat) (r : Rx) : (c.setRx p vc r).gate = c.gate := rfl
@[simp] theorem Chip.setRx_pkts (p vc : Nat) (r : Rx) : (c.setRx p vc r).pkts = c.pkts := rfl
@[simp] theorem Chip.setRx_stores (p vc : Nat) (r : Rx) : (c.setRx p vc r).stores = c.stores := rfl
@[simp] theorem Chip.setRx_copies (p vc : Nat) (r : Rx) : (c.setRx p vc r).copies = c.copies := rfl
@[simp] theorem Chip.setRx_rx (p vc : Nat) (r : Rx) : (c.setRx p vc r).rx = if r = {} then SMap.del c.rx (16 * p + vc) else SMap.set c.rx (16 * p + vc) r := rfl
@[simp] theorem Chip.setRx_probeIn (p vc : Nat) (r : Rx) : (c.setRx p vc r).probeIn = c.probeIn := rfl
@[simp] theorem Chip.setRx_held (p vc : Nat) (r : Rx) : (c.setRx p vc r).held = c.held := rfl
@[simp] theorem Chip.setRx_wins (p vc : Nat) (r : Rx) : (c.setRx p vc r).wins = c.wins := rfl
@[simp] theorem Chip.setRx_jobs (p vc : Nat) (r : Rx) : (c.setRx p vc r).jobs = c.jobs := rfl
@[simp] theorem Chip.setRx_rinses (p vc : Nat) (r : Rx) : (c.setRx p vc r).rinses = c.rinses := rfl
@[simp] theorem Chip.setRx_bars (p vc : Nat) (r : Rx) : (c.setRx p vc r).bars = c.bars := rfl
@[simp] theorem Chip.setRx_time (p vc : Nat) (r : Rx) : (c.setRx p vc r).time = c.time := rfl
@[simp] theorem Chip.setRx_ticks (p vc : Nat) (r : Rx) : (c.setRx p vc r).ticks = c.ticks := rfl
@[simp] theorem Chip.setRx_busy (p vc : Nat) (r : Rx) : (c.setRx p vc r).busy = c.busy := rfl
@[simp] theorem Chip.setRx_ctxs (p vc : Nat) (r : Rx) : (c.setRx p vc r).ctxs = c.ctxs := rfl
@[simp] theorem Chip.setRx_pressIn (p vc : Nat) (r : Rx) : (c.setRx p vc r).pressIn = c.pressIn := rfl
@[simp] theorem Chip.setRx_syncIn (p vc : Nat) (r : Rx) : (c.setRx p vc r).syncIn = c.syncIn := rfl
@[simp] theorem Chip.setRx_timeIn (p vc : Nat) (r : Rx) : (c.setRx p vc r).timeIn = c.timeIn := rfl
@[simp] theorem Chip.setRx_twinIn (p vc : Nat) (r : Rx) : (c.setRx p vc r).twinIn = c.twinIn := rfl
@[simp] theorem Chip.setRx_c0In (p vc : Nat) (r : Rx) : (c.setRx p vc r).c0In = c.c0In := rfl
@[simp] theorem Chip.setRx_c0Out (p vc : Nat) (r : Rx) : (c.setRx p vc r).c0Out = c.c0Out := rfl
@[simp] theorem Chip.setRx_twin (p vc : Nat) (r : Rx) : (c.setRx p vc r).twin = c.twin := rfl
@[simp] theorem Chip.setRx_tele (p vc : Nat) (r : Rx) : (c.setRx p vc r).tele = c.tele := rfl
@[simp] theorem Chip.setRx_mgmt (p vc : Nat) (r : Rx) : (c.setRx p vc r).mgmt = c.mgmt := rfl
@[simp] theorem Chip.setRx_power (p vc : Nat) (r : Rx) : (c.setRx p vc r).power = c.power := rfl
@[simp] theorem Chip.setRx_rst (p vc : Nat) (r : Rx) : (c.setRx p vc r).rst = c.rst := rfl
@[simp] theorem Chip.setRx_out (p vc : Nat) (r : Rx) : (c.setRx p vc r).out = c.out := rfl

/-! ### `Chip.fibre`: what leaves a port's fibre changes the trace alone -/

@[simp] theorem Chip.fibre_now (p : Nat) (e : Emit) : (c.fibre p e).now = c.now := by unfold Chip.fibre; split <;> rfl
@[simp] theorem Chip.fibre_free (p : Nat) (e : Emit) : (c.fibre p e).free = c.free := by unfold Chip.fibre; split <;> rfl
@[simp] theorem Chip.fibre_ids (p : Nat) (e : Emit) : (c.fibre p e).ids = c.ids := by unfold Chip.fibre; split <;> rfl
@[simp] theorem Chip.fibre_regs (p : Nat) (e : Emit) : (c.fibre p e).regs = c.regs := by unfold Chip.fibre; split <;> rfl
@[simp] theorem Chip.fibre_latch (p : Nat) (e : Emit) : (c.fibre p e).latch = c.latch := by unfold Chip.fibre; split <;> rfl
@[simp] theorem Chip.fibre_pages (p : Nat) (e : Emit) : (c.fibre p e).pages = c.pages := by unfold Chip.fibre; split <;> rfl
@[simp] theorem Chip.fibre_ports (p : Nat) (e : Emit) : (c.fibre p e).ports = c.ports := by unfold Chip.fibre; split <;> rfl
@[simp] theorem Chip.fibre_links (p : Nat) (e : Emit) : (c.fibre p e).links = c.links := by unfold Chip.fibre; split <;> rfl
@[simp] theorem Chip.fibre_seams (p : Nat) (e : Emit) : (c.fibre p e).seams = c.seams := by unfold Chip.fibre; split <;> rfl
@[simp] theorem Chip.fibre_engBad (p : Nat) (e : Emit) : (c.fibre p e).engBad = c.engBad := by unfold Chip.fibre; split <;> rfl
@[simp] theorem Chip.fibre_engLock (p : Nat) (e : Emit) : (c.fibre p e).engLock = c.engLock := by unfold Chip.fibre; split <;> rfl
@[simp] theorem Chip.fibre_bufs (p : Nat) (e : Emit) : (c.fibre p e).bufs = c.bufs := by unfold Chip.fibre; split <;> rfl
@[simp] theorem Chip.fibre_tables (p : Nat) (e : Emit) : (c.fibre p e).tables = c.tables := by unfold Chip.fibre; split <;> rfl
@[simp] theorem Chip.fibre_badEnt (p : Nat) (e : Emit) : (c.fibre p e).badEnt = c.badEnt := by unfold Chip.fibre; split <;> rfl
@[simp] theorem Chip.fibre_gate (p : Nat) (e : Emit) : (c.fibre p e).gate = c.gate := by unfold Chip.fibre; split <;> rfl
@[simp] theorem Chip.fibre_pkts (p : Nat) (e : Emit) : (c.fibre p e).pkts = c.pkts := by unfold Chip.fibre; split <;> rfl
@[simp] theorem Chip.fibre_stores (p : Nat) (e : Emit) : (c.fibre p e).stores = c.stores := by unfold Chip.fibre; split <;> rfl
@[simp] theorem Chip.fibre_copies (p : Nat) (e : Emit) : (c.fibre p e).copies = c.copies := by unfold Chip.fibre; split <;> rfl
@[simp] theorem Chip.fibre_rx (p : Nat) (e : Emit) : (c.fibre p e).rx = c.rx := by unfold Chip.fibre; split <;> rfl
@[simp] theorem Chip.fibre_probeIn (p : Nat) (e : Emit) : (c.fibre p e).probeIn = c.probeIn := by unfold Chip.fibre; split <;> rfl
@[simp] theorem Chip.fibre_held (p : Nat) (e : Emit) : (c.fibre p e).held = c.held := by unfold Chip.fibre; split <;> rfl
@[simp] theorem Chip.fibre_wins (p : Nat) (e : Emit) : (c.fibre p e).wins = c.wins := by unfold Chip.fibre; split <;> rfl
@[simp] theorem Chip.fibre_jobs (p : Nat) (e : Emit) : (c.fibre p e).jobs = c.jobs := by unfold Chip.fibre; split <;> rfl
@[simp] theorem Chip.fibre_rinses (p : Nat) (e : Emit) : (c.fibre p e).rinses = c.rinses := by unfold Chip.fibre; split <;> rfl
@[simp] theorem Chip.fibre_bars (p : Nat) (e : Emit) : (c.fibre p e).bars = c.bars := by unfold Chip.fibre; split <;> rfl
@[simp] theorem Chip.fibre_time (p : Nat) (e : Emit) : (c.fibre p e).time = c.time := by unfold Chip.fibre; split <;> rfl
@[simp] theorem Chip.fibre_ticks (p : Nat) (e : Emit) : (c.fibre p e).ticks = c.ticks := by unfold Chip.fibre; split <;> rfl
@[simp] theorem Chip.fibre_busy (p : Nat) (e : Emit) : (c.fibre p e).busy = c.busy := by unfold Chip.fibre; split <;> rfl
@[simp] theorem Chip.fibre_ctxs (p : Nat) (e : Emit) : (c.fibre p e).ctxs = c.ctxs := by unfold Chip.fibre; split <;> rfl
@[simp] theorem Chip.fibre_pressIn (p : Nat) (e : Emit) : (c.fibre p e).pressIn = c.pressIn := by unfold Chip.fibre; split <;> rfl
@[simp] theorem Chip.fibre_syncIn (p : Nat) (e : Emit) : (c.fibre p e).syncIn = c.syncIn := by unfold Chip.fibre; split <;> rfl
@[simp] theorem Chip.fibre_timeIn (p : Nat) (e : Emit) : (c.fibre p e).timeIn = c.timeIn := by unfold Chip.fibre; split <;> rfl
@[simp] theorem Chip.fibre_twinIn (p : Nat) (e : Emit) : (c.fibre p e).twinIn = c.twinIn := by unfold Chip.fibre; split <;> rfl
@[simp] theorem Chip.fibre_c0In (p : Nat) (e : Emit) : (c.fibre p e).c0In = c.c0In := by unfold Chip.fibre; split <;> rfl
@[simp] theorem Chip.fibre_c0Out (p : Nat) (e : Emit) : (c.fibre p e).c0Out = c.c0Out := by unfold Chip.fibre; split <;> rfl
@[simp] theorem Chip.fibre_twin (p : Nat) (e : Emit) : (c.fibre p e).twin = c.twin := by unfold Chip.fibre; split <;> rfl
@[simp] theorem Chip.fibre_tele (p : Nat) (e : Emit) : (c.fibre p e).tele = c.tele := by unfold Chip.fibre; split <;> rfl
@[simp] theorem Chip.fibre_mgmt (p : Nat) (e : Emit) : (c.fibre p e).mgmt = c.mgmt := by unfold Chip.fibre; split <;> rfl
@[simp] theorem Chip.fibre_power (p : Nat) (e : Emit) : (c.fibre p e).power = c.power := by unfold Chip.fibre; split <;> rfl
@[simp] theorem Chip.fibre_rst (p : Nat) (e : Emit) : (c.fibre p e).rst = c.rst := by unfold Chip.fibre; split <;> rfl

/-! ### `Chip.pass` -/

@[simp] theorem Chip.pass_now (d : Nat) : (c.pass d).now = c.now + d := rfl
@[simp] theorem Chip.pass_free (d : Nat) : (c.pass d).free = c.free := rfl
@[simp] theorem Chip.pass_ids (d : Nat) : (c.pass d).ids = c.ids := rfl
@[simp] theorem Chip.pass_regs (d : Nat) : (c.pass d).regs = c.regs := rfl
@[simp] theorem Chip.pass_latch (d : Nat) : (c.pass d).latch = c.latch := rfl
@[simp] theorem Chip.pass_pages (d : Nat) : (c.pass d).pages = c.pages := rfl
@[simp] theorem Chip.pass_ports (d : Nat) : (c.pass d).ports = c.ports := rfl
@[simp] theorem Chip.pass_links (d : Nat) : (c.pass d).links = c.links := rfl
@[simp] theorem Chip.pass_seams (d : Nat) : (c.pass d).seams = c.seams := rfl
@[simp] theorem Chip.pass_engBad (d : Nat) : (c.pass d).engBad = c.engBad := rfl
@[simp] theorem Chip.pass_engLock (d : Nat) : (c.pass d).engLock = c.engLock := rfl
@[simp] theorem Chip.pass_bufs (d : Nat) : (c.pass d).bufs = c.bufs := rfl
@[simp] theorem Chip.pass_tables (d : Nat) : (c.pass d).tables = c.tables := rfl
@[simp] theorem Chip.pass_badEnt (d : Nat) : (c.pass d).badEnt = c.badEnt := rfl
@[simp] theorem Chip.pass_gate (d : Nat) : (c.pass d).gate = c.gate := rfl
@[simp] theorem Chip.pass_pkts (d : Nat) : (c.pass d).pkts = c.pkts := rfl
@[simp] theorem Chip.pass_stores (d : Nat) : (c.pass d).stores = c.stores := rfl
@[simp] theorem Chip.pass_copies (d : Nat) : (c.pass d).copies = c.copies := rfl
@[simp] theorem Chip.pass_rx (d : Nat) : (c.pass d).rx = c.rx := rfl
@[simp] theorem Chip.pass_probeIn (d : Nat) : (c.pass d).probeIn = c.probeIn := rfl
@[simp] theorem Chip.pass_held (d : Nat) : (c.pass d).held = c.held := rfl
@[simp] theorem Chip.pass_wins (d : Nat) : (c.pass d).wins = c.wins := rfl
@[simp] theorem Chip.pass_jobs (d : Nat) : (c.pass d).jobs = c.jobs := rfl
@[simp] theorem Chip.pass_rinses (d : Nat) : (c.pass d).rinses = c.rinses := rfl
@[simp] theorem Chip.pass_bars (d : Nat) : (c.pass d).bars = c.bars := rfl
@[simp] theorem Chip.pass_ticks (d : Nat) : (c.pass d).ticks = c.ticks := rfl
@[simp] theorem Chip.pass_busy (d : Nat) : (c.pass d).busy = c.busy := rfl
@[simp] theorem Chip.pass_ctxs (d : Nat) : (c.pass d).ctxs = c.ctxs := rfl
@[simp] theorem Chip.pass_pressIn (d : Nat) : (c.pass d).pressIn = c.pressIn := rfl
@[simp] theorem Chip.pass_syncIn (d : Nat) : (c.pass d).syncIn = c.syncIn := rfl
@[simp] theorem Chip.pass_timeIn (d : Nat) : (c.pass d).timeIn = c.timeIn := rfl
@[simp] theorem Chip.pass_twinIn (d : Nat) : (c.pass d).twinIn = c.twinIn := rfl
@[simp] theorem Chip.pass_c0In (d : Nat) : (c.pass d).c0In = c.c0In := rfl
@[simp] theorem Chip.pass_c0Out (d : Nat) : (c.pass d).c0Out = c.c0Out := rfl
@[simp] theorem Chip.pass_twin (d : Nat) : (c.pass d).twin = c.twin := rfl
@[simp] theorem Chip.pass_tele (d : Nat) : (c.pass d).tele = c.tele := rfl
@[simp] theorem Chip.pass_mgmt (d : Nat) : (c.pass d).mgmt = c.mgmt := rfl
@[simp] theorem Chip.pass_power (d : Nat) : (c.pass d).power = c.power := rfl
@[simp] theorem Chip.pass_rst (d : Nat) : (c.pass d).rst = c.rst := rfl
@[simp] theorem Chip.pass_out (d : Nat) : (c.pass d).out = c.out := rfl

/-! ### Reading back -/

/-- A register that has been written reads as the low 32 bits of the value written. -/
@[simp] theorem Chip.reg_setReg_self (a v : Nat) : (c.setReg a v).reg a = v % 2 ^ 32 := by
  simp [Chip.reg, Chip.setReg]

/-- A write of one register leaves what every other register reads as. -/
theorem Chip.reg_setReg_other (a b v : Nat) (h : b ≠ a) : (c.setReg a v).reg b = c.reg b := by
  simp [Chip.reg, Chip.setReg, SMap.get?_set_other c.regs a b _ h]

/-- A page that has taken a STATE reads it. -/
@[simp] theorem Chip.page_setPage_self (k : Nat) (p : PageSt) : (c.setPage k p).page k = p := by
  simp [Chip.page, Chip.setPage]

/-- A page's STATE leaves every other page's. -/
theorem Chip.page_setPage_other (k l : Nat) (p : PageSt) (h : l ≠ k) : (c.setPage k p).page l = c.page l := by
  simp [Chip.page, Chip.setPage, SMap.get?_set_other c.pages k l p h]

@[simp] theorem Chip.page_setReg (a v k : Nat) : (c.setReg a v).page k = c.page k := rfl
@[simp] theorem Chip.reg_setPage (k a : Nat) (p : PageSt) : (c.setPage k p).reg a = c.reg a := rfl

/-- A port that has been set reads as set. -/
@[simp] theorem Chip.port_setPort_self (p : Nat) (v : Port) : (c.setPort p v).port p = v := by
  simp [Chip.port, Chip.setPort]

/-- A change of one port leaves every other port. -/
theorem Chip.port_setPort_other (p r : Nat) (v : Port) (h : r ≠ p) : (c.setPort p v).port r = c.port r := by
  simp [Chip.port, Chip.setPort, SMap.getD_set_other c.ports p r v {} h]

/-- A changed link end reads as changed. -/
@[simp] theorem Chip.link_onLink_self (k : Nat) (f : Link → Link) : (c.onLink k f).link k = f (c.link k) := by
  simp [Chip.link]

/-- A changed seam reads as changed. -/
@[simp] theorem Chip.seam_onSeam_self (k : Nat) (f : Seam → Seam) : (c.onSeam k f).seam k = f (c.seam k) := by
  simp [Chip.seam]

/-- A changed pool manager reads as changed. -/
@[simp] theorem Chip.buf_onBuf_self (q : Nat) (f : Buf → Buf) : (c.onBuf q f).buf q = f (c.buf q) := by
  simp [Chip.buf]

/-- A changed context reads as changed. -/
@[simp] theorem Chip.ctx_onCtx_self (k : Nat) (f : Ctx → Ctx) : (c.onCtx k f).ctx k = f (c.ctx k) := by
  simp [Chip.ctx]

/-- A change of one context leaves every other context. -/
theorem Chip.ctx_onCtx_other (k l : Nat) (f : Ctx → Ctx) (h : l ≠ k) : (c.onCtx k f).ctx l = c.ctx l := by
  simp [Chip.ctx, SMap.getD_set_other c.ctxs k l _ {} h]

/-- A job's changed banks read as changed. -/
@[simp] theorem Chip.job_onJob_self (j : Nat) (f : Job → Job) : (c.onJob j f).job j = f (c.job j) := by
  simp [Chip.job]

/-- A change of one job's banks leaves every other job's. -/
theorem Chip.job_onJob_other (j k : Nat) (f : Job → Job) (h : k ≠ j) : (c.onJob j f).job k = c.job k := by
  simp [Chip.job, SMap.getD_set_other c.jobs j k _ {} h]

/-- A changed barrier counter reads as changed. -/
@[simp] theorem Chip.bar_onBar_self (b : Nat) (f : Bar → Bar) : (c.onBar b f).bar b = f (c.bar b) := by
  simp [Chip.bar]

/-- A change of one barrier counter leaves every other. -/
theorem Chip.bar_onBar_other (b d : Nat) (f : Bar → Bar) (h : d ≠ b) : (c.onBar b f).bar d = c.bar d := by
  simp [Chip.bar, SMap.getD_set_other c.bars b d _ {} h]

end Sys2Proof.Machine
end

