-- ==== Sys2Proof/Laws/Step.lean ====
section
/-! SUPPORT. What `exec` and `step` answer: the two shapes that meanings have, the queue, and C0's SRAM. -/
namespace Sys2Proof.Machine

/-- A command of the part alone: the next state, SRAM and the queue as before. -/
@[simp] theorem onChip_eq (s : State) (f : Chip → Chip) : onChip s f = .next { s with chip := f s.chip } := rfl

/-- A command that may reset C0: the next state, with SRAM lost if C0 entered reset. -/
theorem onPart_eq (s : State) (f : Chip → Chip) :
    onPart s f = .next { s with chip := f s.chip, sram := keepSram s.chip (f s.chip) s.sram } := rfl

/-- A change that leaves C0 out of reset, or in it, keeps SRAM. -/
theorem keepSram_same (was is_ : Chip) (m : Memory) (h : was.rst.c0Up = is_.rst.c0Up) : keepSram was is_ m = m := by
  simp [keepSram, h]

/-- The part of the state after a command that may reset C0. -/
theorem onPart_next (s t : State) (f : Chip → Chip) (h : onPart s f = .next t) : t.chip = f s.chip ∧ t.pending = s.pending := by
  simp only [onPart_eq, Host.Outcome.next.injEq] at h
  subst h
  exact ⟨rfl, rfl⟩

/-- A change of the part under which C0 stays in or out of reset: SRAM and the queue as before. -/
theorem onPart_same (s : State) (f : Chip → Chip) (c : Chip) (h : f s.chip = c) (hu : s.chip.rst.c0Up = c.rst.c0Up) :
    onPart s f = .next (withChip s c) := by
  subst h
  simp [onPart_eq, withChip, keepSram_same _ _ _ hu]

/-- With a command in front, a step runs it on the rest of the queue. -/
theorem step_front (s : State) (c : Instr) (rest : List Instr) (h : s.pending = c :: rest) :
    step s = exec c { s with pending := rest } := by
  simp [step, h]

/-- With no command waiting, a step lets time pass. -/
theorem step_idle (s : State) (h : s.pending = []) : step s = .next (idle s) := by
  simp [step, h]

end Sys2Proof.Machine
end

