-- ==== Sys2Proof/Laws/Write.lean ====
section
/-! SUPPORT. A write of one register of one die: which page and register its address names, and that a write which passes
every check has the effect of the register's own rule. -/
namespace Sys2Proof.Machine

/-- The die of an address. -/
theorem adDie_regAddr (die page off : Nat) (h1 : die < 32) (h2 : page < 2 ^ 15) (h3 : off < 2 ^ 12) :
    adDie (regAddr die page off) = die := by
  simp only [adDie, regAddr]; omega

/-- The page number of an address. -/
theorem adPage_regAddr (die page off : Nat) (h2 : page < 2 ^ 15) (h3 : off < 2 ^ 12) :
    adPage (regAddr die page off) = page := by
  simp only [adPage, regAddr]; omega

/-- The offset of an address. -/
theorem adOff_regAddr (die page off : Nat) (h3 : off < 2 ^ 12) : adOff (regAddr die page off) = off := by
  simp only [adOff, regAddr]; omega

/-- The page of an address. -/
theorem pageBase_regAddr (die page off : Nat) (h1 : die < 32) (h2 : page < 2 ^ 15) (h3 : off < 2 ^ 12) :
    pageBase (regAddr die page off) = regAddr die page 0 := by
  simp only [pageBase, regAddr]; omega

/-- An offset added to a page's address. -/
@[simp] theorem regAddr_add (die page off : Nat) : regAddr die page 0 + off = regAddr die page off := by
  simp only [regAddr]; omega

/-- A die select that names a die. -/
theorem dieKind_lt (die : Nat) (k : DieKind) (h : dieKind die = some k) : die < 25 := by
  simp only [dieKind] at h
  repeat' split at h
  all_goals first | omega | simp at h

/-- The pages of the part lie below page number 0x77 of dies 0 to 24. -/
theorem pageOf_lt (die page : Nat) (x : Block × Nat) (h : pageOf die page = some x) : die < 25 ∧ page < 0x77 := by
  cases hk : dieKind die with
  | none => simp [pageOf, hk] at h
  | some k =>
    refine ⟨dieKind_lt die k hk, ?_⟩
    refine Classical.byContradiction fun hn => ?_
    simp only [pageOf, hk] at h
    cases k
    all_goals
      simp only at h
      repeat rw [if_neg (by omega)] at h
      simp at h

/-- The header's registers are on every page. -/
theorem regDef_header (b : Block) (i off : Nat) (h : off < 0x100) (h4 : off % 4 = 0) : regDef b i off = headerDef b off := by
  simp [regDef, h, h4]

/-- The state after a write: as the register's rule has it, or as it was with the error recorded (R578, R579). -/
def Wr.after (r : Wr) (c : Chip) (die page off v : Nat) (fabric : Bool) : Chip :=
  match r with
  | .ok c => c
  | .error k => c.recordErr (regAddr die page 0) k off v fabric

/-- A write of a domain whose commands are taken. -/
theorem Chip.write_taken (c : Chip) (dom : Dom) (a v : Nat) (h : c.mayManage dom = true) :
    c.write dom a v = (c.writeWord dom a v).2.denied (c.writeWord dom a v).1 := by
  simp only [Chip.write, h, if_true]

/-- A write of a domain whose commands are not taken changes nothing. -/
theorem Chip.write_ignored (c : Chip) (dom : Dom) (a v : Nat) (h : c.mayManage dom = false) : c.write dom a v = c := by
  simp [Chip.write, h]

/-- A word whose address names a page of one die, and whose class is granted, reaches that die. -/
theorem Chip.writeWord_one (c : Chip) (dom : Dom) (a v die : Nat) (hbad : badAddr a = false)
    (hb : c.allowed dom a (some v) = true) (hw : windowDies a = [die]) (hin : inDie a die = a) :
    c.writeWord dom a v = c.writeDie (dom == .fabric) a v := by
  simp [Chip.writeWord, hbad, hb, hw, hin]

/-- An address of one die reaches that die. -/
theorem windowDies_one (a die : Nat) (h : adDie a = die) (h1 : die < 30) : windowDies a = [die] := by
  simp only [windowDies, h]
  rw [if_neg (by omega), if_neg (by omega)]

/-- The address of a register is the address in its own die. -/
theorem inDie_self (die page off : Nat) (e2 : adPage (regAddr die page off) = page)
    (e3 : adOff (regAddr die page off) = off) : inDie (regAddr die page off) die = regAddr die page off := by
  simp [inDie, e2, e3]

/-- The address of a word of a page is good. -/
theorem badAddr_regAddr (die page off : Nat) (b : Block) (i : Nat) (h4 : off % 4 = 0)
    (hw : windowDies (regAddr die page off) = [die]) (e2 : adPage (regAddr die page off) = page)
    (hp : pageOf die page = some (b, i)) : badAddr (regAddr die page off) = false := by
  have h : regAddr die page off % 4 = 0 := by simp only [regAddr]; omega
  simp [badAddr, h, hw, e2, hp]

/-- What a die answers for a write, in terms of the write's own rule. -/
theorem Chip.writeDie_denied (c : Chip) (fabric : Bool) (a v die page off : Nat) (e3 : adOff a = off)
    (e4 : pageBase a = regAddr die page 0) :
    (c.writeDie fabric a v).2.denied (c.writeDie fabric a v).1 = (c.tryWrite fabric a v).after c die page off v fabric := by
  simp only [Chip.writeDie, e3, e4]
  cases c.tryWrite fabric a v <;> rfl

/-- A write that a domain may make reaches the one die its address names. -/
theorem Chip.write_one (c : Chip) (dom : Dom) (die page off v : Nat) (b : Block) (i : Nat)
    (h1 : die < 30) (h2 : page < 2 ^ 15) (h3 : off < 2 ^ 12) (h4 : off % 4 = 0)
    (hp : pageOf die page = some (b, i)) (hm : MayWrite c dom die page off v) :
    c.write dom (regAddr die page off) v =
      (c.tryWrite (dom == .fabric) (regAddr die page off) v).after c die page off v (dom == .fabric) := by
  have e1 := adDie_regAddr die page off (by omega) h2 h3
  have e2 := adPage_regAddr die page off h2 h3
  have e3 := adOff_regAddr die page off h3
  have e4 := pageBase_regAddr die page off (by omega) h2 h3
  have hw := windowDies_one (regAddr die page off) die e1 h1
  rw [Chip.write_taken c dom _ v hm.1, Chip.writeWord_one c dom _ v die (badAddr_regAddr die page off b i h4 hw e2 hp) hm.2.1
    hw (inDie_self die page off e2 e3), Chip.writeDie_denied c _ _ v die page off e3 e4]

/-- The checks of a write that LOCK does not refuse and whose reserved bits are 0: what is left is the register's rule. -/
theorem Chip.tryWrite_open (c : Chip) (fabric : Bool) (a die page off v : Nat) (b : Block) (i : Nat) (d : RegDef)
    (e1 : adDie a = die) (e2 : adPage a = page) (e3 : adOff a = off)
    (hp : pageOf die page = some (b, i)) (hd : regAt die b i off = some d)
    (hf : (fabric && bit (c.reg (regAddr die page 0x34)) 1) = false)
    (hl : bit (c.reg (regAddr die page 0x34)) 0 = false)
    (hv : v &&& (d.rw ||| d.ro ||| d.w1c ||| d.w1s) = v) :
    c.tryWrite fabric a v = c.ruleWrite b i d die page off v := by
  simp only [Chip.tryWrite, e1, e2, e3, hp, hd, hf, hl, hv, Bool.false_and, Bool.false_eq_true, if_false,
    bne_self_eq_false]

/-- FABRIC_BLOCK does not refuse a write that the domain may make. -/
theorem mayWrite_unblocked {c : Chip} {dom : Dom} {die page off v : Nat} (hm : MayWrite c dom die page off v) :
    (dom == .fabric && bit (c.reg (regAddr die page 0x34)) 1) = false := by
  cases dom
  · rfl
  · simpa using hm.2.2.1 rfl

/-- A write that a domain may make and whose reserved bits are 0 has the effect of the register's rule. -/
theorem Chip.write_rule (c : Chip) (dom : Dom) (die page off v : Nat) (b : Block) (i : Nat) (d : RegDef)
    (h1 : die < 30) (h2 : page < 2 ^ 15) (h3 : off < 2 ^ 12) (h4 : off % 4 = 0)
    (hp : pageOf die page = some (b, i)) (hd : regAt die b i off = some d) (hm : MayWrite c dom die page off v)
    (hv : v &&& (d.rw ||| d.ro ||| d.w1c ||| d.w1s) = v) :
    c.write dom (regAddr die page off) v =
      (c.ruleWrite b i d die page off v).after c die page off v (dom == .fabric) := by
  rw [c.write_one dom die page off v b i h1 h2 h3 h4 hp hm,
    c.tryWrite_open _ _ die page off v b i d (adDie_regAddr die page off (by omega) h2 h3)
      (adPage_regAddr die page off h2 h3) (adOff_regAddr die page off h3) hp hd (mayWrite_unblocked hm) hm.2.2.2 hv]

end Sys2Proof.Machine
end

