-- ==== Sys2Proof/Tests/Slice0.lean ====
section
/-! SUPPORT. Tests: ill-formed commands, the worked examples of the spec, and for every obligation with hypotheses a theorem
that shows states and operands which meet them. -/
namespace Sys2Proof.Tests

set_option Elab.async false

open Sys2Proof.Machine

/-- A state made from reset. -/
def mkS (f : Chip → Chip) : State := { State.reset with chip := f Chip.reset }

/-- A page that is ON. -/
def onPg (die pg : Nat) (c : Chip) : Chip := c.setPage (pageKey die pg) { st := 2 }

/-- A page in another state. -/
def pgSt (die pg k : Nat) (c : Chip) : Chip := c.setPage (pageKey die pg) { st := k }

/-- The firmware runs. -/
def fwOn (c : Chip) : Chip := c.onMgmt (fun m => { m with fw := 3 })

/-- An address as a word. -/
def ad (die pg off : Nat) : Word := BitVec.ofNat 32 (regAddr die pg off)

/-- A state with other power data. -/
def pw (f : Power → Power) : State := mkS (fun c => c.onPower f)

/-- A state with other reset data. -/
def rs (f : Reset → Reset) : State := mkS (fun c => c.onRst f)

/-- A state with other management data. -/
def mg (f : Mgmt → Mgmt) : State := mkS (fun c => c.onMgmt f)

/-- A port whose pages, fibre pair and engine are on, in a given condition. -/
def upP (p : Nat) (x : Port) (c : Chip) : Chip :=
  (onPg (p / 256) (0x30 + p % 256 / 16) (onPg (p / 256) (0x20 + p % 256 / 16) (onPg (p / 256) (0x10 + p % 256 / 16)
    (onPg (8 + p / 64) 0x40 (((c.setReg (oen (p / 64) 0x100) 0xFFFF).setReg (lnePage p + 0x108) 0).setReg (lnePage p + 0x100) 0))))).setPort p x

/-- A state with one such port, of width 8. -/
def pt (p : Nat) (st_ : PState) : State := mkS (upP p { st := st_, lanes := 0xFF, trained := 0xFF })

/-- A frame with its CRC. -/
def frm (head : BitVec 64) (content : List Byte) (low : Nat) : Frame :=
  { head := head, content := content,
    tail := BitVec.ofNat 64 ((crc32 (leBytes 8 head.toNat ++ content ++ leBytes 4 low)).toNat * 2 ^ 32 + low) }

/-- The pages of a seam are ON. -/
def semUp (k : Nat) (c : Chip) : Chip := c.each (semPages k) (fun c dp => onPg dp.1 dp.2 c)

/-- The header of a plain packet from end point 9 to end point 5. -/
def uni : Hdr := { net := 1, op := 0x10, dest := 5, src := 9, len := 16, tc := 1 }

/-- Its packet, with number 0. -/
def pk0 : Pkt := { id := 0, hdr := uni, oldDest := 5, origin := .port 0, entry := 0, vc := 5, stamp := 0, rate := 8 }

/-- A copy of it on a link. -/
def cp (link vc : Nat) (g : Goal) : Copy := { id := 1, pkt := 0, sid := 0, q := 0, link := link, vc := vc, goal := g, path := [] }

/-- Where it is stored. -/
def sto : Store := { sid := 0, q := 0, pkt := 0, cells := [0], need := 1, ref := 2, rx := 0, vc := 5, got := 64, tailIn := true }

/-- A quadrant in pool mode with its layout of reset, its page ON. -/
def pool (q : Nat) (c : Chip) : Chip := (onPg q 0x44 c).onBuf q (fun b => { b with mode := true, built := true })

/-- Pool 0 of a quadrant is eight cells. -/
def tiny (q : Nat) (c : Chip) : Chip := (c.setReg (bufPage q + 0x110) 0).setReg (bufPage q + 0x114) 8

/-- A template of context `x` of press die `d` in bank A: FP32 SUM, one chunk of four elements a step, `n` end-point slots
9, 10, …, and the part at end point 5 the owner. -/
def tpl (d x role n : Nat) (c : Chip) : Chip :=
  let r (off v : Nat) (c : Chip) : Chip := c.setReg (prs d (0x400 + 0x20 * x + off)) v
  let c := r 0x18 0xA000A (r 0x14 1 (r 0x10 1 (r 0xC 1 (r 8 0x40004 (r 4 0x40004
    (r 0 (2 ^ 31 + put role 27 + put n 14 + 5) c))))))
  let c := c.each (List.range n) (fun c i =>
    { c with tables := SMap.set c.tables (colKey d x 0 false i) [BitVec.ofNat 32 (2 ^ 31 + 9 + i), 0x3F800000] })
  { c with tables := SMap.set c.tables (colKey d x 1 false 0) [0x80000005] }

/-- A collective context that is ON. -/
def ctxOn (d x : Nat) (c : Chip) : Chip := c.onCtx (24 * d + x) (fun y => { y with st := 1, openMax := 4 })

/-- The arrival of a contribution of four elements. -/
def con (c src code : Nat) : Arr :=
  { hdr := { op := 3, src := src, dest := 5, len := 16, seq := c, aux := c }, payload := List.replicate 16 0, port := 0,
    code := code, sealOk := true, vc := 5 }

/-- A retained copy with no packets. -/
def ret (t : Tmpl) : Retained := { gen := 0, c := 7, bank := false, tmpl := t, pkts := [], at_ := 0, resentAt := none, resends := [] }

/-- An open chunk. -/
def chk0 (t : Tmpl) : Chunk :=
  { c := 7, done := false, bank := false, tmpl := t, slots := [], openAt := 0, late := false, poisoned := false }

/-- A packet of the sync network. -/
def syn (op dest job epoch port : Nat) : Arr :=
  { hdr := { net := 2, op := op, dest := dest, job := job, len := 40, seq := epoch, aux := epoch },
    payload := List.replicate 40 0, port := port, code := 0, sealOk := true, vc := 1 }

/-- A twin unit in a role, the twin link on port 4 with a framed port, pair 0x77. -/
def twn0 (role : Nat) (c : Chip) : Chip :=
  (((onPg 24 0x4A (upP 4 { st := .active } c)).setReg (twn 0x104) 0x80000004).setReg (twn 0x100) 0x770001).onTwin
    (fun t => { t with role := role })

/-- A beat record of the peer. -/
def bt (pair st target : Nat) : List Byte :=
  leBytes 2 pair ++ leBytes 1 st ++ leBytes 1 0 ++ leBytes 4 3 ++ leBytes 4 9 ++ leBytes 8 0 ++ leBytes 2 target ++ leBytes 10 0

/-- A packet of the twin link. -/
def tw (op : Nat) (pay : List Byte) : Nat × Arr :=
  (0, { hdr := { net := 3, op := op, len := pay.length }, payload := pay, port := 4, code := 0, sealOk := true, vc := 9 })

/-- A rinse of job 7. -/
def rin (phase : Nat) (rep : Option Report) : Rinse :=
  { job := 7, drain := 4095, swap := 0, start := 0, phase := phase, round := 1, reported := rep, rose := false, late := false }

/-- A part whose thread works, with an address. -/
def thOn (a : Option Nat) (c : Chip) : Chip := c.onMgmt (fun m => { m with bypass := false, addr := a })

/-- A request: its head and one READ of `n` words. -/
def rq (tag ctrl n : Nat) : List Byte :=
  leBytes 2 1 ++ leBytes 2 tag ++ leBytes 4 ctrl ++ (leBytes 2 1 ++ leBytes 2 1 ++ leBytes 4 0x18000000 ++ leBytes 4 n)

/-- An arrival for C0: `port` 1025 for the thread. -/
def c0 (port : Nat) (pay : List Byte) : Nat × Arr :=
  (port, { hdr := { op := 6, src := 9, len := pay.length }, payload := pay, port := port, code := 0, sealOk := true, vc := 4 })

/-- A header of a firmware image. -/
def img (len entry slot : Nat) : Memory :=
  ((Memory.putAll [] 0 (leBytes 4 0x5746534B ++ leBytes 4 1 ++ leBytes 4 3)).putAll 12 (leBytes 4 len ++ leBytes 4 entry ++
    leBytes 1 slot)).put 512 4


/-- A whole packet stored in Q0, with a copy that waits on a link. -/
def queued (link vc : Nat) (g : Goal) (c : Chip) : Chip :=
  { c with pkts := [{ pk0 with vc := vc, payload := List.replicate 16 0, tailIn := true }], stores := [sto], copies := [cp link vc g] }

/-- The INIT record of a switch. -/
def peer0 : InitRec :=
  { id := 9, port := 3, sw := true, seen := true, twin := false, kind := 1, stamp := 0, priv := [2], shared := 8, at_ := 0 }

/-- A head stitch of a packet. -/
def hd (h : Hdr) : List Byte := h.bytes ++ List.replicate 40 0

/-- Stitches wait on a receive virtual channel. -/
def rxq (p vc : Nat) (l : List (List Byte)) (c : Chip) : Chip := { c with rx := [(16 * p + vc, { queue := l.map (fun b => (0, b)) })] }

/-- A packet of 40 bytes is under way on a receive virtual channel. -/
def rxc (p vc : Nat) (pkt : Option Nat) (got : List Byte) (c : Chip) : Chip :=
  { c with rx := [(16 * p + vc, { cur := some { pkt := pkt, seen := 0, need := 40, got := got } })] }

/-- The packet of 16 payload bytes, its store part filled, and a copy on port 4. -/
def under (f : Copy → Copy) (c : Chip) : Chip :=
  { c with pkts := [{ pk0 with payload := List.replicate 16 7 }], stores := [{ sto with tailIn := false }],
           copies := [f (cp 4 5 (.port 4))] }

/-- Five values together are what they are one by one. -/
theorem five {A B C D E : Type} (x : A × B × C × D × E) : x = (x.1, x.2.1, x.2.2.1, x.2.2.2.1, x.2.2.2.2) := rfl

/-- Where the counter pages of C0's cores are not ON, the pulse for a stint that starts draws its core and counts nothing. -/
theorem stint_off (c : Chip) (h : ∀ k, k < 3 → c.isOn 24 (0x61 + k) = false) : c.stintStarts = (c.draw Config.pick).2 := by
  have e : (c.draw Config.pick).2.isOn 24 (0x60 + (1 + (c.draw Config.pick).1 % 3)) = false := by
    have := h ((c.draw Config.pick).1 % 3) (Nat.mod_lt _ (by decide))
    rw [← Nat.add_assoc]
    exact this
  simp only [Chip.stintStarts, Chip.pmc, e, Bool.false_eq_true, if_false]


/-- The CRC of a list in two parts. -/
theorem crcBytes_append (p c : Word) (a b : List Byte) :
    crcBytes p c (a ++ b) = crcBytes p (crcBytes p c a) b := by
  induction a generalizing c with
  | nil => rfl
  | cons x t ih => exact ih _

/-- 31 zero bytes. -/
def zeros : List Byte := List.replicate 31 0

theorem zeros_split : (List.replicate 496 0 : List Byte) =
    zeros ++ zeros ++ zeros ++ zeros ++ zeros ++ zeros ++ zeros ++ zeros ++ zeros ++ zeros ++ zeros ++ zeros ++ zeros ++
      zeros ++ zeros ++ zeros := by
  decide +kernel

/-- A frame of empty content, with its CRC. -/
def initFrame : Frame :=
  { head := 0x8FFFFFFFFFFFF000, content := List.replicate 496 0, tail := BitVec.ofNat 64 (0xEAF830C9 * 2 ^ 32 + 0x2000) }

theorem initFrame_crc : frameCrcOk initFrame = true := by
  have h : crc32 (leBytes 8 0x8FFFFFFFFFFFF000 ++ List.replicate 496 0 ++ leBytes 4 0x2000) = 0xEAF830C9 := by
    rw [crc32, zeros_split, crcBytes_append, crcBytes_append]
    rw [show crcBytes 0xEDB88320 0xFFFFFFFF (leBytes 8 0x8FFFFFFFFFFFF000) = 0x5EBD27D0 by decide +kernel]
    simp only [crcBytes_append]
    rw [show crcBytes 0xEDB88320 0x5EBD27D0 zeros = 0xF260F7EB by decide +kernel]
    rw [show crcBytes 0xEDB88320 0xF260F7EB zeros = 0x46BCBE2F by decide +kernel]
    rw [show crcBytes 0xEDB88320 0x46BCBE2F zeros = 0x65BC3EE6 by decide +kernel]
    rw [show crcBytes 0xEDB88320 0x65BC3EE6 zeros = 0x08AE91EC by decide +kernel]
    rw [show crcBytes 0xEDB88320 0x08AE91EC zeros = 0x2E9B1F45 by decide +kernel]
    rw [show crcBytes 0xEDB88320 0x2E9B1F45 zeros = 0x990AE30F by decide +kernel]
    rw [show crcBytes 0xEDB88320 0x990AE30F zeros = 0x76DBA637 by decide +kernel]
    rw [show crcBytes 0xEDB88320 0x76DBA637 zeros = 0xCBB08E2C by decide +kernel]
    rw [show crcBytes 0xEDB88320 0xCBB08E2C zeros = 0xCE218BE1 by decide +kernel]
    rw [show crcBytes 0xEDB88320 0xCE218BE1 zeros = 0x5F628074 by decide +kernel]
    rw [show crcBytes 0xEDB88320 0x5F628074 zeros = 0xF52EFB9A by decide +kernel]
    rw [show crcBytes 0xEDB88320 0xF52EFB9A zeros = 0x2A41B5D3 by decide +kernel]
    rw [show crcBytes 0xEDB88320 0x2A41B5D3 zeros = 0xACE76C18 by decide +kernel]
    rw [show crcBytes 0xEDB88320 0xACE76C18 zeros = 0xF1C1B0C7 by decide +kernel]
    rw [show crcBytes 0xEDB88320 0xF1C1B0C7 zeros = 0xFA28A715 by decide +kernel]
    rw [show crcBytes 0xEDB88320 0xFA28A715 zeros = 0x52E68BA0 by decide +kernel]
    rw [show crcBytes 0xEDB88320 0x52E68BA0 (leBytes 4 0x2000) = 0x1507CF36 by decide +kernel]
    decide
  have e : crc32 (leBytes 8 (initFrame.head).toNat ++ initFrame.content ++ leBytes 4 (initFrame.tail.toNat % 2 ^ 32)) =
      BitVec.ofNat 32 (initFrame.tail.toNat / 2 ^ 32) := h
  unfold frameCrcOk; rw [e]; decide +kernel

/-- A frame of empty content, with its CRC. -/
def dataFrame : Frame :=
  { head := 0x00000FFFFFFFF005, content := List.replicate 496 0, tail := BitVec.ofNat 64 (0x0BDCDB75 * 2 ^ 32 + 0x0) }

theorem dataFrame_crc : frameCrcOk dataFrame = true := by
  have h : crc32 (leBytes 8 0x00000FFFFFFFF005 ++ List.replicate 496 0 ++ leBytes 4 0x0) = 0x0BDCDB75 := by
    rw [crc32, zeros_split, crcBytes_append, crcBytes_append]
    rw [show crcBytes 0xEDB88320 0xFFFFFFFF (leBytes 8 0x00000FFFFFFFF005) = 0x4DBA39A7 by decide +kernel]
    simp only [crcBytes_append]
    rw [show crcBytes 0xEDB88320 0x4DBA39A7 zeros = 0x16027316 by decide +kernel]
    rw [show crcBytes 0xEDB88320 0x16027316 zeros = 0xDD960577 by decide +kernel]
    rw [show crcBytes 0xEDB88320 0xDD960577 zeros = 0x5F66850F by decide +kernel]
    rw [show crcBytes 0xEDB88320 0x5F66850F zeros = 0xED5E202B by decide +kernel]
    rw [show crcBytes 0xEDB88320 0xED5E202B zeros = 0xC6743696 by decide +kernel]
    rw [show crcBytes 0xEDB88320 0xC6743696 zeros = 0x0DA28A82 by decide +kernel]
    rw [show crcBytes 0xEDB88320 0x0DA28A82 zeros = 0x858BA689 by decide +kernel]
    rw [show crcBytes 0xEDB88320 0x858BA689 zeros = 0x05DB55F2 by decide +kernel]
    rw [show crcBytes 0xEDB88320 0x05DB55F2 zeros = 0x5176C52D by decide +kernel]
    rw [show crcBytes 0xEDB88320 0x5176C52D zeros = 0x61077002 by decide +kernel]
    rw [show crcBytes 0xEDB88320 0x61077002 zeros = 0x3C2973AD by decide +kernel]
    rw [show crcBytes 0xEDB88320 0x3C2973AD zeros = 0xAB0C998E by decide +kernel]
    rw [show crcBytes 0xEDB88320 0xAB0C998E zeros = 0x10A40DEF by decide +kernel]
    rw [show crcBytes 0xEDB88320 0x10A40DEF zeros = 0xCB0A2A55 by decide +kernel]
    rw [show crcBytes 0xEDB88320 0xCB0A2A55 zeros = 0xA5520FB7 by decide +kernel]
    rw [show crcBytes 0xEDB88320 0xA5520FB7 zeros = 0x8F74E828 by decide +kernel]
    rw [show crcBytes 0xEDB88320 0x8F74E828 (leBytes 4 0x0) = 0xF423248A by decide +kernel]
    decide
  have e : crc32 (leBytes 8 (dataFrame.head).toNat ++ dataFrame.content ++ leBytes 4 (dataFrame.tail.toNat % 2 ^ 32)) =
      BitVec.ofNat 32 (dataFrame.tail.toNat / 2 ^ 32) := h
  unfold frameCrcOk; rw [e]; decide +kernel

/-! ### Well-formedness: for each check a term that it refuses -/

theorem test_wf_page :
    (Instr.ctlEnable .owner 0x30041014).wellFormed = false ∧ (Instr.ctlEnable .owner 0x30041000).wellFormed = true := by
  decide
theorem test_wf_optical : (Instr.opticalPowerSample 0 (List.replicate 127 0) (List.replicate 16 0) (List.replicate 10 0)).wellFormed
    = false := by decide +kernel
theorem test_wf_frame : (Instr.initFrameReceive 0 { head := 0, content := [], tail := 0 }).wellFormed = false ∧
    (Instr.initFrameReceive 0 initFrame).wellFormed = true := by decide +kernel
theorem test_wf_link_frame : (Instr.linkFrameReceive (.port 0) initFrame (List.replicate 9 0) []).wellFormed = false := by
  decide +kernel
theorem test_wf_seam_end : (Instr.seamCopyArrive (.port 0) 0).wellFormed = false := by decide
theorem test_wf_layout_offset : (Instr.bufLayoutWrite .owner 0 0x150 0).wellFormed = false ∧
    (Instr.bufLayoutWrite .owner 0 0x112 0).wellFormed = false := by decide
theorem test_wf_check_offsets : (Instr.cveStateRead .owner 0 0x2C).wellFormed = false ∧
    (Instr.cveSettingWrite .owner 0 0x20 0).wellFormed = false := by decide
theorem test_wf_delta : (Instr.poolBalance 0 0 (2 ^ 19)).wellFormed = false ∧
    (Instr.poolBalance 0 0 (-(2 ^ 19))).wellFormed = true := by decide
theorem test_wf_errors : (Instr.prbsLockLost 0 (2 ^ 32 + 1)).wellFormed = false := by decide
theorem test_wf_probe : (Instr.mendProbeAnswer 0 0 (List.replicate 8193 0)).wellFormed = false := by decide +kernel
theorem test_wf_tap : (Instr.lintTake 0 32).wellFormed = false := by decide
theorem test_wf_thread : (Instr.threadFrameReceive []).wellFormed = false := by decide
theorem test_wf_argument : (Instr.read .owner 0 (2 ^ 32)).wellFormed = false ∧
    (Instr.memRead .owner 0 (2 ^ 32)).wellFormed = false ∧ (Instr.wait .owner 0 0 0 (2 ^ 32)).wellFormed = false ∧
    (Instr.tableLoad .owner 0 0 0 (2 ^ 32) 0 0).wellFormed = false := by decide
theorem test_wf_words : (Instr.write .owner 0 (List.replicate (2 ^ 16) 0)).wellFormed = false := by decide +kernel
theorem test_wf_sample : (Instr.powerSample (2 ^ 16) 0).wellFormed = false := by decide
theorem test_wf_readings : (Instr.thermalRead []).wellFormed = false := by decide
theorem test_wf_scrub :
    (Instr.scrubStint true [{ memory := 5, die := 4, index := 0, uncorrectable := false }]).wellFormed = false ∧
    (Instr.scrubStint true [{ memory := 6, die := 4, index := 0, uncorrectable := false }]).wellFormed = true := by decide

/-! ### The worked examples of the spec -/

/-- spec/00_scope.md: the STATE register of page 0x0041 on P2. -/
theorem test_address : regAddr 6 0x41 0x14 = 0x30041014 ∧ adDie 0x30041014 = 6 ∧ adPage 0x30041014 = 0x41 ∧
    adOff 0x30041014 = 0x14 := by decide

/-- spec/19_register_pages.md: PAGE_ID of Q3's press seam counters, read over its address. -/
theorem test_read_page_id :
    (match exec (.read .owner 0x18076000 1) State.reset with
     | .next t => t.chip.out.head?
     | _ => none) = some (.complete .owner 1 0 [0x00140016]) := by decide +kernel

/-- spec/01_part_and_package.md: lane 1,234 belongs to port 616, and that to engine 9. -/
theorem test_lane : Chip.reset.lanePort 1234 = some 616 ∧ portEngine 616 = 9 := by decide +kernel

/-- spec/04_link_layer.md: the frame head 0x01F0_4FF0_0080_03A7. -/
theorem test_frame_head :
    frameFseq { head := 0x01F04FF0008003A7, content := [], tail := 0 } = 0x3A7 ∧
    frameKind { head := 0x01F04FF0008003A7, content := [], tail := 0 } = 0 ∧
    frameVcs { head := 0x01F04FF0008003A7, content := [], tail := 0 } = [0, 0, 8, 0, 0, 0] := by decide

/-- The header of the example in spec/05_packet_format.md. -/
def exampleHdr : Hdr :=
  { net := 0, tc := 1, op := 0, plane := true, dest := 0x123, src := 0x2A05, job := 0xB7, len := 256, seq := 0x4C1D,
    aux := 0x5E0000 }

theorem test_header : exampleHdr.bytes =
    [0x04, 0x40, 0x23, 0x01, 0x05, 0x2A, 0xB7, 0x00, 0x10, 0x74, 0x30, 0x01, 0x00, 0x00, 0x78, 0x01] ∧
    Hdr.ofBits exampleHdr.toBits = exampleHdr := by decide +kernel

/-- As it leaves: HOPS 1, bank B, end point 0x2123. -/
theorem test_header_out :
    ({ exampleHdr with hops := 1, bank := true, dest := 0x2123 } : Hdr).bytes =
    [0x04, 0x48, 0x23, 0x21, 0x05, 0x2A, 0xB7, 0x00, 0x10, 0x74, 0x30, 0x01, 0x00, 0x00, 0x78, 0x05] := by decide +kernel

/-- spec/07_buffer_pools.md: NEED counts the fixed links and their allowance, 53,760 + 340 × 5, and ports only as they reach INIT. -/
theorem test_need : Chip.reset.need 1 = 55460 := by decide +kernel

/-- spec/09_press_arithmetic.md: 3.0 × 4 and −1.5 / 4 in MXFP4 add to 11.625, in each output format. -/
theorem test_mx_sum :
    (List.map (fun out => let m : Mode := { op := 0, exact := false, inF := 9, accF := 0, outF := out, nanIgnore := false,
                                            outSat := false, k := 0 }
      (m.result (m.reduce [[m.leaf 0 ([0x81, 0x05] ++ List.replicate 15 0) 0], [m.leaf 0 ([0x7D, 0x0B] ++ List.replicate 15 0) 0]])).1)
      [0, 1, 2, 3, 4]) = [[0, 0, 0x3A, 0x41], [0x3A, 0x41], [0xD0, 0x49], [0x54], [0x4A]] := by decide +kernel

/-- spec/09_press_arithmetic.md: ARGMAX on FP16, three slots, with NAN_IGNORE 1 and 0. -/
theorem test_argmax :
    (List.map (fun ign => let m : Mode := { op := 4, exact := false, inF := 2, accF := 0, outF := 2, nanIgnore := ign,
                                            outSat := false, k := 0 }
      (m.result (m.reduce [[m.leaf 0 [0x00, 0x4B, 0, 0, 0x07, 1, 0, 0] 0], [m.leaf 0 [0x00, 0x4B, 0, 0, 0x42, 0, 0, 0] 0],
        [m.leaf 0 [0x01, 0x7E, 0, 0, 1, 0, 0, 0] 0]])).1) [true, false]) =
    [[0x00, 0x4B, 0, 0, 0x42, 0, 0, 0], [0x00, 0x7E, 0, 0, 1, 0, 0, 0]] := by decide +kernel

/-- spec/09_press_arithmetic.md: TOPK on BF16 with K = 4. -/
theorem test_topk :
    (let m : Mode := { op := 6, exact := false, inF := 1, accF := 0, outF := 1, nanIgnore := false, outSat := false, k := 4 }
     (m.result (m.reduce
       [[m.leaf 0 [0x20, 0x41, 0, 0, 7, 0, 0, 0, 0xA0, 0x40, 0, 0, 3, 0, 0, 0, 0x80, 0x3F, 0, 0, 9, 0, 0, 0,
                   0, 0, 0, 0, 0xFF, 0xFF, 0xFF, 0xFF] 0],
        [m.leaf 0 [0xA0, 0x40, 0, 0, 2, 0, 0, 0, 0x00, 0x41, 0, 0, 11, 0, 0, 0, 0x20, 0x41, 0, 0, 12, 0, 0, 0,
                   0x00, 0xC0, 0, 0, 4, 0, 0, 0] 0]])).1) =
    [0x20, 0x41, 0, 0, 7, 0, 0, 0, 0x20, 0x41, 0, 0, 12, 0, 0, 0, 0x00, 0x41, 0, 0, 11, 0, 0, 0, 0xA0, 0x40, 0, 0, 2, 0, 0, 0] := by
  decide +kernel

/-- spec/09_press_arithmetic.md: 1, 2^−8, 2^−25 and 2^−25 in BF16: ordered mode gives 0x3F80, exact mode 0x3F81. -/
theorem test_exact_sum :
    (List.map (fun ex => let m : Mode := { op := 0, exact := ex, inF := 1, accF := if ex then 12 else 0, outF := 1,
                                           nanIgnore := false, outSat := false, k := 0 }
      (m.result (m.reduce [[m.leaf 0 [0x80, 0x3F] 0], [m.leaf 0 [0x80, 0x3B] 0], [m.leaf 0 [0x00, 0x33] 0],
        [m.leaf 0 [0x00, 0x33] 0]])).1) [false, true]) = [[0x80, 0x3F], [0x81, 0x3F]] := by decide +kernel

/-- spec/09_press_arithmetic.md: the partial of that sum has 12 bytes, limbs 3 and 4. -/
theorem test_exact_partial :
    (let m : Mode := { op := 0, exact := true, inF := 1, accF := 12, outF := 1, nanIgnore := false, outSat := false, k := 0 }
     (m.reduce [[m.leaf 0 [0x80, 0x3F] 0], [m.leaf 0 [0x80, 0x3B] 0], [m.leaf 0 [0x00, 0x33] 0], [m.leaf 0 [0x00, 0x33] 0]]).flatMap
       m.partialBytes) = [0x18, 0, 0, 0, 0, 0, 0, 0x20, 0, 0x20, 0x20, 0] := by decide +kernel

/-- spec/10_collectives.md: the root's template of the example needs 655,360 bytes, and names member 3 the owner of chunk 3. -/
theorem test_need_of_template :
    (let t : Tmpl := { mode := 0, bind := 2 ^ 31 + put 3 27 + put 2 14 + 0x123, window := put 64 16 + 8,
                       chunk := put 2048 16 + 2048, ops := 5, members := 5, ownRun := 1, timers := 0x000A000A, slots := [],
                       mems := [(0, 0x100), (1, 0x101), (2, 0x102), (3, 0x200), (4, 0x201)] }
     t.need = 655360 ∧ t.ownerEntry 3 = some 0x200) := by decide +kernel

/-- spec/14_telemetry_and_counters.md: congestion levels of 13,695 and 429 cells with unit 4. -/
theorem test_levels : occLevel 4 13695 = 10 ∧ occLevel 4 429 = 5 := by decide

/-- spec/14_telemetry_and_counters.md: a record of every page is 50,240 bytes, and the reset ring has 166 slots. -/
theorem test_record : Chip.reset.recordLen = 50240 ∧ Chip.reset.dumpSlots = 166 := by decide +kernel

/-- What four commands in a row leave, for the check example. -/
def runs : List Instr → State → State
  | [], s => s
  | i :: t, s => match exec i s with
    | .next u => runs t u
    | _ => s

/-- spec/15_check_value_engine.md: channel 4 gives the catalogue check value of CRC-32C for "123456789". -/
theorem test_check_value :
    (let t := runs [.cveStart .owner 4 false, .cveFeedW .owner 4 0x34333231, .cveFeedW .owner 4 0x38373635,
                    .cveFeedB .owner 4 0x39] (mkS (onPg 24 0x4C))
     (t.chip.cveRead 4 0x38, t.chip.cveRead 4 0x30)) = (0xE3069283, 0x1CF96D7C) := by decide +kernel

/-- spec/17_power_and_thermal.md: ten steps of 5 % from 3,350 W reach 2,009 W; a CAP of 2,100 W brakes nothing. -/
theorem test_reach : (Chip.reset.setReg (pwr 0x108) 5).reach 10 3350 = 2009 := by decide +kernel
theorem test_cap : (match exec (.pwrCapWrite .owner 2100) (pw (fun p => { p with samples := [3350000000] })) with
    | .next t => (t.chip.limitNow, t.chip.braking)
    | _ => (0, true)) = (3350, false) := by decide +kernel

/-- spec/19_register_pages.md: the write of route entry 0x3F10 of bank B in Q2, and what it reads as then. -/
theorem test_route_write :
    (let t := runs [.registerWrite .owner 0x10041140 0x805, .tableWrite .owner 0x10041100 0xE0003F10] (mkS (onPg 2 0x41))
     (t.chip.entry 2 2 true 0x3F10, t.chip.reg 0x10041104)) = ([0x805], 0) := by decide +kernel

/-- The empty queue lets 1 ns pass; a queue gives its front to `exec`. -/
theorem test_idle : (match step State.reset with
    | .next t => t.chip.now
    | _ => 0) = 1 := by decide +kernel
theorem test_front : (match step { State.reset with pending := [.inputWarn, .inputWarnEnd] } with
    | .next t => (t.chip.power.warn, t.pending)
    | _ => (false, [])) = (true, [.inputWarnEnd]) := by decide +kernel

/-! ### Witnesses of the hypotheses of the obligations -/

/-- States and operands that meet the hypotheses of `Obligations.PlainRegisterWrite`, clause by clause. -/
theorem witness_PlainRegisterWrite :
    (∃ (dom : Dom) (die : Nat) (pg : Nat) (i : Nat) (b : Block) (addr : Word) (val : Word) (s : State), pageOf die pg = some
      (b, i) ∧ evtMask b ≠ 0 ∧ addr.toNat = regAddr die pg 0x18 ∧ val.toNat &&& evtMask b = val.toNat ∧ MayWrite s.chip dom
      die pg 0x18 val.toNat) ∧
    (∃ (dom : Dom) (off : Nat) (d : RegDef) (addr : Word) (val : Word) (s : State), regDef .ctl 0 off = some d ∧ 0x100 ≤ off
      ∧ off ≠ 0x108 ∧ off ≠ 0x10C ∧ d.rw ≠ 0 ∧ addr.toNat = regAddr 24 1 off ∧ val.toNat &&& d.rw = val.toNat ∧ MayWrite
      s.chip dom 24 1 off val.toNat) :=
  ⟨ (let dom : Dom := .owner; let die : Nat := 0; let pg : Nat := 0x40; let i : Nat := 0; let b : Block := .edg
     let addr : Word := 0x00040018; let val : Word := 1; let s : State := mkS (fun c => c.setReg (regAddr 0 0x40 0x18) 1)
     ⟨dom, die, pg, i, b, addr, val, s, by decide +kernel +zetaReduce⟩),
    (let dom : Dom := .owner; let off : Nat := 0x104; let d : RegDef := (regDef .ctl 0 0x104).getD {}
     let addr : Word := ad 24 1 0x104; let val : Word := 0x00070005; let s : State := mkS id
     ⟨dom, off, d, addr, val, s, by decide +kernel +zetaReduce⟩)⟩

/-- States and operands that meet the hypotheses of `Obligations.RefusedWritesAndLock`, clause by clause. -/
theorem witness_RefusedWritesAndLock :
    (∃ (addr : Word) (val : Word) (s : State), s.chip.mayManage .fabric = true ∧ badAddr addr.toNat = false ∧ s.chip.allowed
      .fabric addr.toNat (some val.toNat) = false) ∧
    (∃ (die : Nat) (pg : Nat) (i : Nat) (b : Block) (addr : Word) (s : State), pageOf die pg = some (b, i) ∧ addr.toNat =
      regAddr die pg 0x28 ∧ s.chip.mayManage .owner = true ∧ bit (s.chip.reg (regAddr die pg 0x34)) 0 = true) ∧
    (∃ (addr : Word) (val : Word) (s : State), addr.toNat = regAddr 24 1 0x108 ∧ s.chip.mayManage .owner = true ∧ bit
      (s.chip.reg (regAddr 24 1 0x34)) 0 = false ∧ 0x7F < val.toNat) ∧
    (∃ (die : Nat) (pg : Nat) (i : Nat) (b : Block) (page : Word) (val : Word) (s : State), pageOf die pg = some (b, i) ∧
      page.toNat = regAddr die pg 0 ∧ val.toNat < 4 ∧ MayWrite s.chip .owner die pg 0x34 val.toNat) ∧
    (∃ (die : Nat) (pg : Nat) (i : Nat) (b : Block) (page : Word) (s : State), pageOf die pg = some (b, i) ∧ page.toNat =
      regAddr die pg 0 ∧ s.chip.mayManage .fabric = true) :=
  ⟨ (let addr : Word := ad 24 1 0x100; let val : Word := 0; let s : State := mkS fwOn
     ⟨addr, val, s, by decide +kernel +zetaReduce⟩),
    (let die : Nat := 0; let pg : Nat := 0x40; let i : Nat := 0; let b : Block := .edg; let addr : Word := 0x00040028
     let s : State := mkS (fun c => c.setReg (regAddr 0 0x40 0x34) 1)
     ⟨die, pg, i, b, addr, s, by decide +kernel +zetaReduce⟩),
    (let addr : Word := ad 24 1 0x108; let val : Word := 0x80; let s : State := mkS id
     ⟨addr, val, s, by decide +kernel +zetaReduce⟩),
    (let die : Nat := 24; let pg : Nat := 7; let i : Nat := 0; let b : Block := .ras; let page : Word := ad 24 7 0
     let val : Word := 3; let s : State := mkS id; ⟨die, pg, i, b, page, val, s, by decide +kernel +zetaReduce⟩),
    (let die : Nat := 24; let pg : Nat := 7; let i : Nat := 0; let b : Block := .ras; let page : Word := ad 24 7 0
     let s : State := mkS fwOn; ⟨die, pg, i, b, page, s, by decide +kernel +zetaReduce⟩)⟩

/-- States and operands that meet the hypotheses of `Obligations.ClearingAndLatchingReads`, clause by clause. -/
theorem witness_ClearingAndLatchingReads :
    (∃ (dom : Dom) (die : Nat) (pg : Nat) (i : Nat) (b : Block) (addr : Word) (s : State), pageOf die pg = some (b, i) ∧
      addr.toNat = regAddr die pg 0x28 ∧ s.chip.mayManage dom = true ∧ s.chip.allowed dom addr.toNat none = true) ∧
    (∃ (dom : Dom) (q : Fin 4) (d : Fin 16) (k : Nat) (addr : Word) (s : State), k < 80 ∧ addr.toNat = regAddr q.val (0x20 +
      d.val) (0x500 + 4 * k) ∧ s.chip.mayManage dom = true ∧ s.chip.allowed dom addr.toNat none = true) ∧
    (∃ (dom : Dom) (q : Fin 4) (d : Fin 16) (k : Nat) (addr : Word) (s : State), k < 80 ∧ addr.toNat = regAddr q.val (0x20 +
      d.val) (0x500 + 4 * k) ∧ s.chip.mayManage dom = true ∧ s.chip.allowed dom addr.toNat none = true) ∧
    (∃ (dom : Dom) (q : Fin 4) (k : Fin 4) (off : Nat) (addr : Word) (s : State), (off = 0x110 ∨ off = 0x118) ∧ addr.toNat =
      regAddr q.val (0x50 + k.val) off ∧ s.chip.mayManage dom = true ∧ s.chip.allowed dom addr.toNat none = true) ∧
    (∃ (dom : Dom) (q : Fin 4) (k : Fin 4) (off : Nat) (addr : Word) (s : State), (off = 0x110 ∨ off = 0x118) ∧ addr.toNat =
      regAddr q.val (0x50 + k.val) off ∧ s.chip.mayManage dom = true ∧ s.chip.allowed dom addr.toNat none = true) ∧
    (∃ (dom : Dom) (other : Dom) (addr : Word) (a : Nat), a < 2 ^ 32 ∧ (other ≠ dom ∨ a ≠ addr.toNat)) ∧
    (∃ (dom : Dom) (other : Dom) (addr : Word) (a : Nat), a < 2 ^ 32 ∧ (other ≠ dom ∨ a ≠ addr.toNat)) ∧
    (∃ (a : Nat) (i : Nat) (b : Block) (d : RegDef), pageOf (adDie a) (adPage a) = some (b, i) ∧ regAt (adDie a) b i (adOff
      a) = some d ∧ isHigh b d (adOff a) = true) ∧
    (∃ (a : Nat) (i : Nat) (b : Block) (d : RegDef), pageOf (adDie a) (adPage a) = some (b, i) ∧ regAt (adDie a) b i (adOff
      a) = some d ∧ isHigh b d (adOff a) = true) :=
  ⟨ (let dom : Dom := .owner; let die : Nat := 0; let pg : Nat := 0x40; let i : Nat := 0; let b : Block := .edg
     let addr : Word := 0x00040028; let s : State := mkS (fun c => c.setReg 0x00040028 7)
     ⟨dom, die, pg, i, b, addr, s, by decide +kernel +zetaReduce⟩),
    (let dom : Dom := .owner; let q : Fin 4 := 3; let d : Fin 16 := 15; let k : Nat := 79
     let addr : Word := ad 3 0x2F 0x63C; let s : State := mkS (fun c => c.setReg (regAddr 3 0x2F 0x63C) 7)
     ⟨dom, q, d, k, addr, s, by decide +kernel +zetaReduce⟩),
    (let dom : Dom := .owner; let q : Fin 4 := 0; let d : Fin 16 := 0; let k : Nat := 0; let addr : Word := 0x00020500
     let s : State := mkS (fun c => c.setReg 0x00020500 7); ⟨dom, q, d, k, addr, s, by decide +kernel +zetaReduce⟩),
    (let dom : Dom := .owner; let q : Fin 4 := 3; let k : Fin 4 := 3; let off : Nat := 0x118
     let addr : Word := ad 3 0x53 0x118
     let s : State := mkS (fun c => (c.setReg (regAddr 3 0x53 0x118) 7).setReg (regAddr 3 0x53 0x11C) 9)
     ⟨dom, q, k, off, addr, s, by decide +kernel +zetaReduce⟩),
    (let dom : Dom := .fabric; let q : Fin 4 := 0; let k : Fin 4 := 0; let off : Nat := 0x110
     let addr : Word := 0x00050110
     let s : State := mkS (fun c => (fwOn (c.setReg 0x00050110 7)).setReg (ctlR 0x100) 0xFFFF)
     ⟨dom, q, k, off, addr, s, by decide +kernel +zetaReduce⟩),
    (let dom : Dom := .owner; let other : Dom := .fabric; let addr : Word := 0x00050110; let a : Nat := 0x00050110
     ⟨dom, other, addr, a, by decide +kernel +zetaReduce⟩),
    (let dom : Dom := .fabric; let other : Dom := .fabric; let addr : Word := 0x00050110; let a : Nat := 0xFFFFFFFF
     ⟨dom, other, addr, a, by decide +kernel +zetaReduce⟩),
    (let a : Nat := regAddr 3 0x53 0x11C; let i : Nat := 3; let b : Block := .semQ
     let d : RegDef := (regDef .semQ 3 0x11C).getD {}; ⟨a, i, b, d, by decide +kernel +zetaReduce⟩),
    (let a : Nat := regAddr 24 3 0x12C; let i : Nat := 0; let b : Block := .pwr
     let d : RegDef := (regDef .pwr 0 0x12C).getD {}; ⟨a, i, b, d, by decide +kernel +zetaReduce⟩)⟩

/-- States and operands that meet the hypotheses of `Obligations.EventBitsAndQueue`, clause by clause. -/
theorem witness_EventBitsAndQueue :
    (∃ (dom : Dom) (die : Nat) (pg : Nat) (i : Nat) (b : Block) (page : Word) (val : Word) (s : State), pageOf die pg = some
      (b, i) ∧ evtMask b ≠ 0 ∧ page.toNat = regAddr die pg 0 ∧ val.toNat &&& evtMask b = val.toNat ∧ MayWrite s.chip dom die
      pg 0x20 val.toNat) ∧
    (∃ (die : Nat) (pg : Nat) (i : Nat) (b : Block) (bits : Nat) (c : Chip), pageOf die pg = some (b, i) ∧ c.rst.c0Up = true
      ∧ bits < 2 ^ 32 ∧ (c.mgmt.evq.getD 0 []).length < 1024 ∧ c.mgmt.evq.length = 2 ∧ c.reg (regAddr die pg 0x18) &&& c.reg
      (regAddr die pg 0x1C) = 0 ∧ bits &&& c.reg (regAddr die pg 0x1C) ≠ 0 ∧ c.granted (pageClass b) = false) :=
  ⟨ (let dom : Dom := .owner; let die : Nat := 24; let pg : Nat := 1; let i : Nat := 0; let b : Block := .ctl
     let page : Word := ad 24 1 0; let val : Word := 3; let s : State := mkS (fun c => c.setReg (ctlR 0x1C) 2)
     ⟨dom, die, pg, i, b, page, val, s, by decide +kernel +zetaReduce⟩),
    (let die : Nat := 24; let pg : Nat := 7; let i : Nat := 0; let b : Block := .ras; let bits : Nat := 1
     let c : Chip := Chip.reset.setReg (regAddr 24 7 0x1C) 3; ⟨die, pg, i, b, bits, c, by decide +kernel +zetaReduce⟩)⟩

/-- States and operands that meet the hypotheses of `Obligations.PageStates`, clause by clause. -/
theorem witness_PageStates :
    (∃ (dom : Dom) (die : Nat) (pg : Nat) (i : Nat) (b : Block) (page : Word) (s : State), pageOf die pg = some (b, i) ∧
      page.toNat = regAddr die pg 0 ∧ MayWrite s.chip dom die pg 0x10 1 ∧ s.chip.scarred die pg = false ∧ (s.chip.page
      (pageKey die pg)).st < 4) ∧
    (∃ (dom : Dom) (die : Nat) (pg : Nat) (i : Nat) (b : Block) (page : Word) (s : State), pageOf die pg = some (b, i) ∧
      page.toNat = regAddr die pg 0 ∧ MayWrite s.chip dom die pg 0x10 1 ∧ s.chip.scarred die pg = false ∧ (s.chip.page
      (pageKey die pg)).st < 4) ∧
    (∃ (dom : Dom) (die : Nat) (pg : Nat) (i : Nat) (b : Block) (page : Word) (s : State), pageOf die pg = some (b, i) ∧
      page.toNat = regAddr die pg 0 ∧ MayWrite s.chip dom die pg 0x10 1 ∧ s.chip.scarred die pg = false ∧ (s.chip.page
      (pageKey die pg)).st < 4) ∧
    (∃ (dom : Dom) (die : Nat) (pg : Nat) (i : Nat) (b : Block) (page : Word) (s : State), pageOf die pg = some (b, i) ∧
      page.toNat = regAddr die pg 0 ∧ MayWrite s.chip dom die pg 0x10 1 ∧ s.chip.scarred die pg = false ∧ (s.chip.page
      (pageKey die pg)).st < 4) ∧
    (∃ (dom : Dom) (die : Nat) (pg : Nat) (i : Nat) (b : Block) (page : Word) (s : State), pageOf die pg = some (b, i) ∧
      page.toNat = regAddr die pg 0 ∧ MayWrite s.chip dom die pg 0x10 1 ∧ (s.chip.page (pageKey die pg)).st = 4) ∧
    (∃ (dom : Dom) (die : Nat) (pg : Nat) (i : Nat) (b : Block) (page : Word) (s : State), pageOf die pg = some (b, i) ∧
      page.toNat = regAddr die pg 0 ∧ MayWrite s.chip dom die pg 0x10 2 ∧ alwaysOn b = false ∧ (s.chip.page (pageKey die
      pg)).st = 1) ∧
    (∃ (dom : Dom) (die : Nat) (pg : Nat) (i : Nat) (b : Block) (page : Word) (s : State), pageOf die pg = some (b, i) ∧
      page.toNat = regAddr die pg 0 ∧ MayWrite s.chip dom die pg 0x10 2 ∧ alwaysOn b = false ∧ (s.chip.page (pageKey die
      pg)).st = 1) ∧
    (∃ (dom : Dom) (die : Nat) (pg : Nat) (i : Nat) (b : Block) (page : Word) (s : State), pageOf die pg = some (b, i) ∧
      page.toNat = regAddr die pg 0 ∧ MayWrite s.chip dom die pg 0x10 2 ∧ alwaysOn b = false ∧ (s.chip.page (pageKey die
      pg)).st = 0) ∧
    (∃ (dom : Dom) (die : Nat) (pg : Nat) (i : Nat) (b : Block) (page : Word) (s : State), pageOf die pg = some (b, i) ∧
      page.toNat = regAddr die pg 0 ∧ MayWrite s.chip dom die pg 0x10 2 ∧ alwaysOn b = false ∧ (s.chip.page (pageKey die
      pg)).st = 3) ∧
    (∃ (dom : Dom) (die : Nat) (pg : Nat) (i : Nat) (b : Block) (page : Word) (s : State), pageOf die pg = some (b, i) ∧
      page.toNat = regAddr die pg 0 ∧ MayWrite s.chip dom die pg 0x10 2 ∧ alwaysOn b = false ∧ ((s.chip.page (pageKey die
      pg)).st = 2 ∨ (s.chip.page (pageKey die pg)).st = 4) ∧ (∀ dp ∈ dependents die pg, (s.chip.page (pageKey dp.1 dp.2)).st
      = 0)) ∧
    (∃ (dom : Dom) (die : Nat) (pg : Nat) (i : Nat) (b : Block) (page : Word) (s : State), pageOf die pg = some (b, i) ∧
      page.toNat = regAddr die pg 0 ∧ MayWrite s.chip dom die pg 0x10 2 ∧ alwaysOn b = false ∧ ((s.chip.page (pageKey die
      pg)).st = 2 ∨ (s.chip.page (pageKey die pg)).st = 4) ∧ (∀ dp ∈ dependents die pg, (s.chip.page (pageKey dp.1 dp.2)).st
      = 0)) ∧
    (∃ (dom : Dom) (die : Nat) (pg : Nat) (i : Nat) (b : Block) (page : Word) (s : State), pageOf die pg = some (b, i) ∧
      page.toNat = regAddr die pg 0 ∧ MayWrite s.chip dom die pg 0x10 2 ∧ alwaysOn b = false ∧ ((s.chip.page (pageKey die
      pg)).st = 2 ∨ (s.chip.page (pageKey die pg)).st = 4)) ∧
    (∃ (dom : Dom) (die : Nat) (pg : Nat) (i : Nat) (b : Block) (page : Word) (s : State), pageOf die pg = some (b, i) ∧
      page.toNat = regAddr die pg 0 ∧ MayWrite s.chip dom die pg 0x10 2 ∧ alwaysOn b = false ∧ ((s.chip.page (pageKey die
      pg)).st = 2 ∨ (s.chip.page (pageKey die pg)).st = 4)) ∧
    (∃ (dom : Dom) (die : Nat) (pg : Nat) (i : Nat) (b : Block) (page : Word) (s : State), pageOf die pg = some (b, i) ∧
      page.toNat = regAddr die pg 0 ∧ MayWrite s.chip dom die pg 0x10 2 ∧ alwaysOn b = false ∧ ((s.chip.page (pageKey die
      pg)).st = 2 ∨ (s.chip.page (pageKey die pg)).st = 4)) ∧
    (∃ (c : Chip) (die : Nat) (pg : Nat), (∀ dp ∈ dependents die pg, (c.page (pageKey dp.1 dp.2)).st = 0) ∧ ¬ (die, pg) ∈
      dependents die pg) ∧
    (∃ (c : Chip) (die : Nat) (pg : Nat), (∀ dp ∈ dependents die pg, (c.page (pageKey dp.1 dp.2)).st = 0) ∧ ¬ (die, pg) ∈
      dependents die pg) ∧
    (∃ (die : Nat) (pg : Nat) (i : Nat), (pageOf die pg = some (.lne, i) ∨ pageOf die pg = some (.lnk, i) ∨ pageOf die pg =
      some (.win, i))) ∧
    (∃ (die : Nat) (pg : Nat) (i : Nat), (pageOf die pg = some (.lne, i) ∨ pageOf die pg = some (.lnk, i) ∨ pageOf die pg =
      some (.win, i))) ∧
    (∃ (die : Nat) (pg : Nat) (i : Nat), (pageOf die pg = some (.prs, i) ∨ pageOf die pg = some (.col, i))) ∧
    (∃ (die : Nat) (pg : Nat) (i : Nat) (b : Block) (page : Word) (s : State), pageOf die pg = some (b, i) ∧ page.toNat =
      regAddr die pg 0 ∧ (s.chip.page (pageKey die pg)).st = 1 ∧ s.chip.needsOn die pg = true) ∧
    (∃ (die : Nat) (pg : Nat) (i : Nat) (b : Block) (page : Word) (s : State), pageOf die pg = some (b, i) ∧ page.toNat =
      regAddr die pg 0 ∧ (s.chip.page (pageKey die pg)).st = 1 ∧ s.chip.needsOn die pg = true) ∧
    (∃ (die : Nat) (pg : Nat) (i : Nat) (b : Block) (page : Word) (s : State), pageOf die pg = some (b, i) ∧ page.toNat =
      regAddr die pg 0 ∧ (s.chip.page (pageKey die pg)).st = 3 ∧ (∀ dp ∈ dependents die pg, (s.chip.page (pageKey dp.1
      dp.2)).st = 0) ∧ s.chip.blockBusy die pg = false) ∧
    (∃ (die : Nat) (pg : Nat) (i : Nat) (b : Block) (page : Word) (s : State), pageOf die pg = some (b, i) ∧ page.toNat =
      regAddr die pg 0 ∧ (s.chip.page (pageKey die pg)).st = 3 ∧ (∀ dp ∈ dependents die pg, (s.chip.page (pageKey dp.1
      dp.2)).st = 0) ∧ s.chip.blockBusy die pg = false) :=
  ⟨ (let dom : Dom := .owner; let die : Nat := 0; let pg : Nat := 0x40; let i : Nat := 0; let b : Block := .edg
     let page : Word := 0x00040000; let s : State := mkS id; ⟨dom, die, pg, i, b, page, s, by decide +kernel +zetaReduce⟩),
    (let dom : Dom := .owner; let die : Nat := 0; let pg : Nat := 0x40; let i : Nat := 0; let b : Block := .edg
     let page : Word := 0x00040000; let s : State := mkS (pgSt 0 0x40 1)
     ⟨dom, die, pg, i, b, page, s, by decide +kernel +zetaReduce⟩),
    (let dom : Dom := .owner; let die : Nat := 0; let pg : Nat := 0x40; let i : Nat := 0; let b : Block := .edg
     let page : Word := 0x00040000; let s : State := mkS (pgSt 0 0x40 2)
     ⟨dom, die, pg, i, b, page, s, by decide +kernel +zetaReduce⟩),
    (let dom : Dom := .owner; let die : Nat := 0; let pg : Nat := 0x40; let i : Nat := 0; let b : Block := .edg
     let page : Word := 0x00040000; let s : State := mkS (pgSt 0 0x40 3)
     ⟨dom, die, pg, i, b, page, s, by decide +kernel +zetaReduce⟩),
    (let dom : Dom := .owner; let die : Nat := 24; let pg : Nat := 0x4C; let i : Nat := 0; let b : Block := .cve
     let page : Word := ad 24 0x4C 0; let s : State := mkS (pgSt 24 0x4C 4)
     ⟨dom, die, pg, i, b, page, s, by decide +kernel +zetaReduce⟩),
    (let dom : Dom := .owner; let die : Nat := 0; let pg : Nat := 0x45; let i : Nat := 0; let b : Block := .que
     let page : Word := 0x00045000
     let s : State := mkS (fun c => pgSt 0 0x45 1 ((onPg 0 0x44 (onPg 0 0x41 (onPg 0 0x40 (onPg 0 0x42 (onPg 0 0x43 c)))))))
     ⟨dom, die, pg, i, b, page, s, by decide +kernel +zetaReduce⟩),
    (let dom : Dom := .owner; let die : Nat := 0; let pg : Nat := 0x45; let i : Nat := 0; let b : Block := .que
     let page : Word := 0x00045000; let s : State := mkS (pgSt 0 0x45 1)
     ⟨dom, die, pg, i, b, page, s, by decide +kernel +zetaReduce⟩),
    (let dom : Dom := .owner; let die : Nat := 24; let pg : Nat := 0x4C; let i : Nat := 0; let b : Block := .cve
     let page : Word := ad 24 0x4C 0; let s : State := mkS id
     ⟨dom, die, pg, i, b, page, s, by decide +kernel +zetaReduce⟩),
    (let dom : Dom := .owner; let die : Nat := 24; let pg : Nat := 0x4C; let i : Nat := 0; let b : Block := .cve
     let page : Word := ad 24 0x4C 0; let s : State := mkS (fun c => c.setPage (pageKey 24 0x4C) { st := 3, pe := true })
     ⟨dom, die, pg, i, b, page, s, by decide +kernel +zetaReduce⟩),
    (let dom : Dom := .owner; let die : Nat := 24; let pg : Nat := 0x4C; let i : Nat := 0; let b : Block := .cve
     let page : Word := ad 24 0x4C 0; let s : State := mkS (onPg 24 0x4C)
     ⟨dom, die, pg, i, b, page, s, by decide +kernel +zetaReduce⟩),
    (let dom : Dom := .owner; let die : Nat := 24; let pg : Nat := 0x4C; let i : Nat := 0; let b : Block := .cve
     let page : Word := ad 24 0x4C 0; let s : State := mkS (pgSt 24 0x4C 4)
     ⟨dom, die, pg, i, b, page, s, by decide +kernel +zetaReduce⟩),
    (let dom : Dom := .owner; let die : Nat := 0; let pg : Nat := 0x44; let i : Nat := 0; let b : Block := .buf
     let page : Word := 0x00044000; let s : State := mkS (fun c => onPg 0 0x44 (pgSt 0 0x45 3 c))
     ⟨dom, die, pg, i, b, page, s, by decide +kernel +zetaReduce⟩),
    (let dom : Dom := .owner; let die : Nat := 0; let pg : Nat := 0x44; let i : Nat := 0; let b : Block := .buf
     let page : Word := 0x00044000; let s : State := mkS (fun c => pgSt 0 0x44 4 (onPg 0 0x45 c))
     ⟨dom, die, pg, i, b, page, s, by decide +kernel +zetaReduce⟩),
    (let dom : Dom := .owner; let die : Nat := 0; let pg : Nat := 0x44; let i : Nat := 0; let b : Block := .buf
     let page : Word := 0x00044000; let s : State := mkS (fun c => onPg 0 0x44 (pgSt 0 0x45 1 c))
     ⟨dom, die, pg, i, b, page, s, by decide +kernel +zetaReduce⟩),
    (let c : Chip := onPg 24 0x4C Chip.reset; let die : Nat := 24; let pg : Nat := 0x4C
     ⟨c, die, pg, by decide +kernel +zetaReduce⟩),
    (let c : Chip := onPg 0 0x44 Chip.reset; let die : Nat := 0; let pg : Nat := 0x44
     ⟨c, die, pg, by decide +kernel +zetaReduce⟩),
    (let die : Nat := 0; let pg : Nat := 0x20; let i : Nat := 0; ⟨die, pg, i, by decide +kernel +zetaReduce⟩),
    (let die : Nat := 0; let pg : Nat := 0x21; let i : Nat := 1; ⟨die, pg, i, by decide +kernel +zetaReduce⟩),
    (let die : Nat := 4; let pg : Nat := 0x40; let i : Nat := 0; ⟨die, pg, i, by decide +kernel +zetaReduce⟩),
    (let die : Nat := 24; let pg : Nat := 0x4C; let i : Nat := 0; let b : Block := .cve; let page : Word := ad 24 0x4C 0
     let s : State := mkS (pgSt 24 0x4C 1); ⟨die, pg, i, b, page, s, by decide +kernel +zetaReduce⟩),
    (let die : Nat := 24; let pg : Nat := 0x4C; let i : Nat := 0; let b : Block := .cve; let page : Word := ad 24 0x4C 0
     let s : State := mkS (fun c => c.setPage (pageKey 24 0x4C) { st := 1, pd := true })
     ⟨die, pg, i, b, page, s, by decide +kernel +zetaReduce⟩),
    (let die : Nat := 24; let pg : Nat := 0x4C; let i : Nat := 0; let b : Block := .cve; let page : Word := ad 24 0x4C 0
     let s : State := mkS (pgSt 24 0x4C 3); ⟨die, pg, i, b, page, s, by decide +kernel +zetaReduce⟩),
    (let die : Nat := 24; let pg : Nat := 0x4C; let i : Nat := 0; let b : Block := .cve; let page : Word := ad 24 0x4C 0
     let s : State := mkS (fun c => c.setPage (pageKey 24 0x4C) { st := 3, pe := true })
     ⟨die, pg, i, b, page, s, by decide +kernel +zetaReduce⟩)⟩

/-- States and operands that meet the hypotheses of `Obligations.PowerGovernorAndCap`, clause by clause. -/
theorem witness_PowerGovernorAndCap :
    (∃ (v : Nat) (i : Nat) (s : State), s.chip.power.off = false ∧ s.chip.effLimit v < v * i) ∧
    (∃ (v : Nat) (i : Nat) (s : State), s.chip.power.off = false ∧ v * i ≤ s.chip.effLimit v ∧ s.chip.effLimit v < v * i +
      200000000) ∧
    (∃ (v : Nat) (i : Nat) (s : State), s.chip.power.off = false ∧ v * i ≤ s.chip.effLimit v ∧ s.chip.effLimit v < v * i +
      200000000) ∧
    (∃ (v : Nat) (i : Nat) (s : State), s.chip.power.off = false ∧ v * i + 200000000 ≤ s.chip.effLimit v ∧
      s.chip.power.under + 1 < 10) ∧
    (∃ (v : Nat) (i : Nat) (s : State), s.chip.power.off = false ∧ v * i + 200000000 ≤ s.chip.effLimit v ∧ 10 ≤
      s.chip.power.under + 1 ∧ s.chip.power.tTh < s.chip.power.t ∧ (s.chip.braking = true → s.chip.brakeT < s.chip.power.t)) ∧
    (∃ (s : State), s.chip.cap < s.chip.limitNow ∧ s.chip.power.off = false) ∧
    (∃ (s : State), s.chip.limitNow < s.chip.cap ∧ s.chip.power.cause = 0 ∧ s.chip.policy 0 = true ∧ s.chip.power.off =
      false) ∧
    (∃ (dom : Dom) (val : Word) (s : State), MayWrite s.chip dom 24 3 0x100 val.toNat ∧ 1900 ≤ val.toNat ∧ val.toNat ≤ 3400
      ∧ (s.chip.limitNow ≤ val.toNat ∨ s.chip.cap ≤ val.toNat)) ∧
    (∃ (dom : Dom) (val : Word) (s : State), MayWrite s.chip dom 24 3 0x100 val.toNat ∧ 1900 ≤ val.toNat ∧ val.toNat ≤ 3400
      ∧ (s.chip.limitNow ≤ val.toNat ∨ s.chip.cap ≤ val.toNat)) ∧
    (∃ (dom : Dom) (val : Word) (l : Nat) (c : Chip) (s : State), MayWrite s.chip dom 24 3 0x100 val.toNat ∧ 1900 ≤
      val.toNat ∧ val.toNat < s.chip.limitNow ∧ val.toNat < s.chip.cap ∧ l = min s.chip.limitNow s.chip.pinUp ∧ c =
      (s.chip.setReg (regAddr 24 3 0x100) val.toNat).setReg (regAddr 24 3 0x104) l ∧ val.toNat ≤ 3400) ∧
    (∃ (dom : Dom) (val : Word) (l : Nat) (c : Chip) (s : State), MayWrite s.chip dom 24 3 0x100 val.toNat ∧ 1900 ≤
      val.toNat ∧ val.toNat < s.chip.limitNow ∧ val.toNat < s.chip.cap ∧ l = min s.chip.limitNow s.chip.pinUp ∧ c =
      (s.chip.setReg (regAddr 24 3 0x100) val.toNat).setReg (regAddr 24 3 0x104) l ∧ val.toNat ≤ 3400) ∧
    (∃ (dom : Dom) (val : Word) (l : Nat) (c : Chip) (s : State), MayWrite s.chip dom 24 3 0x100 val.toNat ∧ 1900 ≤
      val.toNat ∧ val.toNat < s.chip.limitNow ∧ val.toNat < s.chip.cap ∧ l = min s.chip.limitNow s.chip.pinUp ∧ c =
      (s.chip.setReg (regAddr 24 3 0x100) val.toNat).setReg (regAddr 24 3 0x104) l ∧ val.toNat ≤ 3400) ∧
    (∃ (s : State), (s.chip.policy 0 = false ∨ s.chip.cap ≤ s.chip.limitNow ∨ s.chip.power.cause ≠ 0)) ∧
    (∃ (s : State), (s.chip.policy 0 = false ∨ s.chip.cap ≤ s.chip.limitNow ∨ s.chip.power.cause ≠ 0)) ∧
    (∃ (s : State), (s.chip.policy 0 = false ∨ s.chip.cap ≤ s.chip.limitNow ∨ s.chip.power.cause ≠ 0)) ∧
    (∃ (dom : Dom) (val : Word) (s : State), MayWrite s.chip dom 24 3 0x104 val.toNat ∧ s.chip.regBit (regAddr 24 1 0x108) 0
      = false ∧ s.chip.power.cause = 0 ∧ 1900 ≤ val.toNat ∧ val.toNat ≤ s.chip.cap) ∧
    (∃ (dom : Dom) (val : Word) (s : State), MayWrite s.chip dom 24 3 0x104 val.toNat ∧ s.chip.regBit (regAddr 24 1 0x108) 0
      = false ∧ s.chip.power.cause = 0 ∧ 1900 ≤ val.toNat ∧ val.toNat ≤ s.chip.cap) ∧
    (∃ (dom : Dom) (val : Word) (s : State), MayWrite s.chip dom 24 3 0x104 val.toNat ∧ val.toNat < 4096 ∧ (s.chip.regBit
      (regAddr 24 1 0x108) 0 = true ∨ s.chip.power.cause ≠ 0 ∨ val.toNat < 1900 ∨ s.chip.cap < val.toNat)) ∧
    (∃ (dom : Dom) (val : Word) (s : State), MayWrite s.chip dom 24 3 0x104 val.toNat ∧ val.toNat < 4096 ∧ (s.chip.regBit
      (regAddr 24 1 0x108) 0 = true ∨ s.chip.power.cause ≠ 0 ∨ val.toNat < 1900 ∨ s.chip.cap < val.toNat)) ∧
    (∃ (dom : Dom) (val : Word) (s : State), MayWrite s.chip dom 24 3 0x104 val.toNat ∧ val.toNat < 4096 ∧ (s.chip.regBit
      (regAddr 24 1 0x108) 0 = true ∨ s.chip.power.cause ≠ 0 ∨ val.toNat < 1900 ∨ s.chip.cap < val.toNat)) ∧
    (∃ (dom : Dom) (val : Word) (s : State), MayWrite s.chip dom 24 3 0x104 val.toNat ∧ val.toNat < 4096 ∧ (s.chip.regBit
      (regAddr 24 1 0x108) 0 = true ∨ s.chip.power.cause ≠ 0 ∨ val.toNat < 1900 ∨ s.chip.cap < val.toNat)) :=
  ⟨ (let v : Nat := 24000; let i : Nat := 142000; let s : State := pw (fun p => { p with t := 8, under := 3 })
     ⟨v, i, s, by decide +kernel +zetaReduce⟩),
    (let v : Nat := 24000; let i : Nat := 141000; let s : State := pw (fun p => { p with under := 9 })
     ⟨v, i, s, by decide +kernel +zetaReduce⟩),
    (let v : Nat := 24000; let i : Nat := 133334; let s : State := pw (fun p => { p with under := 9 })
     ⟨v, i, s, by decide +kernel +zetaReduce⟩),
    (let v : Nat := 24000; let i : Nat := 100000; let s : State := pw (fun p => { p with under := 8, t := 3 })
     ⟨v, i, s, by decide +kernel +zetaReduce⟩),
    (let v : Nat := 24000; let i : Nat := 100000; let s : State := pw (fun p => { p with under := 9, t := 3 })
     ⟨v, i, s, by decide +kernel +zetaReduce⟩),
    (let s : State := mkS (fun c => c.setReg (pwr 0x100) 1900); ⟨s, by decide +kernel +zetaReduce⟩),
    (let s : State := mkS (fun c => fwOn (c.setReg (pwr 0x104) 3300)); ⟨s, by decide +kernel +zetaReduce⟩),
    (let dom : Dom := .owner; let val : Word := 3400; let s : State := mkS (fun c => c.setReg (pwr 0x104) 3300)
     ⟨dom, val, s, by decide +kernel +zetaReduce⟩),
    (let dom : Dom := .owner; let val : Word := 1900; let s : State := mkS (fun c => c.setReg (pwr 0x104) 1900)
     ⟨dom, val, s, by decide +kernel +zetaReduce⟩),
    (let dom : Dom := .owner; let val : Word := 1900
     let s : State := mkS (fun c => c.onPower (fun p => { p with samples := List.replicate 10 3350500000 }))
     let l : Nat := min s.chip.limitNow s.chip.pinUp
     let c : Chip := (s.chip.setReg (regAddr 24 3 0x100) val.toNat).setReg (regAddr 24 3 0x104) l
     ⟨dom, val, l, c, s, by decide +kernel +zetaReduce⟩),
    (let dom : Dom := .owner; let val : Word := 3390
     let s : State := mkS (fun c => c.onPower (fun p => { p with samples := List.replicate 10 3350500000 }))
     let l : Nat := min s.chip.limitNow s.chip.pinUp
     let c : Chip := (s.chip.setReg (regAddr 24 3 0x100) val.toNat).setReg (regAddr 24 3 0x104) l
     ⟨dom, val, l, c, s, by decide +kernel +zetaReduce⟩),
    (let dom : Dom := .owner; let val : Word := 1900
     let s : State := mkS (fun c => c.onPower (fun p => { p with cause := 2 }))
     let l : Nat := min s.chip.limitNow s.chip.pinUp
     let c : Chip := (s.chip.setReg (regAddr 24 3 0x100) val.toNat).setReg (regAddr 24 3 0x104) l
     ⟨dom, val, l, c, s, by decide +kernel +zetaReduce⟩),
    (let s : State := mkS id; ⟨s, by decide +kernel +zetaReduce⟩),
    (let s : State := mkS (fun c => c.setReg (pwr 0x104) 3000); ⟨s, by decide +kernel +zetaReduce⟩),
    (let s : State := pw (fun p => { p with cause := 2 }); ⟨s, by decide +kernel +zetaReduce⟩),
    (let dom : Dom := .owner; let val : Word := 1900; let s : State := mkS (fun c => c.setReg (ctlR 0x108) 0x7E)
     ⟨dom, val, s, by decide +kernel +zetaReduce⟩),
    (let dom : Dom := .owner; let val : Word := 3400; let s : State := mkS (fun c => c.setReg (ctlR 0x108) 0x7E)
     ⟨dom, val, s, by decide +kernel +zetaReduce⟩),
    (let dom : Dom := .owner; let val : Word := 2000; let s : State := pw (fun p => { p with cause := 1 })
     ⟨dom, val, s, by decide +kernel +zetaReduce⟩),
    (let dom : Dom := .owner; let val : Word := 2000; let s : State := mkS id
     ⟨dom, val, s, by decide +kernel +zetaReduce⟩),
    (let dom : Dom := .owner; let val : Word := 1899; let s : State := mkS (fun c => c.setReg (ctlR 0x108) 0x7E)
     ⟨dom, val, s, by decide +kernel +zetaReduce⟩),
    (let dom : Dom := .owner; let val : Word := 3401; let s : State := mkS (fun c => c.setReg (ctlR 0x108) 0x7E)
     ⟨dom, val, s, by decide +kernel +zetaReduce⟩)⟩

/-- States and operands that meet the hypotheses of `Obligations.VinBandsAndBrake`, clause by clause. -/
theorem witness_VinBandsAndBrake :
    (∃ (s : State), s.chip.power.high = false ∧ s.chip.power.off = false) ∧
    (∃ (s : State), s.chip.power.vinLow = false ∧ s.chip.power.off = false) ∧
    (∃ (s : State), s.chip.power.vinLow = true ∧ s.chip.power.off = false ∧ s.chip.power.cause = 2) ∧
    (∃ (s : State), s.chip.power.vinLow = true ∧ s.chip.power.off = false ∧ (s.chip.power.cause &&& 13) ≠ 0 ∧
      (s.chip.power.cause &&& 13) ≠ 1) ∧
    (∃ (s : State), s.chip.power.vinLow = true ∧ s.chip.power.off = false ∧ (s.chip.power.cause &&& 13) ≠ 0 ∧
      (s.chip.power.cause &&& 13) ≠ 1) ∧
    (∃ (s : State), s.chip.power.vinLow = true ∧ s.chip.power.off = false ∧ (s.chip.power.cause &&& 13) = 1) ∧
    (∃ (s : State), s.chip.power.vinLow = false) ∧
    (∃ (s : State), s.chip.power.warn = false ∧ s.chip.power.off = false) ∧
    (∃ (s : State), s.chip.power.warn = true) ∧
    (∃ (s : State), s.chip.power.cause = 1) ∧
    (∃ (at_ : Nat) (s : State), (s.chip.power.cause = 4 ∨ s.chip.power.cause = 5) ∧ s.chip.power.coolAt = some at_) ∧
    (∃ (at_ : Nat) (s : State), (s.chip.power.cause = 4 ∨ s.chip.power.cause = 5) ∧ s.chip.power.coolAt = some at_) ∧
    (∃ (at_ : Nat) (s : State), (s.chip.power.cause &&& 4) ≠ 0 ∧ (s.chip.power.cause &&& 10) ≠ 0 ∧ s.chip.power.coolAt =
      some at_) ∧
    (∃ (at_ : Nat) (s : State), (s.chip.power.cause &&& 4) ≠ 0 ∧ (s.chip.power.cause &&& 10) ≠ 0 ∧ s.chip.power.coolAt =
      some at_) ∧
    (∃ (s : State), s.chip.power.coolAt = none ∧ (s.chip.power.cause &&& 14) ≠ 0) ∧
    (∃ (s : State), s.chip.power.coolAt = none ∧ (s.chip.power.cause &&& 14) ≠ 0) :=
  ⟨ (let s : State := mkS id; ⟨s, by decide +kernel +zetaReduce⟩),
    (let s : State := mkS id; ⟨s, by decide +kernel +zetaReduce⟩),
    (let s : State := pw (fun p => { p with vinLow := true, cause := 2 }); ⟨s, by decide +kernel +zetaReduce⟩),
    (let s : State := pw (fun p => { p with vinLow := true, cause := 6, t := 8 }); ⟨s, by decide +kernel +zetaReduce⟩),
    (let s : State := pw (fun p => { p with vinLow := true, cause := 11, t := 8 }); ⟨s, by decide +kernel +zetaReduce⟩),
    (let s : State := pw (fun p => { p with vinLow := true, cause := 3, t := 8 }); ⟨s, by decide +kernel +zetaReduce⟩),
    (let s : State := mkS id; ⟨s, by decide +kernel +zetaReduce⟩),
    (let s : State := mkS id; ⟨s, by decide +kernel +zetaReduce⟩),
    (let s : State := pw (fun p => { p with warn := true }); ⟨s, by decide +kernel +zetaReduce⟩),
    (let s : State := pw (fun p => { p with cause := 1 }); ⟨s, by decide +kernel +zetaReduce⟩),
    (let at_ : Nat := 0; let s : State := pw (fun p => { p with cause := 4, coolAt := some 0 })
     ⟨at_, s, by decide +kernel +zetaReduce⟩),
    (let at_ : Nat := 5; let s : State := pw (fun p => { p with cause := 5, coolAt := some 5 })
     ⟨at_, s, by decide +kernel +zetaReduce⟩),
    (let at_ : Nat := 0; let s : State := pw (fun p => { p with cause := 6, coolAt := some 0 })
     ⟨at_, s, by decide +kernel +zetaReduce⟩),
    (let at_ : Nat := 5; let s : State := pw (fun p => { p with cause := 15, coolAt := some 5 })
     ⟨at_, s, by decide +kernel +zetaReduce⟩),
    (let s : State := pw (fun p => { p with cause := 4 }); ⟨s, by decide +kernel +zetaReduce⟩),
    (let s : State := pw (fun p => { p with cause := 3 }); ⟨s, by decide +kernel +zetaReduce⟩)⟩

/-- States and operands that meet the hypotheses of `Obligations.ShutdownStartsAndStages`, clause by clause. -/
theorem witness_ShutdownStartsAndStages :
    (∃ (c : Chip), c.power.stage = none ∧ c.power.off = false) ∧
    (∃ (c : Chip), c.rst.c0Up = true ∧ 0 < c.mgmt.evq.length ∧ (c.mgmt.evq.getD 0 []).length < 1024) ∧
    (∃ (c : Chip), c.rst.c0Up = true ∧ 0 < c.mgmt.evq.length ∧ (c.mgmt.evq.getD 0 []).length < 1024) ∧
    (∃ (c : Chip), c.rst.c0Up = true ∧ 0 < c.mgmt.evq.length ∧ (c.mgmt.evq.getD 0 []).length < 1024) ∧
    (∃ (rail : Fin 20) (s : State), bit s.chip.power.rails rail.val = true ∧ s.chip.power.off = false) ∧
    (∃ (rail : Fin 20) (s : State), s.chip.power.step < 6 ∧ rail.val ∈ railStep s.chip.power.step ∧ s.chip.power.off = false
      ∧ s.chip.power.stage = none) ∧
    (∃ (sensor : Fin 180) (at_ : Nat) (s : State), SMap.get? s.chip.power.hotAt sensor.val = some at_) ∧
    (∃ (die : Fin 25) (at_ : Nat) (s : State), SMap.get? s.chip.power.overAt die.val = some at_) ∧
    (∃ (s : State), s.chip.power.stage = some 0) ∧
    (∃ (s : State), s.chip.power.stage = some 0) ∧
    (∃ (s : State), s.chip.power.stage = some 1) ∧
    (∃ (s : State), s.chip.power.stage = some 1) ∧
    (∃ (s : State), s.chip.power.stage = some 2) ∧
    (∃ (s : State), s.chip.power.stage = some 2) ∧
    (∃ (s : State), s.chip.power.stage = some 3) ∧
    (∃ (s : State), s.chip.power.stage = some 3) ∧
    (∃ (s : State), s.chip.power.stage = some 4) ∧
    (∃ (s : State), s.chip.power.stage = some 4) ∧
    (∃ (s : State), s.chip.power.stage = some 4) ∧
    (∃ (s : State), s.chip.power.stage = some 5) ∧
    (∃ (s : State), s.chip.power.stage = some 5) ∧
    (∃ (s : State), s.chip.power.stage = some 5) ∧
    (∃ (s : State), s.chip.power.stage = none) ∧
    (∃ (s : State), s.chip.power.off = false) ∧
    (∃ (s : State), s.chip.power.off = false) :=
  ⟨ (let c : Chip := Chip.reset; ⟨c, by decide +kernel +zetaReduce⟩),
    (let c : Chip := fwOn Chip.reset; ⟨c, by decide +kernel +zetaReduce⟩),
    (let c : Chip := (fwOn Chip.reset).setReg (regAddr 24 3 0x1C) 0x1F; ⟨c, by decide +kernel +zetaReduce⟩),
    (let c : Chip := ((fwOn Chip.reset).setReg (regAddr 24 3 0x1C) 0x1F).setReg (regAddr 24 3 0x18) 1
     ⟨c, by decide +kernel +zetaReduce⟩),
    (let rail : Fin 20 := 19; let s : State := mkS id; ⟨rail, s, by decide +kernel +zetaReduce⟩),
    (let rail : Fin 20 := 19; let s : State := pw (fun p => { p with rails := 0, step := 0 })
     ⟨rail, s, by decide +kernel +zetaReduce⟩),
    (let sensor : Fin 180 := 179; let at_ : Nat := 5; let s : State := pw (fun p => { p with hotAt := [(179, 5)] })
     ⟨sensor, at_, s, by decide +kernel +zetaReduce⟩),
    (let die : Fin 25 := 24; let at_ : Nat := 5; let s : State := pw (fun p => { p with overAt := [(24, 5)] })
     ⟨die, at_, s, by decide +kernel +zetaReduce⟩),
    (let s : State := pw (fun p => { p with stage := some 0, stageAt := 0 }); ⟨s, by decide +kernel +zetaReduce⟩),
    (let s : State := { (mkS (fun c => upP 17 { st := .active } (c.onPower (fun p => { p with stage := some 0, stageAt := 7, rails := 0xFFFFF })))) with sram := [(5, 1)] }
     ⟨s, by decide +kernel +zetaReduce⟩),
    (let s : State := pw (fun p => { p with stage := some 1, stageAt := 0 }); ⟨s, by decide +kernel +zetaReduce⟩),
    (let s : State := { (mkS (fun c => upP 17 { st := .active } (c.onPower (fun p => { p with stage := some 1, stageAt := 7, rails := 0xFFFFF })))) with sram := [(5, 1)] }
     ⟨s, by decide +kernel +zetaReduce⟩),
    (let s : State := pw (fun p => { p with stage := some 2, stageAt := 0 }); ⟨s, by decide +kernel +zetaReduce⟩),
    (let s : State := { (mkS (fun c => upP 17 { st := .active } (c.onPower (fun p => { p with stage := some 2, stageAt := 7, rails := 0xFFFFF })))) with sram := [(5, 1)] }
     ⟨s, by decide +kernel +zetaReduce⟩),
    (let s : State := pw (fun p => { p with stage := some 3, stageAt := 0 }); ⟨s, by decide +kernel +zetaReduce⟩),
    (let s : State := { (mkS (fun c => upP 17 { st := .active } (c.onPower (fun p => { p with stage := some 3, stageAt := 7, rails := 0xFFFFF })))) with sram := [(5, 1)] }
     ⟨s, by decide +kernel +zetaReduce⟩),
    (let s : State := pw (fun p => { p with stage := some 4, stageAt := 0 }); ⟨s, by decide +kernel +zetaReduce⟩),
    (let s : State := { (mkS (fun c => upP 17 { st := .active } (c.onPower (fun p => { p with stage := some 4, stageAt := 7, rails := 0xFFFFF })))) with sram := [(5, 1)] }
     ⟨s, by decide +kernel +zetaReduce⟩),
    (let s : State := (pw (fun p => { p with stage := some 4, stageAt := 0, rails := 0xC0000 })).onPart (fun c => c.onRst (fun r => { r with c0Up := false }))
     ⟨s, by decide +kernel +zetaReduce⟩),
    (let s : State := pw (fun p => { p with stage := some 5, stageAt := 0 }); ⟨s, by decide +kernel +zetaReduce⟩),
    (let s : State := { (mkS (fun c => upP 17 { st := .active } (c.onPower (fun p => { p with stage := some 5, stageAt := 7, rails := 0xFFFFF })))) with sram := [(5, 1)] }
     ⟨s, by decide +kernel +zetaReduce⟩),
    (let s : State := (pw (fun p => { p with stage := some 5, stageAt := 0, rails := 0xC0000 })).onPart (fun c => c.onRst (fun r => { r with c0Up := false }))
     ⟨s, by decide +kernel +zetaReduce⟩),
    (let s : State := mkS id; ⟨s, by decide +kernel +zetaReduce⟩),
    (let s : State := { mkS id with sram := [(5, 1)] }; ⟨s, by decide +kernel +zetaReduce⟩),
    (let s : State := { mkS id with sram := [(5, 1)] }; ⟨s, by decide +kernel +zetaReduce⟩)⟩

/-- States and operands that meet the hypotheses of `Obligations.Temperature`, clause by clause. -/
theorem witness_Temperature :
    (∃ (s : State), s.chip.power.off = false) ∧
    (∃ (c : Chip) (k : Nat) (x : Int), k < 180 ∧ ¬ k ∈ c.power.fault ∧ -320 ≤ x ∧ x ≤ 2400) ∧
    (∃ (c : Chip) (k : Nat) (x : Int), k < 180 ∧ ¬ k ∈ c.power.fault ∧ -320 ≤ x ∧ x ≤ 2400) ∧
    (∃ (c : Chip) (k : Nat), k < 180 ∧ ¬ k ∈ c.power.fault) ∧
    (∃ (x : Int), (x < -320 ∨ 2400 < x)) ∧
    (∃ (x : Int), (x < -320 ∨ 2400 < x)) ∧
    (∃ (c : Chip) (k : Nat) (x : Int), k < 180 ∧ k ∈ c.power.fault ∧ -320 ≤ x ∧ x ≤ 2400 ∧ SMap.getD c.power.good k 0 < 99) ∧
    (∃ (c : Chip) (k : Nat) (x : Int), k < 180 ∧ k ∈ c.power.fault ∧ -320 ≤ x ∧ x ≤ 2400 ∧ SMap.getD c.power.good k 0 < 99) ∧
    (∃ (readings : List (Option Int)) (e : Chip) (s : State), s.chip.power.off = false ∧ e = (s.chip.tick 8 10000).each
      (List.range 180) (fun c j => c.readSensor j (readings.getD j none)) ∧ (e.hottest.any (fun h => decide (e.brakeC ≤
      h.1)) = true ∨ (List.range 8 ++ [24]).any e.dieHot = true) ∧ (e.power.cause &&& 4) = 0) ∧
    (∃ (readings : List (Option Int)) (e : Chip) (s : State), s.chip.power.off = false ∧ e = (s.chip.tick 8 10000).each
      (List.range 180) (fun c j => c.readSensor j (readings.getD j none)) ∧ (e.hottest.any (fun h => decide (e.brakeC ≤
      h.1)) = true ∨ (List.range 8 ++ [24]).any e.dieHot = true) ∧ (e.power.cause &&& 4) = 0) ∧
    (∃ (readings : List (Option Int)) (e : Chip) (s : State), s.chip.power.off = false ∧ e = (s.chip.tick 8 10000).each
      (List.range 180) (fun c j => c.readSensor j (readings.getD j none)) ∧ ((e.hottest.any (fun h => decide (e.brakeC ≤
      h.1)) = false ∧ (List.range 8 ++ [24]).any e.dieHot = false) ∨ (e.power.cause &&& 4) ≠ 0)) ∧
    (∃ (readings : List (Option Int)) (e : Chip) (s : State), s.chip.power.off = false ∧ e = (s.chip.tick 8 10000).each
      (List.range 180) (fun c j => c.readSensor j (readings.getD j none)) ∧ ((e.hottest.any (fun h => decide (e.brakeC ≤
      h.1)) = false ∧ (List.range 8 ++ [24]).any e.dieHot = false) ∨ (e.power.cause &&& 4) ≠ 0)) ∧
    (∃ (readings : List (Option Int)) (e : Chip) (s : State), s.chip.power.off = false ∧ e = (s.chip.tick 8 10000).each
      (List.range 180) (fun c j => c.readSensor j (readings.getD j none)) ∧ ((e.hottest.any (fun h => decide (e.brakeC ≤
      h.1)) = false ∧ (List.range 8 ++ [24]).any e.dieHot = false) ∨ (e.power.cause &&& 4) ≠ 0)) ∧
    (∃ (readings : List (Option Int)) (e : Chip) (s : State), s.chip.power.off = false ∧ e = (s.chip.tick 8 10000).each
      (List.range 180) (fun c j => c.readSensor j (readings.getD j none))) ∧
    (∃ (readings : List (Option Int)) (e : Chip) (s : State), s.chip.power.off = false ∧ e = (s.chip.tick 8 10000).each
      (List.range 180) (fun c j => c.readSensor j (readings.getD j none))) ∧
    (∃ (readings : List (Option Int)) (e : Chip) (s : State), s.chip.power.off = false ∧ e = (s.chip.tick 8 10000).each
      (List.range 180) (fun c j => c.readSensor j (readings.getD j none))) ∧
    (∃ (readings : List (Option Int)) (k : Nat) (x : Int) (e : Chip) (s : State), s.chip.power.off = false ∧ e =
      (s.chip.tick 8 10000).each (List.range 180) (fun c j => c.readSensor j (readings.getD j none)) ∧ 144 ≤ k ∧ k < 176 ∧
      e.temp? k = some x ∧ e.throttleC ≤ x ∧ ¬ k ∈ s.chip.power.engHot) ∧
    (∃ (readings : List (Option Int)) (k : Nat) (x : Int) (e : Chip) (s : State), s.chip.power.off = false ∧ e =
      (s.chip.tick 8 10000).each (List.range 180) (fun c j => c.readSensor j (readings.getD j none)) ∧ 144 ≤ k ∧ k < 176 ∧
      e.temp? k = some x ∧ e.throttleC ≤ x ∧ ¬ k ∈ s.chip.power.engHot) ∧
    (∃ (c : Chip) (k : Nat) (x : Int), c.temp? k = some x ∧ k ∈ c.power.engHot) ∧
    (∃ (c : Chip) (k : Nat) (x : Int), c.temp? k = some x ∧ k ∈ c.power.engHot) ∧
    (∃ (c : Chip) (k : Nat) (x : Int), c.temp? k = some x ∧ ¬ k ∈ c.power.engHot ∧ x < c.throttleC) ∧
    (∃ (x : Int) (k : Nat) (s : State), s.chip.hottest = some (x, k) ∧ s.chip.throttleC ≤ x ∧ s.chip.power.tTh < 8 ∧
      s.chip.power.off = false) ∧
    (∃ (x : Int) (k : Nat) (s : State), s.chip.hottest = some (x, k) ∧ x < s.chip.throttleC - 32 ∧ 0 < s.chip.power.tTh ∧
      s.chip.power.off = false) :=
  ⟨ (let s : State := mkS id; ⟨s, by decide +kernel +zetaReduce⟩),
    (let c : Chip := Chip.reset; let k : Nat := 179; let x : Int := -320; ⟨c, k, x, by decide +kernel +zetaReduce⟩),
    (let c : Chip := Chip.reset; let k : Nat := 0; let x : Int := 2400; ⟨c, k, x, by decide +kernel +zetaReduce⟩),
    (let c : Chip := Chip.reset; let k : Nat := 179; ⟨c, k, by decide +kernel +zetaReduce⟩),
    (let x : Int := -321; ⟨x, by decide +kernel +zetaReduce⟩),
    (let x : Int := 2401; ⟨x, by decide +kernel +zetaReduce⟩),
    (let c : Chip := Chip.reset.readSensor 7 none; let k : Nat := 7; let x : Int := 2400
     ⟨c, k, x, by decide +kernel +zetaReduce⟩),
    (let c : Chip := (Chip.reset.readSensor 0 none).onPower (fun p => { p with good := SMap.set p.good 0 97 })
     let k : Nat := 0; let x : Int := -320; ⟨c, k, x, by decide +kernel +zetaReduce⟩),
    (let readings : List (Option Int) := [some 1800]; let s : State := mkS id
     let e : Chip := (s.chip.tick 8 10000).each (List.range 180) (fun c j => c.readSensor j (readings.getD j none))
     ⟨readings, e, s, by decide +kernel +zetaReduce, rfl, by decide +kernel +zetaReduce, by decide +kernel +zetaReduce⟩),
    (let readings : List (Option Int) := List.replicate 180 (some 1760)
     let s : State := pw (fun p => { p with cause := 3, t := 2 })
     let e : Chip := (s.chip.tick 8 10000).each (List.range 180) (fun c j => c.readSensor j (readings.getD j none))
     ⟨readings, e, s, by decide +kernel +zetaReduce, rfl, by decide +kernel +zetaReduce, by decide +kernel +zetaReduce⟩),
    (let readings : List (Option Int) := List.replicate 180 (some 400); let s : State := mkS id
     let e : Chip := (s.chip.tick 8 10000).each (List.range 180) (fun c j => c.readSensor j (readings.getD j none))
     ⟨readings, e, s, by decide +kernel +zetaReduce, rfl, by decide +kernel +zetaReduce⟩),
    (let readings : List (Option Int) := [some 1800]; let s : State := pw (fun p => { p with cause := 4, t := 8 })
     let e : Chip := (s.chip.tick 8 10000).each (List.range 180) (fun c j => c.readSensor j (readings.getD j none))
     ⟨readings, e, s, by decide +kernel +zetaReduce, rfl, by decide +kernel +zetaReduce⟩),
    (let readings : List (Option Int) := [none]; let s : State := pw (fun p => { p with cause := 4, t := 8 })
     let e : Chip := (s.chip.tick 8 10000).each (List.range 180) (fun c j => c.readSensor j (readings.getD j none))
     ⟨readings, e, s, by decide +kernel +zetaReduce, rfl, by decide +kernel +zetaReduce⟩),
    (let readings : List (Option Int) := [some 1800]; let s : State := mkS id
     let e : Chip := (s.chip.tick 8 10000).each (List.range 180) (fun c j => c.readSensor j (readings.getD j none))
     ⟨readings, e, s, by decide +kernel +zetaReduce, rfl⟩),
    (let readings : List (Option Int) := List.replicate 180 (some 2200)
     let s : State := pw (fun p => { p with hotAt := [(0, 5)], overAt := [(0, 5)] })
     let e : Chip := (s.chip.tick 8 10000).each (List.range 180) (fun c j => c.readSensor j (readings.getD j none))
     ⟨readings, e, s, by decide +kernel +zetaReduce, rfl⟩),
    (let readings : List (Option Int) := List.replicate 180 (some 400)
     let s : State := pw (fun p => { p with hotAt := [(0, 5)], overAt := [(0, 5)] })
     let e : Chip := (s.chip.tick 8 10000).each (List.range 180) (fun c j => c.readSensor j (readings.getD j none))
     ⟨readings, e, s, by decide +kernel +zetaReduce, rfl⟩),
    (let readings : List (Option Int) := List.replicate 180 (some 1600); let k : Nat := 144; let x : Int := 1600
     let s : State := mkS id
     let e : Chip := (s.chip.tick 8 10000).each (List.range 180) (fun c j => c.readSensor j (readings.getD j none))
     ⟨readings, k, x, e, s, by decide +kernel +zetaReduce, rfl, by decide +kernel +zetaReduce,
      by decide +kernel +zetaReduce, by decide +kernel +zetaReduce, by decide +kernel +zetaReduce,
      by decide +kernel +zetaReduce⟩),
    (let readings : List (Option Int) := List.replicate 180 (some 1600); let k : Nat := 175; let x : Int := 1600
     let s : State := mkS id
     let e : Chip := (s.chip.tick 8 10000).each (List.range 180) (fun c j => c.readSensor j (readings.getD j none))
     ⟨readings, k, x, e, s, by decide +kernel +zetaReduce, rfl, by decide +kernel +zetaReduce,
      by decide +kernel +zetaReduce, by decide +kernel +zetaReduce, by decide +kernel +zetaReduce,
      by decide +kernel +zetaReduce⟩),
    (let c : Chip := (Chip.reset.readSensor 150 (some 400)).onPower (fun p => { p with engHot := [150] })
     let k : Nat := 150; let x : Int := 400; ⟨c, k, x, by decide +kernel +zetaReduce⟩),
    (let c : Chip := (Chip.reset.readSensor 150 (some 1600)).onPower (fun p => { p with engHot := [150] })
     let k : Nat := 150; let x : Int := 1600; ⟨c, k, x, by decide +kernel +zetaReduce⟩),
    (let c : Chip := Chip.reset.readSensor 150 (some 400); let k : Nat := 150; let x : Int := 400
     ⟨c, k, x, by decide +kernel +zetaReduce⟩),
    (let x : Int := 1800; let k : Nat := 0; let s : State := mkS (fun c => c.readSensor 0 (some 1800))
     ⟨x, k, s, by decide +kernel +zetaReduce⟩),
    (let x : Int := 400; let k : Nat := 0
     let s : State := (pw (fun p => { p with tTh := 1 })).onPart (fun c => c.readSensor 0 (some 400))
     ⟨x, k, s, by decide +kernel +zetaReduce⟩)⟩

/-- States and operands that meet the hypotheses of `Obligations.PowerOn`, clause by clause. -/
theorem witness_PowerOn :
    (∃ (s : State), s.chip.power.off = true ∧ s.chip.power.below17 = true) ∧
    (∃ (s : State), s.chip.power.step < 5 ∧ s.chip.power.off = false ∧ s.chip.power.stage = none) ∧
    (∃ (s : State), s.chip.power.step < 5 ∧ s.chip.power.off = false ∧ s.chip.power.stage = none) ∧
    (∃ (s : State), s.chip.power.step = 5 ∧ s.chip.power.off = false ∧ s.chip.power.stage = none ∧ s.chip.rst.kind = 0) ∧
    (∃ (p : Bool) (b : Bool) (s : State), s.chip.rst.refChosen = false ∧ p || b) ∧
    (∃ (p : Bool) (b : Bool) (s : State), s.chip.rst.refChosen = false ∧ p || b) ∧
    (∃ (s : State), s.chip.rst.refChosen = false) ∧
    (∃ (s : State), s.chip.rst.strapped = false ∧ s.chip.rst.c0Up = true) ∧
    (∃ (pos : BitVec 3) (s : State), s.chip.rst.livePos ≠ pos.toNat ∧ s.chip.rst.strapped = true) ∧
    (∃ (s : State), s.chip.rst.c0Up = true ∧ s.chip.rst.strapped = true ∧ s.chip.mgmt.bypass = true) :=
  ⟨ (let s : State := pw (fun p => { p with off := true, below17 := true, rails := 0 })
     ⟨s, by decide +kernel +zetaReduce⟩),
    (let s : State := pw (fun p => { p with step := 0, rails := 0 }); ⟨s, by decide +kernel +zetaReduce⟩),
    (let s : State := pw (fun p => { p with step := 4, rails := 0x8FFFF }); ⟨s, by decide +kernel +zetaReduce⟩),
    (let s : State := (pw (fun p => { p with step := 5, rails := 0xDFFFF })).onPart (fun c => c.onRst (fun r => { r with c0Up := false }))
     ⟨s, by decide +kernel +zetaReduce⟩),
    (let p : Bool := false; let b : Bool := true; let s : State := mkS id; ⟨p, b, s, by decide +kernel +zetaReduce⟩),
    (let p : Bool := true; let b : Bool := false; let s : State := mkS id; ⟨p, b, s, by decide +kernel +zetaReduce⟩),
    (let s : State := mkS id; ⟨s, by decide +kernel +zetaReduce⟩),
    (let s : State := mkS id; ⟨s, by decide +kernel +zetaReduce⟩),
    (let pos : BitVec 3 := 7; let s : State := rs (fun r => { r with strapped := true })
     ⟨pos, s, by decide +kernel +zetaReduce⟩),
    (let s : State := rs (fun r => { r with strapped := true }); ⟨s, by decide +kernel +zetaReduce⟩)⟩

/-- States and operands that meet the hypotheses of `Obligations.Resets`, clause by clause. -/
theorem witness_Resets :
    (∃ (dom : Dom) (s : State), MayWrite s.chip dom 24 6 0x100 0x81000000 ∧ s.chip.isOn 24 6 = true ∧ s.chip.rst.kind = 0 ∧
      s.chip.power.stage = none) ∧
    (∃ (dom : Dom) (s : State), MayWrite s.chip dom 24 6 0x100 0x82000000 ∧ s.chip.isOn 24 6 = true ∧ s.chip.rst.kind = 0 ∧
      s.chip.power.stage = none) ∧
    (∃ (dom : Dom) (q : Fin 4) (s : State), MayWrite s.chip dom 24 6 0x100 (0x83000000 + q.val) ∧ s.chip.isOn 24 6 = true ∧
      s.chip.rst.kind = 0 ∧ s.chip.power.stage = none) ∧
    (∃ (dom : Dom) (p : Fin 4) (s : State), MayWrite s.chip dom 24 6 0x100 (0x84000000 + p.val) ∧ s.chip.isOn 24 6 = true ∧
      s.chip.rst.kind = 0 ∧ s.chip.power.stage = none) ∧
    (∃ (dom : Dom) (e : Fin 16) (s : State), MayWrite s.chip dom 24 6 0x100 (0x85000000 + e.val) ∧ s.chip.isOn 24 6 = true ∧
      s.chip.rst.kind = 0 ∧ s.chip.power.stage = none) ∧
    (∃ (dom : Dom) (s : State), MayWrite s.chip dom 24 6 0x100 0xC1000000 ∧ s.chip.isOn 24 6 = true ∧ s.chip.rst.kind = 0 ∧
      s.chip.power.stage = none) ∧
    (∃ (dom : Dom) (s : State), MayWrite s.chip dom 24 6 0x100 0xC2000000 ∧ s.chip.isOn 24 6 = true ∧ s.chip.rst.kind = 0 ∧
      s.chip.power.stage = none) ∧
    (∃ (dom : Dom) (q : Fin 4) (s : State), MayWrite s.chip dom 24 6 0x100 (0xC3000000 + q.val) ∧ s.chip.isOn 24 6 = true ∧
      s.chip.rst.kind = 0 ∧ s.chip.power.stage = none) ∧
    (∃ (s : State), s.chip.rst.grace = true) ∧
    (∃ (s : State), s.chip.rst.grace = true) ∧
    (∃ (s : State), s.chip.rst.grace = true ∧ s.chip.rst.kind = 1 ∧ s.chip.rst.c0Up = true) ∧
    (∃ (s : State), s.chip.rst.grace = true ∧ s.chip.rst.kind = 2) ∧
    (∃ (q : Fin 4) (s : State), s.chip.rst.grace = true ∧ s.chip.rst.kind = 3 ∧ s.chip.rst.target = q.val) ∧
    (∃ (s : State), (s.chip.rst.kind = 2 ∨ s.chip.rst.kind = 4 ∨ s.chip.rst.kind = 5) ∧ s.chip.rst.grace = false ∧
      s.chip.rst.refsLost = false ∧ s.chip.power.off = false ∧ s.chip.power.stage = none ∧ s.chip.rst.more = [] ∧
      s.chip.rst.cmd = true) ∧
    (∃ (s : State), (s.chip.rst.kind = 2 ∨ s.chip.rst.kind = 4 ∨ s.chip.rst.kind = 5) ∧ s.chip.rst.grace = false ∧
      s.chip.rst.refsLost = false ∧ s.chip.power.off = false ∧ s.chip.power.stage = none ∧ s.chip.rst.more = [] ∧
      s.chip.rst.cmd = true) ∧
    (∃ (s : State), s.chip.rst.kind = 1 ∧ s.chip.rst.grace = false ∧ s.chip.rst.refsLost = false ∧ s.chip.power.off = false
      ∧ s.chip.power.stage = none ∧ s.chip.rst.more = []) ∧
    (∃ (dom : Dom) (p : Fin 4) (s : State), MayWrite s.chip dom 24 6 0x100 (0x84000000 + p.val) ∧ s.chip.isOn 24 6 = true ∧
      s.chip.rst.kind = 4 ∧ s.chip.rst.target = p.val) ∧
    (∃ (dom : Dom) (p : Fin 4) (k : Fin 4) (s : State), MayWrite s.chip dom 24 6 0x100 (0x84000000 + p.val) ∧ s.chip.isOn 24
      6 = true ∧ s.chip.power.stage = none ∧ s.chip.rst.kind = 4 ∧ s.chip.rst.target = k.val ∧ k ≠ p ∧ s.chip.rst.more = []) ∧
    (∃ (q : Fin 4) (s : State), s.chip.rst.kind = 3 ∧ s.chip.rst.target = q.val ∧ s.chip.rst.grace = false ∧
      s.chip.rst.refsLost = false ∧ s.chip.power.off = false ∧ s.chip.power.stage = none ∧ s.chip.rst.more = [] ∧
      s.chip.rst.cmd = true) ∧
    (∃ (q : Fin 4) (s : State), s.chip.rst.kind = 3 ∧ s.chip.rst.target = q.val ∧ s.chip.rst.grace = false ∧
      s.chip.rst.refsLost = false ∧ s.chip.power.off = false ∧ s.chip.power.stage = none ∧ s.chip.rst.more = [] ∧
      s.chip.rst.cmd = true) ∧
    (∃ (p : Nat) (admits : List Nat), p ∈ admits ∧ p < 1024) ∧
    (∃ (p : Nat) (admits : List Nat), p ∈ admits ∧ p < 1024) ∧
    (∃ (c : Chip) (q : Fin 4) (admits : List Nat), (c.quadrantDone q.val admits).regBit (bufPage q.val + 0x100) 8 = true ∧
      (c.quadrantDone q.val admits).policy 3 = true ∧ (c.quadrantDone q.val admits).isOn q.val 0x44 = true) ∧
    (∃ (m : ResetRun) (rest : List ResetRun) (s : State), (s.chip.rst.kind = 2 ∨ s.chip.rst.kind = 4 ∨ s.chip.rst.kind = 5)
      ∧ s.chip.rst.grace = false ∧ s.chip.rst.refsLost = false ∧ s.chip.power.off = false ∧ s.chip.power.stage = none ∧
      s.chip.rst.more = m :: rest ∧ m.kind ≠ 0 ∧ s.chip.rst.cmd = true) ∧
    (∃ (m : ResetRun) (rest : List ResetRun) (s : State), (s.chip.rst.kind = 2 ∨ s.chip.rst.kind = 4 ∨ s.chip.rst.kind = 5)
      ∧ s.chip.rst.grace = false ∧ s.chip.rst.refsLost = false ∧ s.chip.power.off = false ∧ s.chip.power.stage = none ∧
      s.chip.rst.more = m :: rest ∧ m.kind ≠ 0 ∧ s.chip.rst.cmd = true) ∧
    (∃ (m : ResetRun) (s : State), s.chip.rst.kind ≠ 0 ∧ s.chip.rst.grace = true ∧ s.chip.rst.refsLost = false ∧
      s.chip.power.off = false ∧ s.chip.power.stage = none ∧ s.chip.rst.more.find? (!·.grace) = some m ∧ (m.kind = 2 ∨
      m.kind = 4 ∨ m.kind = 5)) ∧
    (∃ (m : ResetRun) (s : State), s.chip.rst.grace = false ∧ s.chip.rst.more.find? (·.grace) = some m) ∧
    (∃ (m : ResetRun) (s : State), s.chip.rst.grace = false ∧ s.chip.rst.more.find? (·.grace) = some m) ∧
    (∃ (dom : Dom) (p : Fin 4) (addr : Word) (val : Word) (s : State), addr.toNat = regAddr 24 6 0x100 ∧ val.toNat =
      0xC4000000 + p.val ∧ MayWrite s.chip dom 24 6 0x100 val.toNat ∧ s.chip.isOn 24 6 = true ∧ s.chip.rst.kind = 0 ∧
      s.chip.power.stage = none) ∧
    (∃ (dom : Dom) (e : Fin 16) (addr : Word) (val : Word) (s : State), addr.toNat = regAddr 24 6 0x100 ∧ val.toNat =
      0xC5000000 + e.val ∧ MayWrite s.chip dom 24 6 0x100 val.toNat ∧ s.chip.isOn 24 6 = true ∧ s.chip.rst.kind = 0 ∧
      s.chip.power.stage = none) :=
  ⟨ (let dom : Dom := .owner; let s : State := mkS id; ⟨dom, s, by decide +kernel +zetaReduce⟩),
    (let dom : Dom := .owner; let s : State := mkS id; ⟨dom, s, by decide +kernel +zetaReduce⟩),
    (let dom : Dom := .owner; let q : Fin 4 := 3; let s : State := mkS id; ⟨dom, q, s, by decide +kernel +zetaReduce⟩),
    (let dom : Dom := .owner; let p : Fin 4 := 3; let s : State := mkS id; ⟨dom, p, s, by decide +kernel +zetaReduce⟩),
    (let dom : Dom := .owner; let e : Fin 16 := 15; let s : State := mkS id; ⟨dom, e, s, by decide +kernel +zetaReduce⟩),
    (let dom : Dom := .owner; let s : State := mkS id; ⟨dom, s, by decide +kernel +zetaReduce⟩),
    (let dom : Dom := .owner; let s : State := mkS (fun c => upP 1023 { st := .init, lanes := 0xFF, trained := 0xFF } c)
     ⟨dom, s, by decide +kernel +zetaReduce⟩),
    (let dom : Dom := .owner; let q : Fin 4 := 3; let s : State := mkS id; ⟨dom, q, s, by decide +kernel +zetaReduce⟩),
    (let s : State := rs (fun r => { r with kind := 5, target := 15, grace := true }); ⟨s, by decide +kernel +zetaReduce⟩),
    (let s : State := rs (fun r => { r with kind := 1, grace := true }); ⟨s, by decide +kernel +zetaReduce⟩),
    (let s : State := rs (fun r => { r with kind := 1, grace := true }); ⟨s, by decide +kernel +zetaReduce⟩),
    (let s : State := rs (fun r => { r with kind := 2, grace := true }); ⟨s, by decide +kernel +zetaReduce⟩),
    (let q : Fin 4 := 3
     let s : State := mkS (fun c => { c with stores := [sto], rst := { c.rst with kind := 3, target := 3, grace := true } })
     ⟨q, s, by decide +kernel +zetaReduce⟩),
    (let s : State := rs (fun r => { r with kind := 2, cmd := true }); ⟨s, by decide +kernel +zetaReduce⟩),
    (let s : State := rs (fun r => { r with kind := 5, target := 15, cmd := true }); ⟨s, by decide +kernel +zetaReduce⟩),
    (let s : State := rs (fun r => { r with kind := 1, c0Up := false, cmd := true }); ⟨s, by decide +kernel +zetaReduce⟩),
    (let dom : Dom := .owner; let p : Fin 4 := 2; let s : State := rs (fun r => { r with kind := 4, target := 2 })
     ⟨dom, p, s, by decide +kernel +zetaReduce⟩),
    (let dom : Dom := .owner; let p : Fin 4 := 2; let k : Fin 4 := 3
     let s : State := rs (fun r => { r with kind := 4, target := 3, cmd := true })
     ⟨dom, p, k, s, by decide +kernel +zetaReduce⟩),
    (let q : Fin 4 := 3; let s : State := rs (fun r => { r with kind := 3, target := 3, cmd := true })
     ⟨q, s, by decide +kernel +zetaReduce⟩),
    (let q : Fin 4 := 0; let s : State := rs (fun r => { r with kind := 3, target := 0, cmd := true, admits := [0, 255] })
     ⟨q, s, by decide +kernel +zetaReduce⟩),
    (let p : Nat := 1023; let admits : List Nat := [1000, 1023]; ⟨p, admits, by decide +kernel +zetaReduce⟩),
    (let p : Nat := 0; let admits : List Nat := [0]; ⟨p, admits, by decide +kernel +zetaReduce⟩),
    (let c : Chip := fwOn (onPg 3 0x44 Chip.reset); let q : Fin 4 := 3; let admits : List Nat := [1023]
     ⟨c, q, admits, by decide +kernel +zetaReduce⟩),
    (let m : ResetRun := { kind := 4, target := 3, grace := false, admits := [], at_ := 5 }
     let rest : List ResetRun := []
     let s : State := rs (fun r => { r with kind := 4, target := 2, cmd := true, more := [{ kind := 4, target := 3, grace := false, admits := [], at_ := 5 }] })
     ⟨m, rest, s, by decide +kernel +zetaReduce⟩),
    (let m : ResetRun := { kind := 3, target := 0, grace := true, admits := [], at_ := 5 }
     let rest : List ResetRun := [{ kind := 5, target := 3, grace := false, admits := [], at_ := 5 }]
     let s : State := rs (fun r => { r with kind := 2, cmd := true, more := [{ kind := 3, target := 0, grace := true, admits := [], at_ := 5 }, { kind := 5, target := 3, grace := false, admits := [], at_ := 5 }] })
     ⟨m, rest, s, by decide +kernel +zetaReduce⟩),
    (let m : ResetRun := { kind := 5, target := 15, grace := false, admits := [], at_ := 5 }
     let s : State := rs (fun r => { r with kind := 3, grace := true, cmd := true, more := [{ kind := 3, target := 1, grace := true, admits := [], at_ := 5 }, { kind := 5, target := 15, grace := false, admits := [], at_ := 5 }] })
     ⟨m, s, by decide +kernel +zetaReduce⟩),
    (let m : ResetRun := { kind := 3, target := 1, grace := true, admits := [], at_ := 5 }
     let s : State := rs (fun r => { r with kind := 4, cmd := true, more := [{ kind := 3, target := 1, grace := true, admits := [], at_ := 5 }] })
     ⟨m, s, by decide +kernel +zetaReduce⟩),
    (let m : ResetRun := { kind := 3, target := 1, grace := true, admits := [], at_ := 5 }
     let s : State := rs (fun r => { r with kind := 4, cmd := true, more := [{ kind := 5, target := 15, grace := false, admits := [], at_ := 5 }, { kind := 3, target := 1, grace := true, admits := [], at_ := 5 }] })
     ⟨m, s, by decide +kernel +zetaReduce⟩),
    (let dom : Dom := .owner; let p : Fin 4 := 3; let addr : Word := ad 24 6 0x100; let val : Word := 0xC4000003
     let s : State := mkS id; ⟨dom, p, addr, val, s, by decide +kernel +zetaReduce⟩),
    (let dom : Dom := .owner; let e : Fin 16 := 15; let addr : Word := ad 24 6 0x100; let val : Word := 0xC500000F
     let s : State := mkS id; ⟨dom, e, addr, val, s, by decide +kernel +zetaReduce⟩)⟩

/-- States and operands that meet the hypotheses of `Obligations.MemoryErrorsAndClocks`, clause by clause. -/
theorem witness_MemoryErrorsAndClocks :
    (∃ (array : Fin 5), array.val ≠ 0) ∧
    (∃ (c : Chip), (∀ x ∈ c.jobs, x.2.pend.all (fun y => decide (c.time.ft < y.2)) = true)) ∧
    (∃ (c : Chip) (j : Nat) (t : Nat) (b : Bool) (k : Job), c.jobs = [(j, k)] ∧ k.pend = some (b, t) ∧ t ≤ c.time.ft) ∧
    (∃ (c : Chip) (j : Nat) (t : Nat) (b : Bool) (k : Job), c.jobs = [(j, k)] ∧ k.pend = some (b, t) ∧ t ≤ c.time.ft) ∧
    (∃ (c : Chip) (j : Nat) (t : Nat) (b : Bool) (k : Job), c.jobs = [(j, k)] ∧ k.pend = some (b, t) ∧ t ≤ c.time.ft) ∧
    (∃ (c : Chip) (isl : Nat) (j : Nat) (b : Bool), (c.job j).bankIn isl ≠ b ∧ ¬ isl ∈ (c.job j).moved ∧ (c.job
      j).moved.length + 1 < 73 ∧ c.held = [] ∧ isl < 68 ∧ c.rinses = []) ∧
    (∃ (c : Chip) (isl : Nat) (j : Nat) (b : Bool), (c.job j).bankIn isl ≠ b ∧ ¬ isl ∈ (c.job j).moved ∧ (c.job
      j).moved.length + 1 < 73 ∧ c.held = [] ∧ isl < 68 ∧ c.rinses = []) ∧
    (∃ (e : ScrubErr) (s : State), s.chip.policy 5 = true ∧ e.memory ≠ 10 ∧ e.uncorrectable = false ∧ (e.memory ≠ 6 ∨
      e.die.val < 4 ∨ 8 ≤ e.die.val)) ∧
    (∃ (e : ScrubErr) (s : State), s.chip.policy 5 = true ∧ e.memory ≠ 10 ∧ e.uncorrectable = false ∧ e.memory = 6 ∧ 4 ≤
      e.die.val ∧ e.die.val < 8) ∧
    (∃ (s : State), s.chip.policy 5 = true) ∧
    (∃ (s : State), s.chip.policy 5 = true ∧ s.chip.rst.scrubLate = false) ∧
    (∃ (e : ScrubErr) (s : State), s.chip.policy 5 = true ∧ e.memory ≠ 10 ∧ e.uncorrectable = true) ∧
    (∃ (e : ScrubErr) (s : State), s.chip.policy 5 = true ∧ e.memory ≠ 10 ∧ e.uncorrectable = true) ∧
    (∃ (die : Nat) (memory : Nat), die < 25 ∧ memory < 11) ∧
    (∃ (die : Nat) (memory : Nat), die < 25 ∧ memory < 11) ∧
    (∃ (c : Chip) (q : Fin 4) (index : Nat) (k : Nat) (x : Store), c.stores.find? (fun x => x.q == q.val && x.cells.contains
      (index / 32)) = some x ∧ x.byteOf index = some k ∧ (k < x.got ∨ x.tailIn = true)) ∧
    (∃ (c : Chip) (q : Fin 4) (index : Nat) (x : Store), c.stores.find? (fun x => x.q == q.val && x.cells.contains (index /
      32)) = some x ∧ x.byteOf index = none) ∧
    (∃ (c : Chip) (q : Fin 4) (p : Fin 4) (i : Nat), i < ((c.buf q.val).hamper p.val).cache.length) ∧
    (∃ (c : Chip) (q : Fin 4) (t : Fin 7) (bank : Bool) (i : Nat) (k : Nat), (t.val ≠ 3 ∨ bank = false) ∧ i < 2 ^ 18 ∧ i <
      tblSize t.val ∧ k = tblKey q.val t.val bank i ∧ ¬ k ∈ c.badEnt) ∧
    (∃ (c : Chip) (q : Fin 4) (t : Fin 7) (bank : Bool) (i : Nat) (k : Nat), (t.val ≠ 3 ∨ bank = false) ∧ i < 2 ^ 18 ∧ i <
      tblSize t.val ∧ k = tblKey q.val t.val bank i ∧ ¬ k ∈ c.badEnt) ∧
    (∃ (c : Chip) (q : Fin 4) (i : Fin 1024), (c.bar (1024 * q.val + i.val)).bad = false) ∧
    (∃ (c : Chip) (q : Fin 4), c.seamFaulted (6 + q.val) = false) ∧
    (∃ (c : Chip) (q : Fin 4), c.seamFaulted (6 + q.val) = false) ∧
    (∃ (q : Fin 4) (p : _), p < 1024 ∧ p / 256 = q.val) ∧
    (∃ (q : Fin 4) (p : _), p < 1024 ∧ p / 256 = q.val) ∧
    (∃ (c : Chip) (d : Fin 4) (x : Fin 24) (i : Nat), i < (c.ctx (24 * d.val + x.val)).chunks.length) ∧
    (∃ (c : Chip) (d : Fin 4) (x : Fin 24) (i : Nat) (r : Retained), (c.ctx (24 * d.val + x.val)).kept[i]? = some r) ∧
    (∃ (c : Chip) (d : Fin 4) (x : Fin 24), ((c.ctx (24 * d.val + x.val)).st = 1 ∨ (c.ctx (24 * d.val + x.val)).st = 2)) ∧
    (∃ (c : Chip) (d : Fin 4) (x : Fin 24), ((c.ctx (24 * d.val + x.val)).st = 1 ∨ (c.ctx (24 * d.val + x.val)).st = 2)) ∧
    (∃ (c : Chip) (d : Fin 2) (e : EvEnt), c.mgmt.evq.length = 2 ∧ c.mgmt.evLost.length = 2 ∧ e ∈ c.mgmt.evq.getD d.val [] ∧
      e.slot < 1024) ∧
    (∃ (c : Chip) (d : Fin 2) (slot : Fin 1024), (c.mgmt.evq.getD d.val []).any (·.slot == slot.val) = false) ∧
    (∃ (c : Chip) (d : Nat) (done : Bool) (r : Req), c.mgmt.reqs.getD d [] = [r] ∧ (if done = true then r.done.isEmpty else
      r.left.isEmpty) = false) ∧
    (∃ (c : Chip) (d : Nat) (done : Bool) (r : Req), c.mgmt.reqs.getD d [] = [r] ∧ (if done = true then r.done.isEmpty else
      r.left.isEmpty) = false) ∧
    (∃ (c : Chip) (slot : Nat) (n : Nat) (rd : Nat) (wr : Nat), n = max c.dumpSlots 1 ∧ rd = c.reg (dmp 0x11C) % n ∧ wr =
      c.reg (dmp 0x118) ∧ slot < n ∧ (slot + n - rd) % n < (wr + n - rd) % n) ∧
    (∃ (c : Chip) (slot : Nat) (n : Nat) (rd : Nat) (wr : Nat), n = max c.dumpSlots 1 ∧ rd = c.reg (dmp 0x11C) % n ∧ wr =
      c.reg (dmp 0x118) ∧ slot < n ∧ (slot + n - rd) % n < (wr + n - rd) % n) ∧
    (∃ (c : Chip) (slot : Nat) (n : Nat) (rd : Nat) (wr : Nat), n = max c.dumpSlots 1 ∧ rd = c.reg (dmp 0x11C) % n ∧ wr =
      c.reg (dmp 0x118) ∧ slot < n ∧ (wr + n - rd) % n ≤ (slot + n - rd) % n) ∧
    (∃ (c : Chip) (slot : Nat) (n : Nat) (rd : Nat) (wr : Nat), n = max c.dumpSlots 1 ∧ rd = c.reg (dmp 0x11C) % n ∧ wr =
      c.reg (dmp 0x118) ∧ slot < n ∧ (wr + n - rd) % n ≤ (slot + n - rd) % n) ∧
    (∃ (dom : Dom) (val : Word) (s : State), MayWrite s.chip dom 24 5 0x100 val.toNat ∧ val.toNat ≤ 5) ∧
    (∃ (s : State), s.chip.rst.primOk = true ∧ s.chip.rst.backOk = true ∧ s.chip.rst.backup = false) ∧
    (∃ (dom : Dom) (s : State), MayWrite s.chip dom 24 5 0x104 0x100 ∧ s.chip.isOn 24 5 = true ∧ s.chip.rst.backOk = true ∧
      s.chip.rst.backup = false) ∧
    (∃ (s : State), s.chip.rst.primOk = false ∧ s.chip.rst.backOk = false ∧ s.chip.rst.refsLost = false ∧
      s.chip.rst.refChosen = true ∧ s.chip.power.off = false) ∧
    (∃ (s : State), s.chip.rst.primOk = false ∧ s.chip.rst.backOk = false ∧ s.chip.rst.refsLost = false ∧
      s.chip.rst.refChosen = true ∧ s.chip.power.off = false) ∧
    (∃ (s : State), s.chip.power.off = false ∧ s.chip.rst.refsLost = true ∧ s.chip.power.step = 6 ∧ s.chip.power.stage =
      none) :=
  ⟨ (let array : Fin 5 := 4; ⟨array, by decide +kernel +zetaReduce⟩),
    (let c : Chip := { Chip.reset with jobs := [(5, { pend := some (true, 7) })], time := { Chip.reset.time with ft := 6 } }
     ⟨c, by decide +kernel +zetaReduce⟩),
    (let c : Chip := { Chip.reset with jobs := [(5, { pend := some (true, 7) })], time := { Chip.reset.time with ft := 7 } }
     let j : Nat := 5; let t : Nat := 7; let b : Bool := true; let k : Job := { pend := some (true, 7) }
     ⟨c, j, t, b, k, by decide +kernel +zetaReduce⟩),
    (let c : Chip := { Chip.reset with jobs := [(5, { pend := some (true, 7) })], time := { Chip.reset.time with ft := 7 } }
     let j : Nat := 5; let t : Nat := 7; let b : Bool := true; let k : Job := { pend := some (true, 7) }
     ⟨c, j, t, b, k, by decide +kernel +zetaReduce⟩),
    (let c : Chip := { Chip.reset with jobs := [(5, { pend := some (true, 7) })], time := { Chip.reset.time with ft := 9 } }
     let j : Nat := 5; let t : Nat := 7; let b : Bool := true; let k : Job := { pend := some (true, 7) }
     ⟨c, j, t, b, k, by decide +kernel +zetaReduce⟩),
    (let isl : Nat := 67; let j : Nat := 5; let b : Bool := true
     let c : Chip := { Chip.reset with jobs := [(5, { pend := some (true, 7) })], time := { Chip.reset.time with ft := 9 } }
     ⟨c, isl, j, b, by decide +kernel +zetaReduce⟩),
    (let isl : Nat := 0; let j : Nat := 5; let b : Bool := true
     let c : Chip := { Chip.reset with jobs := [(5, { pend := some (true, 7) })], time := { Chip.reset.time with ft := 9 } }
     ⟨c, isl, j, b, by decide +kernel +zetaReduce⟩),
    (let e : ScrubErr := { die := 3, memory := 2, index := 5, uncorrectable := false }; let s : State := mkS fwOn
     ⟨e, s, by decide +kernel +zetaReduce⟩),
    (let e : ScrubErr := { die := 7, memory := 6, index := 5, uncorrectable := false }
     let s : State := mkS (fun c => fwOn (onPg 7 0x68 c)); ⟨e, s, by decide +kernel +zetaReduce⟩),
    (let s : State := mkS fwOn; ⟨s, by decide +kernel +zetaReduce⟩),
    (let s : State := mkS fwOn; ⟨s, by decide +kernel +zetaReduce⟩),
    (let e : ScrubErr := { die := 3, memory := 3, index := 5, uncorrectable := true }; let s : State := mkS fwOn
     ⟨e, s, by decide +kernel +zetaReduce⟩),
    (let e : ScrubErr := { die := 24, memory := 9, index := 0x20000, uncorrectable := true }; let s : State := mkS fwOn
     ⟨e, s, by decide +kernel +zetaReduce⟩),
    (let die : Nat := 24; let memory : Nat := 9; ⟨die, memory, by decide +kernel +zetaReduce⟩),
    (let die : Nat := 0; let memory : Nat := 0; ⟨die, memory, by decide +kernel +zetaReduce⟩),
    (let c : Chip := { Chip.reset with stores := [{ sto with q := 3 }] }; let q : Fin 4 := 3; let index : Nat := 7
     let k : Nat := 56; let x : Store := { sto with q := 3 }; ⟨c, q, index, k, x, by decide +kernel +zetaReduce⟩),
    (let c : Chip := { Chip.reset with stores := [{ sto with chain := true }] }; let q : Fin 4 := 0; let index : Nat := 31
     let x : Store := { sto with chain := true }; ⟨c, q, index, x, by decide +kernel +zetaReduce⟩),
    (let c : Chip := Chip.reset.onHamper 3 2 (fun h => { h with cache := [{ w := 1 }, { w := 2 }] }); let q : Fin 4 := 3
     let p : Fin 4 := 2; let i : Nat := 1; ⟨c, q, p, i, by decide +kernel +zetaReduce⟩),
    (let c : Chip := Chip.reset; let q : Fin 4 := 3; let t : Fin 7 := 5; let bank : Bool := true; let i : Nat := 262143
     let k : Nat := tblKey 3 5 true 262143; ⟨c, q, t, bank, i, k, by decide +kernel +zetaReduce⟩),
    (let c : Chip := Chip.reset; let q : Fin 4 := 0; let t : Fin 7 := 3; let bank : Bool := false; let i : Nat := 0
     let k : Nat := tblKey 0 3 false 0; ⟨c, q, t, bank, i, k, by decide +kernel +zetaReduce⟩),
    (let c : Chip := Chip.reset; let q : Fin 4 := 3; let i : Fin 1024 := 1023; ⟨c, q, i, by decide +kernel +zetaReduce⟩),
    (let c : Chip := Chip.reset; let q : Fin 4 := 3; ⟨c, q, by decide +kernel +zetaReduce⟩),
    (let c : Chip := Chip.reset; let q : Fin 4 := 3; ⟨c, q, by decide +kernel +zetaReduce⟩),
    (let q : Fin 4 := 3; let p := 1023; ⟨q, p, by decide +kernel +zetaReduce⟩),
    (let q : Fin 4 := 3; let p := 768; ⟨q, p, by decide +kernel +zetaReduce⟩),
    (let c : Chip := Chip.reset.onCtx 95 (fun x => { x with st := 1, chunks := [chk0 ((tpl 3 23 3 2 Chip.reset).tmpl 3 23 false)] })
     let d : Fin 4 := 3; let x : Fin 24 := 23; let i : Nat := 0; ⟨c, d, x, i, by decide +kernel +zetaReduce⟩),
    (let c : Chip := Chip.reset.onCtx 95 (fun x => { x with st := 1, kept := [ret ((tpl 3 23 3 2 Chip.reset).tmpl 3 23 false)] })
     let d : Fin 4 := 3; let x : Fin 24 := 23; let i : Nat := 0
     let r : Retained := ret ((tpl 3 23 3 2 Chip.reset).tmpl 3 23 false); ⟨c, d, x, i, r, by decide +kernel +zetaReduce⟩),
    (let c : Chip := Chip.reset.onCtx 95 (fun x => { x with st := 1 }); let d : Fin 4 := 3; let x : Fin 24 := 23
     ⟨c, d, x, by decide +kernel +zetaReduce⟩),
    (let c : Chip := Chip.reset.onCtx 0 (fun x => { x with st := 2 }); let d : Fin 4 := 0; let x : Fin 24 := 0
     ⟨c, d, x, by decide +kernel +zetaReduce⟩),
    (let c : Chip := Chip.reset.onMgmt (fun m => { m with evq := [[], [{ time := 5, page := 6, evt := 7, slot := 3 }, { time := 5, page := 6, evt := 7, slot := 1023 }]] })
     let d : Fin 2 := 1; let e : EvEnt := { time := 5, page := 6, evt := 7, slot := 1023 }
     ⟨c, d, e, by decide +kernel +zetaReduce⟩),
    (let c : Chip := Chip.reset.onMgmt (fun m => { m with evq := [[], [{ time := 5, page := 6, evt := 7, slot := 3 }]] })
     let d : Fin 2 := 1; let slot : Fin 1024 := 4; ⟨c, d, slot, by decide +kernel +zetaReduce⟩),
    (let c : Chip := Chip.reset.onMgmt (fun m => { m with reqs := [[], [{ who := .thread 9, tag := 5, pass := false, stop := false, cmds := [{ code := 1, addr := 0x18000000, args := [1] }], done := [] }]] })
     let d : Nat := 1; let done : Bool := false
     let r : Req := { who := .thread 9, tag := 5, pass := false, stop := false, cmds := [{ code := 1, addr := 0x18000000, args := [1] }], done := [] }
     ⟨c, d, done, r, by decide +kernel +zetaReduce⟩),
    (let c : Chip := Chip.reset.onMgmt (fun m => { m with reqs := [[], [{ who := .thread 9, tag := 5, pass := false, stop := false, cmds := [{ code := 1, addr := 0x18000000, args := [1] }], done := [(1, 0, [7])] }]] })
     let d : Nat := 1; let done : Bool := true
     let r : Req := { who := .thread 9, tag := 5, pass := false, stop := false, cmds := [{ code := 1, addr := 0x18000000, args := [1] }], done := [(1, 0, [7])] }
     ⟨c, d, done, r, by decide +kernel +zetaReduce⟩),
    (let c : Chip := (Chip.reset.setReg (dmp 0x118) 3).setReg (dmp 0x11C) 1; let slot : Nat := 2
     let n : Nat := max c.dumpSlots 1; let rd : Nat := c.reg (dmp 0x11C) % n; let wr : Nat := c.reg (dmp 0x118)
     ⟨c, slot, n, rd, wr, by decide +kernel +zetaReduce⟩),
    (let c : Chip := (Chip.reset.setReg (dmp 0x118) 3).setReg (dmp 0x11C) 1; let slot : Nat := 1
     let n : Nat := max c.dumpSlots 1; let rd : Nat := c.reg (dmp 0x11C) % n; let wr : Nat := c.reg (dmp 0x118)
     ⟨c, slot, n, rd, wr, by decide +kernel +zetaReduce⟩),
    (let c : Chip := (Chip.reset.setReg (dmp 0x118) 3).setReg (dmp 0x11C) 1; let slot : Nat := 3
     let n : Nat := max c.dumpSlots 1; let rd : Nat := c.reg (dmp 0x11C) % n; let wr : Nat := c.reg (dmp 0x118)
     ⟨c, slot, n, rd, wr, by decide +kernel +zetaReduce⟩),
    (let c : Chip := Chip.reset; let slot : Nat := 0; let n : Nat := max c.dumpSlots 1
     let rd : Nat := c.reg (dmp 0x11C) % n; let wr : Nat := c.reg (dmp 0x118)
     ⟨c, slot, n, rd, wr, by decide +kernel +zetaReduce⟩),
    (let dom : Dom := .owner; let val : Word := 5; let s : State := mkS id; ⟨dom, val, s, by decide +kernel +zetaReduce⟩),
    (let s : State := rs (fun r => { r with primOk := true, backOk := true }); ⟨s, by decide +kernel +zetaReduce⟩),
    (let dom : Dom := .owner; let s : State := rs (fun r => { r with primOk := true, backOk := true })
     ⟨dom, s, by decide +kernel +zetaReduce⟩),
    (let s : State := rs (fun r => { r with refChosen := true }); ⟨s, by decide +kernel +zetaReduce⟩),
    (let s : State := rs (fun r => { r with refChosen := true, kind := 2, cmd := true })
     ⟨s, by decide +kernel +zetaReduce⟩),
    (let s : State := (rs (fun r => { r with refsLost := true, kind := 1, c0Up := false })).onPart (fun c => c.onPower (fun p => { p with step := 6 }))
     ⟨s, by decide +kernel +zetaReduce⟩)⟩

/-- States and operands that meet the hypotheses of `Obligations.SeamStates`, clause by clause. -/
theorem witness_SeamStates :
    (∃ (k : SeamId) (s : State), s.chip.semOn (seamKey k) = true ∧ (s.chip.seam (seamKey k)).up = false) ∧
    (∃ (k : SeamId) (s : State), s.chip.semOn (seamKey k) = true ∧ (s.chip.seam (seamKey k)).up = false) ∧
    (∃ (k : SeamId) (s : State), (s.chip.seam (seamKey k)).up = true) ∧
    (∃ (k : SeamId) (s : State), s.chip.seamFaulted (seamKey k) = false ∧ (seamLinks (seamKey k)).any s.chip.worn = true) ∧
    (∃ (k : SeamId) (s : State), s.chip.seamFaulted (seamKey k) = false ∧ (seamLinks (seamKey k)).any s.chip.worn = false ∧
      s.chip.semOn (seamKey k) = true ∧ (s.chip.seam (seamKey k)).up = false) ∧
    (∃ (k : SeamId) (c : Chip) (d : Chip), d = c.seamFail (seamKey k)) ∧
    (∃ (k : SeamId) (c : Chip) (d : Chip), d = c.seamFail (seamKey k)) ∧
    (∃ (k : SeamId) (c : Chip) (d : Chip) (x : _), x ∈ semPages (seamKey k) ∧ d = c.seamFail (seamKey k)) ∧
    (∃ (k : SeamId) (c : Chip) (d : Chip) (l : _), l ∈ seamLinks (seamKey k) ∧ d = c.seamFail (seamKey k)) ∧
    (∃ (k : SeamId) (c : Chip) (d : Chip) (y : _), y ∈ d.copies ∧ d = c.seamFail (seamKey k) ∧ y.link ∈ seamLinks (seamKey
      k)) :=
  ⟨ (let k : SeamId := .press 3; let s : State := mkS (semUp 9); ⟨k, s, by decide +kernel +zetaReduce⟩),
    (let k : SeamId := .quad 0; let s : State := mkS (semUp 0); ⟨k, s, by decide +kernel +zetaReduce⟩),
    (let k : SeamId := .quad 5; let s : State := mkS (fun c => c.onSeam 5 (fun x => { x with up := true }))
     ⟨k, s, by decide +kernel +zetaReduce⟩),
    (let k : SeamId := .quad 0
     let s : State := mkS (fun c => c.onLink 1024 (fun l => { l with replay := [{ fseq := 0, resends := 16, sentAt := 0, stitches := [] }] }))
     ⟨k, s, by decide +kernel +zetaReduce⟩),
    (let k : SeamId := .press 0; let s : State := mkS (semUp 6); ⟨k, s, by decide +kernel +zetaReduce⟩),
    (let k : SeamId := .quad 5; let c : Chip := (semUp 5 Chip.reset).onSeam 5 (fun x => { x with up := true })
     let d : Chip := c.seamFail (seamKey k); ⟨k, c, d, by decide +kernel +zetaReduce⟩),
    (let k : SeamId := .press 3; let c : Chip := semUp 9 Chip.reset; let d : Chip := c.seamFail (seamKey k)
     ⟨k, c, d, by decide +kernel +zetaReduce⟩),
    (let k : SeamId := .quad 0; let c : Chip := semUp 0 Chip.reset; let x := (semPages 0).headD (0, 0)
     let d : Chip := c.seamFail (seamKey k); ⟨k, c, d, x, by decide +kernel +zetaReduce⟩),
    (let k : SeamId := .press 3
     let c : Chip := Chip.reset.onLink 1039 (fun l => { l with replay := [{ fseq := 0, resends := 16, sentAt := 0, stitches := [] }] })
     let l := 1039; let d : Chip := c.seamFail (seamKey k); ⟨k, c, d, l, by decide +kernel +zetaReduce⟩),
    (let k : SeamId := .quad 0
     let c : Chip := (queued 1024 5 (.port 0) Chip.reset).onCopy 1 (fun x => { x with headSent := true, got := 64 })
     let y := (c.seamFail (seamKey k)).copies.headD (cp 1024 5 (.port 0)); let d : Chip := c.seamFail (seamKey k)
     ⟨k, c, d, y, by decide +kernel +zetaReduce⟩)⟩

/-- States and operands that meet the hypotheses of `Obligations.LaneRegisterWrites`, clause by clause. -/
theorem witness_LaneRegisterWrites :
    (∃ (dom : Dom) (e : Fin 16) (val : Word) (s : State), MayWrite s.chip dom (8 + e.val) 0x40 0x100 val.toNat ∧ val.toNat <
      2 ^ 16) ∧
    (∃ (dom : Dom) (e : Fin 16) (val : Word) (s : State), MayWrite s.chip dom (8 + e.val) 0x40 0x100 val.toNat ∧ val.toNat <
      2 ^ 16) ∧
    (∃ (dom : Dom) (q : Fin 4) (d : Fin 16) (val : Word) (old : Nat) (ch : List Nat) (s : State), MayWrite s.chip dom q.val
      (0x10 + d.val) 0x100 val.toNat ∧ val.toNat < 2 ^ 12 ∧ (∀ k < 4, fld val.toNat (3 * k + 2) (3 * k) < 6) ∧ old =
      s.chip.reg (regAddr q.val (0x10 + d.val) 0x100) ∧ ch = (List.range 4).filter (fun k => fld old (3 * k + 2) (3 * k) !=
      fld val.toNat (3 * k + 2) (3 * k)) ∧ (∀ k ∈ ch, s.chip.pairQuiesced (pairPort q.val d.val k) (fld old (3 * k + 2) (3 *
      k)) = true ∧ s.chip.pairQuiesced (pairPort q.val d.val k) (fld val.toNat (3 * k + 2) (3 * k)) = true)) ∧
    (∃ (dom : Dom) (q : Fin 4) (d : Fin 16) (val : Word) (old : Nat) (ch : List Nat) (s : State), MayWrite s.chip dom q.val
      (0x10 + d.val) 0x100 val.toNat ∧ val.toNat < 2 ^ 12 ∧ (∀ k < 4, fld val.toNat (3 * k + 2) (3 * k) < 6) ∧ old =
      s.chip.reg (regAddr q.val (0x10 + d.val) 0x100) ∧ ch = (List.range 4).filter (fun k => fld old (3 * k + 2) (3 * k) !=
      fld val.toNat (3 * k + 2) (3 * k)) ∧ (∀ k ∈ ch, s.chip.pairQuiesced (pairPort q.val d.val k) (fld old (3 * k + 2) (3 *
      k)) = true ∧ s.chip.pairQuiesced (pairPort q.val d.val k) (fld val.toNat (3 * k + 2) (3 * k)) = true)) ∧
    (∃ (dom : Dom) (q : Fin 4) (d : Fin 16) (val : Word) (old : Nat) (ch : List Nat) (s : State) (k : _), k ∈ ch ∧ MayWrite
      s.chip dom q.val (0x10 + d.val) 0x100 val.toNat ∧ val.toNat < 2 ^ 12 ∧ (∀ k < 4, fld val.toNat (3 * k + 2) (3 * k) <
      6) ∧ old = s.chip.reg (regAddr q.val (0x10 + d.val) 0x100) ∧ ch = (List.range 4).filter (fun k => fld old (3 * k + 2)
      (3 * k) != fld val.toNat (3 * k + 2) (3 * k)) ∧ (s.chip.pairQuiesced (pairPort q.val d.val k) (fld old (3 * k + 2) (3
      * k)) = false ∨ s.chip.pairQuiesced (pairPort q.val d.val k) (fld val.toNat (3 * k + 2) (3 * k)) = false)) ∧
    (∃ (dom : Dom) (q : Fin 4) (d : Fin 16) (val : Word) (k : Fin 4) (s : State), MayWrite s.chip dom q.val (0x10 + d.val)
      0x100 val.toNat ∧ val.toNat < 2 ^ 12 ∧ 6 ≤ fld val.toNat (3 * k.val + 2) (3 * k.val)) ∧
    (∃ (dom : Dom) (q : Fin 4) (d : Fin 16) (val : Word) (k : Fin 4) (s : State), MayWrite s.chip dom q.val (0x10 + d.val)
      0x100 val.toNat ∧ val.toNat < 2 ^ 12 ∧ 6 ≤ fld val.toNat (3 * k.val + 2) (3 * k.val)) ∧
    (∃ (dom : Dom) (q : Fin 4) (d : Fin 16) (val : Word) (old : Nat) (on : List Nat) (off : List Nat) (s : State), MayWrite
      s.chip dom q.val (0x10 + d.val) 0x104 val.toNat ∧ val.toNat < 2 ^ 8 ∧ old = s.chip.reg (regAddr q.val (0x10 + d.val)
      0x104) ∧ on = (List.range 4).filter (fun k => fld val.toNat (2 * k + 1) (2 * k) != 0 && fld val.toNat (2 * k + 1) (2 *
      k) != fld old (2 * k + 1) (2 * k)) ∧ off = (List.range 4).filter (fun k => fld val.toNat (2 * k + 1) (2 * k) == 0 &&
      fld old (2 * k + 1) (2 * k) != 0) ∧ (∀ k ∈ on, s.chip.pairQuiesced (pairPort q.val d.val k) (s.chip.layoutCode
      (pairPort q.val d.val k)) = true)) ∧
    (∃ (dom : Dom) (q : Fin 4) (d : Fin 16) (val : Word) (old : Nat) (on : List Nat) (off : List Nat) (s : State), MayWrite
      s.chip dom q.val (0x10 + d.val) 0x104 val.toNat ∧ val.toNat < 2 ^ 8 ∧ old = s.chip.reg (regAddr q.val (0x10 + d.val)
      0x104) ∧ on = (List.range 4).filter (fun k => fld val.toNat (2 * k + 1) (2 * k) != 0 && fld val.toNat (2 * k + 1) (2 *
      k) != fld old (2 * k + 1) (2 * k)) ∧ off = (List.range 4).filter (fun k => fld val.toNat (2 * k + 1) (2 * k) == 0 &&
      fld old (2 * k + 1) (2 * k) != 0) ∧ (∀ k ∈ on, s.chip.pairQuiesced (pairPort q.val d.val k) (s.chip.layoutCode
      (pairPort q.val d.val k)) = true)) ∧
    (∃ (dom : Dom) (q : Fin 4) (d : Fin 16) (val : Word) (old : Nat) (on : List Nat) (off : List Nat) (s : State) (k : _), k
      ∈ on ∧ MayWrite s.chip dom q.val (0x10 + d.val) 0x104 val.toNat ∧ val.toNat < 2 ^ 8 ∧ old = s.chip.reg (regAddr q.val
      (0x10 + d.val) 0x104) ∧ on = (List.range 4).filter (fun k => fld val.toNat (2 * k + 1) (2 * k) != 0 && fld val.toNat
      (2 * k + 1) (2 * k) != fld old (2 * k + 1) (2 * k)) ∧ off = (List.range 4).filter (fun k => fld val.toNat (2 * k + 1)
      (2 * k) == 0 && fld old (2 * k + 1) (2 * k) != 0) ∧ s.chip.pairQuiesced (pairPort q.val d.val k) (s.chip.layoutCode
      (pairPort q.val d.val k)) = false) ∧
    (∃ (dom : Dom) (q : Fin 4) (d : Fin 16) (val : Word) (on : List Nat) (s : State), MayWrite s.chip dom q.val (0x10 +
      d.val) 0x134 val.toNat ∧ on = (List.range 4).filter (fun k => (List.range 8).any (fun i => bit val.toNat (8 * k + i)
      && !bit (s.chip.reg (regAddr q.val (0x10 + d.val) 0x134)) (8 * k + i))) ∧ (∀ k ∈ on, s.chip.pairQuiesced (pairPort
      q.val d.val k) (s.chip.layoutCode (pairPort q.val d.val k)) = true ∧ s.chip.loopback (pairPort q.val d.val k) ≠ 2)) ∧
    (∃ (dom : Dom) (q : Fin 4) (d : Fin 16) (val : Word) (on : List Nat) (s : State), MayWrite s.chip dom q.val (0x10 +
      d.val) 0x134 val.toNat ∧ on = (List.range 4).filter (fun k => (List.range 8).any (fun i => bit val.toNat (8 * k + i)
      && !bit (s.chip.reg (regAddr q.val (0x10 + d.val) 0x134)) (8 * k + i))) ∧ (∀ k ∈ on, s.chip.pairQuiesced (pairPort
      q.val d.val k) (s.chip.layoutCode (pairPort q.val d.val k)) = true ∧ s.chip.loopback (pairPort q.val d.val k) ≠ 2)) ∧
    (∃ (dom : Dom) (q : Fin 4) (d : Fin 16) (val : Word) (on : List Nat) (s : State) (k : _), k ∈ on ∧ MayWrite s.chip dom
      q.val (0x10 + d.val) 0x134 val.toNat ∧ on = (List.range 4).filter (fun k => (List.range 8).any (fun i => bit val.toNat
      (8 * k + i) && !bit (s.chip.reg (regAddr q.val (0x10 + d.val) 0x134)) (8 * k + i))) ∧ (s.chip.pairQuiesced (pairPort
      q.val d.val k) (s.chip.layoutCode (pairPort q.val d.val k)) = false ∨ s.chip.loopback (pairPort q.val d.val k) = 2)) ∧
    (∃ (dom : Dom) (q : Fin 4) (d : Fin 16) (val : Word) (on : List Nat) (s : State) (k : _), k ∈ on ∧ MayWrite s.chip dom
      q.val (0x10 + d.val) 0x134 val.toNat ∧ on = (List.range 4).filter (fun k => (List.range 8).any (fun i => bit val.toNat
      (8 * k + i) && !bit (s.chip.reg (regAddr q.val (0x10 + d.val) 0x134)) (8 * k + i))) ∧ (s.chip.pairQuiesced (pairPort
      q.val d.val k) (s.chip.layoutCode (pairPort q.val d.val k)) = false ∨ s.chip.loopback (pairPort q.val d.val k) = 2)) ∧
    (∃ (dom : Dom) (q : Fin 4) (d : Fin 16) (val : Word) (on : List Nat) (lock : Nat) (s : State), MayWrite s.chip dom q.val
      (0x10 + d.val) 0x138 val.toNat ∧ lock = s.chip.reg (regAddr q.val (0x10 + d.val) 0x13C) ∧ on = (List.range 4).filter
      (fun k => (List.range 8).any (fun i => bit val.toNat (8 * k + i) && !bit (s.chip.reg (regAddr q.val (0x10 + d.val)
      0x138)) (8 * k + i))) ∧ (∀ k ∈ on, s.chip.pairQuiesced (pairPort q.val d.val k) (s.chip.layoutCode (pairPort q.val
      d.val k)) = true ∧ s.chip.loopback (pairPort q.val d.val k) ≠ 2) ∧ lock &&& val.toNat = lock) ∧
    (∃ (dom : Dom) (q : Fin 4) (d : Fin 16) (val : Word) (on : List Nat) (lock : Nat) (s : State), MayWrite s.chip dom q.val
      (0x10 + d.val) 0x138 val.toNat ∧ lock = s.chip.reg (regAddr q.val (0x10 + d.val) 0x13C) ∧ on = (List.range 4).filter
      (fun k => (List.range 8).any (fun i => bit val.toNat (8 * k + i) && !bit (s.chip.reg (regAddr q.val (0x10 + d.val)
      0x138)) (8 * k + i))) ∧ (∀ k ∈ on, s.chip.pairQuiesced (pairPort q.val d.val k) (s.chip.layoutCode (pairPort q.val
      d.val k)) = true ∧ s.chip.loopback (pairPort q.val d.val k) ≠ 2) ∧ lock &&& val.toNat ≠ lock) ∧
    (∃ (dom : Dom) (q : Fin 4) (d : Fin 16) (s : State), MayWrite s.chip dom q.val (0x10 + d.val) 0x130 (s.chip.reg (regAddr
      q.val (0x10 + d.val) 0x130) ||| 0x10) ∧ s.chip.isOn q.val (0x10 + d.val) = true ∧ s.chip.reg (regAddr q.val (0x10 +
      d.val) 0x130) < 16) ∧
    (∃ (dom : Dom) (q : Fin 4) (d : Fin 16) (val : Word) (lost : Nat) (s : State), MayWrite s.chip dom q.val (0x10 + d.val)
      0x130 val.toNat ∧ val.toNat < 16 ∧ (∀ i < 32, bit lost i = (bit (s.chip.reg (regAddr q.val (0x10 + d.val) 0x13C)) i &&
      bit val.toNat (i / 8) != bit (s.chip.reg (regAddr q.val (0x10 + d.val) 0x130)) (i / 8))) ∧ lost < 2 ^ 32 ∧ lost = 0) ∧
    (∃ (dom : Dom) (q : Fin 4) (d : Fin 16) (val : Word) (lost : Nat) (s : State), MayWrite s.chip dom q.val (0x10 + d.val)
      0x130 val.toNat ∧ val.toNat < 16 ∧ (∀ i < 32, bit lost i = (bit (s.chip.reg (regAddr q.val (0x10 + d.val) 0x13C)) i &&
      bit val.toNat (i / 8) != bit (s.chip.reg (regAddr q.val (0x10 + d.val) 0x130)) (i / 8))) ∧ lost < 2 ^ 32 ∧ lost ≠ 0) ∧
    (∃ (dom : Dom) (q : Fin 4) (d : Fin 16) (val : Word) (lost : Nat) (s : State), MayWrite s.chip dom q.val (0x10 + d.val)
      0x130 val.toNat ∧ val.toNat < 16 ∧ (∀ i < 32, bit lost i = (bit (s.chip.reg (regAddr q.val (0x10 + d.val) 0x13C)) i &&
      bit val.toNat (i / 8) != bit (s.chip.reg (regAddr q.val (0x10 + d.val) 0x130)) (i / 8))) ∧ lost < 2 ^ 32 ∧ lost ≠ 0) ∧
    (∃ (dom : Dom) (e : Fin 16) (val : Word) (ws : List Nat) (c : Chip) (s : State), MayWrite s.chip dom (8 + e.val) 0x40
      0x10C val.toNat ∧ val.toNat < 2 ^ 8 ∧ (spareGives val.toNat 0 = none ∨ spareGives val.toNat 0 ≠ spareGives val.toNat
      1) ∧ ws = (((List.range 2).filter (fun sp => spareGives (s.chip.reg (oen e.val 0x10C)) sp != spareGives val.toNat
      sp)).flatMap (fun sp => (spareGives (s.chip.reg (oen e.val 0x10C)) sp).toList ++ (spareGives val.toNat
      sp).toList)).eraseDups ∧ c = ((s.chip.setReg (oen e.val 0x10C) val.toNat).setDarkW e.val (ws.foldl (fun m w => setBit
      m w true) (s.chip.darkW e.val))).each (if ws.isEmpty then [] else enginePorts e.val) (fun c p => c.laneLoss p)) ∧
    (∃ (dom : Dom) (e : Fin 16) (val : Word) (ws : List Nat) (c : Chip) (s : State), MayWrite s.chip dom (8 + e.val) 0x40
      0x10C val.toNat ∧ val.toNat < 2 ^ 8 ∧ (spareGives val.toNat 0 = none ∨ spareGives val.toNat 0 ≠ spareGives val.toNat
      1) ∧ ws = (((List.range 2).filter (fun sp => spareGives (s.chip.reg (oen e.val 0x10C)) sp != spareGives val.toNat
      sp)).flatMap (fun sp => (spareGives (s.chip.reg (oen e.val 0x10C)) sp).toList ++ (spareGives val.toNat
      sp).toList)).eraseDups ∧ c = ((s.chip.setReg (oen e.val 0x10C) val.toNat).setDarkW e.val (ws.foldl (fun m w => setBit
      m w true) (s.chip.darkW e.val))).each (if ws.isEmpty then [] else enginePorts e.val) (fun c p => c.laneLoss p)) ∧
    (∃ (dom : Dom) (e : Fin 16) (val : Word) (ws : List Nat) (c : Chip) (s : State), MayWrite s.chip dom (8 + e.val) 0x40
      0x10C val.toNat ∧ val.toNat < 2 ^ 8 ∧ (spareGives val.toNat 0 = none ∨ spareGives val.toNat 0 ≠ spareGives val.toNat
      1) ∧ ws = (((List.range 2).filter (fun sp => spareGives (s.chip.reg (oen e.val 0x10C)) sp != spareGives val.toNat
      sp)).flatMap (fun sp => (spareGives (s.chip.reg (oen e.val 0x10C)) sp).toList ++ (spareGives val.toNat
      sp).toList)).eraseDups ∧ c = ((s.chip.setReg (oen e.val 0x10C) val.toNat).setDarkW e.val (ws.foldl (fun m w => setBit
      m w true) (s.chip.darkW e.val))).each (if ws.isEmpty then [] else enginePorts e.val) (fun c p => c.laneLoss p)) ∧
    (∃ (dom : Dom) (e : Fin 16) (val : Word) (s : State), MayWrite s.chip dom (8 + e.val) 0x40 0x10C val.toNat ∧ val.toNat <
      2 ^ 8 ∧ spareGives val.toNat 0 ≠ none ∧ spareGives val.toNat 0 = spareGives val.toNat 1) :=
  ⟨ (let dom : Dom := .owner; let e : Fin 16 := 15; let val : Word := 0xFFFF; let s : State := mkS (onPg 23 0x40)
     ⟨dom, e, val, s, by decide +kernel +zetaReduce⟩),
    (let dom : Dom := .owner; let e : Fin 16 := 0; let val : Word := 0; let s : State := pt 0 .active
     ⟨dom, e, val, s, by decide +kernel +zetaReduce⟩),
    (let dom : Dom := .owner; let q : Fin 4 := 3; let d : Fin 16 := 15; let val : Word := 0x6DB; let s : State := mkS id
     let old : Nat := s.chip.reg (regAddr q.val (0x10 + d.val) 0x100)
     let ch : List Nat := (List.range 4).filter (fun k => fld old (3 * k + 2) (3 * k) != fld val.toNat (3 * k + 2) (3 * k))
     ⟨dom, q, d, val, old, ch, s, by decide +kernel +zetaReduce⟩),
    (let dom : Dom := .owner; let q : Fin 4 := 3; let d : Fin 16 := 15; let val : Word := 0x924
     let s : State := mkS (fun c => c.setReg (regAddr 3 0x1F 0x100) 0x924)
     let old : Nat := s.chip.reg (regAddr q.val (0x10 + d.val) 0x100)
     let ch : List Nat := (List.range 4).filter (fun k => fld old (3 * k + 2) (3 * k) != fld val.toNat (3 * k + 2) (3 * k))
     ⟨dom, q, d, val, old, ch, s, by decide +kernel +zetaReduce⟩),
    (let dom : Dom := .owner; let q : Fin 4 := 0; let d : Fin 16 := 0; let val : Word := 1; let k := 0
     let s : State := pt 0 .active; let old : Nat := s.chip.reg (regAddr q.val (0x10 + d.val) 0x100)
     let ch : List Nat := (List.range 4).filter (fun k => fld old (3 * k + 2) (3 * k) != fld val.toNat (3 * k + 2) (3 * k))
     ⟨dom, q, d, val, old, ch, s, k, by decide +kernel +zetaReduce⟩),
    (let dom : Dom := .owner; let q : Fin 4 := 3; let d : Fin 16 := 15; let val : Word := 6; let k : Fin 4 := 0
     let s : State := mkS id; ⟨dom, q, d, val, k, s, by decide +kernel +zetaReduce⟩),
    (let dom : Dom := .owner; let q : Fin 4 := 3; let d : Fin 16 := 15; let val : Word := 0xE00; let k : Fin 4 := 3
     let s : State := mkS id; ⟨dom, q, d, val, k, s, by decide +kernel +zetaReduce⟩),
    (let dom : Dom := .owner; let q : Fin 4 := 3; let d : Fin 16 := 15; let val : Word := 0x1B
     let s : State := mkS (fun c => c.setReg (regAddr 3 0x1F 0x104) 0x40)
     let old : Nat := s.chip.reg (regAddr q.val (0x10 + d.val) 0x104)
     let on : List Nat := (List.range 4).filter (fun k => fld val.toNat (2 * k + 1) (2 * k) != 0 && fld val.toNat (2 * k + 1) (2 * k) != fld old (2 * k + 1) (2 * k))
     let off : List Nat := (List.range 4).filter (fun k => fld val.toNat (2 * k + 1) (2 * k) == 0 && fld old (2 * k + 1) (2 * k) != 0)
     ⟨dom, q, d, val, old, on, off, s, by decide +kernel +zetaReduce⟩),
    (let dom : Dom := .owner; let q : Fin 4 := 3; let d : Fin 16 := 15; let val : Word := 0; let s : State := mkS id
     let old : Nat := s.chip.reg (regAddr q.val (0x10 + d.val) 0x104)
     let on : List Nat := (List.range 4).filter (fun k => fld val.toNat (2 * k + 1) (2 * k) != 0 && fld val.toNat (2 * k + 1) (2 * k) != fld old (2 * k + 1) (2 * k))
     let off : List Nat := (List.range 4).filter (fun k => fld val.toNat (2 * k + 1) (2 * k) == 0 && fld old (2 * k + 1) (2 * k) != 0)
     ⟨dom, q, d, val, old, on, off, s, by decide +kernel +zetaReduce⟩),
    (let dom : Dom := .owner; let q : Fin 4 := 0; let d : Fin 16 := 0; let val : Word := 1; let k := 0
     let s : State := pt 0 .active; let old : Nat := s.chip.reg (regAddr q.val (0x10 + d.val) 0x104)
     let on : List Nat := (List.range 4).filter (fun k => fld val.toNat (2 * k + 1) (2 * k) != 0 && fld val.toNat (2 * k + 1) (2 * k) != fld old (2 * k + 1) (2 * k))
     let off : List Nat := (List.range 4).filter (fun k => fld val.toNat (2 * k + 1) (2 * k) == 0 && fld old (2 * k + 1) (2 * k) != 0)
     ⟨dom, q, d, val, old, on, off, s, k, by decide +kernel +zetaReduce⟩),
    (let dom : Dom := .owner; let q : Fin 4 := 3; let d : Fin 16 := 15; let val : Word := 0xFFFFFFFF
     let s : State := mkS id
     let on : List Nat := (List.range 4).filter (fun k => (List.range 8).any (fun i => bit val.toNat (8 * k + i) && !bit (s.chip.reg (regAddr q.val (0x10 + d.val) 0x134)) (8 * k + i)))
     ⟨dom, q, d, val, on, s, by decide +kernel +zetaReduce⟩),
    (let dom : Dom := .owner; let q : Fin 4 := 3; let d : Fin 16 := 15; let val : Word := 0
     let s : State := mkS (fun c => c.setReg (regAddr 3 0x1F 0x134) 0xFF)
     let on : List Nat := (List.range 4).filter (fun k => (List.range 8).any (fun i => bit val.toNat (8 * k + i) && !bit (s.chip.reg (regAddr q.val (0x10 + d.val) 0x134)) (8 * k + i)))
     ⟨dom, q, d, val, on, s, by decide +kernel +zetaReduce⟩),
    (let dom : Dom := .owner; let q : Fin 4 := 0; let d : Fin 16 := 0; let val : Word := 1; let k := 0
     let s : State := pt 0 .active
     let on : List Nat := (List.range 4).filter (fun k => (List.range 8).any (fun i => bit val.toNat (8 * k + i) && !bit (s.chip.reg (regAddr q.val (0x10 + d.val) 0x134)) (8 * k + i)))
     ⟨dom, q, d, val, on, s, k, by decide +kernel +zetaReduce⟩),
    (let dom : Dom := .owner; let q : Fin 4 := 0; let d : Fin 16 := 0; let val : Word := 0x80; let k := 0
     let s : State := mkS (fun c => c.setReg (regAddr 0 0x10 0x104) 2)
     let on : List Nat := (List.range 4).filter (fun k => (List.range 8).any (fun i => bit val.toNat (8 * k + i) && !bit (s.chip.reg (regAddr q.val (0x10 + d.val) 0x134)) (8 * k + i)))
     ⟨dom, q, d, val, on, s, k, by decide +kernel +zetaReduce⟩),
    (let dom : Dom := .owner; let q : Fin 4 := 3; let d : Fin 16 := 15; let val : Word := 0xFF; let s : State := mkS id
     let lock : Nat := s.chip.reg (regAddr q.val (0x10 + d.val) 0x13C)
     let on : List Nat := (List.range 4).filter (fun k => (List.range 8).any (fun i => bit val.toNat (8 * k + i) && !bit (s.chip.reg (regAddr q.val (0x10 + d.val) 0x138)) (8 * k + i)))
     ⟨dom, q, d, val, on, lock, s, by decide +kernel +zetaReduce⟩),
    (let dom : Dom := .owner; let q : Fin 4 := 3; let d : Fin 16 := 15; let val : Word := 0xFF
     let s : State := mkS (fun c => c.setReg (regAddr 3 0x1F 0x13C) 0xFFF)
     let lock : Nat := s.chip.reg (regAddr q.val (0x10 + d.val) 0x13C)
     let on : List Nat := (List.range 4).filter (fun k => (List.range 8).any (fun i => bit val.toNat (8 * k + i) && !bit (s.chip.reg (regAddr q.val (0x10 + d.val) 0x138)) (8 * k + i)))
     ⟨dom, q, d, val, on, lock, s, by decide +kernel +zetaReduce⟩),
    (let dom : Dom := .owner; let q : Fin 4 := 3; let d : Fin 16 := 15
     let s : State := mkS (fun c => (onPg 3 0x1F c).setReg (regAddr 3 0x1F 0x140) 5)
     ⟨dom, q, d, s, by decide +kernel +zetaReduce⟩),
    (let dom : Dom := .owner; let q : Fin 4 := 3; let d : Fin 16 := 15; let val : Word := 3; let lost : Nat := 0
     let s : State := mkS id; ⟨dom, q, d, val, lost, s, by decide +kernel +zetaReduce⟩),
    (let dom : Dom := .owner; let q : Fin 4 := 3; let d : Fin 16 := 15; let val : Word := 1; let lost : Nat := 0xFF
     let s : State := mkS (fun c => c.setReg (regAddr 3 0x1F 0x13C) 0xFFF)
     ⟨dom, q, d, val, lost, s, by decide +kernel +zetaReduce⟩),
    (let dom : Dom := .owner; let q : Fin 4 := 3; let d : Fin 16 := 15; let val : Word := 8; let lost : Nat := 0xFF000000
     let s : State := mkS (fun c => c.setReg (regAddr 3 0x1F 0x13C) 0xFF000000)
     ⟨dom, q, d, val, lost, s, by decide +kernel +zetaReduce⟩),
    (let dom : Dom := .owner; let e : Fin 16 := 15; let val : Word := 0xF8; let s : State := mkS id
     let ws : List Nat := (((List.range 2).filter (fun sp => spareGives (s.chip.reg (oen e.val 0x10C)) sp != spareGives val.toNat sp)).flatMap (fun sp => (spareGives (s.chip.reg (oen e.val 0x10C)) sp).toList ++ (spareGives val.toNat sp).toList)).eraseDups
     let c : Chip := ((s.chip.setReg (oen e.val 0x10C) val.toNat).setDarkW e.val (ws.foldl (fun m w => setBit m w true) (s.chip.darkW e.val))).each (if ws.isEmpty then [] else enginePorts e.val) (fun c p => c.laneLoss p)
     ⟨dom, e, val, ws, c, s, by decide +kernel +zetaReduce⟩),
    (let dom : Dom := .owner; let e : Fin 16 := 0; let val : Word := 0
     let s : State := (pt 0 .active).onPart (fun c => c.setReg (oen 0 0x10C) 0x0F)
     let ws : List Nat := (((List.range 2).filter (fun sp => spareGives (s.chip.reg (oen e.val 0x10C)) sp != spareGives val.toNat sp)).flatMap (fun sp => (spareGives (s.chip.reg (oen e.val 0x10C)) sp).toList ++ (spareGives val.toNat sp).toList)).eraseDups
     let c : Chip := ((s.chip.setReg (oen e.val 0x10C) val.toNat).setDarkW e.val (ws.foldl (fun m w => setBit m w true) (s.chip.darkW e.val))).each (if ws.isEmpty then [] else enginePorts e.val) (fun c p => c.laneLoss p)
     ⟨dom, e, val, ws, c, s, by decide +kernel +zetaReduce⟩),
    (let dom : Dom := .owner; let e : Fin 16 := 0; let val : Word := 0xF
     let s : State := (pt 0 .active).onPart (fun c => c.setReg (oen 0 0x10C) 0x0F)
     let ws : List Nat := (((List.range 2).filter (fun sp => spareGives (s.chip.reg (oen e.val 0x10C)) sp != spareGives val.toNat sp)).flatMap (fun sp => (spareGives (s.chip.reg (oen e.val 0x10C)) sp).toList ++ (spareGives val.toNat sp).toList)).eraseDups
     let c : Chip := ((s.chip.setReg (oen e.val 0x10C) val.toNat).setDarkW e.val (ws.foldl (fun m w => setBit m w true) (s.chip.darkW e.val))).each (if ws.isEmpty then [] else enginePorts e.val) (fun c p => c.laneLoss p)
     ⟨dom, e, val, ws, c, s, by decide +kernel +zetaReduce⟩),
    (let dom : Dom := .owner; let e : Fin 16 := 15; let val : Word := 0x99; let s : State := mkS id
     ⟨dom, e, val, s, by decide +kernel +zetaReduce⟩)⟩

/-- States and operands that meet the hypotheses of `Obligations.LossOfLightAndDarning`, clause by clause. -/
theorem witness_LossOfLightAndDarning :
    (∃ (lane : Fin 2048) (c : Chip) (d : Chip) (s : State), c = s.chip.setFpBits (lane.val / 8 * 4) 0x108 (2 ^ (lane.val %
      8)) true ∧ d = c.pmcEdge (8 + lane.val / 128) 0 0x9001 (s.chip.losPairs (lane.val / 128)) (c.losPairs (lane.val /
      128)) ∧ s.chip.lanePort lane.val = none) ∧
    (∃ (lane : Fin 2048) (c : Chip) (d : Chip) (s : State) (p : _), c = s.chip.setFpBits (lane.val / 8 * 4) 0x108 (2 ^
      (lane.val % 8)) true ∧ d = c.pmcEdge (8 + lane.val / 128) 0 0x9001 (s.chip.losPairs (lane.val / 128)) (c.losPairs
      (lane.val / 128)) ∧ s.chip.lanePort lane.val = some p) ∧
    (∃ (p : Nat) (c : Chip), (c.port p).st.framed = true ∧ c.dark p = true) ∧
    (∃ (p : Nat) (c : Chip), (c.port p).st = .training ∧ c.dark p = true) ∧
    (∃ (p : Nat) (c : Chip), (c.port p).st.framed = false ∧ (c.port p).st ≠ .training) ∧
    (∃ (p : Nat) (c : Chip), (c.port p).st.framed = false ∧ (c.port p).st ≠ .training) ∧
    (∃ (p : Nat) (m : Nat) (c : Chip) (d : Chip), (c.port p).st.framed = true ∧ c.dark p = false ∧ (c.port p).lanes &&&
      c.working p ≠ (c.port p).lanes ∧ (c.widest p (c.working p)).1 = some m ∧ d = c.laneLoss p) ∧
    (∃ (p : Nat) (m : Nat) (c : Chip) (d : Chip), (c.port p).st.framed = true ∧ c.dark p = false ∧ (c.port p).lanes &&&
      c.working p ≠ (c.port p).lanes ∧ (c.widest p (c.working p)).1 = some m ∧ d = c.laneLoss p) ∧
    (∃ (p : Nat) (c : Chip), (c.port p).st.framed = true ∧ c.dark p = false ∧ (c.port p).lanes &&& c.working p ≠ (c.port
      p).lanes ∧ (c.widest p (c.working p)).1 = none) ∧
    (∃ (p : Nat) (mask : Nat) (m : Nat) (c : Chip), (c.widest p mask).1 = some m) ∧
    (∃ (p : Nat) (mask : Nat) (m : Nat) (c : Chip), (c.widest p mask).1 = some m) ∧
    (∃ (p : Nat) (mask : Nat) (m : Nat) (c : Chip) (w : _) (m' : _), w ∈ [2, 4, 8] ∧ m' ∈ c.alignedSets p w ∧ (c.widest p
      mask).1 = some m ∧ m' &&& mask = m') ∧
    (∃ (p : Nat) (w : Nat) (o : Fin 8) (c : Chip), o.val % w = 0 ∧ put (ones w) o.val &&& c.fullLanes p = put (ones w)
      o.val) ∧
    (∃ (p : Nat) (w : Nat) (m : Nat) (c : Chip), m ∈ c.alignedSets p w) ∧
    (∃ (lane : Fin 2048) (c : Chip) (d : Chip) (s : State), c = s.chip.setFpBits (lane.val / 8 * 4) 0x108 (2 ^ (lane.val %
      8)) false ∧ d = c.pmcEdge (8 + lane.val / 128) 0 0x9001 (s.chip.losPairs (lane.val / 128)) (c.losPairs (lane.val /
      128)) ∧ s.chip.lanePort lane.val = none) ∧
    (∃ (lane : Fin 2048) (c : Chip) (d : Chip) (s : State) (p : _), c = s.chip.setFpBits (lane.val / 8 * 4) 0x108 (2 ^
      (lane.val % 8)) false ∧ d = c.pmcEdge (8 + lane.val / 128) 0 0x9001 (s.chip.losPairs (lane.val / 128)) (c.losPairs
      (lane.val / 128)) ∧ s.chip.lanePort lane.val = some p) ∧
    (∃ (lane : Fin 2048) (c : Chip) (d : Chip) (s : State) (p : _), c = s.chip.setFpBits (lane.val / 8 * 4) 0x108 (2 ^
      (lane.val % 8)) false ∧ d = c.pmcEdge (8 + lane.val / 128) 0 0x9001 (s.chip.losPairs (lane.val / 128)) (c.losPairs
      (lane.val / 128)) ∧ s.chip.lanePort lane.val = some p) ∧
    (∃ (e : Fin 16) (src : Fin 10) (s : State), s.chip.serves e.val src.val = none) ∧
    (∃ (e : Fin 16) (src : Fin 10) (s : State), s.chip.serves e.val src.val = none) ∧
    (∃ (e : Fin 16) (src : Fin 10) (w : Nat) (c : Chip) (d : Chip) (s : State), s.chip.serves e.val src.val = some w ∧ c =
      { s.chip with engBad := SMap.set s.chip.engBad e.val (setBit (SMap.getD s.chip.engBad e.val 0) src.val true) } ∧ d =
      (((c.setReg (oen e.val 0x108) (setBit (setBit (c.reg (oen e.val 0x108)) src.val false) (16 + src.val) true)).raise
      (oen e.val 0) 1).pmc (8 + e.val) 0 0x9002 (some src.val) none).setDarkW e.val (setBit (s.chip.darkW e.val) w true)) ∧
    (∃ (e : Fin 16) (src : Fin 10) (w : Nat) (c : Chip) (d : Chip) (s : State), s.chip.serves e.val src.val = some w ∧ c =
      { s.chip with engBad := SMap.set s.chip.engBad e.val (setBit (SMap.getD s.chip.engBad e.val 0) src.val true) } ∧ d =
      (((c.setReg (oen e.val 0x108) (setBit (setBit (c.reg (oen e.val 0x108)) src.val false) (16 + src.val) true)).raise
      (oen e.val 0) 1).pmc (8 + e.val) 0 0x9002 (some src.val) none).setDarkW e.val (setBit (s.chip.darkW e.val) w true)) ∧
    (∃ (e : Fin 16) (w : Fin 8) (m : Nat) (sp : Nat) (s : State), m = s.chip.reg (oen e.val 0x10C) ∧ (sp = 0 ∧ bit m 3 =
      false ∧ bit (SMap.getD s.chip.engBad e.val 0) 8 = false) ∨ (sp = 1 ∧ bit m 7 = false ∧ bit (SMap.getD s.chip.engBad
      e.val 0) 9 = false ∧ (bit m 3 = true ∨ bit (SMap.getD s.chip.engBad e.val 0) 8 = true)) ∧ s.chip.serves e.val 8 ≠ some
      w.val ∧ s.chip.serves e.val 9 ≠ some w.val ∧ s.chip.regBit (oen e.val 0x110) 0 = true ∧ s.chip.policy 1 = true ∧ bit
      (s.chip.darkW e.val) w.val = true ∧ s.chip.isOn (8 + e.val) 0x40 = true) ∧
    (∃ (e : Fin 16) (w : Fin 8) (m : Nat) (sp : Nat) (s : State), m = s.chip.reg (oen e.val 0x10C) ∧ (sp = 0 ∧ bit m 3 =
      false ∧ bit (SMap.getD s.chip.engBad e.val 0) 8 = false) ∨ (sp = 1 ∧ bit m 7 = false ∧ bit (SMap.getD s.chip.engBad
      e.val 0) 9 = false ∧ (bit m 3 = true ∨ bit (SMap.getD s.chip.engBad e.val 0) 8 = true)) ∧ s.chip.serves e.val 8 ≠ some
      w.val ∧ s.chip.serves e.val 9 ≠ some w.val ∧ s.chip.regBit (oen e.val 0x110) 0 = true ∧ s.chip.policy 1 = true ∧ bit
      (s.chip.darkW e.val) w.val = true ∧ s.chip.isOn (8 + e.val) 0x40 = true) ∧
    (∃ (e : Fin 16) (w : Fin 8) (m : Nat) (sp : Nat) (s : State), m = s.chip.reg (oen e.val 0x10C) ∧ (sp = 0 ∧ bit m 3 =
      false ∧ bit (SMap.getD s.chip.engBad e.val 0) 8 = false) ∨ (sp = 1 ∧ bit m 7 = false ∧ bit (SMap.getD s.chip.engBad
      e.val 0) 9 = false ∧ (bit m 3 = true ∨ bit (SMap.getD s.chip.engBad e.val 0) 8 = true)) ∧ s.chip.serves e.val 8 ≠ some
      w.val ∧ s.chip.serves e.val 9 ≠ some w.val ∧ s.chip.regBit (oen e.val 0x110) 0 = true ∧ s.chip.policy 1 = true ∧ bit
      (s.chip.darkW e.val) w.val = true ∧ s.chip.isOn (8 + e.val) 0x40 = true) ∧
    (∃ (e : Fin 16) (s : State), (bit (s.chip.reg (oen e.val 0x10C)) 3 = true ∨ bit (SMap.getD s.chip.engBad e.val 0) 8 =
      true) ∧ (bit (s.chip.reg (oen e.val 0x10C)) 7 = true ∨ bit (SMap.getD s.chip.engBad e.val 0) 9 = true)) ∧
    (∃ (e : Fin 16) (s : State), (bit (s.chip.reg (oen e.val 0x10C)) 3 = true ∨ bit (SMap.getD s.chip.engBad e.val 0) 8 =
      true) ∧ (bit (s.chip.reg (oen e.val 0x10C)) 7 = true ∨ bit (SMap.getD s.chip.engBad e.val 0) 9 = true)) ∧
    (∃ (e : Fin 16) (spare : Bool) (w : Nat) (s : State), s.chip.serves e.val (8 + b2n spare) = some w ∧ bit (s.chip.darkW
      e.val) w = true ∧ bit (SMap.getD s.chip.engBad e.val 0) (8 + b2n spare) = false) ∧
    (∃ (p : Fin 1024) (w : BitVec 8) (m : Nat) (s : State), (s.chip.port p.val).st.framed = true ∧ (s.chip.darnSet p.val
      (s.chip.working p.val &&& w.toNat)).1 = some m ∧ (s.chip.port p.val).darn = none) ∧
    (∃ (p : Fin 1024) (w : BitVec 8) (m : Nat) (s : State), (s.chip.port p.val).st.framed = true ∧ (s.chip.darnSet p.val
      (s.chip.working p.val &&& w.toNat)).1 = some m ∧ (s.chip.port p.val).darn = none) ∧
    (∃ (p : Fin 1024) (w : BitVec 8) (m : Nat) (s : State) (e : _), (s.chip.port p.val).st.framed = true ∧ (s.chip.darnSet
      p.val (s.chip.working p.val &&& w.toNat)).1 = some m ∧ (s.chip.port p.val).darn = some e) ∧
    (∃ (p : Nat) (both : Nat) (m : Nat) (c : Chip), (c.darnSet p both).1 = some m) ∧
    (∃ (p : Fin 1024) (w : BitVec 8) (s : State), (s.chip.port p.val).st.framed = true ∧ s.chip.darnSet p.val
      (s.chip.working p.val &&& w.toNat) = (none, s.chip)) ∧
    (∃ (p : Fin 1024) (d : Darn) (n : Nat) (s : State), (s.chip.port p.val).darn = some d ∧ d.peerCol = some n ∧
      ((s.chip.port p.val).col + 65536 - d.col) % 65536 < 32768 ∧ (s.chip.port p.val).st.framed = true ∧ s.chip.dark p.val =
      false ∧ d.set &&& s.chip.working p.val = d.set ∧ d.set ≠ 0) ∧
    (∃ (p : Fin 1024) (d : Darn) (s : State), (s.chip.port p.val).darn = some d ∧ (d.peerCol = none ∨ 32768 ≤ ((s.chip.port
      p.val).col + 65536 - d.col) % 65536)) ∧
    (∃ (p : Fin 1024) (d : Darn) (s : State), (s.chip.port p.val).darn = some d ∧ d.peerCol = none) ∧
    (∃ (p : Fin 1024) (s : State), (s.chip.port p.val).st.framed = true ∧ (s.chip.port p.val).darn = none ∧ (s.chip.port
      p.val).lanes ≠ s.chip.fullLanes p.val ∧ s.chip.working p.val = s.chip.fullLanes p.val ∧ s.chip.regBit (oen (portEngine
      p.val) 0x110) 1 = true) :=
  ⟨ (let lane : Fin 2048 := 2047; let s : State := mkS (fun c => c.setReg (regAddr 3 0x1F 0x100) 0xE00)
     let c : Chip := s.chip.setFpBits (lane.val / 8 * 4) 0x108 (2 ^ (lane.val % 8)) true
     let d : Chip := c.pmcEdge (8 + lane.val / 128) 0 0x9001 (s.chip.losPairs (lane.val / 128)) (c.losPairs (lane.val / 128))
     ⟨lane, c, d, s, by decide +kernel +zetaReduce⟩),
    (let lane : Fin 2048 := 2047; let s : State := mkS id
     let c : Chip := s.chip.setFpBits (lane.val / 8 * 4) 0x108 (2 ^ (lane.val % 8)) true
     let d : Chip := c.pmcEdge (8 + lane.val / 128) 0 0x9001 (s.chip.losPairs (lane.val / 128)) (c.losPairs (lane.val / 128))
     let p := (s.chip.lanePort lane.val).get (by decide +kernel); ⟨lane, c, d, s, p, by decide +kernel +zetaReduce⟩),
    (let p : Nat := 0; let c : Chip := (upP 0 { st := .init } Chip.reset).setReg (regAddr 0 0x10 0x108) 0xFF
     ⟨p, c, by decide +kernel +zetaReduce⟩),
    (let p : Nat := 0
     let c : Chip := (upP 0 { st := .training, lanes := 0xFF, trained := 0xFF } Chip.reset).setReg (regAddr 0 0x10 0x108) 0xFF
     ⟨p, c, by decide +kernel +zetaReduce⟩),
    (let p : Nat := 0
     let c : Chip := (upP 0 { st := .fault, lanes := 0xFF, trained := 0xFF } Chip.reset).setReg (regAddr 0 0x10 0x108) 0xFF
     ⟨p, c, by decide +kernel +zetaReduce⟩),
    (let p : Nat := 1023; let c : Chip := Chip.reset; ⟨p, c, by decide +kernel +zetaReduce⟩),
    (let p : Nat := 0; let m : Nat := 0x0F
     let c : Chip := (upP 0 { st := .active, lanes := 0xFF, trained := 0xFF } Chip.reset).setReg (regAddr 0 0x10 0x108) 0xF0
     let d : Chip := c.laneLoss p; ⟨p, m, c, d, by decide +kernel +zetaReduce⟩),
    (let p : Nat := 0; let m : Nat := 0x0C
     let c : Chip := (upP 0 { st := .quarantine, lanes := 0xFF, trained := 0xFF } Chip.reset).setReg (regAddr 0 0x10 0x108) 0xF2
     let d : Chip := c.laneLoss p; ⟨p, m, c, d, by decide +kernel +zetaReduce⟩),
    (let p : Nat := 0
     let c : Chip := (upP 0 { st := .init, lanes := 0xFF, trained := 0xFF } Chip.reset).setReg (regAddr 0 0x10 0x108) 0xFE
     ⟨p, c, by decide +kernel +zetaReduce⟩),
    (let p : Nat := 0; let mask : Nat := 0x0F; let m : Nat := 0x0F
     let c : Chip := (upP 0 { st := .active, lanes := 0xFF, trained := 0xFF } Chip.reset)
     ⟨p, mask, m, c, by decide +kernel +zetaReduce⟩),
    (let p : Nat := 0; let mask : Nat := 0x1C; let m : Nat := 0x0C
     let c : Chip := (upP 0 { st := .active, lanes := 0xFF, trained := 0xFF } Chip.reset)
     ⟨p, mask, m, c, by decide +kernel +zetaReduce⟩),
    (let p : Nat := 0; let mask : Nat := 0x0F; let m : Nat := 0x0F; let w := 2; let m' := 3
     let c : Chip := (upP 0 { st := .active, lanes := 0xFF, trained := 0xFF } Chip.reset)
     ⟨p, mask, m, c, w, m', by decide +kernel +zetaReduce⟩),
    (let p : Nat := 0; let w : Nat := 4; let o : Fin 8 := 4
     let c : Chip := (upP 0 { st := .active, lanes := 0xFF, trained := 0xFF } Chip.reset)
     ⟨p, w, o, c, by decide +kernel +zetaReduce⟩),
    (let p : Nat := 0; let w : Nat := 2; let m : Nat := 0xC
     let c : Chip := (upP 0 { st := .active, lanes := 0xFF, trained := 0xFF } Chip.reset)
     ⟨p, w, m, c, by decide +kernel +zetaReduce⟩),
    (let lane : Fin 2048 := 2047
     let s : State := mkS (fun c => (c.setReg (regAddr 3 0x1F 0x100) 0xE00).setReg (regAddr 3 0x1F 0x108) 0xFF000000)
     let c : Chip := s.chip.setFpBits (lane.val / 8 * 4) 0x108 (2 ^ (lane.val % 8)) false
     let d : Chip := c.pmcEdge (8 + lane.val / 128) 0 0x9001 (s.chip.losPairs (lane.val / 128)) (c.losPairs (lane.val / 128))
     ⟨lane, c, d, s, by decide +kernel +zetaReduce⟩),
    (let lane : Fin 2048 := 7; let p := 0
     let s : State := mkS (fun c => (upP 0 { st := .active, lanes := 0x7F, trained := 0xFF } c).setReg (regAddr 0 0x10 0x108) 0x80)
     let c : Chip := s.chip.setFpBits (lane.val / 8 * 4) 0x108 (2 ^ (lane.val % 8)) false
     let d : Chip := c.pmcEdge (8 + lane.val / 128) 0 0x9001 (s.chip.losPairs (lane.val / 128)) (c.losPairs (lane.val / 128))
     ⟨lane, c, d, s, p, by decide +kernel +zetaReduce⟩),
    (let lane : Fin 2048 := 0; let p := 0
     let s : State := mkS (fun c => (upP 0 { st := .down } c).setReg (regAddr 0 0x10 0x108) 0xFF)
     let c : Chip := s.chip.setFpBits (lane.val / 8 * 4) 0x108 (2 ^ (lane.val % 8)) false
     let d : Chip := c.pmcEdge (8 + lane.val / 128) 0 0x9001 (s.chip.losPairs (lane.val / 128)) (c.losPairs (lane.val / 128))
     ⟨lane, c, d, s, p, by decide +kernel +zetaReduce⟩),
    (let e : Fin 16 := 0; let src : Fin 10 := 9; let s : State := mkS id; ⟨e, src, s, by decide +kernel +zetaReduce⟩),
    (let e : Fin 16 := 15; let src : Fin 10 := 8; let s : State := mkS id; ⟨e, src, s, by decide +kernel +zetaReduce⟩),
    (let e : Fin 16 := 0; let src : Fin 10 := 7; let w : Nat := 7; let s : State := pt 0 .active
     let c : Chip := { s.chip with engBad := SMap.set s.chip.engBad e.val (setBit (SMap.getD s.chip.engBad e.val 0) src.val true) }
     let d : Chip := (((c.setReg (oen e.val 0x108) (setBit (setBit (c.reg (oen e.val 0x108)) src.val false) (16 + src.val) true)).raise (oen e.val 0) 1).pmc (8 + e.val) 0 0x9002 (some src.val) none).setDarkW e.val (setBit (s.chip.darkW e.val) w true)
     ⟨e, src, w, c, d, s, by decide +kernel +zetaReduce⟩),
    (let e : Fin 16 := 15; let src : Fin 10 := 9; let w : Nat := 0
     let s : State := mkS (fun c => c.setReg (oen 15 0x10C) 0x80)
     let c : Chip := { s.chip with engBad := SMap.set s.chip.engBad e.val (setBit (SMap.getD s.chip.engBad e.val 0) src.val true) }
     let d : Chip := (((c.setReg (oen e.val 0x108) (setBit (setBit (c.reg (oen e.val 0x108)) src.val false) (16 + src.val) true)).raise (oen e.val 0) 1).pmc (8 + e.val) 0 0x9002 (some src.val) none).setDarkW e.val (setBit (s.chip.darkW e.val) w true)
     ⟨e, src, w, c, d, s, by decide +kernel +zetaReduce⟩),
    (let e : Fin 16 := 0; let w : Fin 8 := 7; let sp : Nat := 0
     let s : State := mkS (fun c => fwOn (onPg 8 0x40 (c.setDarkW 0 0x80))); let m : Nat := s.chip.reg (oen e.val 0x10C)
     ⟨e, w, m, sp, s, by decide +kernel +zetaReduce⟩),
    (let e : Fin 16 := 15; let w : Fin 8 := 0; let sp : Nat := 1
     let s : State := mkS (fun c => (fwOn (onPg 23 0x40 (c.setDarkW 15 0x81))).setReg (oen 15 0x10C) 0xF)
     let m : Nat := s.chip.reg (oen e.val 0x10C); ⟨e, w, m, sp, s, by decide +kernel +zetaReduce⟩),
    (let e : Fin 16 := 0; let w : Fin 8 := 7; let sp : Nat := 0
     let s : State := mkS (fun c => fwOn (onPg 8 0x40 (c.setDarkW 0 0x80))); let m : Nat := s.chip.reg (oen e.val 0x10C)
     ⟨e, w, m, sp, s, by decide +kernel +zetaReduce⟩),
    (let e : Fin 16 := 0; let s : State := mkS (fun c => c.setReg (oen 0 0x10C) 0x98)
     ⟨e, s, by decide +kernel +zetaReduce⟩),
    (let e : Fin 16 := 0; let s : State := mkS (fun c => { c with engBad := [(0, 0x300)] })
     ⟨e, s, by decide +kernel +zetaReduce⟩),
    (let e : Fin 16 := 0; let spare : Bool := true; let w : Nat := 7
     let s : State := mkS (fun c => (c.setReg (oen 0 0x10C) 0xF0).setDarkW 0 0x80)
     ⟨e, spare, w, s, by decide +kernel +zetaReduce⟩),
    (let p : Fin 1024 := 0; let w : BitVec 8 := 0x0F; let m : Nat := 15; let s : State := pt 0 .active
     ⟨p, w, m, s, by decide +kernel +zetaReduce⟩),
    (let p : Fin 1024 := 1020; let w : BitVec 8 := 0xFF; let m : Nat := 255; let s : State := pt 1020 .quarantine
     ⟨p, w, m, s, by decide +kernel +zetaReduce⟩),
    (let p : Fin 1024 := 0; let w : BitVec 8 := 0x0F; let col : BitVec 16 := 9; let m : Nat := 15
     let s : State := mkS (upP 0 { st := .active, lanes := 0xFF, trained := 0xFF, darn := some { set := 15, since := 0, col := 64, peerCol := none, widen := false } })
     let e := ((s.chip.port p.val).darn).get (by decide +kernel); ⟨p, w, m, s, e, by decide +kernel +zetaReduce⟩),
    (let p : Nat := 0; let both : Nat := 0x0F; let m : Nat := 15; let c : Chip := (pt 0 .active).chip
     ⟨p, both, m, c, by decide +kernel +zetaReduce⟩),
    (let p : Fin 1024 := 0; let w : BitVec 8 := 1; let s : State := pt 0 .init; ⟨p, w, s, by decide +kernel +zetaReduce⟩),
    (let p : Fin 1024 := 0
     let s : State := mkS (upP 0 { st := .active, lanes := 0xFF, trained := 0xFF, darn := some { set := 15, since := 0, col := 0, peerCol := some 5, widen := false } })
     let d : Darn := ((s.chip.port p.val).darn).get (by decide +kernel)
     let n : Nat := (d.peerCol).get (by decide +kernel); ⟨p, d, n, s, by decide +kernel +zetaReduce⟩),
    (let p : Fin 1024 := 0
     let s : State := mkS (upP 0 { st := .active, lanes := 0xFF, trained := 0xFF, darn := some { set := 15, since := 0, col := 0, peerCol := none, widen := false } })
     let d : Darn := ((s.chip.port p.val).darn).get (by decide +kernel); ⟨p, d, s, by decide +kernel +zetaReduce⟩),
    (let p : Fin 1024 := 0
     let s : State := mkS (upP 0 { st := .active, lanes := 0xFF, trained := 0xFF, darn := some { set := 15, since := 7, col := 0, peerCol := none, widen := false } })
     let d : Darn := ((s.chip.port p.val).darn).get (by decide +kernel); ⟨p, d, s, by decide +kernel +zetaReduce⟩),
    (let p : Fin 1024 := 0; let s : State := mkS (upP 0 { st := .active, lanes := 0xF, trained := 0xFF })
     ⟨p, s, by decide +kernel +zetaReduce⟩)⟩

/-- States and operands that meet the hypotheses of `Obligations.QuietAndPortStates`, clause by clause. -/
theorem witness_QuietAndPortStates :
    (∃ (p : Fin 1024) (s : State), (s.chip.port p.val).st = .training ∧ s.chip.lit p.val = true) ∧
    (∃ (p : Fin 1024) (s : State), (s.chip.port p.val).st.framed = true) ∧
    (∃ (p : Fin 1024) (s : State), (s.chip.port p.val).st.framed = true ∧ s.chip.isQuiet p.val = false ∧ s.chip.lanesUp
      p.val = true ∧ (128 ≤ (s.chip.port p.val).cols ∨ s.chip.nothingReady p.val = true)) ∧
    (∃ (p : Fin 1024) (s : State), (s.chip.port p.val).st.framed = true ∧ s.chip.isQuiet p.val = false ∧ s.chip.lanesUp
      p.val = true ∧ (s.chip.port p.val).cols < 128 ∧ s.chip.nothingReady p.val = false) ∧
    (∃ (p : Nat) (c : Chip), c.loopback p ≠ 3) ∧
    (∃ (lanes : List Nat) (f : Frame), f.content.length = 496 ∧ (lanes.length = 1 ∨ lanes.length = 2 ∨ lanes.length = 4 ∨
      lanes.length = 8)) ∧
    (∃ (lanes : List Nat) (f : Frame) (col : _), col ∈ columnsOf lanes (frameBytes f) ∧ f.content.length = 496 ∧
      (lanes.length = 1 ∨ lanes.length = 2 ∨ lanes.length = 4 ∨ lanes.length = 8)) ∧
    (∃ (p : Fin 1024) (s : State), s.chip.quietOk p.val = true ∧ s.chip.portIdle p.val = true) ∧
    (∃ (p : Fin 1024) (s : State), s.chip.quietOk p.val = true) ∧
    (∃ (p : Fin 1024) (s : State), s.chip.fpBits p.val 0x114 &&& s.chip.fullLanes p.val ≠ 0) ∧
    (∃ (p : Fin 1024) (s : State), (s.chip.port p.val).st.framed = true ∧ (s.chip.port p.val).tackFails = 2) ∧
    (∃ (p : Fin 1024) (c : Chip) (s : State), (s.chip.port p.val).st.framed = true ∧ (s.chip.port p.val).tackFails < 2 ∧ c =
      (s.chip.bump (lnePage p.val + 0x11C) 1).tack p.val) ∧
    (∃ (p : Fin 1024) (c : Chip) (s : State), (s.chip.port p.val).st = .init ∧ s.chip.lanesUp p.val = true ∧ c =
      s.chip.sendFrame p.val 2 (s.chip.link p.val).txSeq 0xFFFFFFFF (fit 0 496 (s.chip.initBytes p.val))) ∧
    (∃ (p : Nat) (c : Chip), p < 1024 ∧ c.isQuiet p = false ∧ c.loopback p ≠ 3 ∧ (c.port p).cols < 128) ∧
    (∃ (p : Nat) (r : InitRec) (c : Chip), (c.port p).peer = some r ∧ (c.port p).st = .init ∧ (c.port p).sentSeen = true ∧
      (c.port p).gotSeen = true) ∧
    (∃ (p : Nat) (r : InitRec) (c : Chip), (c.port p).peer = some r ∧ (c.port p).st = .init ∧ (c.port p).sentSeen = true ∧
      (c.port p).gotSeen = true ∧ (c.isAdmitted p = false ∨ (c.port p).peerAdm = false ∨ (c.port p).peerOk = false)) ∧
    (∃ (p : Nat) (r : InitRec) (c : Chip), (c.port p).peer = some r ∧ (c.port p).st = .init ∧ (c.port p).sentSeen = true ∧
      (c.port p).gotSeen = true ∧ c.isAdmitted p = true ∧ (c.port p).peerAdm = true ∧ (c.port p).peerOk = true ∧ c.loopback
      p = 0 ∧ c.twin.role ≠ 4 ∧ c.leaving p = false) ∧
    (∃ (p : Fin 1024) (f : Frame) (s : State), (s.chip.port p.val).st = .init ∧ frameKind f = 2 ∧ frameCrcOk f = true ∧
      frameBadStitch f = false ∧ (s.chip.link p.val).replay = [] ∧ bit f.tail.toNat 12 = false ∧ leAt f.content 16 8 = 0 ∧
      (s.chip.port p.val).sentSeen = false ∧ (s.chip.port p.val).latched = none) ∧
    (∃ (p : Fin 1024) (f : Frame) (s : State) (l : _), (s.chip.port p.val).st = .init ∧ frameKind f = 2 ∧ frameCrcOk f =
      true ∧ frameBadStitch f = false ∧ (s.chip.link p.val).replay = [] ∧ bit f.tail.toNat 12 = false ∧ leAt f.content 16 8
      = 0 ∧ (s.chip.port p.val).sentSeen = false ∧ (s.chip.port p.val).latched = some l ∧ l ≠ ((initRecord f s.chip.now).id,
      (initRecord f s.chip.now).port, (initRecord f s.chip.now).kind)) ∧
    (∃ (p : Fin 1024) (f : Frame) (s : State), (s.chip.port p.val).st = .quarantine ∧ frameKind f = 2 ∧ frameCrcOk f = true
      ∧ frameBadStitch f = false ∧ (s.chip.link p.val).replay = [] ∧ bit f.tail.toNat 12 = false ∧ bit f.tail.toNat 13 =
      true ∧ leAt f.content 16 8 = 0 ∧ (s.chip.port p.val).latched = none ∧ (initRecord f s.chip.now).id ≠ 0xFFFF ∧
      s.chip.isAdmitted p.val = true ∧ s.chip.loopback p.val = 0 ∧ s.chip.twin.role ≠ 4 ∧ s.chip.leaving p.val = false) ∧
    (∃ (p : Fin 1024) (s : State), (s.chip.port p.val).st = .init) ∧
    (∃ (dom : Dom) (p : Fin 1024) (val : Word) (s : State), MayWrite s.chip dom (p.val / 256) (0x20 + p.val % 256 / 16)
      (0x100 + 4 * (p.val % 16)) val.toNat ∧ val.toNat = 1 ∧ s.chip.isAdmitted p.val = false ∧ s.chip.loopback p.val = 0 ∧
      (s.chip.port p.val).st = .down) ∧
    (∃ (dom : Dom) (p : Fin 1024) (val : Word) (r : InitRec) (s : State), MayWrite s.chip dom (p.val / 256) (0x20 + p.val %
      256 / 16) (0x100 + 4 * (p.val % 16)) val.toNat ∧ val.toNat = 1 ∧ s.chip.isAdmitted p.val = false ∧ s.chip.loopback
      p.val = 0 ∧ (s.chip.port p.val).st = .quarantine ∧ (s.chip.port p.val).peer = some r ∧ r.id ≠ 0xFFFF ∧ (s.chip.port
      p.val).peerAdm = true ∧ s.chip.twin.role ≠ 4 ∧ s.chip.leaving p.val = false) ∧
    (∃ (dom : Dom) (p : Fin 1024) (val : Word) (s : State), MayWrite s.chip dom (p.val / 256) (0x20 + p.val % 256 / 16)
      (0x100 + 4 * (p.val % 16)) val.toNat ∧ val.toNat = 0) ∧
    (∃ (dom : Dom) (p : Fin 1024) (d : Chip) (e : Chip) (s : State), MayWrite s.chip dom (p.val / 256) (0x20 + p.val % 256 /
      16) (0x100 + 4 * (p.val % 16)) 6 ∧ s.chip.isOn (p.val / 256) (0x20 + p.val % 256 / 16) = true ∧ s.chip.reg (lnkReg
      p.val 0x100) = 2 ∧ (s.chip.port p.val).st = .fault ∧ d = (s.chip.setReg (lnkReg p.val 0x100) 2).onPort p.val (fun x =>
      { x with st := .training }) ∧ e = (if s.chip.isTwinLink p.val = true then d.twinLinkPath else d)) ∧
    (∃ (p : Fin 1024) (at_ : Nat) (rest : List Nat) (d : Chip) (e : Chip) (s : State), (s.chip.port p.val).faults = at_ ::
      rest ∧ (s.chip.port p.val).st = .fault ∧ s.chip.regBit (lnkReg p.val 0x100) 1 = true ∧ ((s.chip.port
      p.val).faults.filter (fun u => max s.chip.now (at_ + 1000000) < u + 1000000000)).length < 3 ∧ d = (s.chip.till (at_ +
      1000000)).onPort p.val (fun x => { x with st := .training }) ∧ e = (if s.chip.isTwinLink p.val = true then
      d.twinLinkPath else d)) ∧
    (∃ (p : Fin 1024) (c : Chip) (d : Chip), (c.port p.val).st ≠ .disabled ∧ (c.port p.val).st ≠ .down ∧ d = c.portDown
      p.val) ∧
    (∃ (p : Fin 1024) (c : Chip) (d : Chip), (c.port p.val).st ≠ .disabled ∧ (c.port p.val).st ≠ .down ∧ d = c.portDown
      p.val) ∧
    (∃ (p : Fin 1024) (c : Chip) (d : Chip), (c.port p.val).st ≠ .disabled ∧ (c.port p.val).st ≠ .down ∧ d = c.portDown
      p.val) ∧
    (∃ (p : Fin 1024) (c : Chip) (d : Chip) (x : _), x ∈ d.copies ∧ (c.port p.val).st ≠ .disabled ∧ (c.port p.val).st ≠
      .down ∧ d = c.portDown p.val) ∧
    (∃ (p : Fin 1024) (c : Chip) (d : Chip) (kv : _), kv ∈ d.rx ∧ (c.port p.val).st ≠ .disabled ∧ (c.port p.val).st ≠ .down
      ∧ d = c.portDown p.val) ∧
    (∃ (p : Fin 1024) (c : Chip), (c.port p.val).advPriv = []) ∧
    (∃ (p : Fin 1024) (c : Chip), (c.port p.val).advPriv = []) ∧
    (∃ (p : Fin 1024) (c : Chip), ((c.port p.val).st = .disabled ∨ (c.port p.val).st = .down)) ∧
    (∃ (p : Fin 1024) (c : Chip), ((c.port p.val).st = .disabled ∨ (c.port p.val).st = .down)) ∧
    (∃ (p : Fin 1024) (c : Chip) (d : Chip), ((c.port p.val).st = .quarantine ∨ (c.port p.val).st = .active) ∧ d =
      c.portFault p.val) ∧
    (∃ (p : Fin 1024) (c : Chip) (d : Chip), ((c.port p.val).st = .quarantine ∨ (c.port p.val).st = .active) ∧ d =
      c.portFault p.val) ∧
    (∃ (p : Fin 1024) (c : Chip) (d : Chip) (x : _), x ∈ d.copies ∧ ((c.port p.val).st = .quarantine ∨ (c.port p.val).st =
      .active) ∧ d = c.portFault p.val) ∧
    (∃ (p : Fin 1024) (c : Chip) (d : Chip) (kv : _), kv ∈ d.rx ∧ ((c.port p.val).st = .quarantine ∨ (c.port p.val).st =
      .active) ∧ d = c.portFault p.val) ∧
    (∃ (p : Fin 1024) (c : Chip), (c.port p.val).st ≠ .quarantine ∧ (c.port p.val).st ≠ .active) ∧
    (∃ (p : Fin 1024) (c : Chip), (c.port p.val).st ≠ .quarantine ∧ (c.port p.val).st ≠ .active) ∧
    (∃ (dom : Dom) (q : Fin 4) (d : Fin 16) (val : Word) (s : State), MayWrite s.chip dom q.val (0x20 + d.val) 0x400
      val.toNat ∧ val.toNat < 2 ^ 28 ∧ 2 ≤ fld val.toNat 7 0 ∧ fld val.toNat 27 16 ≠ 0) ∧
    (∃ (dom : Dom) (q : Fin 4) (d : Fin 16) (val : Word) (s : State), MayWrite s.chip dom q.val (0x20 + d.val) 0x400
      val.toNat ∧ val.toNat < 2 ^ 28 ∧ 2 ≤ fld val.toNat 7 0 ∧ fld val.toNat 27 16 ≠ 0) :=
  ⟨ (let p : Fin 1024 := 1020; let s : State := pt 1020 .training; ⟨p, s, by decide +kernel +zetaReduce⟩),
    (let p : Fin 1024 := 1020; let s : State := pt 1020 .active; ⟨p, s, by decide +kernel +zetaReduce⟩),
    (let p : Fin 1024 := 0; let s : State := (pt 0 .active).onPart (fun c => c.setReg (regAddr 0 0x10 0x10C) 0xFF)
     ⟨p, s, by decide +kernel +zetaReduce⟩),
    (let p : Fin 1024 := 0
     let s : State := (pt 0 .active).onPart (fun c => ((queued 0 5 (.port 0) c).setReg (regAddr 0 0x10 0x10C) 0xFF).onLink 0 (fun l => { l with shared := 9 }))
     ⟨p, s, by decide +kernel +zetaReduce⟩),
    (let p : Nat := 0; let c : Chip := (pt 0 .active).chip; ⟨p, c, by decide +kernel +zetaReduce⟩),
    (let lanes : List Nat := [0, 1, 2, 3, 4, 5, 6, 7]
     let f : Frame := { head := 5, content := List.replicate 496 7, tail := 9 }; ⟨lanes, f, by decide +kernel +zetaReduce⟩),
    (let lanes : List Nat := [4, 5]; let f : Frame := { head := 5, content := List.replicate 496 7, tail := 9 }
     let col := (columnsOf lanes (frameBytes f)).head (by decide +kernel); ⟨lanes, f, col, by decide +kernel +zetaReduce⟩),
    (let s : State := (pt 0 .active).onPart (fun c => c.setReg (regAddr 0 0x10 0x110) 0xF0005); let p : Fin 1024 := 0
     ⟨p, s, by decide +kernel +zetaReduce⟩),
    (let s : State := (pt 0 .active).onPart (fun c => c.setReg (regAddr 0 0x10 0x110) 0xF0005); let p : Fin 1024 := 0
     ⟨p, s, by decide +kernel +zetaReduce⟩),
    (let s : State := (pt 0 .active).onPart (fun c => c.setReg (regAddr 0 0x10 0x114) 0xFF); let p : Fin 1024 := 0
     ⟨p, s, by decide +kernel +zetaReduce⟩),
    (let p : Fin 1024 := 0; let s : State := mkS (upP 0 { st := .active, lanes := 0xFF, tackFails := 2 })
     ⟨p, s, by decide +kernel +zetaReduce⟩),
    (let p : Fin 1024 := 1020; let s : State := pt 1020 .quarantine
     let c : Chip := (s.chip.bump (lnePage p.val + 0x11C) 1).tack p.val; ⟨p, c, s, by decide +kernel +zetaReduce⟩),
    (let p : Fin 1024 := 1020
     let s : State := (pt 1020 .init).onPart (fun c => c.setReg (regAddr 3 0x1F 0x10C) 0xFF000000)
     let c : Chip := s.chip.sendFrame p.val 2 (s.chip.link p.val).txSeq 0xFFFFFFFF (fit 0 496 (s.chip.initBytes p.val))
     ⟨p, c, s, by decide +kernel +zetaReduce, by decide +kernel +zetaReduce, rfl⟩),
    (let p : Nat := 0; let c : Chip := (pt 0 .active).chip; ⟨p, c, by decide +kernel +zetaReduce⟩),
    (let p : Nat := 0
     let c : Chip := upP 0 { st := .init, sentSeen := true, gotSeen := true, peer := some peer0 } Chip.reset
     let r : InitRec := ((c.port p).peer).get (by decide +kernel); ⟨p, r, c, by decide +kernel +zetaReduce⟩),
    (let p : Nat := 0
     let c : Chip := upP 0 { st := .init, sentSeen := true, gotSeen := true, peer := some peer0, peerAdm := true, peerSw := true } Chip.reset
     let r : InitRec := ((c.port p).peer).get (by decide +kernel); ⟨p, r, c, by decide +kernel +zetaReduce⟩),
    (let p : Nat := 0
     let c : Chip := (upP 0 { st := .init, sentSeen := true, gotSeen := true, peer := some peer0, peerAdm := true, peerSw := true } Chip.reset).setReg (lnkReg 0 0x100) 1
     let r : InitRec := ((c.port p).peer).get (by decide +kernel); ⟨p, r, c, by decide +kernel +zetaReduce⟩),
    (let s : State := pt 1020 .init; let p : Fin 1024 := 1020; let f : Frame := initFrame
     ⟨p, f, s, by decide +kernel +zetaReduce, by decide +kernel +zetaReduce, initFrame_crc,
      by decide +kernel +zetaReduce, by decide +kernel +zetaReduce, by decide +kernel +zetaReduce,
      by decide +kernel +zetaReduce, by decide +kernel +zetaReduce, by decide +kernel +zetaReduce⟩),
    (let p : Fin 1024 := 1020; let f : Frame := initFrame; let l := (1, 2, 3)
     let s : State := mkS (upP 1020 { st := .init, lanes := 0xFF, trained := 0xFF, latched := some (1, 2, 3) })
     ⟨p, f, s, l, by decide +kernel +zetaReduce, by decide +kernel +zetaReduce, initFrame_crc,
      by decide +kernel +zetaReduce, by decide +kernel +zetaReduce, by decide +kernel +zetaReduce,
      by decide +kernel +zetaReduce, by decide +kernel +zetaReduce, by decide +kernel +zetaReduce,
      by decide +kernel +zetaReduce⟩),
    (let p : Fin 1024 := 1020; let f : Frame := initFrame
     let s : State := (pt 1020 .quarantine).onPart (fun c => c.setReg (lnkReg 1020 0x100) 1)
     ⟨p, f, s, by decide +kernel +zetaReduce, by decide +kernel +zetaReduce, initFrame_crc,
      by decide +kernel +zetaReduce, by decide +kernel +zetaReduce, by decide +kernel +zetaReduce,
      by decide +kernel +zetaReduce, by decide +kernel +zetaReduce, by decide +kernel +zetaReduce,
      by decide +kernel +zetaReduce, by decide +kernel +zetaReduce, by decide +kernel +zetaReduce,
      by decide +kernel +zetaReduce, by decide +kernel +zetaReduce⟩),
    (let s : State := pt 1020 .init; let p : Fin 1024 := 1020; ⟨p, s, by decide +kernel +zetaReduce⟩),
    (let dom : Dom := .owner; let p : Fin 1024 := 1020; let val : Word := 1; let s : State := pt 1020 .down
     ⟨dom, p, val, s, by decide +kernel +zetaReduce⟩),
    (let dom : Dom := .owner; let p : Fin 1024 := 1020; let val : Word := 1
     let s : State := mkS (upP 1020 { st := .quarantine, lanes := 0xFF, trained := 0xFF, peer := some peer0, peerAdm := true })
     let r : InitRec := ((s.chip.port p.val).peer).get (by decide +kernel)
     ⟨dom, p, val, r, s, by decide +kernel +zetaReduce⟩),
    (let dom : Dom := .owner; let p : Fin 1024 := 1020; let val : Word := 0; let s : State := pt 1020 .active
     ⟨dom, p, val, s, by decide +kernel +zetaReduce⟩),
    (let dom : Dom := .owner; let p : Fin 1024 := 0
     let s : State := (pt 0 .fault).onPart (fun c => c.setReg (lnkReg 0 0x100) 2)
     let d : Chip := (s.chip.setReg (lnkReg p.val 0x100) 2).onPort p.val (fun x => { x with st := .training })
     let e : Chip := (if s.chip.isTwinLink p.val = true then d.twinLinkPath else d)
     ⟨dom, p, d, e, s, by decide +kernel +zetaReduce⟩),
    (let p : Fin 1024 := 0; let rest : List Nat := []; let at_ : Nat := 5
     let s : State := (mkS (upP 0 { st := .fault, faults := [5] })).onPart (fun c => c.setReg (lnkReg 0 0x100) 2)
     let d : Chip := (s.chip.till (at_ + 1000000)).onPort p.val (fun x => { x with st := .training })
     let e : Chip := (if s.chip.isTwinLink p.val = true then d.twinLinkPath else d)
     ⟨p, at_, rest, d, e, s, by decide +kernel +zetaReduce⟩),
    (let p : Fin 1024 := 1020; let c : Chip := (pt 1020 .active).chip; let d : Chip := c.portDown p.val
     ⟨p, c, d, by decide +kernel +zetaReduce⟩),
    (let p : Fin 1024 := 0; let c : Chip := (pt 0 .fault).chip; let d : Chip := c.portDown p.val
     ⟨p, c, d, by decide +kernel +zetaReduce⟩),
    (let p : Fin 1024 := 0; let c : Chip := (pt 0 .init).chip.setReg (regAddr 0 0x10 0x108) 0xFF
     let d : Chip := c.portDown p.val; ⟨p, c, d, by decide +kernel +zetaReduce⟩),
    (let p : Fin 1024 := 0; let c : Chip := queued 256 5 (.port 0) (queued 0 5 (.port 0) (pt 0 .active).chip)
     let x := ((c.portDown p.val).copies).headD (cp 0 5 (.port 0)); let d : Chip := c.portDown p.val
     ⟨p, c, d, x, by decide +kernel +zetaReduce⟩),
    (let p : Fin 1024 := 0; let c : Chip := rxq 16 5 [hd uni] (pt 0 .active).chip
     let kv := (16 * 16 + 5, { queue := [(0, hd uni)] }); let d : Chip := c.portDown p.val
     ⟨p, c, d, kv, by decide +kernel +zetaReduce⟩),
    (let p : Fin 1024 := 1020; let c : Chip := { (pt 1020 .down).chip with wins := [(4083, { closed := true })] }
     ⟨p, c, by decide +kernel +zetaReduce⟩),
    (let p : Fin 1024 := 0; let c : Chip := Chip.reset; ⟨p, c, by decide +kernel +zetaReduce⟩),
    (let p : Fin 1024 := 0; let c : Chip := Chip.reset; ⟨p, c, by decide +kernel +zetaReduce⟩),
    (let p : Fin 1024 := 1020; let c : Chip := (pt 1020 .down).chip; ⟨p, c, by decide +kernel +zetaReduce⟩),
    (let p : Fin 1024 := 1020; let c : Chip := (pt 1020 .active).chip; let d : Chip := c.portFault p.val
     ⟨p, c, d, by decide +kernel +zetaReduce⟩),
    (let p : Fin 1024 := 0; let c : Chip := (pt 0 .quarantine).chip; let d : Chip := c.portFault p.val
     ⟨p, c, d, by decide +kernel +zetaReduce⟩),
    (let p : Fin 1024 := 0; let c : Chip := queued 256 5 (.port 0) (queued 0 5 (.port 0) (pt 0 .active).chip)
     let x := ((c.portFault p.val).copies).headD (cp 0 5 (.port 0)); let d : Chip := c.portFault p.val
     ⟨p, c, d, x, by decide +kernel +zetaReduce⟩),
    (let p : Fin 1024 := 0; let c : Chip := rxq 16 5 [hd uni] (pt 0 .active).chip
     let kv := (16 * 16 + 5, { queue := [(0, hd uni)] }); let d : Chip := c.portFault p.val
     ⟨p, c, d, kv, by decide +kernel +zetaReduce⟩),
    (let p : Fin 1024 := 0; let c : Chip := (pt 0 .init).chip; ⟨p, c, by decide +kernel +zetaReduce⟩),
    (let p : Fin 1024 := 1020; let c : Chip := Chip.reset; ⟨p, c, by decide +kernel +zetaReduce⟩),
    (let dom : Dom := .owner; let q : Fin 4 := 3; let d : Fin 16 := 15; let val : Word := 0x10002; let s : State := mkS id
     ⟨dom, q, d, val, s, by decide +kernel +zetaReduce⟩),
    (let dom : Dom := .owner; let q : Fin 4 := 3; let d : Fin 16 := 15; let val : Word := 0xFFF00FF
     let s : State := mkS id; ⟨dom, q, d, val, s, by decide +kernel +zetaReduce⟩)⟩

/-- States and operands that meet the hypotheses of `Obligations.CheckersPowerAndMend`, clause by clause. -/
theorem witness_CheckersPowerAndMend :
    (∃ (lane : Fin 2048) (s : State), bit (s.chip.fpBits (lane.val / 8 * 4) 0x138) (lane.val % 8) = true) ∧
    (∃ (lane : Fin 2048) (s : State), bit (s.chip.fpBits (lane.val / 8 * 4) 0x13C) (lane.val % 8) = true) ∧
    (∃ (e : Fin 16) (s : State), s.chip.isOn (8 + e.val) 0x40 = true) ∧
    (∃ (q : Fin 4) (i : Fin 4) (f : Frame) (k : Nat) (s : State), seamOf (seamLink q.val i.val) = some k ∧ (s.chip.seam
      k).up = true ∧ frameCrcOk f = false) ∧
    (∃ (c : Chip) (l : Nat), (c.link l).recov = false) ∧
    (∃ (c : Chip) (l : Nat), (c.link l).recov = true) ∧
    (∃ (link : LinkId) (f : Frame) (corr : List Nat) (uncorr : List Nat) (c : Chip) (d : Chip) (s : State), s.chip.carries
      (linkKey link) = true ∧ c = (if linkKey link < 1024 then s.chip.takeFec (linkKey link) corr uncorr else
      s.chip).loopBack (linkKey link) f ∧ frameCrcOk f = true ∧ (1024 ≤ linkKey link ∨ uncorr.all (· == 0) = true) ∧
      frameKind f = 0 ∧ (decide (linkKey link < 1024) && (c.port (linkKey link)).st == .init) = false ∧ frameBadStitch f =
      false ∧ d = c.takeControl (linkKey link) f ∧ frameFseq f = (d.link (linkKey link)).rxExp) ∧
    (∃ (link : LinkId) (f : Frame) (corr : List Nat) (uncorr : List Nat) (c : Chip) (d : Chip) (s : State), s.chip.carries
      (linkKey link) = true ∧ c = (if linkKey link < 1024 then s.chip.takeFec (linkKey link) corr uncorr else
      s.chip).loopBack (linkKey link) f ∧ frameCrcOk f = true ∧ (1024 ≤ linkKey link ∨ uncorr.all (· == 0) = true) ∧
      frameKind f = 0 ∧ (decide (linkKey link < 1024) && (c.port (linkKey link)).st == .init) = false ∧ frameBadStitch f =
      false ∧ d = c.takeControl (linkKey link) f ∧ 1 ≤ ((d.link (linkKey link)).rxExp + 4096 - frameFseq f) % 4096 ∧
      ((d.link (linkKey link)).rxExp + 4096 - frameFseq f) % 4096 ≤ 2048) ∧
    (∃ (link : LinkId) (f : Frame) (corr : List Nat) (uncorr : List Nat) (c : Chip) (d : Chip) (s : State), s.chip.carries
      (linkKey link) = true ∧ c = (if linkKey link < 1024 then s.chip.takeFec (linkKey link) corr uncorr else
      s.chip).loopBack (linkKey link) f ∧ frameCrcOk f = true ∧ (1024 ≤ linkKey link ∨ uncorr.all (· == 0) = true) ∧
      frameKind f = 0 ∧ (decide (linkKey link < 1024) && (c.port (linkKey link)).st == .init) = false ∧ frameBadStitch f =
      false ∧ d = c.takeControl (linkKey link) f ∧ 2048 < ((d.link (linkKey link)).rxExp + 4096 - frameFseq f) % 4096) ∧
    (∃ (link : LinkId) (f : RepFrame) (rest : List RepFrame) (s : State), (s.chip.link (linkKey link)).replay = f :: rest ∧
      s.chip.carries (linkKey link) = true) ∧
    (∃ (link : LinkId) (f : RepFrame) (rest : List RepFrame) (s : State), (s.chip.link (linkKey link)).replay = f :: rest ∧
      s.chip.carries (linkKey link) = true) ∧
    (∃ (l : Nat) (c : Chip), (1024 ≤ l ∨ c.lanesUp l = true)) ∧
    (∃ (l : Nat) (c : Chip), l < 1024 ∧ c.lanesUp l = false) ∧
    (∃ (l : Nat) (ack : Nat) (c : Chip), (c.link l).nakAck = some ack ∧ (c.now < (c.link l).replayEnd ∨ (c.link l).replayDue
      = true)) ∧
    (∃ (l : Nat) (ack : Nat) (c : Chip), (c.link l).nakAck = some ack ∧ (c.now < (c.link l).replayEnd ∨ (c.link l).replayDue
      = true)) ∧
    (∃ (l : Nat) (ack : Nat) (c : Chip), (c.link l).nakAck ≠ some ack ∨ (c.now ≥ (c.link l).replayEnd ∧ (c.link l).replayDue
      = false)) ∧
    (∃ (l : Nat) (ack : Nat) (c : Chip), (c.link l).nakAck ≠ some ack ∨ (c.now ≥ (c.link l).replayEnd ∧ (c.link l).replayDue
      = false)) ∧
    (∃ (l : Nat) (c : Chip), (c.link l).replayDue = true) ∧
    (∃ (link : LinkId) (s : State), (s.chip.link (linkKey link)).recov = true ∧ s.chip.carries (linkKey link) = true) ∧
    (∃ (p : Fin 1024) (s : State), s.chip.worn p.val = true) ∧
    (∃ (link : LinkId) (st : List Stitch) (c : Chip) (s : State), s.chip.carries (linkKey link) = true ∧ (1024 ≤ linkKey
      link ∨ ((s.chip.port (linkKey link)).st ≠ .init ∧ s.chip.lanesUp (linkKey link) = true ∧ s.chip.isQuiet (linkKey link)
      = false)) ∧ (if s.chip.txOpen (linkKey link) then s.chip.nextData (linkKey link) else ([], s.chip)) = (st, c) ∧ st =
      []) ∧
    (∃ (link : LinkId) (st : List Stitch) (c : Chip) (s : State), s.chip.carries (linkKey link) = true ∧ (1024 ≤ linkKey
      link ∨ ((s.chip.port (linkKey link)).st ≠ .init ∧ s.chip.lanesUp (linkKey link) = true ∧ s.chip.isQuiet (linkKey link)
      = false)) ∧ (if s.chip.txOpen (linkKey link) then s.chip.nextData (linkKey link) else ([], s.chip)) = (st, c) ∧ st ≠
      []) ∧
    (∃ (l : Nat), 1024 ≤ l) ∧
    (∃ (l : Nat) (kind : Nat) (fseq : Nat) (map : Nat) (content : List Byte) (c : Chip) (f : Frame), f = c.nextFrame l kind
      fseq map content ∧ kind < 4 ∧ fseq < 4096 ∧ map < 2 ^ 32 ∧ content.length = 496) ∧
    (∃ (l : Nat) (kind : Nat) (fseq : Nat) (map : Nat) (content : List Byte) (c : Chip) (f : Frame) (i : Nat), f =
      c.nextFrame l kind fseq map content ∧ kind < 4 ∧ fseq < 4096 ∧ map < 2 ^ 32 ∧ content.length = 496 ∧ i < 8) :=
  ⟨ (let lane : Fin 2048 := 2047; let s : State := mkS (fun c => c.setReg (regAddr 3 0x1F 0x138) 0xFFFFFFFF)
     ⟨lane, s, by decide +kernel +zetaReduce⟩),
    (let lane : Fin 2048 := 2047; let s : State := mkS (fun c => c.setReg (regAddr 3 0x1F 0x13C) 0xFFFFFFFF)
     ⟨lane, s, by decide +kernel +zetaReduce⟩),
    (let e : Fin 16 := 15; let s : State := mkS (onPg 23 0x40); ⟨e, s, by decide +kernel +zetaReduce⟩),
    (let q : Fin 4 := 3; let i : Fin 4 := 3; let k : Nat := 9; let f : Frame := { head := 0, content := [], tail := 1 }
     let s : State := mkS (fun c => c.onSeam 9 (fun x => { x with up := true }))
     ⟨q, i, f, k, s, by decide +kernel +zetaReduce⟩),
    (let c : Chip := Chip.reset; let l : Nat := 1024; ⟨c, l, by decide +kernel +zetaReduce⟩),
    (let c : Chip := Chip.reset.onLink 1024 (fun l => { l with recov := true }); let l : Nat := 1024
     ⟨c, l, by decide +kernel +zetaReduce⟩),
    (let link : LinkId := .seam 3 3; let f : Frame := dataFrame; let corr : List Nat := []; let uncorr : List Nat := []
     let s : State := mkS (fun c => (c.onSeam 9 (fun x => { x with up := true })).onLink 1039 (fun l => { l with rxExp := 5 }))
     let c : Chip := (if linkKey link < 1024 then s.chip.takeFec (linkKey link) corr uncorr else s.chip).loopBack (linkKey link) f
     let d : Chip := c.takeControl (linkKey link) f
     ⟨link, f, corr, uncorr, c, d, s, by decide +kernel +zetaReduce, rfl, dataFrame_crc,
      by decide +kernel +zetaReduce, by decide +kernel +zetaReduce, by decide +kernel +zetaReduce,
      by decide +kernel +zetaReduce, rfl, by decide +kernel +zetaReduce⟩),
    (let link : LinkId := .seam 3 3; let f : Frame := dataFrame; let corr : List Nat := []; let uncorr : List Nat := []
     let s : State := mkS (fun c => (c.onSeam 9 (fun x => { x with up := true })).onLink 1039 (fun l => { l with rxExp := 6 }))
     let c : Chip := (if linkKey link < 1024 then s.chip.takeFec (linkKey link) corr uncorr else s.chip).loopBack (linkKey link) f
     let d : Chip := c.takeControl (linkKey link) f
     ⟨link, f, corr, uncorr, c, d, s, by decide +kernel +zetaReduce, rfl, dataFrame_crc,
      by decide +kernel +zetaReduce, by decide +kernel +zetaReduce, by decide +kernel +zetaReduce,
      by decide +kernel +zetaReduce, rfl, by decide +kernel +zetaReduce, by decide +kernel +zetaReduce⟩),
    (let link : LinkId := .seam 3 3; let f : Frame := dataFrame; let corr : List Nat := []; let uncorr : List Nat := []
     let s : State := mkS (fun c => (c.onSeam 9 (fun x => { x with up := true })).onLink 1039 (fun l => { l with rxExp := 4 }))
     let c : Chip := (if linkKey link < 1024 then s.chip.takeFec (linkKey link) corr uncorr else s.chip).loopBack (linkKey link) f
     let d : Chip := c.takeControl (linkKey link) f
     ⟨link, f, corr, uncorr, c, d, s, by decide +kernel +zetaReduce, rfl, dataFrame_crc,
      by decide +kernel +zetaReduce, by decide +kernel +zetaReduce, by decide +kernel +zetaReduce,
      by decide +kernel +zetaReduce, rfl, by decide +kernel +zetaReduce⟩),
    (let link : LinkId := .port 1020; let f : RepFrame := { fseq := 3, resends := 16, sentAt := 0, stitches := [] }
     let rest : List RepFrame := []
     let s : State := (pt 1020 .active).onPart (fun c => c.onLink 1020 (fun l => { l with replay := [{ fseq := 3, resends := 16, sentAt := 0, stitches := [] }] }))
     ⟨link, f, rest, s, by decide +kernel +zetaReduce⟩),
    (let link : LinkId := .pp 3; let f : RepFrame := { fseq := 3, resends := 16, sentAt := 0, stitches := [] }
     let rest : List RepFrame := []
     let s : State := mkS (fun c => (c.onSeam 9 (fun x => { x with up := true })).onLink 1043 (fun l => { l with replay := [{ fseq := 3, resends := 16, sentAt := 0, stitches := [] }] }))
     ⟨link, f, rest, s, by decide +kernel +zetaReduce⟩),
    (let l : Nat := 1024; let c : Chip := Chip.reset; ⟨l, c, by decide +kernel +zetaReduce⟩),
    (let l : Nat := 0; let c : Chip := (pt 0 .active).chip; ⟨l, c, by decide +kernel +zetaReduce⟩),
    (let l : Nat := 1024; let ack : Nat := 7
     let c : Chip := Chip.reset.onLink 1024 (fun l => { l with nakAck := some 7, replayEnd := 9 })
     ⟨l, ack, c, by decide +kernel +zetaReduce⟩),
    (let l : Nat := 0; let ack : Nat := 7
     let c : Chip := (pt 0 .active).chip.onLink 0 (fun l => { l with nakAck := some 7, replayDue := true })
     ⟨l, ack, c, by decide +kernel +zetaReduce⟩),
    (let l : Nat := 1024; let ack : Nat := 7
     let c : Chip := Chip.reset.onLink 1024 (fun l => { l with nakAck := some 7, replayEnd := 0 })
     ⟨l, ack, c, by decide +kernel +zetaReduce⟩),
    (let l : Nat := 0; let ack : Nat := 8
     let c : Chip := (pt 0 .active).chip.onLink 0 (fun l => { l with nakAck := some 7, replayDue := true })
     ⟨l, ack, c, by decide +kernel +zetaReduce⟩),
    (let l : Nat := 0
     let c : Chip := (pt 0 .active).chip.onLink 0 (fun l => { l with nakAck := some 7, replayDue := true, replay := [{ fseq := 3, resends := 1, sentAt := 0, stitches := [] }] })
     ⟨l, c, by decide +kernel +zetaReduce⟩),
    (let link : LinkId := .seam 0 0
     let s : State := mkS (fun c => (c.onSeam 0 (fun x => { x with up := true })).onLink 1024 (fun l => { l with recov := true }))
     ⟨link, s, by decide +kernel +zetaReduce⟩),
    (let p : Fin 1024 := 0
     let s : State := (pt 0 .active).onPart (fun c => c.onLink 0 (fun l => { l with replay := [{ fseq := 3, resends := 16, sentAt := 0, stitches := [] }] }))
     ⟨p, s, by decide +kernel +zetaReduce⟩),
    (let link : LinkId := .seam 0 0; let st : List Stitch := []
     let s : State := mkS (fun c => c.onSeam 0 (fun x => { x with up := true })); let c : Chip := s.chip
     ⟨link, st, c, s, by decide +kernel +zetaReduce⟩),
    (let link : LinkId := .seam 0 0
     let s : State := mkS (fun c => ((queued 1024 5 (.port 0) (c.onSeam 0 (fun x => { x with up := true }))).onLink 1024 (fun l => { l with shared := 9 })).onCopy 1 (fun x => { x with headSent := true }))
     let st : List Stitch := (s.chip.nextData 1024).1; let c : Chip := (s.chip.nextData 1024).2
     ⟨link, st, c, s, by decide +kernel +zetaReduce⟩),
    (let l : Nat := 1024; ⟨l, by decide +kernel +zetaReduce⟩),
    (let l : Nat := 1024; let kind : Nat := 1; let fseq : Nat := 4095; let map : Nat := 0xFFFFFFF5
     let content : List Byte := List.replicate 496 0; let c : Chip := Chip.reset
     let f : Frame := c.nextFrame l kind fseq map content
     ⟨l, kind, fseq, map, content, c, f, rfl, by decide +kernel +zetaReduce, by decide +kernel +zetaReduce,
      by decide +kernel +zetaReduce, by decide +kernel +zetaReduce⟩),
    (let l : Nat := 1024; let kind : Nat := 1; let fseq : Nat := 4095; let map : Nat := 0xFFFFFFF5
     let content : List Byte := List.replicate 496 0; let c : Chip := Chip.reset; let i : Nat := 0
     let f : Frame := c.nextFrame l kind fseq map content
     ⟨l, kind, fseq, map, content, c, f, i, rfl, by decide +kernel +zetaReduce, by decide +kernel +zetaReduce,
      by decide +kernel +zetaReduce, by decide +kernel +zetaReduce, by decide +kernel +zetaReduce⟩)⟩

/-- States and operands that meet the hypotheses of `Obligations.HeadArrivals`, clause by clause. -/
theorem witness_HeadArrivals :
    (∃ (q : Fin 4) (d : Fin 16) (i : Fin 16) (p : Fin 1024) (vc : Fin 10) (s : State), p = portAt q d i ∧ (s.chip.rxHead
      p.val vc.val = none ∨ ((s.chip.port p.val).st ≠ .active ∧ (s.chip.port p.val).st ≠ .quarantine))) ∧
    (∃ (q : Fin 4) (d : Fin 16) (i : Fin 16) (p : Fin 1024) (vc : Fin 10) (h : Hdr) (c : Chip) (s : State), p = portAt q d i
      ∧ s.chip.rxHead p.val vc.val = some h ∧ ((s.chip.port p.val).st = .active ∨ (s.chip.port p.val).st = .quarantine) ∧ c
      = s.chip.newId.2.judgeHead p.val vc.val s.chip.ids h) ∧
    (∃ (h : Hdr), flagsBad h = true) ∧
    (∃ (p : Fin 1024) (vc : Fin 10) (at_ : Nat) (b : List Byte) (t : List (Nat × List Byte)) (c : Chip), c.rxOf p.val vc.val
      = { cur := none, queue := (at_, b) :: t }) ∧
    (∃ (p : Fin 1024) (h : Hdr) (c : Chip), (c.port p.val).st = .quarantine ∧ c.quarOk p.val h = false) ∧
    (∃ (p : Fin 1024) (vc : Fin 10) (h : Hdr) (c : Chip), ((c.port p.val).st ≠ .quarantine ∨ c.quarOk p.val h = true) ∧
      c.headerBad p.val vc.val h = true) ∧
    (∃ (p : Fin 1024) (vc : Fin 10) (h0 : Hdr) (h : Hdr) (c : Chip) (d : Chip), ((c.port p.val).st ≠ .quarantine ∨ c.quarOk
      p.val h0 = true) ∧ c.headerBad p.val vc.val h0 = false ∧ h = { h0 with hops := h0.hops + 1 } ∧ d = c.pmc (p.val / 256)
      (p.val % 256 / 16) 0x1003 (some (p.val % 16)) none ∧ h.net = 3) ∧
    (∃ (p : Fin 1024) (vc : Fin 10) (h0 : Hdr) (h : Hdr) (c : Chip) (d : Chip), ((c.port p.val).st ≠ .quarantine ∨ c.quarOk
      p.val h0 = true) ∧ c.headerBad p.val vc.val h0 = false ∧ h = { h0 with hops := h0.hops + 1 } ∧ d = c.pmc (p.val / 256)
      (p.val % 256 / 16) 0x1003 (some (p.val % 16)) none ∧ h.net ≠ 3 ∧ d.isEdge p.val = true ∧ h.tc = 3 ∧ d.gateOpen (p.val
      / 256) = false) ∧
    (∃ (p : Fin 1024) (vc : Fin 10) (h0 : Hdr) (h : Hdr) (c : Chip) (d : Chip), ((c.port p.val).st ≠ .quarantine ∨ c.quarOk
      p.val h0 = true) ∧ c.headerBad p.val vc.val h0 = false ∧ h = { h0 with hops := h0.hops + 1 } ∧ d = c.pmc (p.val / 256)
      (p.val % 256 / 16) 0x1003 (some (p.val % 16)) none ∧ h.net ≠ 3 ∧ (h.tc ≠ 3 ∨ d.isEdge p.val = false ∨ d.gateOpen
      (p.val / 256) = true) ∧ d.mustHold p.val vc.val h = true) ∧
    (∃ (p : Fin 1024) (vc : Fin 10) (h0 : Hdr) (h : Hdr) (c : Chip) (d : Chip), ((c.port p.val).st ≠ .quarantine ∨ c.quarOk
      p.val h0 = true) ∧ c.headerBad p.val vc.val h0 = false ∧ h = { h0 with hops := h0.hops + 1 } ∧ d = c.pmc (p.val / 256)
      (p.val % 256 / 16) 0x1003 (some (p.val % 16)) none ∧ h.net ≠ 3 ∧ (h.tc ≠ 3 ∨ d.isEdge p.val = false ∨ d.gateOpen
      (p.val / 256) = true) ∧ d.mustHold p.val vc.val h = false) :=
  ⟨ (let q : Fin 4 := 3; let d : Fin 16 := 15; let i : Fin 16 := 15; let p : Fin 1024 := 1023; let vc : Fin 10 := 9
     let s : State := (pt 1023 .fault).onPart (rxq 1023 9 [hd uni]); ⟨q, d, i, p, vc, s, by decide +kernel +zetaReduce⟩),
    (let q : Fin 4 := 0; let d : Fin 16 := 0; let i : Fin 16 := 0; let p : Fin 1024 := 0; let vc : Fin 10 := 5
     let s : State := (pt 0 .quarantine).onPart (rxq 0 5 [hd uni])
     let h : Hdr := (s.chip.rxHead p.val vc.val).get (by decide +kernel)
     let c : Chip := s.chip.newId.2.judgeHead p.val vc.val s.chip.ids h
     ⟨q, d, i, p, vc, h, c, s, by decide +kernel +zetaReduce⟩),
    (let h : Hdr := { uni with mc := true }; ⟨h, by decide +kernel +zetaReduce⟩),
    (let p : Fin 1024 := 0; let vc : Fin 10 := 5; let at_ : Nat := 0; let b : List Byte := hd uni
     let t : List (Nat × List Byte) := []; let c : Chip := rxq 0 5 [hd uni] Chip.reset
     ⟨p, vc, at_, b, t, c, by decide +kernel +zetaReduce⟩),
    (let p : Fin 1024 := 0; let h : Hdr := uni; let c : Chip := (pt 0 .quarantine).chip
     ⟨p, h, c, by decide +kernel +zetaReduce⟩),
    (let p : Fin 1024 := 0; let vc : Fin 10 := 4; let h : Hdr := uni; let c : Chip := (pt 0 .active).chip
     ⟨p, vc, h, c, by decide +kernel +zetaReduce⟩),
    (let p : Fin 1024 := 0; let vc : Fin 10 := 9; let h0 : Hdr := ({ net := 3, op := 0x38, len := 8 } : Hdr)
     let c : Chip := (pt 0 .active).chip; let h : Hdr := { h0 with hops := h0.hops + 1 }
     let d : Chip := c.pmc (p.val / 256) (p.val % 256 / 16) 0x1003 (some (p.val % 16)) none
     ⟨p, vc, h0, h, c, d, by decide +kernel +zetaReduce⟩),
    (let p : Fin 1024 := 0; let vc : Fin 10 := 7; let h0 : Hdr := { uni with tc := 3 }
     let c : Chip := { ((pt 0 .active).chip.setReg (regAddr 0 0x40 0x200) 1).setReg (lnkReg 0 0x180) 9 with gate := [false, true, true, true] }
     let h : Hdr := { h0 with hops := h0.hops + 1 }
     let d : Chip := c.pmc (p.val / 256) (p.val % 256 / 16) 0x1003 (some (p.val % 16)) none
     ⟨p, vc, h0, h, c, d, by decide +kernel +zetaReduce⟩),
    (let p : Fin 1024 := 0; let vc : Fin 10 := 5; let h0 : Hdr := uni
     let c : Chip := { (pt 0 .active).chip with held := [{ port := 0, vc := 5, pkt := 7, island := 0 }] }
     let h : Hdr := { h0 with hops := h0.hops + 1 }
     let d : Chip := c.pmc (p.val / 256) (p.val % 256 / 16) 0x1003 (some (p.val % 16)) none
     ⟨p, vc, h0, h, c, d, by decide +kernel +zetaReduce⟩),
    (let p : Fin 1024 := 0; let vc : Fin 10 := 5; let h0 : Hdr := uni; let c : Chip := (pt 0 .active).chip
     let h : Hdr := { h0 with hops := h0.hops + 1 }
     let d : Chip := c.pmc (p.val / 256) (p.val % 256 / 16) 0x1003 (some (p.val % 16)) none
     ⟨p, vc, h0, h, c, d, by decide +kernel +zetaReduce⟩)⟩

/-- States and operands that meet the hypotheses of `Obligations.UnicastIsForwarded`, clause by clause. -/
theorem witness_UnicastIsForwarded :
    (∃ (q : Fin 4) (d : Fin 16) (i : Fin 16) (p : Fin 1024) (r : Fin 1024) (vc : Fin 10) (at_ : Nat) (b : List Byte) (x :
      Nat) (h0 : Hdr) (h : Hdr) (s : State), p = portAt q d i ∧ s.chip.rxOf p.val vc.val =
      { cur := none, queue := [(at_, b)] } ∧ h0 = Hdr.ofBits (BitVec.ofNat 128 (ofLe (b.take 16))) ∧ h =
      { h0 with hops := h0.hops + 1, bank := (s.chip.job h0.job).bankIn (portIsland p.val) } ∧ b ≠ [] ∧ (s.chip.port
      p.val).st = .active ∧ s.chip.headerBad p.val vc.val h0 = false ∧ flagsBad h0 = false ∧ s.chip.isEdge p.val = false ∧
      s.chip.held = [] ∧ s.chip.rinses = [] ∧ h.net ≤ 1 ∧ h.mc = false ∧ h.sw = false ∧ h.tc < 3 ∧ h.op ≠ 0x14 ∧
      s.chip.chunkLenOk (p.val / 256) h = true ∧ tgtKind (s.chip.route (p.val / 256) h.bank h.dest) = 1 ∧ tgtId
      (s.chip.route (p.val / 256) h.bank h.dest) = r.val ∧ (s.chip.port r.val).st = .active ∧ r.val / 256 = p.val / 256 ∧
      (s.chip.buf (p.val / 256)).mode = false ∧ findFree (s.chip.heldCells (p.val / 256)) ((s.chip.heldCells (p.val /
      256)).length + 1) (s.chip.buf (p.val / 256)).finder = some x ∧ s.chip.isOn (p.val / 256) (0x60 + p.val % 256 / 16) =
      false ∧ s.chip.isOn (p.val / 256) 0x70 = false ∧ s.chip.isOn (p.val / 256) 0x71 = false ∧ s.chip.lintTaps (p.val /
      256) = [] ∧ s.chip.regBit (quePage (p.val / 256) + 0x100) 2 = false ∧ (∀ k ∈ s.chip.pkts, k.id < s.chip.ids) ∧ (∀ e ∈
      s.chip.stores, e.sid < s.chip.ids ∧ e.pkt < s.chip.ids) ∧ (∀ y ∈ s.chip.copies, y.id < s.chip.ids ∧ y.sid <
      s.chip.ids)) ∧
    (∃ (q : Fin 4) (d : Fin 16) (i : Fin 16) (p : Fin 1024) (r : Fin 1024) (vc : Fin 10) (at_ : Nat) (b : List Byte) (x :
      Nat) (h0 : Hdr) (h : Hdr) (s : State), p = portAt q d i ∧ s.chip.rxOf p.val vc.val =
      { cur := none, queue := [(at_, b)] } ∧ h0 = Hdr.ofBits (BitVec.ofNat 128 (ofLe (b.take 16))) ∧ h =
      { h0 with hops := h0.hops + 1, bank := (s.chip.job h0.job).bankIn (portIsland p.val) } ∧ b ≠ [] ∧ (s.chip.port
      p.val).st = .active ∧ s.chip.headerBad p.val vc.val h0 = false ∧ flagsBad h0 = false ∧ s.chip.isEdge p.val = false ∧
      s.chip.held = [] ∧ s.chip.rinses = [] ∧ h.net ≤ 1 ∧ h.mc = false ∧ h.sw = false ∧ h.tc < 3 ∧ h.op ≠ 0x14 ∧
      s.chip.chunkLenOk (p.val / 256) h = true ∧ tgtKind (s.chip.route (p.val / 256) h.bank h.dest) = 1 ∧ tgtId
      (s.chip.route (p.val / 256) h.bank h.dest) = r.val ∧ (s.chip.port r.val).st = .active ∧ r.val / 256 = p.val / 256 ∧
      (s.chip.buf (p.val / 256)).mode = false ∧ findFree (s.chip.heldCells (p.val / 256)) ((s.chip.heldCells (p.val /
      256)).length + 1) (s.chip.buf (p.val / 256)).finder = some x ∧ s.chip.isOn (p.val / 256) (0x60 + p.val % 256 / 16) =
      false ∧ s.chip.isOn (p.val / 256) 0x70 = false ∧ s.chip.isOn (p.val / 256) 0x71 = false ∧ s.chip.lintTaps (p.val /
      256) = [] ∧ s.chip.regBit (quePage (p.val / 256) + 0x100) 2 = false ∧ (∀ k ∈ s.chip.pkts, k.id < s.chip.ids) ∧ (∀ e ∈
      s.chip.stores, e.sid < s.chip.ids ∧ e.pkt < s.chip.ids) ∧ (∀ y ∈ s.chip.copies, y.id < s.chip.ids ∧ y.sid <
      s.chip.ids)) :=
  ⟨ (let q : Fin 4 := 0; let d : Fin 16 := 0; let i : Fin 16 := 0; let p : Fin 1024 := 0; let r : Fin 1024 := 4
     let vc : Fin 10 := 5; let at_ : Nat := 0; let b : List Byte := hd uni
     let s : State := mkS (fun c => rxq 0 5 [hd uni] (((onPg 0 0x41 (upP 4 { st := .active } (upP 0 { st := .active } c))).putEntry 0 2 false 5 [0x404]).setReg (quePage 0 + 0x100) 1))
     let x : Nat := (findFree (s.chip.heldCells (p.val / 256)) ((s.chip.heldCells (p.val / 256)).length + 1) (s.chip.buf (p.val / 256)).finder).get (by decide +kernel)
     let h0 : Hdr := Hdr.ofBits (BitVec.ofNat 128 (ofLe (b.take 16)))
     let h : Hdr := { h0 with hops := h0.hops + 1, bank := (s.chip.job h0.job).bankIn (portIsland p.val) }
     ⟨q, d, i, p, r, vc, at_, b, x, h0, h, s, by decide +kernel +zetaReduce⟩),
    (let q : Fin 4 := 3; let d : Fin 16 := 0; let i : Fin 16 := 0; let p : Fin 1024 := 768; let r : Fin 1024 := 1020
     let vc : Fin 10 := 5; let at_ : Nat := 0; let b : List Byte := hd uni
     let s : State := mkS (fun c => rxq 768 5 [hd uni] (((onPg 3 0x41 (upP 1020 { st := .active } (upP 768 { st := .active } c))).putEntry 3 2 false 5 [0x7FC]).setReg (quePage 3 + 0x100) 1))
     let x : Nat := (findFree (s.chip.heldCells (p.val / 256)) ((s.chip.heldCells (p.val / 256)).length + 1) (s.chip.buf (p.val / 256)).finder).get (by decide +kernel)
     let h0 : Hdr := Hdr.ofBits (BitVec.ofNat 128 (ofLe (b.take 16)))
     let h : Hdr := { h0 with hops := h0.hops + 1, bank := (s.chip.job h0.job).bankIn (portIsland p.val) }
     ⟨q, d, i, p, r, vc, at_, b, x, h0, h, s, by decide +kernel +zetaReduce⟩)⟩

/-- States and operands that meet the hypotheses of `Obligations.TailArrivals`, clause by clause. -/
theorem witness_TailArrivals :
    (∃ (q : Fin 4) (d : Fin 16) (i : Fin 16) (p : Fin 1024) (vc : Fin 10) (s : State), p = portAt q d i ∧ (s.chip.rxOf p.val
      vc.val).cur = none) ∧
    (∃ (q : Fin 4) (d : Fin 16) (i : Fin 16) (p : Fin 1024) (vc : Fin 10) (r : RxCur) (s : State), p = portAt q d i ∧
      (s.chip.rxOf p.val vc.val).cur = some r ∧ r.got.length < r.need) ∧
    (∃ (q : Fin 4) (d : Fin 16) (i : Fin 16) (p : Fin 1024) (vc : Fin 10) (r : RxCur) (c : Chip) (s : State), p = portAt q d
      i ∧ (s.chip.rxOf p.val vc.val).cur = some r ∧ r.need ≤ r.got.length ∧ c = s.chip.setRx p.val vc.val
      { s.chip.rxOf p.val vc.val with cur := none } ∧ r.pkt = none) ∧
    (∃ (q : Fin 4) (d : Fin 16) (i : Fin 16) (p : Fin 1024) (vc : Fin 10) (r : RxCur) (c : Chip) (s : State) (k : _), p =
      portAt q d i ∧ (s.chip.rxOf p.val vc.val).cur = some r ∧ r.need ≤ r.got.length ∧ c = s.chip.setRx p.val vc.val
      { s.chip.rxOf p.val vc.val with cur := none } ∧ r.pkt = some k.id ∧ s.chip.pkt? k.id = some k) ∧
    (∃ (raw : List Byte) (tr : Nat) (k : Pkt) (st : Store) (c : Chip) (d : Chip), tailKnown (fld tr 39 32) = true ∧ sealOf
      { k.hdr with dest := k.oldDest } k.payload = BitVec.ofNat 32 tr ∧ d = c.lintTail k.id none raw (fld tr 39 32) (if 2 ≤
      tailCode (fld tr 39 32) then 0 else 1) ∧ c.entryStore? k.id = some st) ∧
    (∃ (p : Fin 1024) (raw : List Byte) (tr : Nat) (k : Pkt) (st : Store) (good : Bool) (c : Chip) (d : Chip), 2 ≤ tailCode
      (fld tr 39 32) ∧ good = (sealOf { k.hdr with dest := k.oldDest } k.payload == BitVec.ofNat 32 tr) ∧ d = (if tailKnown
      (fld tr 39 32) = true then c else c.pmcDiscard p.val 0).lintTail k.id none raw (fld tr 39 32) 0 ∧ c.entryStore? k.id =
      some st) ∧
    (∃ (p : Fin 1024) (raw : List Byte) (tr : Nat) (k : Pkt) (st : Store) (good : Bool) (c : Chip) (d : Chip), 2 ≤ tailCode
      (fld tr 39 32) ∧ good = (sealOf { k.hdr with dest := k.oldDest } k.payload == BitVec.ofNat 32 tr) ∧ d = (if tailKnown
      (fld tr 39 32) = true then c else c.pmcDiscard p.val 0).lintTail k.id none raw (fld tr 39 32) 0 ∧ c.entryStore? k.id =
      some st) ∧
    (∃ (b : Fin 256), tailKnown b.val = false) ∧
    (∃ (p : Fin 1024) (raw : List Byte) (tr : Nat) (k : Pkt) (c : Chip) (d : Chip), tailKnown (fld tr 39 32) = true ∧
      tailCode (fld tr 39 32) ≤ 1 ∧ sealOf { k.hdr with dest := k.oldDest } k.payload ≠ BitVec.ofNat 32 tr ∧ d = (c.lintTail
      k.id none raw (fld tr 39 32) 2).onPort p.val (fun x => { x with sealDrop := x.sealDrop + 1 }) ∧ d.hasLeft k.id =
      false) ∧
    (∃ (p : Fin 1024) (raw : List Byte) (tr : Nat) (k : Pkt) (c : Chip) (d : Chip) (st : _), tailKnown (fld tr 39 32) = true
      ∧ tailCode (fld tr 39 32) ≤ 1 ∧ sealOf { k.hdr with dest := k.oldDest } k.payload ≠ BitVec.ofNat 32 tr ∧ d =
      (c.lintTail k.id none raw (fld tr 39 32) 2).onPort p.val (fun x => { x with sealDrop := x.sealDrop + 1 }) ∧ d.hasLeft
      k.id = true ∧ (d.sealFailed k.id).2.entryStore? k.id = some st) :=
  ⟨ (let q : Fin 4 := 0; let d : Fin 16 := 0; let i : Fin 16 := 0; let p : Fin 1024 := 0; let vc : Fin 10 := 5
     let s : State := pt 0 .active; ⟨q, d, i, p, vc, s, by decide +kernel +zetaReduce⟩),
    (let q : Fin 4 := 0; let d : Fin 16 := 0; let i : Fin 16 := 0; let p : Fin 1024 := 0; let vc : Fin 10 := 5
     let s : State := (pt 0 .active).onPart (fun c => rxc 0 5 none [] c)
     let r : RxCur := ((s.chip.rxOf p.val vc.val).cur).get (by decide +kernel)
     ⟨q, d, i, p, vc, r, s, by decide +kernel +zetaReduce⟩),
    (let q : Fin 4 := 0; let d : Fin 16 := 0; let i : Fin 16 := 0; let p : Fin 1024 := 0; let vc : Fin 10 := 5
     let s : State := (pt 0 .active).onPart (fun c => rxc 0 5 none (List.replicate 40 0) c)
     let r : RxCur := ((s.chip.rxOf p.val vc.val).cur).get (by decide +kernel)
     let c : Chip := s.chip.setRx p.val vc.val { s.chip.rxOf p.val vc.val with cur := none }
     ⟨q, d, i, p, vc, r, c, s, by decide +kernel +zetaReduce⟩),
    (let q : Fin 4 := 0; let d : Fin 16 := 0; let i : Fin 16 := 0; let p : Fin 1024 := 0; let vc : Fin 10 := 5
     let k := { pk0 with payload := List.replicate 16 7 }
     let s : State := (pt 0 .active).onPart (fun c => under id (rxc 0 5 (some 0) (List.replicate 40 0) c))
     let r : RxCur := ((s.chip.rxOf p.val vc.val).cur).get (by decide +kernel)
     let c : Chip := s.chip.setRx p.val vc.val { s.chip.rxOf p.val vc.val with cur := none }
     ⟨q, d, i, p, vc, r, c, s, k, by decide +kernel +zetaReduce⟩),
    (let raw : List Byte := List.replicate 40 0; let k : Pkt := { pk0 with payload := List.replicate 16 7 }
     let tr : Nat := (sealOf uni (List.replicate 16 7)).toNat + put 0x0F 32; let c : Chip := under id (pt 0 .active).chip
     let d : Chip := c.lintTail k.id none raw (fld tr 39 32) (if 2 ≤ tailCode (fld tr 39 32) then 0 else 1)
     let st : Store := (c.entryStore? k.id).get (by decide +kernel); ⟨raw, tr, k, st, c, d, by decide +kernel +zetaReduce⟩),
    (let p : Fin 1024 := 0; let raw : List Byte := List.replicate 40 0
     let k : Pkt := { pk0 with payload := List.replicate 16 7 }; let tr : Nat := put 0x55 32
     let c : Chip := under id (pt 0 .active).chip
     let good : Bool := (sealOf { k.hdr with dest := k.oldDest } k.payload == BitVec.ofNat 32 tr)
     let d : Chip := (if tailKnown (fld tr 39 32) = true then c else c.pmcDiscard p.val 0).lintTail k.id none raw (fld tr 39 32) 0
     let st : Store := (c.entryStore? k.id).get (by decide +kernel)
     ⟨p, raw, tr, k, st, good, c, d, by decide +kernel +zetaReduce⟩),
    (let p : Fin 1024 := 1023; let raw : List Byte := List.replicate 40 0
     let k : Pkt := { pk0 with payload := List.replicate 16 7 }; let tr : Nat := put 0x10 32
     let c : Chip := under id (pt 0 .active).chip
     let good : Bool := (sealOf { k.hdr with dest := k.oldDest } k.payload == BitVec.ofNat 32 tr)
     let d : Chip := (if tailKnown (fld tr 39 32) = true then c else c.pmcDiscard p.val 0).lintTail k.id none raw (fld tr 39 32) 0
     let st : Store := (c.entryStore? k.id).get (by decide +kernel)
     ⟨p, raw, tr, k, st, good, c, d, by decide +kernel +zetaReduce⟩),
    (let b : Fin 256 := 0x10; ⟨b, by decide +kernel +zetaReduce⟩),
    (let p : Fin 1024 := 0; let raw : List Byte := List.replicate 40 0
     let k : Pkt := { pk0 with payload := List.replicate 16 7 }; let tr : Nat := put 0x0F 32
     let c : Chip := under id (pt 0 .active).chip
     let d : Chip := (c.lintTail k.id none raw (fld tr 39 32) 2).onPort p.val (fun x => { x with sealDrop := x.sealDrop + 1 })
     ⟨p, raw, tr, k, c, d, by decide +kernel +zetaReduce⟩),
    (let p : Fin 1024 := 0; let raw : List Byte := List.replicate 40 0
     let k : Pkt := { pk0 with payload := List.replicate 16 7 }; let tr : Nat := put 0x33 32
     let c : Chip := under (fun x => { x with headSent := true, sent := 16 }) (pt 0 .active).chip
     let d : Chip := (c.lintTail k.id none raw (fld tr 39 32) 2).onPort p.val (fun x => { x with sealDrop := x.sealDrop + 1 })
     let st := ((d.sealFailed k.id).2.entryStore? k.id).get (by decide +kernel)
     ⟨p, raw, tr, k, c, d, st, by decide +kernel +zetaReduce⟩)⟩

/-- States and operands that meet the hypotheses of `Obligations.SeamArrivals`, clause by clause. -/
theorem witness_SeamArrivals :
    (∃ (q : Fin 4) (s : State), (s.chip.page (pageKey q.val 0x45)).st = 4) ∧
    (∃ (q : Fin 4) (i : Fin 4) (vc : Fin 10) (x : Copy) (k : Pkt) (c : Chip) (d : Chip) (s : State), i.val < 3 ∧
      (s.chip.page (pageKey q.val 0x45)).st ≠ 4 ∧ s.chip.seamFront (farEnd (seamLink q.val i.val)) vc.val = some x ∧
      s.chip.pkt? x.pkt = some k ∧ c = s.chip.seamStore (seamLink q.val i.val) vc.val q.val x k ∧ d = (if s.chip.sizeOf
      x.pkt ≤ x.got then c.seamTail (seamLink q.val i.val) x.id else c.seamOver x.id)) ∧
    (∃ (p : Fin 4) (vc : Fin 10) (x : Copy) (k : Pkt) (c : Chip) (d : Chip) (s : State), s.chip.seamFront (seamLink p.val 3)
      vc.val = some x ∧ s.chip.pkt? x.pkt = some k ∧ c = s.chip.onCopy x.id (fun x => { x with arrived := true }) ∧ d = (if
      s.chip.sizeOf x.pkt ≤ x.got then c.seamTail (ppLink p.val) x.id else c.seamOver x.id)) ∧
    (∃ (p : Fin 4) (vc : Fin 10) (x : Copy) (k : Pkt) (c : Chip) (d : Chip) (s : State), (s.chip.page (pageKey p.val
      0x45)).st ≠ 4 ∧ s.chip.seamFront (ppLink p.val) vc.val = some x ∧ s.chip.pkt? x.pkt = some k ∧ c = s.chip.pressHead
      (seamLink p.val 3) vc.val p.val x k ∧ d = (if s.chip.sizeOf x.pkt ≤ x.got then c.seamTail (seamLink p.val 3) x.id else
      c.seamOver x.id)) ∧
    (∃ (l : LinkId) (vc : Fin 10) (s : State), s.chip.seamFront (farEnd (linkKey l)) vc.val = none) ∧
    (∃ (e : Nat) (ctx : Nat) (x : Copy) (k : Pkt) (c : Chip), c.copy? x.id = some x ∧ c.pkt? x.pkt = some k ∧ x.goal =
      .press e ctx ∧ x.ended = false) ∧
    (∃ (q : Fin 4) (vc : Nat) (x : Copy) (k : Pkt) (t : Nat × Goal × List Nat) (r : List (Nat × Goal × List Nat)) (c : Chip)
      (d : Chip), c.onward q.val x k = (t :: r, d) ∧ d.tc3Full q.val vc k.hdr (t :: r) = false) ∧
    (∃ (q : Fin 4) (x : Copy) (k : Pkt) (c : Chip) (d : Chip), c.onward q.val x k = ([], d)) :=
  ⟨ (let q : Fin 4 := 3; let s : State := mkS (fun c => c.setPage (pageKey 3 0x45) { st := 4 })
     ⟨q, s, by decide +kernel +zetaReduce⟩),
    (let q : Fin 4 := 3; let i : Fin 4 := 2; let vc : Fin 10 := 5
     let x : Copy := { cp (farEnd 1038) 5 (.port 1020) with headSent := true, sent := 40, tailSent := true, got := 40, owed := [40] }
     let k : Pkt := { pk0 with payload := List.replicate 16 7 }
     let s : State := (mkS (fun c => { c with pkts := [{ pk0 with payload := List.replicate 16 7 }], copies := [{ cp (farEnd 1038) 5 (.port 1020) with headSent := true, sent := 40, tailSent := true, got := 40, owed := [40] }] }))
     let c : Chip := s.chip.seamStore (seamLink q.val i.val) vc.val q.val x k
     let d : Chip := (if s.chip.sizeOf x.pkt ≤ x.got then c.seamTail (seamLink q.val i.val) x.id else c.seamOver x.id)
     ⟨q, i, vc, x, k, c, d, s, by decide +kernel +zetaReduce⟩),
    (let p : Fin 4 := 3; let vc : Fin 10 := 0
     let x : Copy := { cp 1039 0 (.press 3 1) with headSent := true, sent := 40, tailSent := true, got := 40, owed := [40] }
     let k : Pkt := { pk0 with payload := List.replicate 16 7 }
     let s : State := (mkS (fun c => { c with pkts := [{ pk0 with payload := List.replicate 16 7 }], copies := [{ cp 1039 0 (.press 3 1) with headSent := true, sent := 40, tailSent := true, got := 40, owed := [40] }] }))
     let c : Chip := s.chip.onCopy x.id (fun x => { x with arrived := true })
     let d : Chip := (if s.chip.sizeOf x.pkt ≤ x.got then c.seamTail (ppLink p.val) x.id else c.seamOver x.id)
     ⟨p, vc, x, k, c, d, s, by decide +kernel +zetaReduce⟩),
    (let p : Fin 4 := 3; let vc : Fin 10 := 5
     let x : Copy := { cp 1043 5 (.port 3) with headSent := true, sent := 16, got := 16, owed := [16] }
     let k : Pkt := { pk0 with payload := List.replicate 16 7 }
     let s : State := (mkS (fun c => { c with pkts := [{ pk0 with payload := List.replicate 16 7 }], copies := [{ cp 1043 5 (.port 3) with headSent := true, sent := 16, got := 16, owed := [16] }] }))
     let c : Chip := s.chip.pressHead (seamLink p.val 3) vc.val p.val x k
     let d : Chip := (if s.chip.sizeOf x.pkt ≤ x.got then c.seamTail (seamLink p.val 3) x.id else c.seamOver x.id)
     ⟨p, vc, x, k, c, d, s, by decide +kernel +zetaReduce⟩),
    (let l : LinkId := .seam 0 0; let vc : Fin 10 := 0; let s : State := mkS id; ⟨l, vc, s, by decide +kernel +zetaReduce⟩),
    (let e : Nat := 3; let ctx : Nat := 1
     let x : Copy := { cp 1039 0 (.press 3 1) with headSent := true, sent := 40, tailSent := true, got := 40, owed := [40] }
     let k : Pkt := { pk0 with payload := List.replicate 16 7 }
     let c : Chip := (mkS (fun c => { c with pkts := [{ pk0 with payload := List.replicate 16 7 }], copies := [{ cp 1039 0 (.press 3 1) with headSent := true, sent := 40, tailSent := true, got := 40, owed := [40] }] })).chip
     ⟨e, ctx, x, k, c, by decide +kernel +zetaReduce⟩),
    (let q : Fin 4 := 3; let vc : Nat := 5
     let x : Copy := { cp (farEnd 1038) 5 (.port 1020) with headSent := true, sent := 40, tailSent := true, got := 40, owed := [40] }
     let k : Pkt := { pk0 with payload := List.replicate 16 7 }
     let c : Chip := upP 1020 { st := .active } (mkS (fun c => { c with pkts := [{ pk0 with payload := List.replicate 16 7 }], copies := [{ cp (farEnd 1038) 5 (.port 1020) with headSent := true, sent := 40, tailSent := true, got := 40, owed := [40] }] })).chip
     let t : Nat × Goal × List Nat := (1020, .port 1020, []); let r : List (Nat × Goal × List Nat) := []
     let d : Chip := (c.onward 3 x k).2; ⟨q, vc, x, k, t, r, c, d, by decide +kernel +zetaReduce⟩),
    (let q : Fin 4 := 3
     let x : Copy := { cp (farEnd 1038) 5 (.port 1020) with headSent := true, sent := 40, tailSent := true, got := 40, owed := [40] }
     let k : Pkt := { pk0 with payload := List.replicate 16 7 }
     let c : Chip := (mkS (fun c => { c with pkts := [{ pk0 with payload := List.replicate 16 7 }], copies := [{ cp (farEnd 1038) 5 (.port 1020) with headSent := true, sent := 40, tailSent := true, got := 40, owed := [40] }] })).chip
     let d : Chip := (c.onward 3 x k).2; ⟨q, x, k, c, d, by decide +kernel +zetaReduce⟩)⟩

/-- States and operands that meet the hypotheses of `Obligations.PacketsLeave`, clause by clause. -/
theorem witness_PacketsLeave :
    (∃ (l : LinkId) (vc : Fin 10) (x : Copy) (tl : List Copy) (r : List Stitch × Chip) (s : State), s.chip.queue (linkKey l)
      vc.val = x :: tl ∧ x.headSent = false ∧ s.chip.txOpen (linkKey l) = true ∧ r = s.chip.nextData (linkKey l) ∧ r.1.any
      (·.copy == x.id) = true) ∧
    (∃ (l : LinkId) (vc : Fin 10) (x : Copy) (tl : List Copy) (r : List Stitch × Chip) (s : State), s.chip.queue (linkKey l)
      vc.val = x :: tl ∧ x.headSent = false ∧ s.chip.txOpen (linkKey l) = true ∧ r = s.chip.nextData (linkKey l) ∧ r.1.any
      (·.copy == x.id) = true) ∧
    (∃ (l : LinkId) (vc : Fin 10) (x : Copy) (tl : List Copy) (r : List Stitch × Chip) (s : State), s.chip.queue (linkKey l)
      vc.val = x :: tl ∧ x.headSent = false ∧ s.chip.txOpen (linkKey l) = true ∧ r = s.chip.nextData (linkKey l) ∧ r.1.any
      (·.copy == x.id) = true) ∧
    (∃ (l : LinkId) (vc : Fin 10) (x : Copy) (tl : List Copy) (r : List Stitch × Chip) (s : State), s.chip.queue (linkKey l)
      vc.val = x :: tl ∧ x.headSent = false ∧ s.chip.txOpen (linkKey l) = true ∧ r = s.chip.nextData (linkKey l) ∧ r.1.any
      (·.copy == x.id) = false ∧ (r.2.copy? x.id).isSome = true) ∧
    (∃ (l : LinkId) (vc : Fin 10) (x : Copy) (tl : List Copy) (r : List Stitch × Chip) (s : State), s.chip.queue (linkKey l)
      vc.val = x :: tl ∧ x.headSent = false ∧ s.chip.txOpen (linkKey l) = true ∧ r = s.chip.nextData (linkKey l) ∧ r.1 = []
      ∧ r.2.copy? x.id = none) ∧
    (∃ (l : LinkId) (vc : Fin 10) (s : State), (s.chip.queue (linkKey l) vc.val = [] ∨ s.chip.txOpen (linkKey l) = false)) ∧
    (∃ (l : LinkId) (vc : Fin 10) (s : State), (s.chip.queue (linkKey l) vc.val = [] ∨ s.chip.txOpen (linkKey l) = false)) ∧
    (∃ (l : Nat) (i : Nat) (v : Nat) (e : Nat) (x : Copy) (k0 : Pkt) (k : Pkt) (c : Chip) (d : Chip) (f : Chip) (st : Stitch
      × Chip), i < 8 ∧ c.pick l (slotCap i) = (some v, d) ∧ d.ready l (slotCap i) v = some (x, k0) ∧ (if x.headSent then d
      else d.stampTime x.pkt).pkt? x.pkt = some k ∧ e = min (x.sent + slotCap i) k.hdr.size ∧ (if x.headSent then d else
      d.stampTime x.pkt).readCheck x k e = (true, f) ∧ st = f.putStitch l v e x k) ∧
    (∃ (l : Nat) (i : Nat) (v : Nat) (e : Nat) (x : Copy) (k0 : Pkt) (k : Pkt) (c : Chip) (d : Chip) (f : Chip) (st : Stitch
      × Chip), i < 8 ∧ c.pick l (slotCap i) = (some v, d) ∧ d.ready l (slotCap i) v = some (x, k0) ∧ (if x.headSent then d
      else d.stampTime x.pkt).pkt? x.pkt = some k ∧ e = min (x.sent + slotCap i) k.hdr.size ∧ (if x.headSent then d else
      d.stampTime x.pkt).readCheck x k e = (true, f) ∧ st = f.putStitch l v e x k) ∧
    (∃ (l : Nat) (cap : Nat) (c : Chip), (c.ready l cap 9).isSome = true) ∧
    (∃ (l : Nat) (cap : Nat) (c : Chip), c.ready l cap 9 = none ∧ (c.ready l cap 8).isSome = true) ∧
    (∃ (l : Nat) (cap : Nat) (c : Chip) (v : _), c.ready l cap 9 = none ∧ c.ready l cap 8 = none ∧ (c.pick l cap).1 = some
      v) ∧
    (∃ (x : Copy) (c : Chip), c.copy? x.id = some x) ∧
    (∃ (l : Nat) (v : Nat) (e : Nat) (x : Copy) (k : Pkt) (c : Chip) (y : _), c.copy? x.id = some x ∧ (c.putStitch l v e x
      k).2.copy? x.id = some y) ∧
    (∃ (l : LinkId) (vc : Fin 10) (x : Copy) (tl : List Copy) (s : State), s.chip.queue (linkKey l) vc.val = x :: tl ∧
      x.headSent = true) ∧
    (∃ (l : LinkId) (vc : Fin 10) (x : Copy) (tl : List Copy) (s : State), s.chip.queue (linkKey l) vc.val = x :: tl ∧
      x.headSent = false) ∧
    (∃ (l : LinkId) (vc : Fin 10) (s : State), s.chip.queue (linkKey l) vc.val = []) ∧
    (∃ (l : Nat) (id : Nat) (r : List Stitch × Chip) (c : Chip), c.txOpen l = true ∧ (c.copies.any (fun x => x.id == id &&
      !x.tailSent)) = true ∧ r = c.nextData l ∧ r.1 = []) ∧
    (∃ (l : Nat) (id : Nat) (r : List Stitch × Chip) (c : Chip), c.txOpen l = true ∧ (c.copies.any (fun x => x.id == id &&
      !x.tailSent)) = true ∧ r = c.nextData l ∧ r.1 ≠ []) ∧
    (∃ (l : Nat) (x : Copy) (k : Pkt) (c : Chip) (d : Chip) (e : Chip), c.copy? x.id = some x ∧ c.pkt? x.pkt = some k ∧ d =
      c.leave l (.tail l x.vc (((c.image x k).drop 16).take k.hdr.len) (BitVec.ofNat 64 (leAt (c.image x k) (k.hdr.len + 16)
      8))) ∧ e = d.lintTail k.id (some x.id) (c.image x k) (tailByte (c.codeOf x k)) 0 ∧ 1024 ≤ l) ∧
    (∃ (l : Nat) (x : Copy) (k : Pkt) (c : Chip) (d : Chip) (e : Chip), c.copy? x.id = some x ∧ c.pkt? x.pkt = some k ∧ d =
      c.leave l (.tail l x.vc (((c.image x k).drop 16).take k.hdr.len) (BitVec.ofNat 64 (leAt (c.image x k) (k.hdr.len + 16)
      8))) ∧ e = d.lintTail k.id (some x.id) (c.image x k) (tailByte (c.codeOf x k)) 0 ∧ l < 1024 ∧ digestCounts k.hdr =
      false ∧ e.isEdge l = false ∧ x.zeros = false) ∧
    (∃ (p : Fin 1024) (x : BitVec 24) (pay : List Byte) (a : Arr) (c : Chip) (s : State), s.chip.popProbe p.val 0x38 (fun a
      => a.hdr.aux == x.toNat && a.payload == pay) = (some a, c) ∧ ((s.chip.port p.val).st = .active ∨ (s.chip.port
      p.val).st = .quarantine) ∧ s.chip.rst.c0Up = true) ∧
    (∃ (p : Fin 1024) (a : Arr) (c : Chip) (s : State), s.chip.popProbe p.val 0x3C (fun _ => true) = (some a, c) ∧
      ((s.chip.port p.val).st = .active ∨ (s.chip.port p.val).st = .quarantine)) ∧
    (∃ (p : Fin 1024) (x : BitVec 24) (pay : List Byte) (c : Chip) (s : State), s.chip.popProbe p.val 0x38 (fun a =>
      a.hdr.aux == x.toNat && a.payload == pay) = (none, c)) ∧
    (∃ (p : Fin 1024) (c : Chip) (s : State), s.chip.popProbe p.val 0x3C (fun _ => true) = (none, c)) ∧
    (∃ (p : Nat) (op : Nat) (a : Arr) (rest : List (Nat × Arr)) (f : Arr → Bool) (c : Chip), c.probeIn = (p, a) :: rest ∧
      a.hdr.op = op ∧ f a = true) ∧
    (∃ (o : OutPkt) (rest : List OutPkt) (p : Nat) (ends : List Nat) (c : Chip) (d : Chip) (k : Pkt) (s : State),
      s.chip.c0Out = o :: rest ∧ o.via = some p ∧ p < 1024 ∧ (s.chip.port p).st.framed = true ∧ o.hdr.net = 3 ∧ o.hdr.mc =
      false ∧ o.hdr.tc = 0 ∧ ends = stitchEnds o.hdr.size ∧ (s.chip.injectCredits (p / 256)).hasCredit o.hdr.vc ends.length
      = true ∧ k =
      { id := s.chip.ids, hdr := s.chip.selectBank (64 + p / 256) o.hdr, oldDest := o.hdr.dest, origin := .ctl, entry := p / 256, vc := o.hdr.vc, stamp := s.chip.time.ft, rate := 0, payload := o.payload, tailIn := true, sealW := sealOf (s.chip.selectBank (64 + p / 256) o.hdr) o.payload, code := o.code }
      ∧ c =
      { s.chip with ids := s.chip.ids + 1, c0Out := rest, pkts := s.chip.pkts ++ [k], links := SMap.set s.chip.links (injectLink (p / 256)) ((s.chip.injectCredits (p / 256)).useCredit o.hdr.vc ends.length) }
      ∧ d = (Chip.tailStored (c.storePkt k.id (p / 256) (injectLink (p / 256)) o.hdr.vc k.hdr [(p, .port p, [])] none
      k.hdr.size ends false).2 (c.storePkt k.id (p / 256) (injectLink (p / 256)) o.hdr.vc k.hdr [(p, .port p, [])] none
      k.hdr.size ends false).1 true).mcCheck k.id) ∧
    (∃ (o : OutPkt) (rest : List OutPkt) (q : Fin 4) (s : State), s.chip.c0Out = o :: rest ∧ o.via = none ∧
      s.chip.injectQuad o = some q.val ∧ (s.chip.injectCredits q.val).hasCredit o.hdr.vc (stitchesOf o.hdr.size) = true ∧
      o.hdr.net = 1 ∧ o.hdr.mc = false ∧ o.hdr.sw = false ∧ tgtKind (s.chip.route q.val ((s.chip.job o.hdr.job).bankIn (64 +
      q.val)) o.hdr.dest) = 0) ∧
    (∃ (o : OutPkt) (rest : List OutPkt) (q : Fin 4) (s : State), s.chip.c0Out = o :: rest ∧ s.chip.injectQuad o = some
      q.val ∧ (s.chip.injectCredits q.val).hasCredit o.hdr.vc (stitchesOf o.hdr.size) = false) :=
  ⟨ (let l : LinkId := .seam 0 0; let vc : Fin 10 := 5; let tl : List Copy := []; let x : Copy := cp 1024 5 (.port 4)
     let s : State := (mkS (fun c => (fun (c : Chip) => (((queued 1024 5 (.port 4) c).onLink 1024 (fun k => { k with shared := 9 })).onCopy 1 (fun x => x))) (c.onSeam 0 (fun x => { x with up := true }))))
     let r : List Stitch × Chip := s.chip.nextData (linkKey l); ⟨l, vc, x, tl, r, s, by decide +kernel +zetaReduce⟩),
    (let l : LinkId := .pp 3; let vc : Fin 10 := 5; let tl : List Copy := []; let x : Copy := cp 1043 5 (.port 4)
     let s : State := (mkS (fun c => (fun (c : Chip) => (((queued 1043 5 (.port 4) c).onLink 1043 (fun k => { k with shared := 9 })).onCopy 1 (fun x => x))) (c.onSeam 9 (fun x => { x with up := true }))))
     let r : List Stitch × Chip := s.chip.nextData (linkKey l); ⟨l, vc, x, tl, r, s, by decide +kernel +zetaReduce⟩),
    (let l : LinkId := .port 4; let vc : Fin 10 := 5; let tl : List Copy := []; let x : Copy := cp 4 5 (.port 4)
     let s : State := (pt 4 .active).onPart (fun c => (((queued 4 5 (.port 4) c).onLink 4 (fun k => { k with shared := 9 })).onCopy 1 (fun x => x)).setReg (regAddr 0 0x10 0x10C) 0xFF00)
     let r : List Stitch × Chip := s.chip.nextData (linkKey l); ⟨l, vc, x, tl, r, s, by decide +kernel +zetaReduce⟩),
    (let l : LinkId := .seam 0 0; let vc : Fin 10 := 5; let tl : List Copy := []; let x : Copy := cp 1024 5 (.port 4)
     let s : State := (mkS (fun c => queued 1024 5 (.port 4) (c.onSeam 0 (fun x => { x with up := true }))))
     let r : List Stitch × Chip := s.chip.nextData (linkKey l); ⟨l, vc, x, tl, r, s, by decide +kernel +zetaReduce⟩),
    (let l : LinkId := .seam 0 0; let vc : Fin 10 := 5; let tl : List Copy := []; let x : Copy := cp 1024 5 (.port 4)
     let s : State := (mkS (fun c => (fun (c : Chip) => (((queued 1024 5 (.port 4) c).onLink 1024 (fun k => { k with shared := 9 })).onCopy 1 (fun x => x))) (c.onSeam 0 (fun x => { x with up := true })))).onPart (fun c => c.onBuf 0 (fun b => { b with badData := [0] }))
     let r : List Stitch × Chip := s.chip.nextData (linkKey l); ⟨l, vc, x, tl, r, s, by decide +kernel +zetaReduce⟩),
    (let l : LinkId := .port 4; let vc : Fin 10 := 5; let s : State := mkS id; ⟨l, vc, s, by decide +kernel +zetaReduce⟩),
    (let l : LinkId := .seam 0 0; let vc : Fin 10 := 5; let s : State := (mkS (fun c => queued 1024 5 (.port 4) c))
     ⟨l, vc, s, by decide +kernel +zetaReduce⟩),
    (let l : Nat := 1024; let i : Nat := 0; let v : Nat := 5
     let c : Chip := (mkS (fun c => (fun (c : Chip) => (((queued 1024 5 (.port 4) c).onLink 1024 (fun k => { k with shared := 9 })).onCopy 1 (fun x => x))) (c.onSeam 0 (fun x => { x with up := true })))).chip
     let d : Chip := (c.pick 1024 56).2; let x : Copy := cp 1024 5 (.port 4)
     let k0 : Pkt := { pk0 with payload := List.replicate 16 0, tailIn := true }; let k : Pkt := k0
     let f : Chip := ((if x.headSent then d else d.stampTime x.pkt).readCheck x k (min (x.sent + slotCap i) k.hdr.size)).2
     let e : Nat := min (x.sent + slotCap i) k.hdr.size; let st : Stitch × Chip := f.putStitch l v e x k
     ⟨l, i, v, e, x, k0, k, c, d, f, st, by decide +kernel +zetaReduce⟩),
    (let l : Nat := 1024; let i : Nat := 7; let v : Nat := 5
     let c : Chip := (mkS (fun c => (fun (c : Chip) => (((queued 1024 5 (.port 4) c).onLink 1024 (fun k => { k with shared := 9 })).onCopy 1 (fun x => { x with headSent := true, sent := 16 }))) (c.onSeam 0 (fun x => { x with up := true })))).chip
     let d : Chip := (c.pick 1024 56).2; let x : Copy := { cp 1024 5 (.port 4) with headSent := true, sent := 16 }
     let k0 : Pkt := { pk0 with payload := List.replicate 16 0, tailIn := true }; let k : Pkt := k0
     let f : Chip := ((if x.headSent then d else d.stampTime x.pkt).readCheck x k (min (x.sent + slotCap i) k.hdr.size)).2
     let e : Nat := min (x.sent + slotCap i) k.hdr.size; let st : Stitch × Chip := f.putStitch l v e x k
     ⟨l, i, v, e, x, k0, k, c, d, f, st, by decide +kernel +zetaReduce⟩),
    (let l : Nat := 1024; let cap : Nat := 56
     let c : Chip := queued 1024 9 (.port 4) (((Chip.reset.onLink 1024 (fun k => { k with priv := List.replicate 10 9 }))).onSeam 0 (fun x => { x with up := true }))
     ⟨l, cap, c, by decide +kernel +zetaReduce⟩),
    (let l : Nat := 1024; let cap : Nat := 56
     let c : Chip := queued 1024 8 (.port 4) (((Chip.reset.onLink 1024 (fun k => { k with priv := List.replicate 10 9 }))).onSeam 0 (fun x => { x with up := true }))
     ⟨l, cap, c, by decide +kernel +zetaReduce⟩),
    (let l : Nat := 1024; let cap : Nat := 56
     let c : Chip := queued 1024 5 (.port 4) (((Chip.reset.onLink 1024 (fun k => { k with priv := List.replicate 10 9 }))).onSeam 0 (fun x => { x with up := true }))
     let v := 5; ⟨l, cap, c, v, by decide +kernel +zetaReduce⟩),
    (let x : Copy := cp 1024 5 (.port 4); let k : Pkt := { pk0 with payload := List.replicate 16 0, tailIn := true }
     let c : Chip := queued 1024 5 (.port 4) (Chip.reset.onLink 1024 (fun k => { k with priv := List.replicate 10 9 }))
     ⟨x, c, by decide +kernel +zetaReduce⟩),
    (let l : Nat := 1024; let v : Nat := 5; let e : Nat := 40; let x : Copy := cp 1024 5 (.port 4)
     let k : Pkt := { pk0 with payload := List.replicate 16 0, tailIn := true }
     let c : Chip := queued 1024 5 (.port 4) (Chip.reset.onLink 1024 (fun k => { k with priv := List.replicate 10 9 }))
     let y := { cp 1024 5 (.port 4) with headSent := true, sent := 40, tailSent := true }
     ⟨l, v, e, x, k, c, y, by decide +kernel +zetaReduce⟩),
    (let l : LinkId := .seam 0 0; let vc : Fin 10 := 5; let tl : List Copy := []
     let x : Copy := { cp 1024 5 (.port 4) with headSent := true, sent := 16 }
     let s : State := (mkS (fun c => (fun (c : Chip) => (((queued 1024 5 (.port 4) c).onLink 1024 (fun k => { k with shared := 9 })).onCopy 1 (fun x => { x with headSent := true, sent := 16 }))) (c.onSeam 0 (fun x => { x with up := true }))))
     ⟨l, vc, x, tl, s, by decide +kernel +zetaReduce⟩),
    (let l : LinkId := .seam 0 0; let vc : Fin 10 := 5; let tl : List Copy := []; let x : Copy := cp 1024 5 (.port 4)
     let s : State := (mkS (fun c => (fun (c : Chip) => (((queued 1024 5 (.port 4) c).onLink 1024 (fun k => { k with shared := 9 })).onCopy 1 (fun x => x))) (c.onSeam 0 (fun x => { x with up := true }))))
     ⟨l, vc, x, tl, s, by decide +kernel +zetaReduce⟩),
    (let l : LinkId := .port 4; let vc : Fin 10 := 5; let s : State := mkS id; ⟨l, vc, s, by decide +kernel +zetaReduce⟩),
    (let l : Nat := 1024; let id : Nat := 1
     let c : Chip := (mkS (fun c => queued 1024 5 (.port 4) (c.onSeam 0 (fun x => { x with up := true })))).chip
     let r : List Stitch × Chip := c.nextData 1024; ⟨l, id, r, c, by decide +kernel +zetaReduce⟩),
    (let l : Nat := 1024; let id : Nat := 1
     let c : Chip := (mkS (fun c => (fun (c : Chip) => (((queued 1024 5 (.port 4) c).onLink 1024 (fun k => { k with shared := 9 })).onCopy 1 (fun x => { x with headSent := true, sent := 16 }))) (c.onSeam 0 (fun x => { x with up := true })))).chip
     let r : List Stitch × Chip := c.nextData 1024; ⟨l, id, r, c, by decide +kernel +zetaReduce⟩),
    (let l : Nat := 1024; let x : Copy := { cp 1024 5 (.port 4) with headSent := true, sent := 16 }
     let k : Pkt := { pk0 with payload := List.replicate 16 0, tailIn := true }
     let c : Chip := (mkS (fun c => (fun (c : Chip) => (((queued 1024 5 (.port 4) c).onLink 1024 (fun k => { k with shared := 9 })).onCopy 1 (fun x => { x with headSent := true, sent := 16 }))) (c.onSeam 0 (fun x => { x with up := true })))).chip
     let d : Chip := c.leave l (.tail l x.vc (((c.image x k).drop 16).take k.hdr.len) (BitVec.ofNat 64 (leAt (c.image x k) (k.hdr.len + 16) 8)))
     let e : Chip := d.lintTail k.id (some x.id) (c.image x k) (tailByte (c.codeOf x k)) 0
     ⟨l, x, k, c, d, e, by decide +kernel +zetaReduce⟩),
    (let l : Nat := 4; let x : Copy := { cp 4 5 (.port 4) with headSent := true }
     let k : Pkt := { pk0 with hdr := { uni with op := 0x15 } }
     let c : Chip := { (pt 4 .active).chip with pkts := [{ pk0 with hdr := { uni with op := 0x15 } }], stores := [sto], copies := [{ cp 4 5 (.port 4) with headSent := true }] }
     let d : Chip := c.leave l (.tail l x.vc (((c.image x k).drop 16).take k.hdr.len) (BitVec.ofNat 64 (leAt (c.image x k) (k.hdr.len + 16) 8)))
     let e : Chip := d.lintTail k.id (some x.id) (c.image x k) (tailByte (c.codeOf x k)) 0
     ⟨l, x, k, c, d, e, by decide +kernel +zetaReduce⟩),
    (let p : Fin 1024 := 1023
     let s : State := ((pt 1023 .active).onPart (fun c => { c with probeIn := [(1023, { hdr := { net := 3, op := 0x38, aux := 7, len := 2 }, payload := [1, 2], port := 1023, code := 0, sealOk := true, vc := 9 })] }))
     let a : Arr := { hdr := { net := 3, op := 0x38, aux := 7, len := 2 }, payload := [1, 2], port := 1023, code := 0, sealOk := true, vc := 9 }
     let x : BitVec 24 := 7; let pay : List Byte := [1, 2]
     let c : Chip := (s.chip.popProbe 1023 0x38 (fun a => a.hdr.aux == 7 && a.payload == [1, 2])).2
     ⟨p, x, pay, a, c, s, by decide +kernel +zetaReduce⟩),
    (let p : Fin 1024 := 1023
     let s : State := ((pt 1023 .quarantine).onPart (fun c => { c with probeIn := [(1023, { hdr := { net := 3, op := 0x3C, aux := 7, len := 2 }, payload := [1, 2], port := 1023, code := 0, sealOk := true, vc := 9 })] }))
     let a : Arr := { hdr := { net := 3, op := 0x3C, aux := 7, len := 2 }, payload := [1, 2], port := 1023, code := 0, sealOk := true, vc := 9 }
     let c : Chip := (s.chip.popProbe 1023 0x3C (fun _ => true)).2; ⟨p, a, c, s, by decide +kernel +zetaReduce⟩),
    (let p : Fin 1024 := 1023; let x : BitVec 24 := 7; let pay : List Byte := [1, 2]; let s : State := mkS id
     let c : Chip := s.chip; ⟨p, x, pay, c, s, by decide +kernel +zetaReduce⟩),
    (let p : Fin 1024 := 1023; let s : State := mkS id; let c : Chip := s.chip; ⟨p, c, s, by decide +kernel +zetaReduce⟩),
    (let p : Nat := 1023; let op : Nat := 0x38; let f : Arr → Bool := (fun a => a.hdr.aux == 7)
     let a : Arr := { hdr := { net := 3, op := 0x38, aux := 7, len := 2 }, payload := [1, 2], port := 1023, code := 0, sealOk := true, vc := 9 }
     let rest : List (Nat × Arr) := []
     let c : Chip := ((pt 1023 .active).onPart (fun c => { c with probeIn := [(1023, { hdr := { net := 3, op := 0x38, aux := 7, len := 2 }, payload := [1, 2], port := 1023, code := 0, sealOk := true, vc := 9 })] })).chip
     ⟨p, op, a, rest, f, c, by decide +kernel +zetaReduce⟩),
    (let o : OutPkt := { hdr := { net := 3, op := 0x39 }, payload := [], code := 0, via := some 4 }
     let rest : List OutPkt := []; let p : Nat := 4
     let s : State := (pt 4 .active).onPart (fun c => { c with c0Out := [{ hdr := { net := 3, op := 0x39 }, payload := [], code := 0, via := some 4 }] })
     let ends : List Nat := stitchEnds o.hdr.size
     let k : Pkt := { id := s.chip.ids, hdr := s.chip.selectBank (64 + p / 256) o.hdr, oldDest := o.hdr.dest, origin := .ctl, entry := p / 256, vc := o.hdr.vc, stamp := s.chip.time.ft, rate := 0, payload := o.payload, tailIn := true, sealW := sealOf (s.chip.selectBank (64 + p / 256) o.hdr) o.payload, code := o.code }
     let c : Chip := { s.chip with ids := s.chip.ids + 1, c0Out := rest, pkts := s.chip.pkts ++ [k], links := SMap.set s.chip.links (injectLink (p / 256)) ((s.chip.injectCredits (p / 256)).useCredit o.hdr.vc ends.length) }
     let d : Chip := (Chip.tailStored (c.storePkt k.id (p / 256) (injectLink (p / 256)) o.hdr.vc k.hdr [(p, .port p, [])] none k.hdr.size ends false).2 (c.storePkt k.id (p / 256) (injectLink (p / 256)) o.hdr.vc k.hdr [(p, .port p, [])] none k.hdr.size ends false).1 true).mcCheck k.id
     ⟨o, rest, p, ends, c, d, k, s, by decide +kernel +zetaReduce⟩),
    (let o : OutPkt := { hdr := uni, payload := [], code := 0, via := none }; let rest : List OutPkt := []
     let q : Fin 4 := 3
     let s : State := (mkS (fun c => onPg 3 0x45 (onPg 3 0x46 c))).onPart (fun c => { c with c0Out := [{ hdr := uni, payload := [], code := 0, via := none }] })
     ⟨o, rest, q, s, by decide +kernel +zetaReduce⟩),
    (let o : OutPkt := { hdr := uni, payload := [], code := 0, via := none }; let rest : List OutPkt := []
     let q : Fin 4 := 3
     let s : State := (mkS (fun c => onPg 3 0x45 (onPg 3 0x46 c))).onPart (fun c => { c with c0Out := [{ hdr := uni, payload := [], code := 0, via := none }], links := [(injectLink 3, {})] })
     ⟨o, rest, q, s, by decide +kernel +zetaReduce⟩)⟩

/-- States and operands that meet the hypotheses of `Obligations.TableCommandsAndWeights`, clause by clause. -/
theorem witness_TableCommandsAndWeights :
    (∃ (dom : Dom) (q : Fin 4) (pg : Nat) (addr : Word) (cmd : Word) (s : State), 0x40 ≤ pg ∧ pg ≤ 0x43 ∧ addr.toNat =
      regAddr q.val pg 0x100 ∧ cmd.toNat &&& 0xEF0FFFFF = cmd.toNat ∧ s.chip.isOn q.val pg = true ∧ MayWrite s.chip dom
      q.val pg 0x100 (goWord cmd.toNat true) ∧ s.chip.goBusy (regAddr q.val pg 0x100) = false) ∧
    (∃ (dom : Dom) (q : Fin 4) (pg : Nat) (addr : Word) (cmd : Word) (s : State), 0x40 ≤ pg ∧ pg ≤ 0x43 ∧ addr.toNat =
      regAddr q.val pg 0x100 ∧ cmd.toNat &&& 0xEF0FFFFF = cmd.toNat ∧ s.chip.isOn q.val pg = true ∧ MayWrite s.chip dom
      q.val pg 0x100 (goWord cmd.toNat true) ∧ s.chip.goBusy (regAddr q.val pg 0x100) = false) ∧
    (∃ (dom : Dom) (q : Fin 4) (pg : Nat) (addr : Word) (cmd : Word) (s : State), 0x40 ≤ pg ∧ pg ≤ 0x43 ∧ addr.toNat =
      regAddr q.val pg 0x100 ∧ cmd.toNat &&& 0xEF0FFFFF = cmd.toNat ∧ s.chip.isOn q.val pg = true ∧ MayWrite s.chip dom
      q.val pg 0x100 (goWord cmd.toNat true) ∧ s.chip.goBusy (regAddr q.val pg 0x100) = true) ∧
    (∃ (dom : Dom) (q : Fin 4) (pg : Nat) (addr : Word) (cmd : Word) (s : State), 0x40 ≤ pg ∧ pg ≤ 0x43 ∧ addr.toNat =
      regAddr q.val pg 0x100 ∧ cmd.toNat &&& 0xEF0FFFFF = cmd.toNat ∧ s.chip.isOn q.val pg = true ∧ MayWrite s.chip dom
      q.val pg 0x100 (goWord cmd.toNat false) ∧ s.chip.goBusy (regAddr q.val pg 0x100) = false) ∧
    (∃ (dom : Dom) (q : Fin 4) (pg : Nat) (addr : Word) (cmd : Word) (s : State), 0x40 ≤ pg ∧ pg ≤ 0x43 ∧ addr.toNat =
      regAddr q.val pg 0x100 ∧ cmd.toNat &&& 0xEF0FFFFF = cmd.toNat ∧ s.chip.isOn q.val pg = true ∧ MayWrite s.chip dom
      q.val pg 0x100 (goWord cmd.toNat false) ∧ s.chip.goBusy (regAddr q.val pg 0x100) = true) ∧
    (∃ (q : Fin 4) (pg : Nat) (t : Nat) (v : Nat) (c : Chip) (d : Chip) (ws : List Word), tblOf pg (fld v 27 24) = some t ∧
      fld v 19 0 < tblSize t ∧ d = c.setReg (regAddr q.val pg 0x100) (v % 2 ^ 31) ∧ ws = d.dataWords (regAddr q.val pg
      0x140) (tblMask t).length ∧ bit v 30 = true ∧ tblValueOk t ws = false) ∧
    (∃ (q : Fin 4) (pg : Nat) (t : Nat) (v : Nat) (c : Chip) (d : Chip) (ws : List Word), tblOf pg (fld v 27 24) = some t ∧
      fld v 19 0 < tblSize t ∧ d = c.setReg (regAddr q.val pg 0x100) (v % 2 ^ 31) ∧ ws = d.dataWords (regAddr q.val pg
      0x140) (tblMask t).length ∧ bit v 30 = true ∧ tblValueOk t ws = true ∧ d.syncing = false ∧ d.tblInUse q.val t (bit v
      29) (fld v 19 0) ws = true) ∧
    (∃ (q : Fin 4) (pg : Nat) (t : Nat) (v : Nat) (c : Chip) (d : Chip) (ws : List Word), tblOf pg (fld v 27 24) = some t ∧
      fld v 19 0 < tblSize t ∧ d = c.setReg (regAddr q.val pg 0x100) (v % 2 ^ 31) ∧ ws = d.dataWords (regAddr q.val pg
      0x140) (tblMask t).length ∧ bit v 30 = true ∧ tblValueOk t ws = true ∧ d.syncing = false ∧ d.twin.txOn = false ∧
      d.tblInUse q.val t (bit v 29) (fld v 19 0) ws = false) ∧
    (∃ (pg : Nat) (t : Nat) (v : Nat) (i : Nat) (c : Chip), 0x40 ≤ pg ∧ pg ≤ 0x43 ∧ tblOf pg (fld v 27 24) = some t ∧ fld v
      19 0 < tblSize t ∧ bit v 30 = false ∧ c.badEnt = [] ∧ i < 36) ∧
    (∃ (dom : Dom) (q : Fin 4) (i : Fin 3) (val : Word) (s : State), MayWrite s.chip dom q.val 0x41 (0x210 + 4 * i.val)
      val.toNat ∧ val.toNat < 2 ^ 27 ∧ s.chip.syncing = false ∧ s.chip.twin.txOn = false ∧ fld val.toNat 8 0 + fld val.toNat
      17 9 + fld val.toNat 26 18 = 256) ∧
    (∃ (dom : Dom) (q : Fin 4) (i : Fin 3) (val : Word) (s : State), MayWrite s.chip dom q.val 0x41 (0x210 + 4 * i.val)
      val.toNat ∧ val.toNat < 2 ^ 27 ∧ s.chip.syncing = false ∧ s.chip.twin.txOn = false ∧ fld val.toNat 8 0 + fld val.toNat
      17 9 + fld val.toNat 26 18 ≠ 256) ∧
    (∃ (dom : Dom) (q : Fin 4) (i : Fin 8) (val : Word) (s : State), MayWrite s.chip dom q.val 0x42 (0x200 + 4 * i.val)
      val.toNat) ∧
    (∃ (p : Fin 1024) (s : State), s.chip.active p.val = true ∧ s.chip.pegOut p.val = true ∧ bit (s.chip.reg (regAddr (p.val
      / 256) 0x42 0x220)) 16 = true ∧ s.chip.isOn (p.val / 256) 0x42 = true) ∧
    (∃ (p : Fin 1024) (s : State), (s.chip.active p.val = false ∨ s.chip.isOn (p.val / 256) 0x42 = false)) ∧
    (∃ (p : Fin 1024) (c : Chip), c.active p.val = true ∧ c.regBit (pegOutReg p.val) (p.val % 32) = true) :=
  ⟨ (let dom : Dom := .owner; let q : Fin 4 := 3; let pg : Nat := 0x43; let addr : Word := ad 3 0x43 0x100
     let cmd : Word := 0x20003FFF; let s : State := mkS (onPg 3 0x43)
     ⟨dom, q, pg, addr, cmd, s, by decide +kernel +zetaReduce⟩),
    (let dom : Dom := .owner; let q : Fin 4 := 0; let pg : Nat := 0x40; let addr : Word := ad 0 0x40 0x100
     let cmd : Word := 0; let s : State := mkS (onPg 0 0x40); ⟨dom, q, pg, addr, cmd, s, by decide +kernel +zetaReduce⟩),
    (let dom : Dom := .owner; let q : Fin 4 := 3; let pg : Nat := 0x43; let addr : Word := ad 3 0x43 0x100
     let cmd : Word := 0x20003FFF
     let s : State := mkS (fun c => { onPg 3 0x43 c with busy := [(regAddr 3 0x43 0x100, 5)] })
     ⟨dom, q, pg, addr, cmd, s, by decide +kernel +zetaReduce⟩),
    (let dom : Dom := .owner; let q : Fin 4 := 3; let pg : Nat := 0x43; let addr : Word := ad 3 0x43 0x100
     let cmd : Word := 0x20003FFF; let s : State := mkS (onPg 3 0x43)
     ⟨dom, q, pg, addr, cmd, s, by decide +kernel +zetaReduce⟩),
    (let dom : Dom := .owner; let q : Fin 4 := 3; let pg : Nat := 0x43; let addr : Word := ad 3 0x43 0x100
     let cmd : Word := 0x20003FFF
     let s : State := mkS (fun c => { onPg 3 0x43 c with busy := [(regAddr 3 0x43 0x100, 5)] })
     ⟨dom, q, pg, addr, cmd, s, by decide +kernel +zetaReduce⟩),
    (let q : Fin 4 := 3; let pg : Nat := 0x41; let t : Nat := 2; let v : Nat := 0xC0000005
     let c : Chip := Chip.reset.setReg (regAddr 3 0x41 0x140) 0xC00
     let d : Chip := c.setReg (regAddr q.val pg 0x100) (v % 2 ^ 31)
     let ws : List Word := d.dataWords (regAddr q.val pg 0x140) (tblMask t).length
     ⟨q, pg, t, v, c, d, ws, by decide +kernel +zetaReduce⟩),
    (let q : Fin 4 := 3; let pg : Nat := 0x41; let t : Nat := 2; let v : Nat := 0xC0000005
     let c : Chip := Chip.reset.putEntry 3 2 false 5 [0x404]
     let d : Chip := c.setReg (regAddr q.val pg 0x100) (v % 2 ^ 31)
     let ws : List Word := d.dataWords (regAddr q.val pg 0x140) (tblMask t).length
     ⟨q, pg, t, v, c, d, ws, by decide +kernel +zetaReduce⟩),
    (let q : Fin 4 := 3; let pg : Nat := 0x41; let t : Nat := 2; let v : Nat := 0xC0000005
     let c : Chip := Chip.reset.setReg (regAddr 3 0x41 0x140) 0x404
     let d : Chip := c.setReg (regAddr q.val pg 0x100) (v % 2 ^ 31)
     let ws : List Word := d.dataWords (regAddr q.val pg 0x140) (tblMask t).length
     ⟨q, pg, t, v, c, d, ws, by decide +kernel +zetaReduce⟩),
    (let pg : Nat := 0x41; let t : Nat := 2; let v : Nat := 0x80000005; let i : Nat := 35
     let c : Chip := Chip.reset.putEntry 3 2 false 5 [0x404]; ⟨pg, t, v, i, c, by decide +kernel +zetaReduce⟩),
    (let dom : Dom := .owner; let q : Fin 4 := 3; let i : Fin 3 := 2; let val : Word := 0x100; let s : State := mkS id
     ⟨dom, q, i, val, s, by decide +kernel +zetaReduce⟩),
    (let dom : Dom := .owner; let q : Fin 4 := 3; let i : Fin 3 := 2; let val : Word := 0x101; let s : State := mkS id
     ⟨dom, q, i, val, s, by decide +kernel +zetaReduce⟩),
    (let dom : Dom := .owner; let q : Fin 4 := 3; let i : Fin 8 := 7; let val : Word := 1
     let s : State := mkS (fun c => c.setReg (regAddr 3 0x42 0x21C) 3); ⟨dom, q, i, val, s, by decide +kernel +zetaReduce⟩),
    (let p : Fin 1024 := 1023
     let s : State := (pt 1023 .active).onPart (fun c => ((onPg 3 0x42 c).setRegBit (pegOutReg 1023) 31 true).setReg (regAddr 3 0x42 0x220) 0x10005)
     ⟨p, s, by decide +kernel +zetaReduce⟩),
    (let p : Fin 1024 := 1023
     let s : State := (pt 1023 .active).onPart (fun c => (c.setRegBit (pegOutReg 1023) 31 true).setReg (regAddr 3 0x42 0x220) 0x10005)
     ⟨p, s, by decide +kernel +zetaReduce⟩),
    (let p : Fin 1024 := 1023; let c : Chip := (pt 1023 .active).chip.setRegBit (pegOutReg 1023) 31 true
     ⟨p, c, by decide +kernel +zetaReduce⟩)⟩

/-- States and operands that meet the hypotheses of `Obligations.TableEntriesStandApart`, clause by clause. -/
theorem witness_TableEntriesStandApart :
    (∃ (t : Fin 7) (t' : Fin 7) (i : Nat) (i' : Nat), i < tblSize t.val ∧ i' < tblSize t'.val) ∧
    (∃ (t : Fin 7) (t' : Fin 7) (i : Nat) (i' : Nat), i < tblSize t.val ∧ i' < tblSize t'.val) :=
  ⟨ (let t : Fin 7 := 3; let t' : Fin 7 := 3; let i : Nat := 4095; let i' : Nat := 4095
     ⟨t, t', i, i', by decide +kernel +zetaReduce⟩),
    (let t : Fin 7 := 6; let t' : Fin 7 := 6; let i : Nat := 5; let i' : Nat := 5
     ⟨t, t', i, i', by decide +kernel +zetaReduce⟩)⟩

/-- States and operands that meet the hypotheses of `Obligations.StorageMoves`, clause by clause. -/
theorem witness_StorageMoves :
    (∃ (q : Fin 4) (st : Store) (t : Nat × Nat × Bool) (c : Chip) (s : State), s.chip.stores.find? (fun x => x.q == q.val &&
      x.wait && !s.chip.unread x) = some st ∧ s.chip.takeStore q.val (s.chip.sizeOf st.pkt - 24) = (some t, c) ∧ st.tailWait
      = false) ∧
    (∃ (q : Fin 4) (st : Store) (t : Nat × Nat × Bool) (c : Chip) (s : State), s.chip.stores.find? (fun x => x.q == q.val &&
      x.wait && !s.chip.unread x) = some st ∧ s.chip.takeStore q.val (s.chip.sizeOf st.pkt - 24) = (some t, c) ∧ st.tailWait
      = true) ∧
    (∃ (q : Fin 4) (st : Store) (s : State), s.chip.stores.find? (fun x => x.q == q.val && x.wait && !s.chip.unread x) =
      some st ∧ (s.chip.takeStore q.val (s.chip.sizeOf st.pkt - 24)).1 = none) ∧
    (∃ (q : Fin 4) (s : State) (st : _), s.chip.stores.find? (fun x => x.q == q.val && x.wait && !s.chip.unread x) = none ∧
      s.chip.stores.find? (fun x => x.q == q.val && x.tailWait) = some st) ∧
    (∃ (q : Fin 4) (s : State), s.chip.stores.find? (fun x => x.q == q.val && x.wait && !s.chip.unread x) = none ∧
      s.chip.stores.find? (fun x => x.q == q.val && x.tailWait) = none) ∧
    (∃ (q : Fin 4) (st : Store) (s : State) (x : _) (c : _), s.chip.stores.find? (fun x => x.q == q.val && x.chain &&
      !x.wait && !x.tailIn && !s.chip.unread x && decide (x.cells.length < x.need) && decide (248 * x.cells.length < x.got))
      = some st ∧ s.chip.takeCell q.val st.pooled = (some x, c)) ∧
    (∃ (q : Fin 4) (st : Store) (s : State) (c : _), s.chip.stores.find? (fun x => x.q == q.val && x.chain && !x.wait &&
      !x.tailIn && !s.chip.unread x && decide (x.cells.length < x.need) && decide (248 * x.cells.length < x.got)) = some st
      ∧ s.chip.takeCell q.val st.pooled = (none, c)) ∧
    (∃ (q : Fin 4) (size : Nat) (x : Nat) (rest : List Nat) (tl : List (Nat × List Nat)) (s : State), (s.chip.buf
      q.val).freeing = (size, x :: rest) :: tl ∧ s.chip.linkBad q.val x size = false) ∧
    (∃ (q : Fin 4) (size : Nat) (x : Nat) (rest : List Nat) (tl : List (Nat × List Nat)) (s : State), (s.chip.buf
      q.val).freeing = (size, x :: rest) :: tl ∧ s.chip.linkBad q.val x size = false) ∧
    (∃ (q : Fin 4) (size : Nat) (x : Nat) (rest : List Nat) (tl : List (Nat × List Nat)) (c : Chip) (s : State), (s.chip.buf
      q.val).freeing = (size, x :: rest) :: tl ∧ s.chip.linkBad q.val x size = true ∧ c = (if (s.chip.buf
      q.val).badLink.contains x then s.chip.countUe q.val 0 (32 * x + 31) else s.chip)) ∧
    (∃ (q : Fin 4) (p : Fin 4) (h : Hamper) (n : Nat) (s : State), h = (s.chip.buf q.val).hamper p.val ∧ n = s.chip.ringLen
      q.val p.val ∧ RingOk h n ∧ h.cache.length < fld (s.chip.reg (bufPage q.val + 0x108)) 8 0 ∧ s.chip.works q.val 0x44 =
      true ∧ (s.chip.buf q.val).hamp.length = 4) ∧
    (∃ (q : Fin 4) (p : Fin 4) (h : Hamper) (n : Nat) (s : State), h = (s.chip.buf q.val).hamper p.val ∧ n = s.chip.ringLen
      q.val p.val ∧ RingOk h n ∧ fld (s.chip.reg (bufPage q.val + 0x108)) 24 16 < h.cache.length ∧ 128 ≤ h.cache.length ∧
      s.chip.works q.val 0x44 = true ∧ (s.chip.buf q.val).hamp.length = 4 ∧ h.count n + 128 ≤ n) ∧
    (∃ (q : Fin 4) (p : Fin 4) (c : Chip), RingOk ((c.buf q.val).hamper p.val) (c.ringLen q.val p.val) ∧ (c.buf
      q.val).hamp.length = 4 ∧ ((c.buf q.val).hamper p.val).cache.length < 512) ∧
    (∃ (q : Fin 4) (p : Fin 4) (c : Chip), RingOk ((c.buf q.val).hamper p.val) (c.ringLen q.val p.val) ∧ (c.buf
      q.val).hamp.length = 4 ∧ ((c.buf q.val).hamper p.val).cache.length < 512) ∧
    (∃ (sid : Nat) (st : Store) (c : Chip), c.store? sid = some st ∧ st.sid = sid ∧ (st.ref = 0 ∨ (st.wait = false ∧
      c.handleOk st.q st.handle st.chain st.pooled = false))) ∧
    (∃ (sid : Nat) (st : Store) (c : Chip), c.store? sid = some st ∧ st.sid = sid ∧ st.ref ≠ 0 ∧ st.wait = false ∧
      c.handleOk st.q st.handle st.chain st.pooled = true ∧ (c.buf st.q).badRef.contains (fld st.handle 19 0) = true) ∧
    (∃ (sid : Nat) (st : Store) (c : Chip), c.store? sid = some st ∧ st.sid = sid ∧ 1 < st.ref ∧ (st.wait = true ∨
      (c.handleOk st.q st.handle st.chain st.pooled = true ∧ (c.buf st.q).badRef.contains (fld st.handle 19 0) = false)) ∧
      st.owed = []) ∧
    (∃ (sid : Nat) (st : Store) (c : Chip), c.store? sid = some st ∧ st.sid = sid ∧ st.ref = 1 ∧ st.wait = false ∧
      c.handleOk st.q st.handle st.chain st.pooled = true ∧ (c.buf st.q).badRef.contains (fld st.handle 19 0) = false) ∧
    (∃ (sid : Nat) (st : Store) (c : Chip), c.store? sid = some st ∧ st.sid = sid ∧ st.ref = 1 ∧ st.wait = true) :=
  ⟨ (let q : Fin 4 := 3
     let st : Store := { sto with q := 3, wait := true, cells := [], tailIn := false, tailWait := false }
     let s : State := (mkS (fun c => { c with pkts := [{ pk0 with payload := List.replicate 16 0, tailIn := true }], copies := [cp 4 5 (.port 4)], stores := [{ sto with q := 3, wait := true, cells := [], tailIn := false, tailWait := false }] }))
     let t : Nat × Nat × Bool := (0, 0, true); let c : Chip := (s.chip.takeStore 3 16).2
     ⟨q, st, t, c, s, by decide +kernel +zetaReduce⟩),
    (let q : Fin 4 := 3
     let st : Store := { sto with q := 3, wait := true, cells := [], tailIn := false, tailWait := true }
     let s : State := (mkS (fun c => { c with pkts := [{ pk0 with payload := List.replicate 16 0, tailIn := true }], copies := [cp 4 5 (.port 4)], stores := [{ sto with q := 3, wait := true, cells := [], tailIn := false, tailWait := true }] }))
     let t : Nat × Nat × Bool := (0, 0, true); let c : Chip := (s.chip.takeStore 3 16).2
     ⟨q, st, t, c, s, by decide +kernel +zetaReduce⟩),
    (let q : Fin 4 := 3
     let st : Store := { sto with q := 3, wait := true, cells := [], tailIn := false, tailWait := false }
     let s : State := (mkS (fun c => { (c.onBuf 3 (fun b => { b with mode := true })) with pkts := [{ pk0 with payload := List.replicate 16 0, tailIn := true }], copies := [cp 4 5 (.port 4)], stores := [{ sto with q := 3, wait := true, cells := [], tailIn := false, tailWait := false }] }))
     ⟨q, st, s, by decide +kernel +zetaReduce⟩),
    (let q : Fin 4 := 3; let st := { sto with q := 3, tailIn := false, tailWait := true }
     let s : State := (mkS (fun c => { c with pkts := [{ pk0 with payload := List.replicate 16 0, tailIn := true }], stores := [{ sto with q := 3, tailIn := false, tailWait := true }] }))
     ⟨q, s, st, by decide +kernel +zetaReduce⟩),
    (let q : Fin 4 := 3; let s : State := mkS id; ⟨q, s, by decide +kernel +zetaReduce⟩),
    (let q : Fin 4 := 0; let st : Store := { sto with chain := true, tailIn := false, need := 2, got := 256 }; let x := 1
     let s : State := (mkS (fun c => { { c with held := [{ port := 0, vc := 5, pkt := 0, island := 0 }] } with pkts := [{ pk0 with payload := List.replicate 16 0, tailIn := true }], stores := [{ sto with chain := true, tailIn := false, need := 2, got := 256 }] }))
     let c := (s.chip.takeCell 0 false).2; ⟨q, st, s, x, c, by decide +kernel +zetaReduce⟩),
    (let q : Fin 4 := 3
     let st : Store := { sto with q := 3, chain := true, pooled := true, tailIn := false, need := 2, got := 256 }
     let s : State := (mkS (fun c => { { (c.onBuf 3 (fun b => { b with mode := true })) with held := [{ port := 0, vc := 5, pkt := 0, island := 0 }] } with pkts := [{ pk0 with payload := List.replicate 16 0, tailIn := true }], stores := [{ sto with q := 3, chain := true, pooled := true, tailIn := false, need := 2, got := 256 }] }))
     let c := (s.chip.takeCell 3 true).2; ⟨q, st, s, c, by decide +kernel +zetaReduce⟩),
    (let q : Fin 4 := 3; let size : Nat := 40; let x : Nat := 0; let rest : List Nat := []
     let tl : List (Nat × List Nat) := [(40, [9])]; let c : Chip := Chip.reset
     let s : State := mkS (fun c => c.onBuf 3 (fun b => { b with freeing := [(40, [0]), (40, [9])], links := [(0, cellLink 40 0)] }))
     ⟨q, size, x, rest, tl, s, by decide +kernel +zetaReduce⟩),
    (let q : Fin 4 := 0; let size : Nat := 300; let x : Nat := 0; let rest : List Nat := [5]
     let tl : List (Nat × List Nat) := []; let c : Chip := Chip.reset
     let s : State := mkS (fun c => c.onBuf 0 (fun b => { b with freeing := [(300, [0, 5])], links := [(0, cellLink 300 5)] }))
     ⟨q, size, x, rest, tl, s, by decide +kernel +zetaReduce⟩),
    (let q : Fin 4 := 3; let size : Nat := 300; let x : Nat := 0; let rest : List Nat := [5]
     let tl : List (Nat × List Nat) := []
     let s : State := mkS (fun c => c.onBuf 3 (fun b => { b with freeing := [(300, [0, 5])], badLink := [0] }))
     let c : Chip := (if (s.chip.buf q.val).badLink.contains x then s.chip.countUe q.val 0 (32 * x + 31) else s.chip)
     ⟨q, size, x, rest, tl, c, s, by decide +kernel +zetaReduce⟩),
    (let q : Fin 4 := 3; let p : Fin 4 := 3
     let s : State := mkS (fun c => (onPg 3 0x44 c).onBuf 3 (fun b => { b with hamp := [{}, {}, {}, { head := 0, tail := 130 }] }))
     let h : Hamper := (s.chip.buf q.val).hamper p.val; let n : Nat := s.chip.ringLen q.val p.val
     ⟨q, p, h, n, s, by decide +kernel +zetaReduce⟩),
    (let q : Fin 4 := 3; let p : Fin 4 := 3
     let s : State := mkS (fun c => (onPg 3 0x44 c).onBuf 3 (fun b => { b with hamp := [{}, {}, {}, { cache := List.replicate 500 { w := 7 } }] }))
     let h : Hamper := (s.chip.buf q.val).hamper p.val; let n : Nat := s.chip.ringLen q.val p.val
     ⟨q, p, h, n, s, by decide +kernel +zetaReduce⟩),
    (let q : Fin 4 := 3; let p : Fin 4 := 3
     let c : Chip := Chip.reset.onBuf 3 (fun b => { b with hamp := [{}, {}, {}, { cache := List.replicate 511 { w := 7 } }] })
     ⟨q, p, c, by decide +kernel +zetaReduce⟩),
    (let q : Fin 4 := 0; let p : Fin 4 := 0
     let c : Chip := Chip.reset.onBuf 0 (fun b => { b with hamp := [{}, {}, {}, {}] })
     ⟨q, p, c, by decide +kernel +zetaReduce⟩),
    (let sid : Nat := 0; let st : Store := { sto with ref := 0 }
     let c : Chip := { Chip.reset with stores := [{ sto with ref := 0 }] }; ⟨sid, st, c, by decide +kernel +zetaReduce⟩),
    (let sid : Nat := 0; let st : Store := sto
     let c : Chip := { (Chip.reset.onBuf 0 (fun b => { b with badRef := [0] })) with stores := [sto] }
     ⟨sid, st, c, by decide +kernel +zetaReduce⟩),
    (let sid : Nat := 0; let st : Store := sto; let c : Chip := { Chip.reset with stores := [sto] }
     ⟨sid, st, c, by decide +kernel +zetaReduce⟩),
    (let sid : Nat := 0; let st : Store := { sto with ref := 1 }
     let c : Chip := { Chip.reset with stores := [{ sto with ref := 1 }] }; ⟨sid, st, c, by decide +kernel +zetaReduce⟩),
    (let sid : Nat := 0
     let st : Store := { sto with q := 3, wait := true, cells := [], tailIn := false, tailWait := false, ref := 1 }
     let c : Chip := { Chip.reset with stores := [{ sto with q := 3, wait := true, cells := [], tailIn := false, tailWait := false, ref := 1 }] }
     ⟨sid, st, c, by decide +kernel +zetaReduce⟩)⟩

/-- States and operands that meet the hypotheses of `Obligations.BufferModesAndMoves`, clause by clause. -/
theorem witness_BufferModesAndMoves :
    (∃ (dom : Dom) (q : Fin 4) (val : Word) (s : State), MayWrite s.chip dom q.val 0x44 0x100 val.toNat ∧ val.toNat &&&
      0xFF0101 = val.toNat ∧ fld val.toNat 23 16 ≠ 0 ∧ bit val.toNat 0 = false) ∧
    (∃ (dom : Dom) (q : Fin 4) (val : Word) (s : State), MayWrite s.chip dom q.val 0x44 0x100 val.toNat ∧ val.toNat &&&
      0xFF0101 = val.toNat ∧ fld val.toNat 23 16 ≠ 0 ∧ bit val.toNat 0 = false) ∧
    (∃ (dom : Dom) (q : Fin 4) (val : Word) (s : State), MayWrite s.chip dom q.val 0x44 0x100 val.toNat ∧ val.toNat &&&
      0xFF0101 = val.toNat ∧ fld val.toNat 23 16 ≠ 0 ∧ bit val.toNat 0 = true ∧ (s.chip.buf q.val).mode = false ∧
      s.chip.poolModeOk q.val = true) ∧
    (∃ (dom : Dom) (q : Fin 4) (val : Word) (s : State), MayWrite s.chip dom q.val 0x44 0x100 val.toNat ∧ val.toNat &&&
      0xFF0101 = val.toNat ∧ fld val.toNat 23 16 ≠ 0 ∧ bit val.toNat 0 = true ∧ (s.chip.buf q.val).mode = false ∧
      s.chip.poolModeOk q.val = false) ∧
    (∃ (dom : Dom) (q : Fin 4) (off : BitVec 12) (d : RegDef) (val : Word) (s : State), MayWrite s.chip dom q.val 0x44
      off.toNat val.toNat ∧ 0x110 ≤ off.toNat ∧ off.toNat < 0x150 ∧ regDef .buf 0 off.toNat = some d ∧ val.toNat &&& d.rw =
      val.toNat ∧ (s.chip.buf q.val).rebuilding = false ∧ (s.chip.buf q.val).mode = false ∧ (∀ p < 4, s.chip.poolHeld q.val
      p = 0)) ∧
    (∃ (dom : Dom) (q : Fin 4) (off : BitVec 12) (d : RegDef) (val : Word) (s : State), MayWrite s.chip dom q.val 0x44
      off.toNat val.toNat ∧ 0x110 ≤ off.toNat ∧ off.toNat < 0x150 ∧ regDef .buf 0 off.toNat = some d ∧ val.toNat &&& d.rw =
      val.toNat ∧ (s.chip.buf q.val).rebuilding = false ∧ (s.chip.buf q.val).mode = false ∧ (∀ p < 4, s.chip.poolHeld q.val
      p = 0)) ∧
    (∃ (dom : Dom) (q : Fin 4) (off : BitVec 12) (d : RegDef) (val : Word) (s : State), MayWrite s.chip dom q.val 0x44
      off.toNat val.toNat ∧ 0x110 ≤ off.toNat ∧ off.toNat < 0x150 ∧ regDef .buf 0 off.toNat = some d ∧ val.toNat &&& d.rw =
      val.toNat ∧ (s.chip.buf q.val).rebuilding = false ∧ (s.chip.buf q.val).mode = true) ∧
    (∃ (dom : Dom) (q : Fin 4) (s : State), MayWrite s.chip dom q.val 0x44 0x100 (s.chip.reg (bufPage q.val + 0x100) |||
      0x10) ∧ s.chip.isOn q.val 0x44 = true ∧ s.chip.reg (bufPage q.val + 0x100) &&& 0xFF0100 = s.chip.reg (bufPage q.val +
      0x100) ∧ fld (s.chip.reg (bufPage q.val + 0x100)) 23 16 ≠ 0 ∧ (s.chip.buf q.val).mode = false ∧ (s.chip.buf
      q.val).rebuilding = false ∧ (s.chip.buf q.val).move = none) ∧
    (∃ (q : Fin 4) (s : State), (s.chip.buf q.val).rebuilding = true ∧ (s.chip.buf q.val).auto = false) ∧
    (∃ (q : Fin 4) (c : Chip) (s : State), (s.chip.buf q.val).rebuilding = true ∧ (s.chip.buf q.val).auto = true ∧ c =
      (((s.chip.each (List.range 4) (fun c p => c.visit q.val p (c.poolCount q.val p) none)).onBuf q.val (fun b =>
      { b with rebuilding := false, built := true })).raise (bufPage q.val) 0x20).onBuf q.val (fun b =>
      { b with auto := false }) ∧ c.rebuildOn q.val = true ∧ c.poolModeOk q.val = true) ∧
    (∃ (q : Fin 4) (c : Chip) (s : State), (s.chip.buf q.val).rebuilding = true ∧ (s.chip.buf q.val).auto = true ∧ c =
      (((s.chip.each (List.range 4) (fun c p => c.visit q.val p (c.poolCount q.val p) none)).onBuf q.val (fun b =>
      { b with rebuilding := false, built := true })).raise (bufPage q.val) 0x20).onBuf q.val (fun b =>
      { b with auto := false }) ∧ (c.rebuildOn q.val = false ∨ c.poolModeOk q.val = false)) ∧
    (∃ (dom : Dom) (q : Fin 4) (s : State), MayWrite s.chip dom q.val 0x44 0x100 (s.chip.reg (bufPage q.val + 0x100) |||
      0x10) ∧ s.chip.isOn q.val 0x44 = true ∧ s.chip.reg (bufPage q.val + 0x100) &&& 0xFF0101 = s.chip.reg (bufPage q.val +
      0x100) ∧ ((s.chip.buf q.val).mode = true ∨ (s.chip.buf q.val).rebuilding = true ∨ (s.chip.buf q.val).move.isSome =
      true)) ∧
    (∃ (dom : Dom) (q : Fin 4) (val : Word) (s : State), MayWrite s.chip dom q.val 0x44 0x1B0 val.toNat ∧ val.toNat &&&
      0x803FFFFF = val.toNat ∧ s.chip.isOn q.val 0x44 = true ∧ bit val.toNat 31 = true ∧ s.chip.moveOk q.val (fld val.toNat
      21 20) (sx 20 (fld val.toNat 19 0)) = true) ∧
    (∃ (dom : Dom) (q : Fin 4) (val : Word) (s : State), MayWrite s.chip dom q.val 0x44 0x1B0 val.toNat ∧ val.toNat &&&
      0x803FFFFF = val.toNat ∧ s.chip.isOn q.val 0x44 = true ∧ bit val.toNat 31 = false ∧ s.chip.moveOk q.val (fld val.toNat
      21 20) (sx 20 (fld val.toNat 19 0)) = true) ∧
    (∃ (dom : Dom) (q : Fin 4) (val : Word) (s : State), MayWrite s.chip dom q.val 0x44 0x1B0 val.toNat ∧ val.toNat &&&
      0x803FFFFF = val.toNat ∧ s.chip.isOn q.val 0x44 = true ∧ s.chip.moveOk q.val (fld val.toNat 21 20) (sx 20 (fld
      val.toNat 19 0)) = false) ∧
    (∃ (dom : Dom) (q : Fin 4) (val : Word) (s : State), MayWrite s.chip dom q.val 0x44 0x1B0 val.toNat ∧ val.toNat &&&
      0x803FFFFF = val.toNat ∧ s.chip.isOn q.val 0x44 = true ∧ s.chip.moveOk q.val (fld val.toNat 21 20) (sx 20 (fld
      val.toNat 19 0)) = false) ∧
    (∃ (dom : Dom) (q : Fin 4) (val : Word) (s : State), MayWrite s.chip dom q.val 0x44 0x1B0 val.toNat ∧ val.toNat &&&
      0x803FFFFF = val.toNat ∧ s.chip.isOn q.val 0x44 = true ∧ s.chip.moveOk q.val (fld val.toNat 21 20) (sx 20 (fld
      val.toNat 19 0)) = false) ∧
    (∃ (dom : Dom) (q : Fin 4) (val : Word) (s : State), MayWrite s.chip dom q.val 0x44 0x1B0 val.toNat ∧ val.toNat &&&
      0x803FFFFF = val.toNat ∧ s.chip.isOn q.val 0x44 = true ∧ s.chip.moveOk q.val (fld val.toNat 21 20) (sx 20 (fld
      val.toNat 19 0)) = false) ∧
    (∃ (q : Fin 4) (m : Move) (r : Nat × Nat) (s : State), (s.chip.buf q.val).move = some m ∧ s.chip.movingRegion q.val =
      some r ∧ s.chip.moveReady q.val = true ∧ s.chip.works q.val 0x44 = true) ∧
    (∃ (q : Fin 4) (s : State), (s.chip.buf q.val).trigger = true ∧ s.chip.rebuildOn q.val = true ∧ s.chip.isOn q.val 0x44 =
      true ∧ (s.chip.buf q.val).rebuilding = false ∧ (s.chip.buf q.val).move = none) ∧
    (∃ (q : Fin 4) (s : State), (s.chip.buf q.val).trigger = true ∧ s.chip.rebuildOn q.val = true ∧ s.chip.isOn q.val 0x44 =
      true ∧ ((s.chip.buf q.val).rebuilding = true ∨ (s.chip.buf q.val).move.isSome = true)) ∧
    (∃ (q : Fin 4) (c : Chip), c.rebuildOn q.val = true ∧ (c.buf q.val).lastRebuild = none) ∧
    (∃ (q : Fin 4) (c : Chip) (at_ : _), c.rebuildOn q.val = true ∧ (c.buf q.val).lastRebuild = some at_ ∧ at_ + 10000000 ≤
      c.now) ∧
    (∃ (q : Fin 4) (c : Chip) (at_ : _), c.rebuildOn q.val = true ∧ (c.buf q.val).lastRebuild = some at_ ∧ c.now < at_ +
      10000000) ∧
    (∃ (q : Fin 4) (b : Fin 3) (delta : Int) (s : State), (s.chip.buf q.val).holdUp = true ∧ s.chip.policy 2 = true ∧ 0 <
      delta ∧ s.chip.richest q.val (b.val + 1) = true ∧ s.chip.moveOk q.val (b.val + 1) delta = true) :=
  ⟨ (let dom : Dom := .owner; let q : Fin 4 := 3; let val : Word := 0x10000; let s : State := mkS (pool 3)
     ⟨dom, q, val, s, by decide +kernel +zetaReduce⟩),
    (let dom : Dom := .owner; let q : Fin 4 := 3; let val : Word := 0xFF0100; let s : State := mkS id
     ⟨dom, q, val, s, by decide +kernel +zetaReduce⟩),
    (let dom : Dom := .owner; let q : Fin 4 := 3; let val : Word := 0x10001
     let s : State := mkS (fun c => c.onBuf 3 (fun b => { b with built := true }))
     ⟨dom, q, val, s, by decide +kernel +zetaReduce⟩),
    (let dom : Dom := .owner; let q : Fin 4 := 3; let val : Word := 0x10001; let s : State := mkS id
     ⟨dom, q, val, s, by decide +kernel +zetaReduce⟩),
    (let dom : Dom := .owner; let q : Fin 4 := 3; let off : BitVec 12 := 0x14C
     let d : RegDef := (regDef .buf 0 0x14C).getD {}; let val : Word := 64; let s : State := mkS id
     ⟨dom, q, off, d, val, s, by decide +kernel +zetaReduce⟩),
    (let dom : Dom := .owner; let q : Fin 4 := 3; let off : BitVec 12 := 0x110
     let d : RegDef := (regDef .buf 0 0x110).getD {}; let val : Word := 64; let s : State := mkS id
     ⟨dom, q, off, d, val, s, by decide +kernel +zetaReduce⟩),
    (let dom : Dom := .owner; let q : Fin 4 := 3; let off : BitVec 12 := 0x14C
     let d : RegDef := (regDef .buf 0 0x14C).getD {}; let val : Word := 64; let s : State := mkS (pool 3)
     ⟨dom, q, off, d, val, s, by decide +kernel +zetaReduce⟩),
    (let dom : Dom := .owner; let q : Fin 4 := 3; let s : State := mkS (onPg 3 0x44)
     ⟨dom, q, s, by decide +kernel +zetaReduce⟩),
    (let q : Fin 4 := 3
     let s : State := mkS (fun c => (((((((tiny 3 c).setReg (bufPage 3 + 0x120) 8).setReg (bufPage 3 + 0x124) 12).setReg (bufPage 3 + 0x130) 12).setReg (bufPage 3 + 0x134) 28).setReg (bufPage 3 + 0x140) 28).setReg (bufPage 3 + 0x144) 61).onBuf 3 (fun b => { b with rebuilding := true }))
     ⟨q, s, by decide +kernel +zetaReduce⟩),
    (let q : Fin 4 := 3
     let s : State := (mkS (fun c => (fwOn ((onPg 3 0x44 c).setReg (bufPage 3 + 0x100) 0x100100)).onBuf 3 (fun b => { b with rebuilding := true, auto := true, visited := (List.range 4).map (c.poolCount 3) })))
     let c : Chip := (((s.chip.each (List.range 4) (fun c p => c.visit q.val p (c.poolCount q.val p) none)).onBuf q.val (fun b => { b with rebuilding := false, built := true })).raise (bufPage q.val) 0x20).onBuf q.val (fun b => { b with auto := false })
     ⟨q, c, s, by decide +kernel +zetaReduce⟩),
    (let q : Fin 4 := 3
     let s : State := mkS (fun c => (((((((tiny 3 c).setReg (bufPage 3 + 0x120) 8).setReg (bufPage 3 + 0x124) 12).setReg (bufPage 3 + 0x130) 12).setReg (bufPage 3 + 0x134) 28).setReg (bufPage 3 + 0x140) 28).setReg (bufPage 3 + 0x144) 61).onBuf 3 (fun b => { b with rebuilding := true, auto := true }))
     let c : Chip := (((s.chip.each (List.range 4) (fun c p => c.visit q.val p (c.poolCount q.val p) none)).onBuf q.val (fun b => { b with rebuilding := false, built := true })).raise (bufPage q.val) 0x20).onBuf q.val (fun b => { b with auto := false })
     ⟨q, c, s, by decide +kernel +zetaReduce⟩),
    (let dom : Dom := .owner; let q : Fin 4 := 3
     let s : State := mkS (fun c => (pool 3 c).setReg (bufPage 3 + 0x100) 0x100001)
     ⟨dom, q, s, by decide +kernel +zetaReduce⟩),
    (let dom : Dom := .owner; let q : Fin 4 := 3; let val : Word := 0x80100004; let s : State := mkS (pool 3)
     ⟨dom, q, val, s, by decide +kernel +zetaReduce⟩),
    (let dom : Dom := .owner; let q : Fin 4 := 3; let val : Word := 0x00100004; let s : State := mkS (pool 3)
     ⟨dom, q, val, s, by decide +kernel +zetaReduce⟩),
    (let dom : Dom := .owner; let q : Fin 4 := 3; let val : Word := 0x80100004
     let s : State := mkS (fun c => (pool 3 c).onBuf 3 (fun b => { b with move := some { p := 1, delta := 4 } }))
     ⟨dom, q, val, s, by decide +kernel +zetaReduce⟩),
    (let dom : Dom := .owner; let q : Fin 4 := 3; let val : Word := 0x80100003; let s : State := mkS (pool 3)
     ⟨dom, q, val, s, by decide +kernel +zetaReduce⟩),
    (let dom : Dom := .owner; let q : Fin 4 := 3; let val : Word := 0x00000004; let s : State := mkS (pool 3)
     ⟨dom, q, val, s, by decide +kernel +zetaReduce⟩),
    (let dom : Dom := .owner; let q : Fin 4 := 3; let val : Word := 0x80100004; let s : State := mkS (onPg 3 0x44)
     ⟨dom, q, val, s, by decide +kernel +zetaReduce⟩),
    (let q : Fin 4 := 3
     let s : State := mkS (fun c => (pool 3 c).onBuf 3 (fun b => { b with move := some { p := 1, delta := 4 } }))
     let m : Move := { p := 1, delta := 4 }; let r : Nat × Nat := (s.chip.movingRegion 3).getD (0, 0)
     ⟨q, m, r, s, by decide +kernel +zetaReduce⟩),
    (let q : Fin 4 := 3
     let s : State := mkS (fun c => (fwOn ((onPg 3 0x44 c).setReg (bufPage 3 + 0x100) 0x100100)).onBuf 3 (fun b => { b with trigger := true }))
     ⟨q, s, by decide +kernel +zetaReduce⟩),
    (let q : Fin 4 := 3
     let s : State := mkS (fun c => (fwOn ((onPg 3 0x44 c).setReg (bufPage 3 + 0x100) 0x100100)).onBuf 3 (fun b => { b with trigger := true, rebuilding := true }))
     ⟨q, s, by decide +kernel +zetaReduce⟩),
    (let q : Fin 4 := 3; let c : Chip := (fwOn ((onPg 3 0x44 Chip.reset).setReg (bufPage 3 + 0x100) 0x100100))
     ⟨q, c, by decide +kernel +zetaReduce⟩),
    (let q : Fin 4 := 3; let at_ := 0
     let c : Chip := ((fwOn ((onPg 3 0x44 Chip.reset).setReg (bufPage 3 + 0x100) 0x100100)).onBuf 3 (fun b => { b with lastRebuild := some 0 })).pass 10000000
     ⟨q, c, at_, by decide +kernel +zetaReduce⟩),
    (let q : Fin 4 := 3; let at_ := 5
     let c : Chip := (fwOn ((onPg 3 0x44 Chip.reset).setReg (bufPage 3 + 0x100) 0x100100)).onBuf 3 (fun b => { b with lastRebuild := some 5 })
     ⟨q, c, at_, by decide +kernel +zetaReduce⟩),
    (let q : Fin 4 := 3; let b : Fin 3 := 0; let delta : Int := 4
     let s : State := mkS (fun c => fwOn ((pool 3 c).onBuf 3 (fun b => { b with holdUp := true })))
     ⟨q, b, delta, s, by decide +kernel +zetaReduce⟩)⟩

/-- States and operands that meet the hypotheses of `Obligations.RebuildFindsEveryFreeUnit`, clause by clause. -/
theorem witness_RebuildFindsEveryFreeUnit :
    (∃ (q : Fin 4) (p : Fin 4) (c : Chip), (c.buf q.val).hamp.length = 4 ∧ (c.buf q.val).hamper p.val = {} ∧ cnt (c.buf
      q.val).visited p.val = 0 ∧ c.poolCount q.val p.val ≤ c.ringLen q.val p.val) ∧
    (∃ (q : Fin 4) (p : Fin 4) (i : Nat) (n : Nat) (e : HEnt) (c : Chip), i < n ∧ e =
      { w := handleOf p.val (c.poolBase q.val p.val + i * unitCells p.val) }) :=
  ⟨ (let q : Fin 4 := 3; let p : Fin 4 := 0
     let c : Chip := ((tiny 3 Chip.reset).onBuf 3 (fun b => { b with lost := [2] }))
     ⟨q, p, c, by decide +kernel +zetaReduce⟩),
    (let q : Fin 4 := 3; let p : Fin 4 := 0; let i : Nat := 3; let n : Nat := 8; let e : HEnt := { w := handleOf 0 3 }
     let c : Chip := ((tiny 3 Chip.reset).onBuf 3 (fun b => { b with lost := [2] }))
     ⟨q, p, i, n, e, c, by decide +kernel +zetaReduce⟩)⟩

/-- States and operands that meet the hypotheses of `Obligations.GateAgeingAndWindows`, clause by clause. -/
theorem witness_GateAgeingAndWindows :
    (∃ (q : Fin 4) (s : State), (s.chip.gateOpen q.val = s.chip.gateWanted q.val ∨ s.chip.works q.val 0x45 = false)) ∧
    (∃ (q : Fin 4) (s : State), (s.chip.gateOpen q.val = s.chip.gateWanted q.val ∨ s.chip.works q.val 0x45 = false)) ∧
    (∃ (q : Fin 4) (s : State), s.chip.gateOpen q.val ≠ s.chip.gateWanted q.val ∧ s.chip.works q.val 0x45 = true) ∧
    (∃ (l : LinkId) (vc : Fin 10) (i : Nat) (x : Copy) (k : Pkt) (s : State), linkKey l < 1040 ∧ (s.chip.queue (linkKey l)
      vc.val)[i]? = some x ∧ s.chip.pkt? x.pkt = some k ∧ x.headSent = false ∧ s.chip.works (linkQuad (linkKey l)) 0x45 =
      true) ∧
    (∃ (l : LinkId) (vc : Fin 10) (i : Nat) (x : Copy) (k : Pkt) (s : State), linkKey l < 1040 ∧ (s.chip.queue (linkKey l)
      vc.val)[i]? = some x ∧ s.chip.pkt? x.pkt = some k ∧ x.headSent = false ∧ s.chip.works (linkQuad (linkKey l)) 0x45 =
      true) ∧
    (∃ (l : LinkId) (s : State), linkKey l < 1040 ∧ s.chip.works (linkQuad (linkKey l)) 0x45 = false) ∧
    (∃ (l : LinkId) (vc : Fin 10) (x : Copy) (tl : List Copy) (k : Pkt) (c : Chip) (s : State), linkKey l < 1040 ∧
      s.chip.queue (linkKey l) vc.val = x :: tl ∧ s.chip.pkt? x.pkt = some k ∧ x.headSent = true ∧ x.zeros = false ∧
      s.chip.works (linkQuad (linkKey l)) 0x45 = true ∧ c = ((s.chip.untilFabric (k.stamp + s.chip.ageLimit (linkQuad
      (linkKey l)) k.hdr.tc)).agedCount (linkKey l) k.hdr.tc true).dropCount x .aged) ∧
    (∃ (dom : Dom) (q : Fin 4) (tc : Fin 4) (val : Word) (s : State), MayWrite s.chip dom q.val 0x45 (0x110 + 4 * tc.val)
      val.toNat ∧ val.toNat < 2 ^ 14 ∧ 1 ≤ val.toNat ∧ val.toNat ≤ 16000) ∧
    (∃ (dom : Dom) (q : Fin 4) (tc : Fin 4) (val : Word) (s : State), MayWrite s.chip dom q.val 0x45 (0x110 + 4 * tc.val)
      val.toNat ∧ val.toNat < 2 ^ 14 ∧ 1 ≤ val.toNat ∧ val.toNat ≤ 16000) ∧
    (∃ (dom : Dom) (q : Fin 4) (tc : Fin 4) (val : Word) (s : State), MayWrite s.chip dom q.val 0x45 (0x110 + 4 * tc.val)
      val.toNat ∧ val.toNat < 2 ^ 14 ∧ (val.toNat = 0 ∨ 16000 < val.toNat)) ∧
    (∃ (dom : Dom) (q : Fin 4) (tc : Fin 4) (val : Word) (s : State), MayWrite s.chip dom q.val 0x45 (0x110 + 4 * tc.val)
      val.toNat ∧ val.toNat < 2 ^ 14 ∧ (val.toNat = 0 ∨ 16000 < val.toNat)) ∧
    (∃ (p : Fin 1024) (tc : Fin 4) (e : Nat × Nat) (c : Chip) (s : State), (s.chip.win p.val tc.val).epochs = [e] ∧ 0 <
      s.chip.epochLen p.val ∧ s.chip.winWorks p.val = true ∧ c = s.chip.untilFabric (e.1 / s.chip.epochLen p.val *
      s.chip.epochLen p.val + s.chip.epochLen p.val) ∧ c.time.ft / s.chip.epochLen p.val * s.chip.epochLen p.val ≠ e.1) ∧
    (∃ (p : Fin 1024) (tc : Fin 4) (e : Nat × Nat) (tl : List (Nat × Nat)) (s : State), (s.chip.win p.val tc.val).epochs = e
      :: tl ∧ s.chip.winWorks p.val = true) ∧
    (∃ (p : Fin 1024) (s : State), s.chip.winWorks p.val = false) ∧
    (∃ (p : Fin 1024) (tc : Fin 4) (e : Nat × Nat) (tl : List (Nat × Nat)) (c : Chip), (c.win p.val tc.val).epochs = e :: tl
      ∧ e.1 + 16 * c.epochLen p.val ≤ c.time.ft ∧ (∀ x ∈ tl, c.time.ft < x.1 + 16 * c.epochLen p.val) ∧ c.winLimit p.val
      tc.val = 0 ∧ (c.win p.val tc.val).closed = false) ∧
    (∃ (dom : Dom) (q : Fin 4) (d : Fin 16) (val : Word) (s : State), MayWrite s.chip dom q.val (0x30 + d.val) 0x300
      val.toNat ∧ val.toNat < 2 ^ 14 ∧ 16 ≤ val.toNat ∧ val.toNat ≤ 16000) ∧
    (∃ (dom : Dom) (q : Fin 4) (d : Fin 16) (val : Word) (s : State), MayWrite s.chip dom q.val (0x30 + d.val) 0x300
      val.toNat ∧ val.toNat < 2 ^ 14 ∧ 16 ≤ val.toNat ∧ val.toNat ≤ 16000) ∧
    (∃ (dom : Dom) (q : Fin 4) (d : Fin 16) (val : Word) (s : State), MayWrite s.chip dom q.val (0x30 + d.val) 0x300
      val.toNat ∧ val.toNat < 2 ^ 14 ∧ (val.toNat < 16 ∨ 16000 < val.toNat)) ∧
    (∃ (dom : Dom) (q : Fin 4) (d : Fin 16) (val : Word) (s : State), MayWrite s.chip dom q.val (0x30 + d.val) 0x300
      val.toNat ∧ val.toNat < 2 ^ 14 ∧ (val.toNat < 16 ∨ 16000 < val.toNat)) ∧
    (∃ (dom : Dom) (q : Fin 4) (d : Fin 16) (i : Fin 64) (val : Word) (s : State), MayWrite s.chip dom q.val (0x30 + d.val)
      (0x100 + 4 * i.val) val.toNat ∧ val.toNat < 2 ^ 16) ∧
    (∃ (p : Fin 1024) (c : Chip), ((c.port p.val).st = .init ∨ (c.port p.val).st = .quarantine ∨ (c.port p.val).st =
      .active)) :=
  ⟨ (let q : Fin 4 := 3; let s : State := mkS id; ⟨q, s, by decide +kernel +zetaReduce⟩),
    (let q : Fin 4 := 3; let s : State := mkS (fun c => c.setReg (quePage 3 + 0x104) 1)
     ⟨q, s, by decide +kernel +zetaReduce⟩),
    (let q : Fin 4 := 3; let s : State := mkS (fun c => (onPg 3 0x45 c).setReg (quePage 3 + 0x104) 1)
     ⟨q, s, by decide +kernel +zetaReduce⟩),
    (let l : LinkId := .port 4; let vc : Fin 10 := 5; let i : Nat := 0; let x : Copy := cp 4 5 (.port 4)
     let k : Pkt := pk0
     let s : State := mkS (fun c => { (onPg 0 0x45 c) with pkts := [pk0], stores := [sto], copies := [cp 4 5 (.port 4)] })
     ⟨l, vc, i, x, k, s, by decide +kernel +zetaReduce⟩),
    (let l : LinkId := .seam 0 0; let vc : Fin 10 := 5; let i : Nat := 0; let x : Copy := cp 1024 5 (.port 4)
     let k : Pkt := pk0
     let s : State := mkS (fun c => { (onPg 0 0x45 c) with pkts := [pk0], stores := [sto], copies := [cp 1024 5 (.port 4)] })
     ⟨l, vc, i, x, k, s, by decide +kernel +zetaReduce⟩),
    (let l : LinkId := .port 4
     let s : State := mkS (fun c => { c with pkts := [pk0], stores := [sto], copies := [cp 4 5 (.port 4)] })
     ⟨l, s, by decide +kernel +zetaReduce⟩),
    (let l : LinkId := .port 4; let vc : Fin 10 := 5; let x : Copy := { cp 4 5 (.port 4) with headSent := true }
     let tl : List Copy := []; let k : Pkt := pk0
     let s : State := mkS (fun c => { (onPg 0 0x45 c) with pkts := [pk0], stores := [sto], copies := [{ cp 4 5 (.port 4) with headSent := true }] })
     let c : Chip := ((s.chip.untilFabric (k.stamp + s.chip.ageLimit (linkQuad (linkKey l)) k.hdr.tc)).agedCount (linkKey l) k.hdr.tc true).dropCount x .aged
     ⟨l, vc, x, tl, k, c, s, by decide +kernel +zetaReduce⟩),
    (let dom : Dom := .owner; let q : Fin 4 := 3; let tc : Fin 4 := 3; let val : Word := 1; let s : State := mkS id
     ⟨dom, q, tc, val, s, by decide +kernel +zetaReduce⟩),
    (let dom : Dom := .owner; let q : Fin 4 := 0; let tc : Fin 4 := 0; let val : Word := 16000; let s : State := mkS id
     ⟨dom, q, tc, val, s, by decide +kernel +zetaReduce⟩),
    (let dom : Dom := .owner; let q : Fin 4 := 3; let tc : Fin 4 := 3; let val : Word := 0; let s : State := mkS id
     ⟨dom, q, tc, val, s, by decide +kernel +zetaReduce⟩),
    (let dom : Dom := .owner; let q : Fin 4 := 3; let tc : Fin 4 := 3; let val : Word := 16001; let s : State := mkS id
     ⟨dom, q, tc, val, s, by decide +kernel +zetaReduce⟩),
    (let p : Fin 1024 := 1023; let tc : Fin 4 := 3; let e : Nat × Nat := (0, 5)
     let s : State := mkS (fun c => { (onPg 3 0x3F c) with wins := [(4095, { epochs := [(0, 5)] })] })
     let c : Chip := s.chip.untilFabric (e.1 / s.chip.epochLen p.val * s.chip.epochLen p.val + s.chip.epochLen p.val)
     ⟨p, tc, e, c, s, by decide +kernel +zetaReduce⟩),
    (let p : Fin 1024 := 1023; let tc : Fin 4 := 3; let e : Nat × Nat := (0, 5); let tl : List (Nat × Nat) := []
     let s : State := mkS (fun c => { (onPg 3 0x3F c) with wins := [(4095, { epochs := [(0, 5)] })] })
     ⟨p, tc, e, tl, s, by decide +kernel +zetaReduce⟩),
    (let p : Fin 1024 := 1023; let s : State := mkS (fun c => { c with wins := [(4095, { epochs := [(0, 5)] })] })
     ⟨p, s, by decide +kernel +zetaReduce⟩),
    (let p : Fin 1024 := 1023; let tc : Fin 4 := 3; let e : Nat × Nat := (0, 5); let tl : List (Nat × Nat) := []
     let c : Chip := { (Chip.reset.setReg (winPage 1023 + 0x1FC) 0).pass 100000000 with wins := [(4095, { epochs := [(0, 5)] })] }
     ⟨p, tc, e, tl, c, by decide +kernel +zetaReduce⟩),
    (let dom : Dom := .owner; let q : Fin 4 := 3; let d : Fin 16 := 15; let val : Word := 16; let s : State := mkS id
     ⟨dom, q, d, val, s, by decide +kernel +zetaReduce⟩),
    (let dom : Dom := .owner; let q : Fin 4 := 0; let d : Fin 16 := 0; let val : Word := 16000; let s : State := mkS id
     ⟨dom, q, d, val, s, by decide +kernel +zetaReduce⟩),
    (let dom : Dom := .owner; let q : Fin 4 := 3; let d : Fin 16 := 15; let val : Word := 15; let s : State := mkS id
     ⟨dom, q, d, val, s, by decide +kernel +zetaReduce⟩),
    (let dom : Dom := .owner; let q : Fin 4 := 3; let d : Fin 16 := 15; let val : Word := 16001; let s : State := mkS id
     ⟨dom, q, d, val, s, by decide +kernel +zetaReduce⟩),
    (let dom : Dom := .owner; let q : Fin 4 := 3; let d : Fin 16 := 15; let i : Fin 64 := 63; let val : Word := 0xFFFF
     let s : State := mkS id; ⟨dom, q, d, i, val, s, by decide +kernel +zetaReduce⟩),
    (let p : Fin 1024 := 1023
     let c : Chip := ((upP 1023 { st := .active, advPriv := [0, 0, 0, 0, 2] } Chip.reset).setReg (winPage 1023 + 0x1FC) 1).winAdd 1023 3
     ⟨p, c, by decide +kernel +zetaReduce⟩)⟩

/-- States and operands that meet the hypotheses of `Obligations.Contributions`, clause by clause. -/
theorem witness_Contributions :
    (∃ (d : Fin 4) (x : Nat) (a : Arr) (s : State), s.chip.pressFront d.val = some (x, a) ∧ a.hdr.op ≠ 5 ∧ s.chip.pressWorks
      d.val x = true) ∧
    (∃ (d : Fin 4) (x : Nat) (a : Arr) (s : State), s.chip.pressFront d.val = some (x, a) ∧ s.chip.pressWorks d.val x =
      false) ∧
    (∃ (d : Fin 4) (x : Nat) (a : Arr) (rest : List (Nat × Arr)) (c : Chip), c.pressIn = (32 * d.val + x, a) :: rest ∧ x <
      32) ∧
    (∃ (d : Fin 4) (s : State), s.chip.pressFront d.val = none) ∧
    (∃ (d : Nat) (x : Nat) (c : Chip), (c.ctx (24 * d + x)).st ≠ 1) ∧
    (∃ (d : Nat) (x : Nat) (a : Arr) (c : Chip), (c.ctx (24 * d + x)).st = 1 ∧ 2 ≤ a.code) ∧
    (∃ (d : Nat) (x : Nat) (a : Arr) (b : Tmpl) (c : Chip), (c.ctx (24 * d + x)).st = 1 ∧ a.code < 2 ∧ a.hdr.op = 4 ∧ b =
      c.tmpl d x a.hdr.bank ∧ b.valid = true ∧ b.kind = 1 ∧ b.role ≠ 3 ∧ b.slotOf a.hdr.src = none) ∧
    (∃ (d : Nat) (x : Nat) (a : Arr) (b : Tmpl) (c : Chip), (c.ctx (24 * d + x)).st = 1 ∧ a.code < 2 ∧ a.hdr.op = 4 ∧ b =
      c.tmpl d x a.hdr.bank ∧ b.valid = true ∧ b.kind = 1 ∧ b.role ≠ 3 ∧ (b.slotOf a.hdr.src).isSome = true) ∧
    (∃ (d : Nat) (x : Nat) (dd : Nat) (a : Arr) (b : Tmpl) (c : Chip), (c.ctx (24 * d + x)).st = 1 ∧ a.code < 2 ∧ b = c.tmpl
      d x a.hdr.bank ∧ ¬ (a.hdr.op = 4 ∧ b.valid = true ∧ b.kind = 1 ∧ b.role ≠ 3) ∧ dd = (a.hdr.aux + 2 ^ 24 - (c.ctx (24 *
      d + x)).floor) % 2 ^ 24 ∧ 2 ^ 23 ≤ dd) ∧
    (∃ (d : Nat) (x : Nat) (dd : Nat) (a : Arr) (b : Tmpl) (c : Chip), (c.ctx (24 * d + x)).st = 1 ∧ a.code < 2 ∧ b = c.tmpl
      d x a.hdr.bank ∧ ¬ (a.hdr.op = 4 ∧ b.valid = true ∧ b.kind = 1 ∧ b.role ≠ 3) ∧ dd = (a.hdr.aux + 2 ^ 24 - (c.ctx (24 *
      d + x)).floor) % 2 ^ 24 ∧ dd < 2 ^ 23 ∧ (c.ctx (24 * d + x)).openMax ≤ dd) ∧
    (∃ (d : Nat) (x : Nat) (dd : Nat) (a : Arr) (b : Tmpl) (c : Chip), (c.ctx (24 * d + x)).st = 1 ∧ a.code < 2 ∧ b = c.tmpl
      d x a.hdr.bank ∧ ¬ (a.hdr.op = 4 ∧ b.valid = true ∧ b.kind = 1 ∧ b.role ≠ 3) ∧ dd = (a.hdr.aux + 2 ^ 24 - (c.ctx (24 *
      d + x)).floor) % 2 ^ 24 ∧ dd < 2 ^ 23 ∧ (c.ctx (24 * d + x)).openMax ≤ dd) ∧
    (∃ (d : Nat) (x : Nat) (dd : Nat) (a : Arr) (b : Tmpl) (c : Chip) (k : _), (c.ctx (24 * d + x)).st = 1 ∧ a.code < 2 ∧ b
      = c.tmpl d x a.hdr.bank ∧ ¬ (a.hdr.op = 4 ∧ b.valid = true ∧ b.kind = 1 ∧ b.role ≠ 3) ∧ dd = (a.hdr.aux + 2 ^ 24 -
      (c.ctx (24 * d + x)).floor) % 2 ^ 24 ∧ dd < 2 ^ 23 ∧ dd < (c.ctx (24 * d + x)).openMax ∧ (c.ctx (24 * d +
      x)).chunks.find? (fun k => k.c == a.hdr.aux) = some k ∧ k.done = true) ∧
    (∃ (d : Nat) (x : Nat) (dd : Nat) (a : Arr) (b : Tmpl) (c : Chip), (c.ctx (24 * d + x)).st = 1 ∧ a.code < 2 ∧ b = c.tmpl
      d x a.hdr.bank ∧ ¬ (a.hdr.op = 4 ∧ b.valid = true ∧ b.kind = 1 ∧ b.role ≠ 3) ∧ dd = (a.hdr.aux + 2 ^ 24 - (c.ctx (24 *
      d + x)).floor) % 2 ^ 24 ∧ dd < 2 ^ 23 ∧ dd < (c.ctx (24 * d + x)).openMax ∧ (c.ctx (24 * d + x)).chunks.find? (fun k
      => k.c == a.hdr.aux) = none ∧ b.accepts (c.ctxJob d x) a.hdr = false) ∧
    (∃ (d : Nat) (x : Nat) (dd : Nat) (a : Arr) (b : Tmpl) (c : Chip), (c.ctx (24 * d + x)).st = 1 ∧ a.code < 2 ∧ b = c.tmpl
      d x a.hdr.bank ∧ ¬ (a.hdr.op = 4 ∧ b.valid = true ∧ b.kind = 1 ∧ b.role ≠ 3) ∧ dd = (a.hdr.aux + 2 ^ 24 - (c.ctx (24 *
      d + x)).floor) % 2 ^ 24 ∧ dd < 2 ^ 23 ∧ dd < (c.ctx (24 * d + x)).openMax ∧ (c.ctx (24 * d + x)).chunks.find? (fun k
      => k.c == a.hdr.aux) = none ∧ b.accepts (c.ctxJob d x) a.hdr = true ∧ b.slotFor a.hdr.aux a.hdr.src = none) ∧
    (∃ (d : Nat) (x : Nat) (dd : Nat) (a : Arr) (b : Tmpl) (c : Chip) (i : Nat) (scale : Nat) (child : Bool) (c1 : Chip) (k
      : Chunk), (c.ctx (24 * d + x)).st = 1 ∧ a.code < 2 ∧ b = c.tmpl d x a.hdr.bank ∧ ¬ (a.hdr.op = 4 ∧ b.valid = true ∧
      b.kind = 1 ∧ b.role ≠ 3) ∧ dd = (a.hdr.aux + 2 ^ 24 - (c.ctx (24 * d + x)).floor) % 2 ^ 24 ∧ dd < 2 ^ 23 ∧ dd < (c.ctx
      (24 * d + x)).openMax ∧ (c.ctx (24 * d + x)).chunks.find? (fun k => k.c == a.hdr.aux) = none ∧ b.accepts (c.ctxJob d
      x) a.hdr = true ∧ b.slotFor a.hdr.aux a.hdr.src = some (i, child, scale) ∧ c1 = (((c.onCtx (24 * d + x) (fun y =>
      { y with chunks := y.chunks ++ [{ c := a.hdr.aux, done := false, bank := a.hdr.bank, tmpl := b, slots := [], openAt := c.now, late := false, poisoned := false }] })).pmc
      (4 + d) 8 0x7001 (some (x % 16)) (some (x / 16))).takeSlot d x a.hdr.aux i (child && b.kind != 1) a) ∧ (c1.ctx (24 * d
      + x)).chunks.find? (fun k => k.c == a.hdr.aux) = some k) ∧
    (∃ (d : Nat) (x : Nat) (dd : Nat) (a : Arr) (b : Tmpl) (c : Chip) (i : Nat) (scale : Nat) (child : Bool) (c1 : Chip) (k
      : Chunk), (c.ctx (24 * d + x)).st = 1 ∧ a.code < 2 ∧ b = c.tmpl d x a.hdr.bank ∧ ¬ (a.hdr.op = 4 ∧ b.valid = true ∧
      b.kind = 1 ∧ b.role ≠ 3) ∧ dd = (a.hdr.aux + 2 ^ 24 - (c.ctx (24 * d + x)).floor) % 2 ^ 24 ∧ dd < 2 ^ 23 ∧ dd < (c.ctx
      (24 * d + x)).openMax ∧ (c.ctx (24 * d + x)).chunks.find? (fun k => k.c == a.hdr.aux) = none ∧ b.accepts (c.ctxJob d
      x) a.hdr = true ∧ b.slotFor a.hdr.aux a.hdr.src = some (i, child, scale) ∧ c1 = (((c.onCtx (24 * d + x) (fun y =>
      { y with chunks := y.chunks ++ [{ c := a.hdr.aux, done := false, bank := a.hdr.bank, tmpl := b, slots := [], openAt := c.now, late := false, poisoned := false }] })).pmc
      (4 + d) 8 0x7001 (some (x % 16)) (some (x / 16))).takeSlot d x a.hdr.aux i (child && b.kind != 1) a) ∧ (c1.ctx (24 * d
      + x)).chunks.find? (fun k => k.c == a.hdr.aux) = some k) ∧
    (∃ (d : Nat) (x : Nat) (dd : Nat) (a : Arr) (b : Tmpl) (c : Chip) (k : Chunk), (c.ctx (24 * d + x)).st = 1 ∧ a.code < 2
      ∧ b = c.tmpl d x a.hdr.bank ∧ ¬ (a.hdr.op = 4 ∧ b.valid = true ∧ b.kind = 1 ∧ b.role ≠ 3) ∧ dd = (a.hdr.aux + 2 ^ 24 -
      (c.ctx (24 * d + x)).floor) % 2 ^ 24 ∧ dd < 2 ^ 23 ∧ dd < (c.ctx (24 * d + x)).openMax ∧ (c.ctx (24 * d +
      x)).chunks.find? (fun k => k.c == a.hdr.aux) = some k ∧ k.done = false ∧ k.tmpl.accepts (c.ctxJob d x) a.hdr = false) ∧
    (∃ (d : Nat) (x : Nat) (dd : Nat) (a : Arr) (b : Tmpl) (c : Chip) (k : Chunk), (c.ctx (24 * d + x)).st = 1 ∧ a.code < 2
      ∧ b = c.tmpl d x a.hdr.bank ∧ ¬ (a.hdr.op = 4 ∧ b.valid = true ∧ b.kind = 1 ∧ b.role ≠ 3) ∧ dd = (a.hdr.aux + 2 ^ 24 -
      (c.ctx (24 * d + x)).floor) % 2 ^ 24 ∧ dd < 2 ^ 23 ∧ dd < (c.ctx (24 * d + x)).openMax ∧ (c.ctx (24 * d +
      x)).chunks.find? (fun k => k.c == a.hdr.aux) = some k ∧ k.done = false ∧ k.tmpl.accepts (c.ctxJob d x) a.hdr = true ∧
      k.tmpl.slotFor a.hdr.aux a.hdr.src = none) ∧
    (∃ (d : Nat) (x : Nat) (dd : Nat) (a : Arr) (b : Tmpl) (c : Chip) (k : Chunk) (i : Nat) (scale : Nat) (child : Bool),
      (c.ctx (24 * d + x)).st = 1 ∧ a.code < 2 ∧ b = c.tmpl d x a.hdr.bank ∧ ¬ (a.hdr.op = 4 ∧ b.valid = true ∧ b.kind = 1 ∧
      b.role ≠ 3) ∧ dd = (a.hdr.aux + 2 ^ 24 - (c.ctx (24 * d + x)).floor) % 2 ^ 24 ∧ dd < 2 ^ 23 ∧ dd < (c.ctx (24 * d +
      x)).openMax ∧ (c.ctx (24 * d + x)).chunks.find? (fun k => k.c == a.hdr.aux) = some k ∧ k.done = false ∧ k.tmpl.accepts
      (c.ctxJob d x) a.hdr = true ∧ k.tmpl.slotFor a.hdr.aux a.hdr.src = some (i, child, scale) ∧ k.already i (child &&
      k.tmpl.kind != 1) a = true) ∧
    (∃ (d : Nat) (x : Nat) (dd : Nat) (a : Arr) (b : Tmpl) (c : Chip) (k : Chunk) (i : Nat) (scale : Nat) (child : Bool) (c1
      : Chip) (k1 : Chunk), (c.ctx (24 * d + x)).st = 1 ∧ a.code < 2 ∧ b = c.tmpl d x a.hdr.bank ∧ ¬ (a.hdr.op = 4 ∧ b.valid
      = true ∧ b.kind = 1 ∧ b.role ≠ 3) ∧ dd = (a.hdr.aux + 2 ^ 24 - (c.ctx (24 * d + x)).floor) % 2 ^ 24 ∧ dd < 2 ^ 23 ∧ dd
      < (c.ctx (24 * d + x)).openMax ∧ (c.ctx (24 * d + x)).chunks.find? (fun k => k.c == a.hdr.aux) = some k ∧ k.done =
      false ∧ k.tmpl.accepts (c.ctxJob d x) a.hdr = true ∧ k.tmpl.slotFor a.hdr.aux a.hdr.src = some (i, child, scale) ∧
      k.already i (child && k.tmpl.kind != 1) a = false ∧ c1 = c.takeSlot d x a.hdr.aux i (child && k.tmpl.kind != 1) a ∧
      (c1.ctx (24 * d + x)).chunks.find? (fun k => k.c == a.hdr.aux) = some k1) ∧
    (∃ (d : Nat) (x : Nat) (dd : Nat) (a : Arr) (b : Tmpl) (c : Chip) (k : Chunk) (i : Nat) (scale : Nat) (child : Bool) (c1
      : Chip) (k1 : Chunk), (c.ctx (24 * d + x)).st = 1 ∧ a.code < 2 ∧ b = c.tmpl d x a.hdr.bank ∧ ¬ (a.hdr.op = 4 ∧ b.valid
      = true ∧ b.kind = 1 ∧ b.role ≠ 3) ∧ dd = (a.hdr.aux + 2 ^ 24 - (c.ctx (24 * d + x)).floor) % 2 ^ 24 ∧ dd < 2 ^ 23 ∧ dd
      < (c.ctx (24 * d + x)).openMax ∧ (c.ctx (24 * d + x)).chunks.find? (fun k => k.c == a.hdr.aux) = some k ∧ k.done =
      false ∧ k.tmpl.accepts (c.ctxJob d x) a.hdr = true ∧ k.tmpl.slotFor a.hdr.aux a.hdr.src = some (i, child, scale) ∧
      k.already i (child && k.tmpl.kind != 1) a = false ∧ c1 = c.takeSlot d x a.hdr.aux i (child && k.tmpl.kind != 1) a ∧
      (c1.ctx (24 * d + x)).chunks.find? (fun k => k.c == a.hdr.aux) = some k1) ∧
    (∃ (d : Nat) (x : Nat) (k : Chunk) (a : Arr) (c : Chip), (c.ctx (24 * d + x)).chunks.find? (fun k => k.c == a.hdr.aux) =
      some k) :=
  ⟨ (let d : Fin 4 := 3; let x : Nat := 23; let a : Arr := con 7 9 0
     let s : State := mkS (fun c => { onPg 7 0x41 c with pressIn := [(119, con 7 9 0)] })
     ⟨d, x, a, s, by decide +kernel +zetaReduce⟩),
    (let d : Fin 4 := 3; let x : Nat := 23; let a : Arr := con 7 9 0
     let s : State := mkS (fun c => { ctxOn 3 23 (onPg 7 0x41 c) with pressIn := [(119, con 7 9 0)] })
     ⟨d, x, a, s, by decide +kernel +zetaReduce⟩),
    (let d : Fin 4 := 3; let x : Nat := 23; let a : Arr := con 7 9 0; let rest : List (Nat × Arr) := []
     let c : Chip := { Chip.reset with pressIn := [(119, con 7 9 0)] }; ⟨d, x, a, rest, c, by decide +kernel +zetaReduce⟩),
    (let d : Fin 4 := 3; let s : State := mkS id; ⟨d, s, by decide +kernel +zetaReduce⟩),
    (let d : Nat := 3; let x : Nat := 23; let c : Chip := Chip.reset; ⟨d, x, c, by decide +kernel +zetaReduce⟩),
    (let d : Nat := 3; let x : Nat := 23; let a : Arr := con 7 9 2; let c : Chip := (ctxOn 3 23 (tpl 3 23 3 1 Chip.reset))
     ⟨d, x, a, c, by decide +kernel +zetaReduce⟩),
    (let d : Nat := 3; let x : Nat := 23; let a : Arr := { (con 1 8 1) with hdr := { (con 1 8 1).hdr with op := 4 } }
     let c : Chip := ctxOn 3 23 ((tpl 3 23 1 1 Chip.reset).setReg (prs 3 0x6E0) (2 ^ 31 + put 1 27 + put 1 29 + put 1 14 + 5))
     let b : Tmpl := c.tmpl d x a.hdr.bank; ⟨d, x, a, b, c, by decide +kernel +zetaReduce⟩),
    (let d : Nat := 3; let x : Nat := 23; let a : Arr := { (con 1 9 1) with hdr := { (con 1 9 1).hdr with op := 4 } }
     let c : Chip := ctxOn 3 23 ((tpl 3 23 1 1 Chip.reset).setReg (prs 3 0x6E0) (2 ^ 31 + put 1 27 + put 1 29 + put 1 14 + 5))
     let b : Tmpl := c.tmpl d x a.hdr.bank; ⟨d, x, a, b, c, by decide +kernel +zetaReduce⟩),
    (let d : Nat := 3; let x : Nat := 23; let a : Arr := con 0xFFFFFF 9 0
     let c : Chip := (ctxOn 3 23 (tpl 3 23 3 1 Chip.reset)); let b : Tmpl := c.tmpl d x a.hdr.bank
     let dd : Nat := (a.hdr.aux + 2 ^ 24 - (c.ctx (24 * d + x)).floor) % 2 ^ 24
     ⟨d, x, dd, a, b, c, by decide +kernel +zetaReduce⟩),
    (let d : Nat := 3; let x : Nat := 23; let a : Arr := con 4 9 0; let c : Chip := (ctxOn 3 23 (tpl 3 23 3 1 Chip.reset))
     let b : Tmpl := c.tmpl d x a.hdr.bank; let dd : Nat := (a.hdr.aux + 2 ^ 24 - (c.ctx (24 * d + x)).floor) % 2 ^ 24
     ⟨d, x, dd, a, b, c, by decide +kernel +zetaReduce⟩),
    (let d : Nat := 3; let x : Nat := 23; let a : Arr := con 0x7FFFFF 9 0
     let c : Chip := (ctxOn 3 23 (tpl 3 23 3 1 Chip.reset)); let b : Tmpl := c.tmpl d x a.hdr.bank
     let dd : Nat := (a.hdr.aux + 2 ^ 24 - (c.ctx (24 * d + x)).floor) % 2 ^ 24
     ⟨d, x, dd, a, b, c, by decide +kernel +zetaReduce⟩),
    (let d : Nat := 3; let x : Nat := 23; let a : Arr := con 1 9 0
     let c : Chip := (ctxOn 3 23 (tpl 3 23 3 1 Chip.reset)).onCtx 95 (fun y => { y with chunks := [{ (chk0 (Chip.reset.tmpl 3 23 false)) with c := 1, done := true }] })
     let b : Tmpl := c.tmpl d x a.hdr.bank; let dd : Nat := (a.hdr.aux + 2 ^ 24 - (c.ctx (24 * d + x)).floor) % 2 ^ 24
     let k := ((c.ctx (24 * d + x)).chunks.find? (fun k => k.c == a.hdr.aux)).get (by decide +kernel)
     ⟨d, x, dd, a, b, c, k, by decide +kernel +zetaReduce⟩),
    (let d : Nat := 3; let x : Nat := 23; let a : Arr := { (con 1 9 0) with hdr := { (con 1 9 0).hdr with job := 5 } }
     let c : Chip := (ctxOn 3 23 (tpl 3 23 3 1 Chip.reset)); let b : Tmpl := c.tmpl d x a.hdr.bank
     let dd : Nat := (a.hdr.aux + 2 ^ 24 - (c.ctx (24 * d + x)).floor) % 2 ^ 24
     ⟨d, x, dd, a, b, c, by decide +kernel +zetaReduce⟩),
    (let d : Nat := 3; let x : Nat := 23; let a : Arr := con 1 8 0; let c : Chip := (ctxOn 3 23 (tpl 3 23 3 1 Chip.reset))
     let b : Tmpl := c.tmpl d x a.hdr.bank; let dd : Nat := (a.hdr.aux + 2 ^ 24 - (c.ctx (24 * d + x)).floor) % 2 ^ 24
     ⟨d, x, dd, a, b, c, by decide +kernel +zetaReduce⟩),
    (let d : Nat := 3; let x : Nat := 23; let a : Arr := con 1 9 0; let i : Nat := 0; let scale : Nat := 0x3F800000
     let child : Bool := false; let c : Chip := (ctxOn 3 23 (tpl 3 23 3 1 Chip.reset))
     let b : Tmpl := c.tmpl d x a.hdr.bank; let dd : Nat := (a.hdr.aux + 2 ^ 24 - (c.ctx (24 * d + x)).floor) % 2 ^ 24
     let c1 : Chip := (((c.onCtx (24 * d + x) (fun y => { y with chunks := y.chunks ++ [{ c := a.hdr.aux, done := false, bank := a.hdr.bank, tmpl := b, slots := [], openAt := c.now, late := false, poisoned := false }] })).pmc (4 + d) 8 0x7001 (some (x % 16)) (some (x / 16))).takeSlot d x a.hdr.aux i (child && b.kind != 1) a)
     let k : Chunk := ((c1.ctx (24 * d + x)).chunks.find? (fun k => k.c == a.hdr.aux)).get (by decide +kernel)
     ⟨d, x, dd, a, b, c, i, scale, child, c1, k, by decide +kernel +zetaReduce⟩),
    (let d : Nat := 3; let x : Nat := 23; let a : Arr := con 3 10 1; let i : Nat := 1; let scale : Nat := 0x3F800000
     let child : Bool := false; let c : Chip := (ctxOn 3 23 (tpl 3 23 3 2 Chip.reset))
     let b : Tmpl := c.tmpl d x a.hdr.bank; let dd : Nat := (a.hdr.aux + 2 ^ 24 - (c.ctx (24 * d + x)).floor) % 2 ^ 24
     let c1 : Chip := (((c.onCtx (24 * d + x) (fun y => { y with chunks := y.chunks ++ [{ c := a.hdr.aux, done := false, bank := a.hdr.bank, tmpl := b, slots := [], openAt := c.now, late := false, poisoned := false }] })).pmc (4 + d) 8 0x7001 (some (x % 16)) (some (x / 16))).takeSlot d x a.hdr.aux i (child && b.kind != 1) a)
     let k : Chunk := ((c1.ctx (24 * d + x)).chunks.find? (fun k => k.c == a.hdr.aux)).get (by decide +kernel)
     ⟨d, x, dd, a, b, c, i, scale, child, c1, k, by decide +kernel +zetaReduce⟩),
    (let d : Nat := 3; let x : Nat := 23; let a : Arr := { (con 1 9 0) with hdr := { (con 1 9 0).hdr with job := 5 } }
     let c : Chip := (ctxOn 3 23 (tpl 3 23 3 2 Chip.reset)).onCtx 95 (fun y => { y with chunks := [{ (chk0 ((tpl 3 23 3 2 Chip.reset).tmpl 3 23 false)) with c := 1 }] })
     let b : Tmpl := c.tmpl d x a.hdr.bank; let dd : Nat := (a.hdr.aux + 2 ^ 24 - (c.ctx (24 * d + x)).floor) % 2 ^ 24
     let k : Chunk := ((c.ctx (24 * d + x)).chunks.find? (fun k => k.c == a.hdr.aux)).get (by decide +kernel)
     ⟨d, x, dd, a, b, c, k, by decide +kernel +zetaReduce⟩),
    (let d : Nat := 3; let x : Nat := 23; let a : Arr := con 1 8 0
     let c : Chip := (ctxOn 3 23 (tpl 3 23 3 2 Chip.reset)).onCtx 95 (fun y => { y with chunks := [{ (chk0 ((tpl 3 23 3 2 Chip.reset).tmpl 3 23 false)) with c := 1 }] })
     let b : Tmpl := c.tmpl d x a.hdr.bank; let dd : Nat := (a.hdr.aux + 2 ^ 24 - (c.ctx (24 * d + x)).floor) % 2 ^ 24
     let k : Chunk := ((c.ctx (24 * d + x)).chunks.find? (fun k => k.c == a.hdr.aux)).get (by decide +kernel)
     ⟨d, x, dd, a, b, c, k, by decide +kernel +zetaReduce⟩),
    (let d : Nat := 3; let x : Nat := 23; let a : Arr := con 1 9 0; let i : Nat := 0; let scale : Nat := 0x3F800000
     let child : Bool := false
     let c : Chip := (ctxOn 3 23 (tpl 3 23 3 2 Chip.reset)).onCtx 95 (fun y => { y with chunks := [{ (chk0 ((tpl 3 23 3 2 Chip.reset).tmpl 3 23 false)) with c := 1, slots := [{ slot := 0, segs := [(0, 0, 4, List.replicate 16 0)], count := 1, full := true, refused := false }] }] })
     let b : Tmpl := c.tmpl d x a.hdr.bank; let dd : Nat := (a.hdr.aux + 2 ^ 24 - (c.ctx (24 * d + x)).floor) % 2 ^ 24
     let k : Chunk := ((c.ctx (24 * d + x)).chunks.find? (fun k => k.c == a.hdr.aux)).get (by decide +kernel)
     ⟨d, x, dd, a, b, c, k, i, scale, child, by decide +kernel +zetaReduce⟩),
    (let d : Nat := 3; let x : Nat := 23; let a : Arr := con 1 10 0; let i : Nat := 1; let scale : Nat := 0x3F800000
     let child : Bool := false
     let c : Chip := (ctxOn 3 23 (tpl 3 23 3 2 Chip.reset)).onCtx 95 (fun y => { y with chunks := [{ (chk0 ((tpl 3 23 3 2 Chip.reset).tmpl 3 23 false)) with c := 1, slots := [{ slot := 0, segs := [(0, 0, 4, List.replicate 16 0)], count := 1, full := true, refused := false }] }] })
     let b : Tmpl := c.tmpl d x a.hdr.bank; let dd : Nat := (a.hdr.aux + 2 ^ 24 - (c.ctx (24 * d + x)).floor) % 2 ^ 24
     let k : Chunk := ((c.ctx (24 * d + x)).chunks.find? (fun k => k.c == a.hdr.aux)).get (by decide +kernel)
     let c1 : Chip := c.takeSlot d x a.hdr.aux i (child && k.tmpl.kind != 1) a
     let k1 : Chunk := ((c1.ctx (24 * d + x)).chunks.find? (fun k => k.c == a.hdr.aux)).get (by decide +kernel)
     ⟨d, x, dd, a, b, c, k, i, scale, child, c1, k1, by decide +kernel +zetaReduce⟩),
    (let d : Nat := 3; let x : Nat := 23; let a : Arr := con 1 9 1; let i : Nat := 0; let scale : Nat := 0x3F800000
     let child : Bool := false
     let c : Chip := (ctxOn 3 23 (tpl 3 23 3 2 Chip.reset)).onCtx 95 (fun y => { y with chunks := [{ (chk0 ((tpl 3 23 3 2 Chip.reset).tmpl 3 23 false)) with c := 1 }] })
     let b : Tmpl := c.tmpl d x a.hdr.bank; let dd : Nat := (a.hdr.aux + 2 ^ 24 - (c.ctx (24 * d + x)).floor) % 2 ^ 24
     let k : Chunk := ((c.ctx (24 * d + x)).chunks.find? (fun k => k.c == a.hdr.aux)).get (by decide +kernel)
     let c1 : Chip := c.takeSlot d x a.hdr.aux i (child && k.tmpl.kind != 1) a
     let k1 : Chunk := ((c1.ctx (24 * d + x)).chunks.find? (fun k => k.c == a.hdr.aux)).get (by decide +kernel)
     ⟨d, x, dd, a, b, c, k, i, scale, child, c1, k1, by decide +kernel +zetaReduce⟩),
    (let d : Nat := 3; let x : Nat := 23; let a : Arr := con 1 10 0
     let c : Chip := (ctxOn 3 23 (tpl 3 23 3 2 Chip.reset)).onCtx 95 (fun y => { y with chunks := [{ (chk0 ((tpl 3 23 3 2 Chip.reset).tmpl 3 23 false)) with c := 1 }] })
     let k : Chunk := ((c.ctx (24 * d + x)).chunks.find? (fun k => k.c == a.hdr.aux)).get (by decide +kernel)
     ⟨d, x, k, a, c, by decide +kernel +zetaReduce⟩)⟩

/-- States and operands that meet the hypotheses of `Obligations.ReductionTree`, clause by clause. -/
theorem witness_ReductionTree :
    (∃ (m : Mode) (l : List Exact), l ≠ [] ∧ l.length ≤ 512 ∧ (∀ s ∈ l, exactInt m.accF s.a = s.a)) ∧
    (∃ (m : Mode) (l : List Exact), l ≠ [] ∧ l.length ≤ 512 ∧ (∀ s ∈ l, exactInt m.accF s.a = s.a)) ∧
    (∃ (m : Mode) (l : List Exact), l ≠ [] ∧ l.length ≤ 512 ∧ (∀ s ∈ l, exactInt m.accF s.a = s.a)) :=
  ⟨ (let m : Mode := modeOf 0xC08; let l : List Exact := [{ a := 1 }, { a := -2, nz := false }, { nan := true }]
     ⟨m, l, by decide +kernel +zetaReduce⟩),
    (let m : Mode := modeOf 0xC08; let l : List Exact := List.replicate 512 { a := 1 }
     ⟨m, l, by decide +kernel +zetaReduce⟩),
    (let m : Mode := modeOf 0x1008; let l : List Exact := [{ a := -2 ^ 63 }, { a := -2 ^ 63 }]
     ⟨m, l, by decide +kernel +zetaReduce⟩)⟩

/-- States and operands that meet the hypotheses of `Obligations.RepresentableValuesKeepTheirEncoding`, clause by clause. -/
theorem witness_RepresentableValuesKeepTheirEncoding :
    (∃ (f : Nat) (n : Nat) (m : Nat) (neg : Bool) (e : Int), f ≤ 4 ∧ n < 2 ^ (1 + (floatFmt f).eb + (floatFmt f).fb) ∧
      (floatFmt f).value n = .fin neg m e) ∧
    (∃ (f : Nat) (n : Nat) (m : Nat) (neg : Bool) (e : Int), f ≤ 4 ∧ n < 2 ^ (1 + (floatFmt f).eb + (floatFmt f).fb) ∧
      (floatFmt f).value n = .fin neg m e) ∧
    (∃ (f : Nat) (n : Nat) (m : Nat) (neg : Bool) (e : Int), f ≤ 4 ∧ n < 2 ^ (1 + (floatFmt f).eb + (floatFmt f).fb) ∧
      (floatFmt f).value n = .fin neg m e) ∧
    (∃ (f : Nat) (n : Nat) (m : Nat) (neg : Bool) (e : Int), f ≤ 4 ∧ n < 2 ^ (1 + (floatFmt f).eb + (floatFmt f).fb) ∧
      (floatFmt f).value n = .fin neg m e) ∧
    (∃ (f : Nat) (n : Nat) (m : Nat) (neg : Bool) (e : Int), f ≤ 4 ∧ n < 2 ^ (1 + (floatFmt f).eb + (floatFmt f).fb) ∧
      (floatFmt f).value n = .fin neg m e) ∧
    (∃ (f : Nat) (n : Nat) (m : Nat) (neg : Bool) (e : Int), f ≤ 4 ∧ n < 2 ^ (1 + (floatFmt f).eb + (floatFmt f).fb) ∧
      (floatFmt f).value n = .fin neg m e) :=
  ⟨ (let f : Nat := 4; let n : Nat := 128; let neg : Bool := true
     let m : Nat := (match (floatFmt 4).value 128 with | .fin _ m _ => m | _ => 0)
     let e : Int := (match (floatFmt 4).value 128 with | .fin _ _ e => e | _ => 0)
     ⟨f, n, m, neg, e, by decide +kernel +zetaReduce⟩),
    (let f : Nat := 0; let n : Nat := 1; let neg : Bool := false
     let m : Nat := (match (floatFmt 0).value 1 with | .fin _ m _ => m | _ => 0)
     let e : Int := (match (floatFmt 0).value 1 with | .fin _ _ e => e | _ => 0)
     ⟨f, n, m, neg, e, by decide +kernel +zetaReduce⟩),
    (let f : Nat := 3; let n : Nat := 126; let neg : Bool := false
     let m : Nat := (match (floatFmt 3).value 126 with | .fin _ m _ => m | _ => 0)
     let e : Int := (match (floatFmt 3).value 126 with | .fin _ _ e => e | _ => 0)
     ⟨f, n, m, neg, e, by decide +kernel +zetaReduce⟩),
    (let f : Nat := 4; let n : Nat := 123; let neg : Bool := false
     let m : Nat := (match (floatFmt 4).value 123 with | .fin _ m _ => m | _ => 0)
     let e : Int := (match (floatFmt 4).value 123 with | .fin _ _ e => e | _ => 0)
     ⟨f, n, m, neg, e, by decide +kernel +zetaReduce⟩),
    (let f : Nat := 0; let n : Nat := 0; let neg : Bool := false
     let m : Nat := (match (floatFmt 0).value 0 with | .fin _ m _ => m | _ => 0)
     let e : Int := (match (floatFmt 0).value 0 with | .fin _ _ e => e | _ => 0)
     ⟨f, n, m, neg, e, by decide +kernel +zetaReduce⟩),
    (let f : Nat := 2; let n : Nat := 64511; let neg : Bool := true
     let m : Nat := (match (floatFmt 2).value 64511 with | .fin _ m _ => m | _ => 0)
     let e : Int := (match (floatFmt 2).value 64511 with | .fin _ _ e => e | _ => 0)
     ⟨f, n, m, neg, e, by decide +kernel +zetaReduce⟩)⟩

/-- States and operands that meet the hypotheses of `Obligations.LateAndRetained`, clause by clause. -/
theorem witness_LateAndRetained :
    (∃ (d : Fin 4) (x : Fin 24) (ch : BitVec 24) (k : Chunk) (c : Chip) (s : State), (s.chip.ctx (24 * d.val +
      x.val)).chunks.find? (fun k => k.c == ch.toNat) = some k ∧ k.done = false ∧ k.late = false ∧ s.chip.pressWorks d.val
      x.val = true ∧ c = (((s.chip.till (k.openAt + k.tmpl.timeout)).onChunk d.val x.val ch.toNat (fun k =>
      { k with late := true })).raise (col d.val 0) 2).pmc (4 + d.val) 8 0x7003 (some (x.val % 16)) (some (x.val / 16))) ∧
    (∃ (d : Fin 4) (x : Fin 24) (t : Nat) (s : State), (s.chip.ctx (24 * d.val + x.val)).noticeAt = some t ∧ (s.chip.ctx (24
      * d.val + x.val)).chunks.any (fun k => k.late) = true ∧ s.chip.pressWorks d.val x.val = true) ∧
    (∃ (d : Fin 4) (x : Fin 24) (g : BitVec 2) (ch : BitVec 24) (r : Retained) (s : State), (s.chip.ctx (24 * d.val +
      x.val)).kept.find? (fun r => r.gen == g.toNat && r.c == ch.toNat) = some r ∧ s.chip.pressWorks d.val x.val = true) ∧
    (∃ (d : Fin 4) (x : Fin 24) (s : State), s.chip.pressWorks d.val x.val = false) ∧
    (∃ (d : Fin 4) (x : Nat) (a : Arr) (s : State), s.chip.pressFront d.val = some (x, a) ∧ a.hdr.op = 5 ∧ s.chip.pressWorks
      d.val x = false) ∧
    (∃ (d : Fin 4) (x : Nat) (a : Arr) (s : State), s.chip.pressFront d.val = some (x, a) ∧ a.hdr.op = 5 ∧ s.chip.pressWorks
      d.val x = true ∧ (s.chip.ctx (24 * d.val + x)).st ≠ 1) ∧
    (∃ (d : Fin 4) (x : Nat) (a : Arr) (s : State), s.chip.pressFront d.val = some (x, a) ∧ a.hdr.op = 5 ∧ s.chip.pressWorks
      d.val x = true ∧ (s.chip.ctx (24 * d.val + x)).st = 1 ∧ 2 ≤ a.code) ∧
    (∃ (d : Fin 4) (x : Nat) (a : Arr) (c : Chip) (s : State), s.chip.pressFront d.val = some (x, a) ∧ a.hdr.op = 5 ∧
      s.chip.pressWorks d.val x = true ∧ (s.chip.ctx (24 * d.val + x)).st = 1 ∧ a.code < 2 ∧ c = s.chip.pressPop d.val ∧
      (s.chip.tmpl d.val x a.hdr.bank).valid = false) ∧
    (∃ (d : Fin 4) (x : Nat) (a : Arr) (c : Chip) (s : State), s.chip.pressFront d.val = some (x, a) ∧ a.hdr.op = 5 ∧
      s.chip.pressWorks d.val x = true ∧ (s.chip.ctx (24 * d.val + x)).st = 1 ∧ a.code < 2 ∧ c = s.chip.pressPop d.val ∧
      (s.chip.tmpl d.val x a.hdr.bank).valid = true ∧ (s.chip.tmpl d.val x a.hdr.bank).role = 3 ∧ (s.chip.ctx (24 * d.val +
      x)).kept.find? (fun r => r.gen == a.hdr.gen && r.c == a.hdr.aux) = none) ∧
    (∃ (d : Fin 4) (x : Nat) (bad : Option Bool) (a : Arr) (c : Chip) (s : State) (r : _), s.chip.pressFront d.val = some
      (x, a) ∧ a.hdr.op = 5 ∧ s.chip.pressWorks d.val x = true ∧ (s.chip.ctx (24 * d.val + x)).st = 1 ∧ a.code < 2 ∧ c =
      s.chip.pressPop d.val ∧ (s.chip.tmpl d.val x a.hdr.bank).valid = true ∧ (s.chip.tmpl d.val x a.hdr.bank).role = 3 ∧
      (s.chip.ctx (24 * d.val + x)).kept.find? (fun r => r.gen == a.hdr.gen && r.c == a.hdr.aux) = some r ∧ r.resentAt =
      none ∧ bad = none) ∧
    (∃ (d : Fin 4) (x : Nat) (bad : Option Bool) (a : Arr) (c : Chip) (s : State) (r : _), s.chip.pressFront d.val = some
      (x, a) ∧ a.hdr.op = 5 ∧ s.chip.pressWorks d.val x = true ∧ (s.chip.ctx (24 * d.val + x)).st = 1 ∧ a.code < 2 ∧ c =
      s.chip.pressPop d.val ∧ (s.chip.tmpl d.val x a.hdr.bank).valid = true ∧ (s.chip.tmpl d.val x a.hdr.bank).role = 3 ∧
      (s.chip.ctx (24 * d.val + x)).kept.find? (fun r => r.gen == a.hdr.gen && r.c == a.hdr.aux) = some r ∧ r.resentAt =
      none ∧ bad = some false) ∧
    (∃ (d : Fin 4) (x : Nat) (bad : Option Bool) (a : Arr) (c : Chip) (s : State) (r : _), s.chip.pressFront d.val = some
      (x, a) ∧ a.hdr.op = 5 ∧ s.chip.pressWorks d.val x = true ∧ (s.chip.ctx (24 * d.val + x)).st = 1 ∧ a.code < 2 ∧ c =
      s.chip.pressPop d.val ∧ (s.chip.tmpl d.val x a.hdr.bank).valid = true ∧ (s.chip.tmpl d.val x a.hdr.bank).role = 3 ∧
      (s.chip.ctx (24 * d.val + x)).kept.find? (fun r => r.gen == a.hdr.gen && r.c == a.hdr.aux) = some r ∧ r.resentAt =
      none ∧ bad = some true) ∧
    (∃ (d : Fin 4) (x : Nat) (a : Arr) (c : Chip) (s : State) (r : _) (at_ : _), s.chip.pressFront d.val = some (x, a) ∧
      a.hdr.op = 5 ∧ s.chip.pressWorks d.val x = true ∧ (s.chip.ctx (24 * d.val + x)).st = 1 ∧ a.code < 2 ∧ c =
      s.chip.pressPop d.val ∧ (s.chip.tmpl d.val x a.hdr.bank).valid = true ∧ (s.chip.tmpl d.val x a.hdr.bank).role = 3 ∧
      (s.chip.ctx (24 * d.val + x)).kept.find? (fun r => r.gen == a.hdr.gen && r.c == a.hdr.aux) = some r ∧ r.resentAt =
      some at_ ∧ s.chip.now < at_ + 1000) ∧
    (∃ (d : Fin 4) (x : Nat) (a : Arr) (c : Chip) (s : State), s.chip.pressFront d.val = some (x, a) ∧ a.hdr.op = 5 ∧
      s.chip.pressWorks d.val x = true ∧ (s.chip.ctx (24 * d.val + x)).st = 1 ∧ a.code < 2 ∧ c = s.chip.pressPop d.val ∧
      (s.chip.tmpl d.val x a.hdr.bank).valid = true ∧ (s.chip.tmpl d.val x a.hdr.bank).role ≠ 3) :=
  ⟨ (let d : Fin 4 := 3; let x : Fin 24 := 23; let ch : BitVec 24 := 7
     let s : State := mkS (fun c => ((ctxOn 3 23 (tpl 3 23 3 2 (onPg 7 0x40 (onPg 7 0x41 c)))).onCtx 95 (fun y => { y with chunks := [{ (chk0 ((tpl 3 23 3 2 c).tmpl 3 23 false)) with late := false }] })))
     let k : Chunk := ((s.chip.ctx (24 * d.val + x.val)).chunks.find? (fun k => k.c == ch.toNat)).get (by decide +kernel)
     let c : Chip := (((s.chip.till (k.openAt + k.tmpl.timeout)).onChunk d.val x.val ch.toNat (fun k => { k with late := true })).raise (col d.val 0) 2).pmc (4 + d.val) 8 0x7003 (some (x.val % 16)) (some (x.val / 16))
     ⟨d, x, ch, k, c, s, by decide +kernel +zetaReduce⟩),
    (let d : Fin 4 := 3; let x : Fin 24 := 23; let t : Nat := 5
     let s : State := mkS (fun c => ((ctxOn 3 23 (tpl 3 23 3 2 (onPg 7 0x40 (onPg 7 0x41 c)))).onCtx 95 (fun y => { y with noticeAt := some 5, chunks := [{ (chk0 ((tpl 3 23 3 2 c).tmpl 3 23 false)) with late := true }] })))
     ⟨d, x, t, s, by decide +kernel +zetaReduce⟩),
    (let d : Fin 4 := 3; let x : Fin 24 := 23; let g : BitVec 2 := 0; let ch : BitVec 24 := 7
     let s : State := mkS (fun c => (ctxOn 3 23 (onPg 7 0x40 (onPg 7 0x41 c))).onCtx 95 (fun y => { y with kept := [ret ((tpl 3 23 3 2 c).tmpl 3 23 false)] }))
     let r : Retained := ((s.chip.ctx (24 * d.val + x.val)).kept.find? (fun r => r.gen == g.toNat && r.c == ch.toNat)).get (by decide +kernel)
     ⟨d, x, g, ch, r, s, by decide +kernel +zetaReduce⟩),
    (let d : Fin 4 := 3; let x : Fin 24 := 23; let s : State := mkS (fun c => ctxOn 3 23 (onPg 7 0x41 c))
     ⟨d, x, s, by decide +kernel +zetaReduce⟩),
    (let d : Fin 4 := 3; let x : Nat := 23; let a : Arr := { (con 7 9 0) with hdr := { op := 5, aux := 7 } }
     let s : State := mkS (fun c => { ctxOn 3 23 (onPg 7 0x41 c) with pressIn := [(119, { (con 7 9 0) with hdr := { op := 5, aux := 7 } })] })
     ⟨d, x, a, s, by decide +kernel +zetaReduce⟩),
    (let d : Fin 4 := 3; let x : Nat := 23; let a : Arr := { (con 7 9 0) with hdr := { op := 5, aux := 7 } }
     let s : State := mkS (fun c => { onPg 7 0x41 c with pressIn := [(119, { (con 7 9 0) with hdr := { op := 5, aux := 7 } })] })
     ⟨d, x, a, s, by decide +kernel +zetaReduce⟩),
    (let d : Fin 4 := 3; let x : Nat := 23; let a : Arr := { (con 7 9 2) with hdr := { op := 5, aux := 7 } }
     let s : State := mkS (fun c => { ctxOn 3 23 (onPg 7 0x40 (onPg 7 0x41 c)) with pressIn := [(119, { (con 7 9 2) with hdr := { op := 5, aux := 7 } })] })
     ⟨d, x, a, s, by decide +kernel +zetaReduce⟩),
    (let d : Fin 4 := 3; let x : Nat := 23; let a : Arr := { (con 7 9 0) with hdr := { op := 5, aux := 7 } }
     let s : State := mkS (fun c => { (ctxOn 3 23 (onPg 7 0x40 (onPg 7 0x41 c))) with pressIn := [(119, { (con 7 9 0) with hdr := { op := 5, aux := 7 } })] })
     let c : Chip := s.chip.pressPop d.val; ⟨d, x, a, c, s, by decide +kernel +zetaReduce⟩),
    (let d : Fin 4 := 3; let x : Nat := 23; let a : Arr := { (con 7 9 0) with hdr := { op := 5, aux := 7 } }
     let s : State := mkS (fun c => { (ctxOn 3 23 (tpl 3 23 3 1 (onPg 7 0x40 (onPg 7 0x41 c)))) with pressIn := [(119, { (con 7 9 0) with hdr := { op := 5, aux := 7 } })] })
     let c : Chip := s.chip.pressPop d.val; ⟨d, x, a, c, s, by decide +kernel +zetaReduce⟩),
    (let d : Fin 4 := 3; let x : Nat := 23; let a : Arr := { (con 7 9 0) with hdr := { op := 5, aux := 7 } }
     let s : State := mkS (fun c => { ((ctxOn 3 23 (tpl 3 23 3 1 (onPg 7 0x40 (onPg 7 0x41 c)))).onCtx 95 (fun y => { y with kept := [ret ((tpl 3 23 3 2 c).tmpl 3 23 false)] })) with pressIn := [(119, { (con 7 9 0) with hdr := { op := 5, aux := 7 } })] })
     let bad : Option Bool := none; let c : Chip := s.chip.pressPop d.val
     let r := ((s.chip.ctx (24 * d.val + x)).kept.find? (fun r => r.gen == a.hdr.gen && r.c == a.hdr.aux)).get (by decide +kernel)
     ⟨d, x, bad, a, c, s, r, by decide +kernel +zetaReduce⟩),
    (let d : Fin 4 := 3; let x : Nat := 23; let a : Arr := { (con 7 9 0) with hdr := { op := 5, aux := 7 } }
     let s : State := mkS (fun c => { ((ctxOn 3 23 (tpl 3 23 3 1 (onPg 7 0x40 (onPg 7 0x41 c)))).onCtx 95 (fun y => { y with kept := [ret ((tpl 3 23 3 2 c).tmpl 3 23 false)] })) with pressIn := [(119, { (con 7 9 0) with hdr := { op := 5, aux := 7 } })] })
     let bad : Option Bool := some false; let c : Chip := s.chip.pressPop d.val
     let r := ((s.chip.ctx (24 * d.val + x)).kept.find? (fun r => r.gen == a.hdr.gen && r.c == a.hdr.aux)).get (by decide +kernel)
     ⟨d, x, bad, a, c, s, r, by decide +kernel +zetaReduce⟩),
    (let d : Fin 4 := 3; let x : Nat := 23; let a : Arr := { (con 7 9 0) with hdr := { op := 5, aux := 7 } }
     let s : State := mkS (fun c => { ((ctxOn 3 23 (tpl 3 23 3 1 (onPg 7 0x40 (onPg 7 0x41 c)))).onCtx 95 (fun y => { y with kept := [ret ((tpl 3 23 3 2 c).tmpl 3 23 false)] })) with pressIn := [(119, { (con 7 9 0) with hdr := { op := 5, aux := 7 } })] })
     let bad : Option Bool := some true; let c : Chip := s.chip.pressPop d.val
     let r := ((s.chip.ctx (24 * d.val + x)).kept.find? (fun r => r.gen == a.hdr.gen && r.c == a.hdr.aux)).get (by decide +kernel)
     ⟨d, x, bad, a, c, s, r, by decide +kernel +zetaReduce⟩),
    (let d : Fin 4 := 3; let x : Nat := 23; let at_ := 0; let a : Arr := { (con 7 9 0) with hdr := { op := 5, aux := 7 } }
     let s : State := mkS (fun c => { ((ctxOn 3 23 (tpl 3 23 3 1 (onPg 7 0x40 (onPg 7 0x41 c)))).onCtx 95 (fun y => { y with kept := [{ ret ((tpl 3 23 3 2 c).tmpl 3 23 false) with resentAt := some 0 }] })) with pressIn := [(119, { (con 7 9 0) with hdr := { op := 5, aux := 7 } })] })
     let c : Chip := s.chip.pressPop d.val
     let r := ((s.chip.ctx (24 * d.val + x)).kept.find? (fun r => r.gen == a.hdr.gen && r.c == a.hdr.aux)).get (by decide +kernel)
     ⟨d, x, a, c, s, r, at_, by decide +kernel +zetaReduce⟩),
    (let d : Fin 4 := 3; let x : Nat := 23; let a : Arr := { (con 7 9 0) with hdr := { op := 5, aux := 7 } }
     let s : State := mkS (fun c => { (ctxOn 3 23 (tpl 3 23 1 1 (onPg 7 0x40 (onPg 7 0x41 c)))) with pressIn := [(119, { (con 7 9 0) with hdr := { op := 5, aux := 7 } })] })
     let c : Chip := s.chip.pressPop d.val; ⟨d, x, a, c, s, by decide +kernel +zetaReduce⟩)⟩

/-- States and operands that meet the hypotheses of `Obligations.ContextsAndTemplates`, clause by clause. -/
theorem witness_ContextsAndTemplates :
    (∃ (dom : Dom) (d : Fin 4) (x : Fin 24) (c : Chip) (s : State), s.chip.isOn (4 + d.val) 0x41 = true ∧ MayWrite s.chip
      dom (4 + d.val) 0x41 0x180 (ctxWord 1 x.val false) ∧ s.chip.goBusy (col d.val 0x180) = false ∧ c = s.chip.setReg (col
      d.val 0x180) (put 1 24 + x.val) ∧ (c.ctx (24 * d.val + x.val)).st = 0 ∧ c.tmplOk d.val x.val false = true ∧ c.tmplOk
      d.val x.val true = true ∧ c.sramUnits d.val x.val ≠ 0 ∧ c.regionTaken d.val x.val = false) ∧
    (∃ (dom : Dom) (d : Fin 4) (x : Fin 24) (c : Chip) (s : State), s.chip.isOn (4 + d.val) 0x41 = true ∧ MayWrite s.chip
      dom (4 + d.val) 0x41 0x180 (ctxWord 1 x.val false) ∧ s.chip.goBusy (col d.val 0x180) = false ∧ c = s.chip.setReg (col
      d.val 0x180) (put 1 24 + x.val) ∧ (c.ctx (24 * d.val + x.val)).st = 0 ∧ c.tmplOk d.val x.val false = false) ∧
    (∃ (dom : Dom) (d : Fin 4) (x : Fin 24) (c : Chip) (s : State), s.chip.isOn (4 + d.val) 0x41 = true ∧ MayWrite s.chip
      dom (4 + d.val) 0x41 0x180 (ctxWord 1 x.val false) ∧ s.chip.goBusy (col d.val 0x180) = false ∧ c = s.chip.setReg (col
      d.val 0x180) (put 1 24 + x.val) ∧ (c.ctx (24 * d.val + x.val)).st ≠ 0) ∧
    (∃ (dom : Dom) (d : Fin 4) (x : Fin 24) (s : State), s.chip.isOn (4 + d.val) 0x41 = true ∧ MayWrite s.chip dom (4 +
      d.val) 0x41 0x180 (ctxWord 2 x.val false) ∧ s.chip.goBusy (col d.val 0x180) = false ∧ (s.chip.ctx (24 * d.val +
      x.val)).st = 1) ∧
    (∃ (dom : Dom) (d : Fin 4) (x : Fin 24) (s : State), s.chip.isOn (4 + d.val) 0x41 = true ∧ MayWrite s.chip dom (4 +
      d.val) 0x41 0x180 (ctxWord 4 x.val false) ∧ s.chip.goBusy (col d.val 0x180) = false ∧ (s.chip.ctx (24 * d.val +
      x.val)).st = 3) ∧
    (∃ (dom : Dom) (d : Fin 4) (x : Fin 24) (b : Bool) (c : Chip) (s : State), s.chip.isOn (4 + d.val) 0x41 = true ∧
      MayWrite s.chip dom (4 + d.val) 0x41 0x180 (ctxWord 3 x.val b) ∧ s.chip.goBusy (col d.val 0x180) = false ∧ c =
      s.chip.setReg (col d.val 0x180) (put 3 24 + put (b2n b) 8 + x.val)) ∧
    (∃ (dom : Dom) (d : Fin 4) (x : Fin 24) (b : Bool) (c : Chip) (s : State), s.chip.isOn (4 + d.val) 0x41 = true ∧
      MayWrite s.chip dom (4 + d.val) 0x41 0x180 (ctxWord 3 x.val b) ∧ s.chip.goBusy (col d.val 0x180) = false ∧ c =
      s.chip.setReg (col d.val 0x180) (put 3 24 + put (b2n b) 8 + x.val)) ∧
    (∃ (dom : Dom) (d : Fin 4) (x : Fin 24) (s : State), s.chip.isOn (4 + d.val) 0x41 = true ∧ MayWrite s.chip dom (4 +
      d.val) 0x41 0x180 (ctxWord 1 x.val false) ∧ s.chip.goBusy (col d.val 0x180) = true) ∧
    (∃ (d : Nat) (x : Nat) (b : Bool) (new : Tmpl) (c : Chip) (c1 : Chip), new = c.tmpl d x (!b) ∧ c1 = (if (c.tmpl d x
      b).gen = new.gen then c else c.onCtx (24 * d + x) (fun y =>
      { y with chunks := [], noticeAt := none, floor := fld (c.reg (col d (0x300 + 4 * x))) 23 0, openMax := new.openMax, kept := y.kept.filter (fun r => r.tmpl.role == 3) }))
      ∧ (((c.ctx (24 * d + x)).st ≠ 1 ∧ (c.ctx (24 * d + x)).st ≠ 2) ∨ c1.tmplOk d x (!b) = true)) ∧
    (∃ (d : Nat) (x : Nat) (b : Bool) (new : Tmpl) (c : Chip) (c1 : Chip), new = c.tmpl d x (!b) ∧ c1 = (if (c.tmpl d x
      b).gen = new.gen then c else c.onCtx (24 * d + x) (fun y =>
      { y with chunks := [], noticeAt := none, floor := fld (c.reg (col d (0x300 + 4 * x))) 23 0, openMax := new.openMax, kept := y.kept.filter (fun r => r.tmpl.role == 3) }))
      ∧ (((c.ctx (24 * d + x)).st ≠ 1 ∧ (c.ctx (24 * d + x)).st ≠ 2) ∨ c1.tmplOk d x (!b) = true)) ∧
    (∃ (d : Nat) (x : Nat) (b : Bool) (new : Tmpl) (c : Chip) (c1 : Chip), new = c.tmpl d x (!b) ∧ c1 = (if (c.tmpl d x
      b).gen = new.gen then c else c.onCtx (24 * d + x) (fun y =>
      { y with chunks := [], noticeAt := none, floor := fld (c.reg (col d (0x300 + 4 * x))) 23 0, openMax := new.openMax, kept := y.kept.filter (fun r => r.tmpl.role == 3) }))
      ∧ ((c.ctx (24 * d + x)).st = 1 ∨ (c.ctx (24 * d + x)).st = 2) ∧ c1.tmplOk d x (!b) = false) ∧
    (∃ (d : Fin 4) (x : Fin 24) (s : State), (s.chip.ctx (24 * d.val + x.val)).st = 2 ∧ s.chip.pressWorks d.val x.val =
      true) ∧
    (∃ (dom : Dom) (d : Fin 4) (cmd : Word) (t : Nat) (x : Nat) (i : Nat) (b : Bool) (c : Chip) (ws : List Word) (s :
      State), s.chip.isOn (4 + d.val) 0x41 = true ∧ cmd.toNat &&& 0xFF81FFFF = cmd.toNat ∧ MayWrite s.chip dom (4 + d.val)
      0x41 0x100 (goWord cmd.toNat true) ∧ s.chip.goBusy (col d.val 0x100) = false ∧ t = fld cmd.toNat 28 28 ∧ x = fld
      cmd.toNat 27 23 ∧ i = fld cmd.toNat 16 0 ∧ b = bit cmd.toNat 29 ∧ x ≤ 23 ∧ i < (if t = 0 then 256 else 65536) ∧ c =
      s.chip.setReg (col d.val 0x100) (goWord cmd.toNat true % 2 ^ 31) ∧ ws = c.dataWords (col d.val 0x140) (if t = 0 then 2
      else 1) ∧ maskOk (if t = 0 then [0xC000FFFF, 0xFFFFFFFF] else [0x80FFFFFF]) ws = true ∧ c.syncing = false ∧
      c.twin.txOn = false ∧ c.ctxBankInUse d.val x b = false) ∧
    (∃ (dom : Dom) (d : Fin 4) (cmd : Word) (t : Nat) (x : Nat) (i : Nat) (b : Bool) (c : Chip) (ws : List Word) (s :
      State), s.chip.isOn (4 + d.val) 0x41 = true ∧ cmd.toNat &&& 0xFF81FFFF = cmd.toNat ∧ MayWrite s.chip dom (4 + d.val)
      0x41 0x100 (goWord cmd.toNat true) ∧ s.chip.goBusy (col d.val 0x100) = false ∧ t = fld cmd.toNat 28 28 ∧ x = fld
      cmd.toNat 27 23 ∧ i = fld cmd.toNat 16 0 ∧ b = bit cmd.toNat 29 ∧ x ≤ 23 ∧ i < (if t = 0 then 256 else 65536) ∧ c =
      s.chip.setReg (col d.val 0x100) (goWord cmd.toNat true % 2 ^ 31) ∧ ws = c.dataWords (col d.val 0x140) (if t = 0 then 2
      else 1) ∧ maskOk (if t = 0 then [0xC000FFFF, 0xFFFFFFFF] else [0x80FFFFFF]) ws = true ∧ c.syncing = false ∧
      c.twin.txOn = false ∧ c.ctxBankInUse d.val x b = false) ∧
    (∃ (dom : Dom) (d : Fin 4) (cmd : Word) (t : Nat) (x : Nat) (i : Nat) (b : Bool) (c : Chip) (ws : List Word) (s :
      State), s.chip.isOn (4 + d.val) 0x41 = true ∧ cmd.toNat &&& 0xFF81FFFF = cmd.toNat ∧ MayWrite s.chip dom (4 + d.val)
      0x41 0x100 (goWord cmd.toNat true) ∧ s.chip.goBusy (col d.val 0x100) = false ∧ t = fld cmd.toNat 28 28 ∧ x = fld
      cmd.toNat 27 23 ∧ i = fld cmd.toNat 16 0 ∧ b = bit cmd.toNat 29 ∧ x ≤ 23 ∧ i < (if t = 0 then 256 else 65536) ∧ c =
      s.chip.setReg (col d.val 0x100) (goWord cmd.toNat true % 2 ^ 31) ∧ ws = c.dataWords (col d.val 0x140) (if t = 0 then 2
      else 1) ∧ maskOk (if t = 0 then [0xC000FFFF, 0xFFFFFFFF] else [0x80FFFFFF]) ws = true ∧ c.syncing = false ∧
      c.twin.txOn = false ∧ c.ctxBankInUse d.val x b = true) ∧
    (∃ (dom : Dom) (d : Fin 4) (cmd : Word) (t : Nat) (x : Nat) (i : Nat) (b : Bool) (s : State), s.chip.isOn (4 + d.val)
      0x41 = true ∧ cmd.toNat &&& 0xFF81FFFF = cmd.toNat ∧ MayWrite s.chip dom (4 + d.val) 0x41 0x100 (goWord cmd.toNat
      false) ∧ s.chip.goBusy (col d.val 0x100) = false ∧ t = fld cmd.toNat 28 28 ∧ x = fld cmd.toNat 27 23 ∧ i = fld
      cmd.toNat 16 0 ∧ b = bit cmd.toNat 29 ∧ x ≤ 23 ∧ i < (if t = 0 then 256 else 65536)) ∧
    (∃ (dom : Dom) (d : Fin 4) (cmd : Word) (t : Nat) (x : Nat) (i : Nat) (b : Bool) (s : State), s.chip.isOn (4 + d.val)
      0x41 = true ∧ cmd.toNat &&& 0xFF81FFFF = cmd.toNat ∧ MayWrite s.chip dom (4 + d.val) 0x41 0x100 (goWord cmd.toNat
      false) ∧ s.chip.goBusy (col d.val 0x100) = false ∧ t = fld cmd.toNat 28 28 ∧ x = fld cmd.toNat 27 23 ∧ i = fld
      cmd.toNat 16 0 ∧ b = bit cmd.toNat 29 ∧ x ≤ 23 ∧ i < (if t = 0 then 256 else 65536)) ∧
    (∃ (dom : Dom) (d : Fin 4) (x : Fin 24) (val : Word) (s : State), MayWrite s.chip dom (4 + d.val) 0x40 (0x200 + 4 *
      x.val) val.toNat ∧ val.toNat &&& 0x7F03FFFF = val.toNat ∧ s.chip.syncing = false ∧ s.chip.twin.txOn = false ∧ modeOk
      val.toNat = true ∧ s.chip.ctxBankInUse d.val x.val (s.chip.rwbTarget d.val (0x200 + 4 * x.val)) = false) ∧
    (∃ (dom : Dom) (d : Fin 4) (x : Fin 24) (val : Word) (s : State), MayWrite s.chip dom (4 + d.val) 0x40 (0x200 + 4 *
      x.val) val.toNat ∧ val.toNat &&& 0x7F03FFFF = val.toNat ∧ s.chip.syncing = false ∧ s.chip.twin.txOn = false ∧ modeOk
      val.toNat = false) ∧
    (∃ (dom : Dom) (d : Fin 4) (off : Nat) (rd : RegDef) (addr : Word) (val : Word) (s : State), addr.toNat = prs d.val off
      ∧ 0x400 ≤ off ∧ off < 0x700 ∧ regDef .prs 0 off = some rd ∧ rd.rwb = true ∧ val.toNat &&& rd.rw = val.toNat ∧ MayWrite
      s.chip dom (4 + d.val) 0x40 off val.toNat ∧ s.chip.syncing = false ∧ s.chip.twin.txOn = false ∧ s.chip.ctxBankInUse
      d.val (rwbCtx off) (s.chip.rwbTarget d.val off) = false) ∧
    (∃ (dom : Dom) (d : Fin 4) (off : Nat) (rd : RegDef) (addr : Word) (val : Word) (s : State), addr.toNat = prs d.val off
      ∧ 0x400 ≤ off ∧ off < 0x700 ∧ regDef .prs 0 off = some rd ∧ rd.rwb = true ∧ val.toNat &&& rd.rw = val.toNat ∧ MayWrite
      s.chip dom (4 + d.val) 0x40 off val.toNat ∧ s.chip.syncing = false ∧ s.chip.twin.txOn = false ∧ s.chip.ctxBankInUse
      d.val (rwbCtx off) (s.chip.rwbTarget d.val off) = true) ∧
    (∃ (dom : Dom) (d : Fin 4) (x : Fin 24) (val : Word) (s : State), MayWrite s.chip dom (4 + d.val) 0x40 (0x41C + 0x20 *
      x.val) val.toNat ∧ val.toNat < 4096 ∧ s.chip.syncing = false ∧ s.chip.twin.txOn = false ∧ (s.chip.ctx (24 * d.val +
      x.val)).st = 0) ∧
    (∃ (dom : Dom) (d : Fin 4) (x : Fin 24) (val : Word) (s : State), MayWrite s.chip dom (4 + d.val) 0x40 (0x41C + 0x20 *
      x.val) val.toNat ∧ val.toNat < 4096 ∧ s.chip.syncing = false ∧ s.chip.twin.txOn = false ∧ (s.chip.ctx (24 * d.val +
      x.val)).st ≠ 0) :=
  ⟨ (let dom : Dom := .owner; let d : Fin 4 := 3; let x : Fin 24 := 23
     let s : State := mkS (fun c => (tpl 3 23 3 1 (onPg 7 0x40 (onPg 7 0x41 c))).setReg (col 3 0x3DC) 0x10000)
     let c : Chip := s.chip.setReg (col d.val 0x180) (put 1 24 + x.val); ⟨dom, d, x, c, s, by decide +kernel +zetaReduce⟩),
    (let dom : Dom := .owner; let d : Fin 4 := 3; let x : Fin 24 := 23
     let s : State := mkS (fun c => (tpl 3 23 3 1 (onPg 7 0x40 (onPg 7 0x41 c))).setReg (prs 3 0x6E4) 0)
     let c : Chip := s.chip.setReg (col d.val 0x180) (put 1 24 + x.val); ⟨dom, d, x, c, s, by decide +kernel +zetaReduce⟩),
    (let dom : Dom := .owner; let d : Fin 4 := 3; let x : Fin 24 := 23
     let s : State := mkS (fun c => (ctxOn 3 23 (onPg 7 0x40 (onPg 7 0x41 c))))
     let c : Chip := s.chip.setReg (col d.val 0x180) (put 1 24 + x.val); ⟨dom, d, x, c, s, by decide +kernel +zetaReduce⟩),
    (let dom : Dom := .owner; let d : Fin 4 := 3; let x : Fin 24 := 23
     let s : State := mkS (fun c => (ctxOn 3 23 (onPg 7 0x40 (onPg 7 0x41 c))))
     ⟨dom, d, x, s, by decide +kernel +zetaReduce⟩),
    (let dom : Dom := .owner; let d : Fin 4 := 3; let x : Fin 24 := 23
     let s : State := mkS (fun c => (onPg 7 0x40 (onPg 7 0x41 c)).onCtx 95 (fun y => { y with st := 3 }))
     ⟨dom, d, x, s, by decide +kernel +zetaReduce⟩),
    (let dom : Dom := .owner; let d : Fin 4 := 3; let x : Fin 24 := 23; let b : Bool := false
     let s : State := mkS (fun c => (tpl 3 23 3 1 (onPg 7 0x40 (onPg 7 0x41 c))).setReg (prs 3 0x6E4) 0)
     let c : Chip := s.chip.setReg (col d.val 0x180) (put 3 24 + put (b2n b) 8 + x.val)
     ⟨dom, d, x, b, c, s, by decide +kernel +zetaReduce⟩),
    (let dom : Dom := .owner; let d : Fin 4 := 3; let x : Fin 24 := 23; let b : Bool := true
     let s : State := mkS (fun c => (tpl 3 23 3 1 (onPg 7 0x40 (onPg 7 0x41 c))))
     let c : Chip := s.chip.setReg (col d.val 0x180) (put 3 24 + put (b2n b) 8 + x.val)
     ⟨dom, d, x, b, c, s, by decide +kernel +zetaReduce⟩),
    (let dom : Dom := .owner; let d : Fin 4 := 3; let x : Fin 24 := 23
     let s : State := mkS (fun c => { onPg 7 0x41 c with busy := [(col 3 0x180, 5)] })
     ⟨dom, d, x, s, by decide +kernel +zetaReduce⟩),
    (let d : Nat := 3; let x : Nat := 23; let b : Bool := false
     let c : Chip := (tpl 3 23 3 1 Chip.reset).setReg (banked (prs 3 0x6E0) true) (2 ^ 31 + put 1 25)
     let new : Tmpl := c.tmpl d x (!b)
     let c1 : Chip := (if (c.tmpl d x b).gen = new.gen then c else c.onCtx (24 * d + x) (fun y => { y with chunks := [], noticeAt := none, floor := fld (c.reg (col d (0x300 + 4 * x))) 23 0, openMax := new.openMax, kept := y.kept.filter (fun r => r.tmpl.role == 3) }))
     ⟨d, x, b, new, c, c1, by decide +kernel +zetaReduce⟩),
    (let d : Nat := 3; let x : Nat := 23; let b : Bool := false; let c : Chip := (ctxOn 3 23 Chip.reset)
     let new : Tmpl := c.tmpl d x (!b)
     let c1 : Chip := (if (c.tmpl d x b).gen = new.gen then c else c.onCtx (24 * d + x) (fun y => { y with chunks := [], noticeAt := none, floor := fld (c.reg (col d (0x300 + 4 * x))) 23 0, openMax := new.openMax, kept := y.kept.filter (fun r => r.tmpl.role == 3) }))
     ⟨d, x, b, new, c, c1, by decide +kernel +zetaReduce⟩),
    (let d : Nat := 3; let x : Nat := 23; let b : Bool := false
     let c : Chip := (ctxOn 3 23 (tpl 3 23 3 1 Chip.reset)).setReg (banked (prs 3 0x6E0) true) (2 ^ 31 + put 2 16)
     let new : Tmpl := c.tmpl d x (!b)
     let c1 : Chip := (if (c.tmpl d x b).gen = new.gen then c else c.onCtx (24 * d + x) (fun y => { y with chunks := [], noticeAt := none, floor := fld (c.reg (col d (0x300 + 4 * x))) 23 0, openMax := new.openMax, kept := y.kept.filter (fun r => r.tmpl.role == 3) }))
     ⟨d, x, b, new, c, c1, by decide +kernel +zetaReduce⟩),
    (let d : Fin 4 := 3; let x : Fin 24 := 23
     let s : State := mkS (fun c => (onPg 7 0x41 c).onCtx 95 (fun y => { y with st := 2 }))
     ⟨d, x, s, by decide +kernel +zetaReduce⟩),
    (let dom : Dom := .owner; let d : Fin 4 := 3
     let cmd : Word := BitVec.ofNat 32 (put 0 28 + put 0 29 + put 23 23 + 255)
     let s : State := mkS (fun c => onPg 7 0x40 (onPg 7 0x41 c)); let t : Nat := fld cmd.toNat 28 28
     let x : Nat := fld cmd.toNat 27 23; let i : Nat := fld cmd.toNat 16 0; let b : Bool := bit cmd.toNat 29
     let c : Chip := s.chip.setReg (col d.val 0x100) (goWord cmd.toNat true % 2 ^ 31)
     let ws : List Word := c.dataWords (col d.val 0x140) (if t = 0 then 2 else 1)
     ⟨dom, d, cmd, t, x, i, b, c, ws, s, by decide +kernel +zetaReduce⟩),
    (let dom : Dom := .owner; let d : Fin 4 := 3
     let cmd : Word := BitVec.ofNat 32 (put 1 28 + put 1 29 + put 23 23 + 65535)
     let s : State := mkS (fun c => onPg 7 0x40 (onPg 7 0x41 c)); let t : Nat := fld cmd.toNat 28 28
     let x : Nat := fld cmd.toNat 27 23; let i : Nat := fld cmd.toNat 16 0; let b : Bool := bit cmd.toNat 29
     let c : Chip := s.chip.setReg (col d.val 0x100) (goWord cmd.toNat true % 2 ^ 31)
     let ws : List Word := c.dataWords (col d.val 0x140) (if t = 0 then 2 else 1)
     ⟨dom, d, cmd, t, x, i, b, c, ws, s, by decide +kernel +zetaReduce⟩),
    (let dom : Dom := .owner; let d : Fin 4 := 3; let cmd : Word := BitVec.ofNat 32 (put 23 23)
     let s : State := mkS (fun c => ctxOn 3 23 (onPg 7 0x40 (onPg 7 0x41 c))); let t : Nat := fld cmd.toNat 28 28
     let x : Nat := fld cmd.toNat 27 23; let i : Nat := fld cmd.toNat 16 0; let b : Bool := bit cmd.toNat 29
     let c : Chip := s.chip.setReg (col d.val 0x100) (goWord cmd.toNat true % 2 ^ 31)
     let ws : List Word := c.dataWords (col d.val 0x140) (if t = 0 then 2 else 1)
     ⟨dom, d, cmd, t, x, i, b, c, ws, s, by decide +kernel +zetaReduce⟩),
    (let dom : Dom := .owner; let d : Fin 4 := 3; let cmd : Word := BitVec.ofNat 32 (put 1 28 + put 23 23)
     let s : State := mkS (fun c => (tpl 3 23 3 1 (onPg 7 0x40 (onPg 7 0x41 c)))); let t : Nat := fld cmd.toNat 28 28
     let x : Nat := fld cmd.toNat 27 23; let i : Nat := fld cmd.toNat 16 0; let b : Bool := bit cmd.toNat 29
     ⟨dom, d, cmd, t, x, i, b, s, by decide +kernel +zetaReduce⟩),
    (let dom : Dom := .owner; let d : Fin 4 := 3; let cmd : Word := BitVec.ofNat 32 (put 23 23)
     let s : State := mkS (fun c => (tpl 3 23 3 1 (onPg 7 0x40 (onPg 7 0x41 c)))); let t : Nat := fld cmd.toNat 28 28
     let x : Nat := fld cmd.toNat 27 23; let i : Nat := fld cmd.toNat 16 0; let b : Bool := bit cmd.toNat 29
     ⟨dom, d, cmd, t, x, i, b, s, by decide +kernel +zetaReduce⟩),
    (let dom : Dom := .owner; let d : Fin 4 := 3; let x : Fin 24 := 23; let val : Word := 0
     let s : State := mkS (fun c => onPg 7 0x40 (onPg 7 0x41 c)); ⟨dom, d, x, val, s, by decide +kernel +zetaReduce⟩),
    (let dom : Dom := .owner; let d : Fin 4 := 3; let x : Fin 24 := 23; let val : Word := 7
     let s : State := mkS (fun c => onPg 7 0x40 (onPg 7 0x41 c)); ⟨dom, d, x, val, s, by decide +kernel +zetaReduce⟩),
    (let dom : Dom := .owner; let d : Fin 4 := 3; let off : Nat := 0x6F8; let rd : RegDef := (regDef .prs 0 0x6F8).getD {}
     let addr : Word := ad 7 0x40 0x6F8; let val : Word := 0; let s : State := mkS (fun c => onPg 7 0x40 (onPg 7 0x41 c))
     ⟨dom, d, off, rd, addr, val, s, by decide +kernel +zetaReduce⟩),
    (let dom : Dom := .owner; let d : Fin 4 := 3; let off : Nat := 0x6F8; let rd : RegDef := (regDef .prs 0 0x6F8).getD {}
     let addr : Word := ad 7 0x40 0x6F8; let val : Word := 0
     let s : State := mkS (fun c => (ctxOn 3 23 (onPg 7 0x40 (onPg 7 0x41 c))).setReg (prs 3 0x30) 0x100)
     ⟨dom, d, off, rd, addr, val, s, by decide +kernel +zetaReduce⟩),
    (let dom : Dom := .owner; let d : Fin 4 := 3; let x : Fin 24 := 23; let val : Word := 4095
     let s : State := mkS (fun c => onPg 7 0x40 (onPg 7 0x41 c)); ⟨dom, d, x, val, s, by decide +kernel +zetaReduce⟩),
    (let dom : Dom := .owner; let d : Fin 4 := 3; let x : Fin 24 := 23; let val : Word := 4095
     let s : State := mkS (fun c => ctxOn 3 23 (onPg 7 0x40 (onPg 7 0x41 c)))
     ⟨dom, d, x, val, s, by decide +kernel +zetaReduce⟩)⟩

/-- States and operands that meet the hypotheses of `Obligations.BarrierArrivals`, clause by clause. -/
theorem witness_BarrierArrivals :
    (∃ (q : Fin 4) (x : Nat × Arr) (s : State), s.chip.syncFront q.val 0x20 = some x ∧ s.chip.isOn q.val 0x47 = true) ∧
    (∃ (q : Fin 4) (s : State), s.chip.syncFront q.val 0x20 = none) ∧
    (∃ (b : Nat) (a : Arrival) (c : Chip), ((c.bar b).valid = false ∨ (c.bar b).job ≠ a.job)) ∧
    (∃ (b : Nat) (a : Arrival) (c : Chip) (d : Chip), (c.bar b).valid = true ∧ (c.bar b).bad = false ∧ (c.bar b).job = a.job
      ∧ d = (c.bump (synQ (b / 1024) 0x210) 1).pmcQM (b / 1024) 0x5001 ∧ a.epoch = (c.bar b).epoch ∧ (c.bar b).has a.port =
      false ∧ (c.bar b).wait = false ∧ a.port < 1024 ∧ (c.bar b).arrived + 1 ≠ (c.bar b).expect) ∧
    (∃ (b : Nat) (a : Arrival) (c : Chip) (d : Chip), (c.bar b).valid = true ∧ (c.bar b).bad = false ∧ (c.bar b).job = a.job
      ∧ d = (c.bump (synQ (b / 1024) 0x210) 1).pmcQM (b / 1024) 0x5001 ∧ a.epoch = (c.bar b).epoch ∧ (c.bar b).has a.port =
      false ∧ (c.bar b).wait = false ∧ a.port < 1024 ∧ (c.bar b).arrived + 1 ≠ (c.bar b).expect) ∧
    (∃ (b : Nat) (a : Arrival) (c : Chip) (d : Chip), (c.bar b).valid = true ∧ (c.bar b).bad = false ∧ (c.bar b).job = a.job
      ∧ d = (c.bump (synQ (b / 1024) 0x210) 1).pmcQM (b / 1024) 0x5001 ∧ a.epoch = (c.bar b).epoch ∧ (c.bar b).has a.port =
      false ∧ (c.bar b).wait = false ∧ a.port < 1024 ∧ (c.bar b).arrived + 1 = (c.bar b).expect) ∧
    (∃ (b : Nat) (a : Arrival) (c : Chip) (d : Chip), (c.bar b).valid = true ∧ (c.bar b).bad = false ∧ (c.bar b).job = a.job
      ∧ d = (c.bump (synQ (b / 1024) 0x210) 1).pmcQM (b / 1024) 0x5001 ∧ a.epoch ≠ (c.bar b).epoch ∧ a.epoch ≠ ((c.bar
      b).epoch + 65535) % 65536) ∧
    (∃ (b : Nat) (a : Arrival) (c : Chip) (d : Chip) (pay : _), (c.bar b).valid = true ∧ (c.bar b).bad = false ∧ (c.bar
      b).job = a.job ∧ d = (c.bump (synQ (b / 1024) 0x210) 1).pmcQM (b / 1024) 0x5001 ∧ a.epoch ≠ (c.bar b).epoch ∧ a.epoch
      = ((c.bar b).epoch + 65535) % 65536 ∧ (c.bar b).record = some pay) :=
  ⟨ (let q : Fin 4 := 3; let x : Nat × Arr := (3, syn 0x20 4095 7 0 1023)
     let s : State := mkS (fun c => { (onPg 3 0x47 c).onBar 4095 (fun k => { k with valid := true, job := 7, epoch := 0, expect := 2 }) with syncIn := [(3, syn 0x20 4095 7 0 1023)] })
     ⟨q, x, s, by decide +kernel +zetaReduce⟩),
    (let q : Fin 4 := 3; let s : State := mkS id; ⟨q, s, by decide +kernel +zetaReduce⟩),
    (let b : Nat := 4095; let a : Arrival := { port := 1023, epoch := 0, job := 7, vote := 1, stamp := 9 }
     let c : Chip := Chip.reset; ⟨b, a, c, by decide +kernel +zetaReduce⟩),
    (let b : Nat := 4095; let a : Arrival := { port := 1023, epoch := 0, job := 7, vote := 1, stamp := 9 }
     let c : Chip := (Chip.reset.onBar 4095 (fun k => { k with valid := true, job := 7, epoch := 0, expect := 2 }))
     let d : Chip := (c.bump (synQ (b / 1024) 0x210) 1).pmcQM (b / 1024) 0x5001
     ⟨b, a, c, d, by decide +kernel +zetaReduce⟩),
    (let b : Nat := 4095; let a : Arrival := { port := 0, epoch := 0, job := 7, vote := 1, stamp := 9 }
     let c : Chip := (Chip.reset.onBar 4095 (fun k => { k with valid := true, job := 7, epoch := 0, expect := 2, arrived := 5, mask := [1] }))
     let d : Chip := (c.bump (synQ (b / 1024) 0x210) 1).pmcQM (b / 1024) 0x5001
     ⟨b, a, c, d, by decide +kernel +zetaReduce⟩),
    (let b : Nat := 4095; let a : Arrival := { port := 1023, epoch := 0, job := 7, vote := 1, stamp := 9 }
     let c : Chip := (Chip.reset.onBar 4095 (fun k => { k with valid := true, job := 7, epoch := 0, expect := 2, arrived := 1, mask := [3], root := true }))
     let d : Chip := (c.bump (synQ (b / 1024) 0x210) 1).pmcQM (b / 1024) 0x5001
     ⟨b, a, c, d, by decide +kernel +zetaReduce⟩),
    (let b : Nat := 4095; let a : Arrival := { port := 1023, epoch := 1, job := 7, vote := 1, stamp := 9 }
     let c : Chip := (Chip.reset.onBar 4095 (fun k => { k with valid := true, job := 7, epoch := 0, expect := 2 }))
     let d : Chip := (c.bump (synQ (b / 1024) 0x210) 1).pmcQM (b / 1024) 0x5001
     ⟨b, a, c, d, by decide +kernel +zetaReduce⟩),
    (let b : Nat := 4095; let a : Arrival := { port := 1023, epoch := 65535, job := 7, vote := 1, stamp := 9 }
     let pay := []
     let c : Chip := (Chip.reset.onBar 4095 (fun k => { k with valid := true, job := 7, epoch := 0, expect := 2, record := some [] }))
     let d : Chip := (c.bump (synQ (b / 1024) 0x210) 1).pmcQM (b / 1024) 0x5001
     ⟨b, a, c, d, pay, by decide +kernel +zetaReduce⟩)⟩

/-- States and operands that meet the hypotheses of `Obligations.BarrierReleasesAndTable`, clause by clause. -/
theorem witness_BarrierReleasesAndTable :
    (∃ (b : Nat) (c : Chip), (c.bar b).root = false) ∧
    (∃ (b : Nat) (c : Chip), (c.bar b).root = true ∧ (c.bar b).action = 1) ∧
    (∃ (q : Fin 4) (x : Nat × Arr) (c : Chip) (s : State), s.chip.syncFront q.val 0x21 = some x ∧ s.chip.isOn q.val 0x47 =
      true ∧ c = { s.chip with syncIn := s.chip.syncIn.erase x } ∧ (c.bar x.2.hdr.dest).valid = true ∧ (c.bar
      x.2.hdr.dest).bad = false ∧ (c.bar x.2.hdr.dest).root = false ∧ (c.bar x.2.hdr.dest).wait = true ∧ (c.bar
      x.2.hdr.dest).job = x.2.hdr.job ∧ fld x.2.hdr.aux 15 0 = (c.bar x.2.hdr.dest).epoch ∧ c.isParent q.val (c.parentBank
      q.val x.2.hdr.job) (c.bar x.2.hdr.dest).parent x.2.port = true) ∧
    (∃ (q : Fin 4) (x : Nat × Arr) (c : Chip) (s : State), s.chip.syncFront q.val 0x21 = some x ∧ s.chip.isOn q.val 0x47 =
      true ∧ c = { s.chip with syncIn := s.chip.syncIn.erase x } ∧ ((c.bar x.2.hdr.dest).wait = false ∨ fld x.2.hdr.aux 15 0
      ≠ (c.bar x.2.hdr.dest).epoch)) ∧
    (∃ (b : BitVec 12) (s : State), (s.chip.bar b.toNat).valid = true ∧ (s.chip.bar b.toNat).late = false ∧ ((s.chip.bar
      b.toNat).wait = true ∨ 0 < (s.chip.bar b.toNat).arrived) ∧ s.chip.isOn (b.toNat / 1024) 0x47 = true) ∧
    (∃ (b : BitVec 12) (s : State), (s.chip.bar b.toNat).late = true) ∧
    (∃ (dom : Dom) (q : Fin 4) (cmd : Word) (b : Nat) (c : Chip) (ws : List Word) (s : State), s.chip.isOn q.val 0x47 = true
      ∧ cmd.toNat &&& 0xE0000FFF = cmd.toNat ∧ MayWrite s.chip dom q.val 0x47 0x100 (goWord cmd.toNat true) ∧ s.chip.goBusy
      (synQ q.val 0x100) = false ∧ b = fld cmd.toNat 11 0 ∧ c = s.chip.setReg (synQ q.val 0x100) (goWord cmd.toNat true % 2
      ^ 31) ∧ ws = c.dataWords (synQ q.val 0x140) 4 ∧ b / 1024 ≠ q.val) ∧
    (∃ (dom : Dom) (q : Fin 4) (cmd : Word) (b : Nat) (c : Chip) (ws : List Word) (s : State), s.chip.isOn q.val 0x47 = true
      ∧ cmd.toNat &&& 0xE0000FFF = cmd.toNat ∧ MayWrite s.chip dom q.val 0x47 0x100 (goWord cmd.toNat true) ∧ s.chip.goBusy
      (synQ q.val 0x100) = false ∧ b = fld cmd.toNat 11 0 ∧ c = s.chip.setReg (synQ q.val 0x100) (goWord cmd.toNat true % 2
      ^ 31) ∧ ws = c.dataWords (synQ q.val 0x140) 4 ∧ b / 1024 = q.val ∧ barValueOk ws = false) ∧
    (∃ (dom : Dom) (q : Fin 4) (cmd : Word) (b : Nat) (c : Chip) (ws : List Word) (s : State), s.chip.isOn q.val 0x47 = true
      ∧ cmd.toNat &&& 0xE0000FFF = cmd.toNat ∧ MayWrite s.chip dom q.val 0x47 0x100 (goWord cmd.toNat true) ∧ s.chip.goBusy
      (synQ q.val 0x100) = false ∧ b = fld cmd.toNat 11 0 ∧ c = s.chip.setReg (synQ q.val 0x100) (goWord cmd.toNat true % 2
      ^ 31) ∧ ws = c.dataWords (synQ q.val 0x140) 4 ∧ b / 1024 = q.val ∧ barValueOk ws = true ∧ c.syncing = false ∧ bit
      cmd.toNat 29 = false ∧ 0 < (c.bar b).arrived) ∧
    (∃ (dom : Dom) (q : Fin 4) (cmd : Word) (b : Nat) (c : Chip) (ws : List Word) (s : State), s.chip.isOn q.val 0x47 = true
      ∧ cmd.toNat &&& 0xE0000FFF = cmd.toNat ∧ MayWrite s.chip dom q.val 0x47 0x100 (goWord cmd.toNat true) ∧ s.chip.goBusy
      (synQ q.val 0x100) = false ∧ b = fld cmd.toNat 11 0 ∧ c = s.chip.setReg (synQ q.val 0x100) (goWord cmd.toNat true % 2
      ^ 31) ∧ ws = c.dataWords (synQ q.val 0x140) 4 ∧ b / 1024 = q.val ∧ barValueOk ws = true ∧ c.syncing = false ∧
      c.twin.txOn = false ∧ (bit cmd.toNat 29 = true ∨ ((c.bar b).arrived = 0 ∧ (c.bar b).wait = false))) ∧
    (∃ (dom : Dom) (q : Fin 4) (cmd : Word) (b : Nat) (c : Chip) (ws : List Word) (s : State), s.chip.isOn q.val 0x47 = true
      ∧ cmd.toNat &&& 0xE0000FFF = cmd.toNat ∧ MayWrite s.chip dom q.val 0x47 0x100 (goWord cmd.toNat true) ∧ s.chip.goBusy
      (synQ q.val 0x100) = false ∧ b = fld cmd.toNat 11 0 ∧ c = s.chip.setReg (synQ q.val 0x100) (goWord cmd.toNat true % 2
      ^ 31) ∧ ws = c.dataWords (synQ q.val 0x140) 4 ∧ b / 1024 = q.val ∧ barValueOk ws = true ∧ c.syncing = false ∧
      c.twin.txOn = false ∧ (bit cmd.toNat 29 = true ∨ ((c.bar b).arrived = 0 ∧ (c.bar b).wait = false))) ∧
    (∃ (dom : Dom) (q : Fin 4) (cmd : Word) (i : Nat) (s : State), s.chip.isOn q.val 0x47 = true ∧ cmd.toNat &&& 0xE0000FFF
      = cmd.toNat ∧ MayWrite s.chip dom q.val 0x47 0x100 (goWord cmd.toNat false) ∧ s.chip.goBusy (synQ q.val 0x100) = false
      ∧ fld cmd.toNat 11 0 / 1024 = q.val ∧ (s.chip.bar (fld cmd.toNat 11 0)).bad = false ∧ i < 40) ∧
    (∃ (dom : Dom) (q : Fin 4) (cmd : Word) (i : Nat) (s : State), s.chip.isOn q.val 0x47 = true ∧ cmd.toNat &&& 0xE0000FFF
      = cmd.toNat ∧ MayWrite s.chip dom q.val 0x47 0x100 (goWord cmd.toNat false) ∧ s.chip.goBusy (synQ q.val 0x100) = false
      ∧ fld cmd.toNat 11 0 / 1024 = q.val ∧ (s.chip.bar (fld cmd.toNat 11 0)).bad = false ∧ i < 40) :=
  ⟨ (let b : Nat := 4095
     let c : Chip := (Chip.reset.onBar 4095 (fun k => { k with valid := true, job := 7, epoch := 0, expect := 2 }))
     ⟨b, c, by decide +kernel +zetaReduce⟩),
    (let b : Nat := 4095
     let c : Chip := (Chip.reset.onBar 4095 (fun k => { k with valid := true, job := 7, epoch := 0, expect := 2, root := true, action := 1, lead := 5 }))
     ⟨b, c, by decide +kernel +zetaReduce⟩),
    (let q : Fin 4 := 3; let x : Nat × Arr := (3, syn 0x21 4095 7 0 1023)
     let s : State := mkS (fun c => { (onPg 3 0x47 c).onBar 4095 (fun k => { k with valid := true, job := 7, epoch := 0, expect := 2, wait := true, parent := 0x7FF }) with syncIn := [(3, syn 0x21 4095 7 0 1023)] })
     let c : Chip := { s.chip with syncIn := s.chip.syncIn.erase x }; ⟨q, x, c, s, by decide +kernel +zetaReduce⟩),
    (let q : Fin 4 := 3; let x : Nat × Arr := (3, syn 0x21 4095 7 1 1023)
     let s : State := mkS (fun c => { (onPg 3 0x47 c).onBar 4095 (fun k => { k with valid := true, job := 7, epoch := 0, expect := 2, wait := true, parent := 0x7FF }) with syncIn := [(3, syn 0x21 4095 7 1 1023)] })
     let c : Chip := { s.chip with syncIn := s.chip.syncIn.erase x }; ⟨q, x, c, s, by decide +kernel +zetaReduce⟩),
    (let b : BitVec 12 := 4095
     let s : State := mkS (fun c => (onPg 3 0x47 c).onBar 4095 (fun k => { k with valid := true, arrived := 1 }))
     ⟨b, s, by decide +kernel +zetaReduce⟩),
    (let b : BitVec 12 := 4095
     let s : State := mkS (fun c => (onPg 3 0x47 c).onBar 4095 (fun k => { k with late := true }))
     ⟨b, s, by decide +kernel +zetaReduce⟩),
    (let dom : Dom := .owner; let q : Fin 4 := 3; let cmd : Word := BitVec.ofNat 32 3071
     let s : State := mkS (fun c => onPg 3 0x47 c); let b : Nat := fld cmd.toNat 11 0
     let c : Chip := s.chip.setReg (synQ q.val 0x100) (goWord cmd.toNat true % 2 ^ 31)
     let ws : List Word := c.dataWords (synQ q.val 0x140) 4; ⟨dom, q, cmd, b, c, ws, s, by decide +kernel +zetaReduce⟩),
    (let dom : Dom := .owner; let q : Fin 4 := 3; let cmd : Word := BitVec.ofNat 32 4095
     let s : State := mkS (fun c => (onPg 3 0x47 c).setReg (synQ 3 0x140) 0x80000000); let b : Nat := fld cmd.toNat 11 0
     let c : Chip := s.chip.setReg (synQ q.val 0x100) (goWord cmd.toNat true % 2 ^ 31)
     let ws : List Word := c.dataWords (synQ q.val 0x140) 4; ⟨dom, q, cmd, b, c, ws, s, by decide +kernel +zetaReduce⟩),
    (let dom : Dom := .owner; let q : Fin 4 := 3; let cmd : Word := BitVec.ofNat 32 4095
     let s : State := mkS (fun c => ((onPg 3 0x47 c).onBar 4095 (fun k => { k with arrived := 1 })))
     let b : Nat := fld cmd.toNat 11 0; let c : Chip := s.chip.setReg (synQ q.val 0x100) (goWord cmd.toNat true % 2 ^ 31)
     let ws : List Word := c.dataWords (synQ q.val 0x140) 4; ⟨dom, q, cmd, b, c, ws, s, by decide +kernel +zetaReduce⟩),
    (let dom : Dom := .owner; let q : Fin 4 := 3; let cmd : Word := BitVec.ofNat 32 4095
     let s : State := mkS (fun c => (onPg 3 0x47 c)); let b : Nat := fld cmd.toNat 11 0
     let c : Chip := s.chip.setReg (synQ q.val 0x100) (goWord cmd.toNat true % 2 ^ 31)
     let ws : List Word := c.dataWords (synQ q.val 0x140) 4; ⟨dom, q, cmd, b, c, ws, s, by decide +kernel +zetaReduce⟩),
    (let dom : Dom := .owner; let q : Fin 4 := 3; let cmd : Word := BitVec.ofNat 32 (4095+2^29)
     let s : State := mkS (fun c => ((onPg 3 0x47 c).onBar 4095 (fun k => { k with arrived := 1 })))
     let b : Nat := fld cmd.toNat 11 0; let c : Chip := s.chip.setReg (synQ q.val 0x100) (goWord cmd.toNat true % 2 ^ 31)
     let ws : List Word := c.dataWords (synQ q.val 0x140) 4; ⟨dom, q, cmd, b, c, ws, s, by decide +kernel +zetaReduce⟩),
    (let i : Nat := 39; let dom : Dom := .owner; let q : Fin 4 := 3; let cmd : Word := BitVec.ofNat 32 4095
     let s : State := mkS (fun c => (onPg 3 0x47 c).onBar 4095 (fun k => { k with valid := true, mask := [1023, 0] }))
     ⟨dom, q, cmd, i, s, by decide +kernel +zetaReduce⟩),
    (let i : Nat := 8; let dom : Dom := .owner; let q : Fin 4 := 3; let cmd : Word := BitVec.ofNat 32 4095
     let s : State := mkS (fun c => (onPg 3 0x47 c).onBar 4095 (fun k => { k with valid := true, mask := [1023, 0] }))
     ⟨dom, q, cmd, i, s, by decide +kernel +zetaReduce⟩)⟩

/-- States and operands that meet the hypotheses of `Obligations.FabricTime`, clause by clause. -/
theorem witness_FabricTime :
    (∃ (c : Chip) (s : State), s.chip.isOn 24 0x47 = true ∧ (s.chip.timeRoot = true ∨ s.chip.time.locked = true) ∧
      s.chip.regBit (synC 0x300) 30 = true ∧ s.chip.rst.c0Up = true ∧ c = s.chip.tick 0 s.chip.period) ∧
    (∃ (c : Chip) (s : State), s.chip.isOn 24 0x47 = true ∧ (s.chip.timeRoot = true ∨ s.chip.time.locked = true) ∧
      s.chip.regBit (synC 0x300) 30 = true ∧ s.chip.rst.c0Up = true ∧ c = s.chip.tick 0 s.chip.period) ∧
    (∃ (c : Chip) (s : State), s.chip.isOn 24 0x47 = true ∧ (s.chip.timeRoot = true ∨ s.chip.time.locked = true) ∧
      s.chip.regBit (synC 0x300) 30 = true ∧ s.chip.rst.c0Up = true ∧ c = s.chip.tick 0 s.chip.period) ∧
    (∃ (u : Nat) (p : Nat) (c : Chip) (d : Chip), 0 < p ∧ d = c.untilFabric ((c.time.ft / p + 1) * p) ∧ c.time.was <
      c.time.ft / p * p ∧ SMap.getD c.ticks u 0 ≠ c.time.ft / p * p) ∧
    (∃ (u : Nat) (p : Nat) (c : Chip) (d : Chip), 0 < p ∧ d = c.untilFabric ((c.time.ft / p + 1) * p) ∧ (c.time.ft / p * p ≤
      c.time.was ∨ SMap.getD c.ticks u 0 = c.time.ft / p * p)) ∧
    (∃ (u : Nat) (p : Nat) (c : Chip) (d : Chip), 0 < p ∧ d = c.untilFabric ((c.time.ft / p + 1) * p) ∧ (c.time.ft / p * p ≤
      c.time.was ∨ SMap.getD c.ticks u 0 = c.time.ft / p * p)) ∧
    (∃ (x : Nat × Arr) (rest : List (Nat × Arr)) (o : Int) (s : State), s.chip.timeIn = x :: rest ∧ s.chip.timeRoot = false
      ∧ s.chip.upstream = some x.2.port ∧ s.chip.isOn 24 0x47 = true ∧ o = ((leAt x.2.payload 0 8 + s.chip.delay x.2.port
      s.chip.free : Nat) : Int) - (x.2.stamp : Int)) ∧
    (∃ (x : Nat × Arr) (rest : List (Nat × Arr)) (o : Int) (s : State), s.chip.timeIn = x :: rest ∧ s.chip.timeRoot = false
      ∧ s.chip.upstream = some x.2.port ∧ s.chip.isOn 24 0x47 = true ∧ o = ((leAt x.2.payload 0 8 + s.chip.delay x.2.port
      s.chip.free : Nat) : Int) - (x.2.stamp : Int)) ∧
    (∃ (x : Nat × Arr) (rest : List (Nat × Arr)) (o : Int) (s : State), s.chip.timeIn = x :: rest ∧ s.chip.timeRoot = false
      ∧ s.chip.upstream = some x.2.port ∧ s.chip.isOn 24 0x47 = true ∧ o = ((leAt x.2.payload 0 8 + s.chip.delay x.2.port
      s.chip.free : Nat) : Int) - (x.2.stamp : Int)) ∧
    (∃ (x : Nat × Arr) (rest : List (Nat × Arr)) (o : Int) (s : State), s.chip.timeIn = x :: rest ∧ s.chip.timeRoot = false
      ∧ s.chip.upstream = some x.2.port ∧ s.chip.isOn 24 0x47 = true ∧ o = ((leAt x.2.payload 0 8 + s.chip.delay x.2.port
      s.chip.free : Nat) : Int) - (x.2.stamp : Int)) ∧
    (∃ (x : Nat × Arr) (rest : List (Nat × Arr)) (o : Int) (s : State), s.chip.timeIn = x :: rest ∧ s.chip.timeRoot = false
      ∧ s.chip.upstream = some x.2.port ∧ s.chip.isOn 24 0x47 = true ∧ o = ((leAt x.2.payload 0 8 + s.chip.delay x.2.port
      s.chip.free : Nat) : Int) - (x.2.stamp : Int)) ∧
    (∃ (s : State), s.chip.timeRoot = false ∧ s.chip.time.holdover = false ∧ s.chip.isOn 24 0x47 = true) ∧
    (∃ (dom : Dom) (s : State), MayWrite s.chip dom 24 0x47 0x3A0 1 ∧ s.chip.isOn 24 0x47 = true ∧ s.chip.timeRoot = true) ∧
    (∃ (dom : Dom) (s : State), MayWrite s.chip dom 24 0x47 0x3A0 1 ∧ s.chip.isOn 24 0x47 = true ∧ s.chip.timeRoot = false) :=
  ⟨ (let s : State := mkS (fun c => ((onPg 24 0x47 (upP 1023 { st := .active, rtts := [80] } (upP 0 { st := .active } c))).setReg (synC 0x300) 0xC0000008).setReg (synC 0x310) 1)
     let c : Chip := s.chip.tick 0 s.chip.period; ⟨c, s, by decide +kernel +zetaReduce⟩),
    (let s : State := mkS (fun c => ((onPg 24 0x47 (upP 1023 { st := .active, rtts := [80] } (upP 0 { st := .active } c))).setReg (synC 0x300) 0xC0000008).setReg (synC 0x38C) 0x80000000)
     let c : Chip := s.chip.tick 0 s.chip.period; ⟨c, s, by decide +kernel +zetaReduce⟩),
    (let s : State := mkS (fun c => { ((onPg 24 0x47 (upP 1023 { st := .active, rtts := [80] } (upP 0 { st := .active } c))).setReg (synC 0x300) 0x40000000) with time := { c.time with locked := true } })
     let c : Chip := s.chip.tick 0 s.chip.period; ⟨c, s, by decide +kernel +zetaReduce⟩),
    (let u : Nat := 3; let p : Nat := 1000; let c : Chip := { Chip.reset with time := { ft := 5000, was := 4000 } }
     let d : Chip := c.untilFabric ((c.time.ft / p + 1) * p); ⟨u, p, c, d, by decide +kernel +zetaReduce⟩),
    (let u : Nat := 3; let p : Nat := 1000; let c : Chip := Chip.reset
     let d : Chip := c.untilFabric ((c.time.ft / p + 1) * p); ⟨u, p, c, d, by decide +kernel +zetaReduce⟩),
    (let u : Nat := 3; let p : Nat := 1000
     let c : Chip := { Chip.reset with time := { ft := 5000, was := 4000 }, ticks := [(3, 5000)] }
     let d : Chip := c.untilFabric ((c.time.ft / p + 1) * p); ⟨u, p, c, d, by decide +kernel +zetaReduce⟩),
    (let x : Nat × Arr := (0, { (syn 0x22 0 0 0 1023) with stamp := 5000, payload := leBytes 8 9000 ++ leBytes 2 9 ++ leBytes 1 254 ++ leBytes 29 0 })
     let s : State := mkS (fun c => { (((onPg 24 0x47 (upP 1023 { st := .active, rtts := [80] } (upP 0 { st := .active } c))).setReg (synC 0x308) 0x7FF)) with timeIn := [(0, { (syn 0x22 0 0 0 1023) with stamp := 5000, payload := leBytes 8 9000 ++ leBytes 2 9 ++ leBytes 1 254 ++ leBytes 29 0 })] })
     let rest : List (Nat × Arr) := (s.chip.timeIn).tail
     let o : Int := ((leAt x.2.payload 0 8 + s.chip.delay x.2.port s.chip.free : Nat) : Int) - (x.2.stamp : Int)
     ⟨x, rest, o, s, by decide +kernel +zetaReduce⟩),
    (let x : Nat × Arr := (0, { (syn 0x22 0 0 0 1023) with stamp := 5000, payload := leBytes 8 0 ++ leBytes 2 9 ++ leBytes 1 254 ++ leBytes 29 0 })
     let s : State := mkS (fun c => { { (((onPg 24 0x47 (upP 1023 { st := .active, rtts := [80] } (upP 0 { st := .active } c))).setReg (synC 0x308) 0x7FF)) with time := { c.time with ft := 77777 } } with timeIn := [(0, { (syn 0x22 0 0 0 1023) with stamp := 5000, payload := leBytes 8 0 ++ leBytes 2 9 ++ leBytes 1 254 ++ leBytes 29 0 })] })
     let rest : List (Nat × Arr) := (s.chip.timeIn).tail
     let o : Int := ((leAt x.2.payload 0 8 + s.chip.delay x.2.port s.chip.free : Nat) : Int) - (x.2.stamp : Int)
     ⟨x, rest, o, s, by decide +kernel +zetaReduce⟩),
    (let x : Nat × Arr := (0, { (syn 0x22 0 0 0 1023) with stamp := 5000, payload := leBytes 8 4965 ++ leBytes 2 9 ++ leBytes 1 254 ++ leBytes 29 0 })
     let s : State := mkS (fun c => { (((onPg 24 0x47 (upP 1023 { st := .active, rtts := [80] } (upP 0 { st := .active } c))).setReg (synC 0x308) 0x7FF)) with timeIn := [(0, { (syn 0x22 0 0 0 1023) with stamp := 5000, payload := leBytes 8 4965 ++ leBytes 2 9 ++ leBytes 1 254 ++ leBytes 29 0 })] })
     let rest : List (Nat × Arr) := (s.chip.timeIn).tail
     let o : Int := ((leAt x.2.payload 0 8 + s.chip.delay x.2.port s.chip.free : Nat) : Int) - (x.2.stamp : Int)
     ⟨x, rest, o, s, by decide +kernel +zetaReduce⟩),
    (let x : Nat × Arr := (0, { (syn 0x22 0 0 0 1023) with stamp := 5000, payload := leBytes 8 5000 ++ leBytes 2 9 ++ leBytes 1 254 ++ leBytes 29 0 })
     let s : State := mkS (fun c => { { (((onPg 24 0x47 (upP 1023 { st := .active, rtts := [80] } (upP 0 { st := .active } c))).setReg (synC 0x308) 0x7FF)) with time := { c.time with locked := true, good := 15 } } with timeIn := [(0, { (syn 0x22 0 0 0 1023) with stamp := 5000, payload := leBytes 8 5000 ++ leBytes 2 9 ++ leBytes 1 254 ++ leBytes 29 0 })] })
     let rest : List (Nat × Arr) := (s.chip.timeIn).tail
     let o : Int := ((leAt x.2.payload 0 8 + s.chip.delay x.2.port s.chip.free : Nat) : Int) - (x.2.stamp : Int)
     ⟨x, rest, o, s, by decide +kernel +zetaReduce⟩),
    (let x : Nat × Arr := (0, { (syn 0x22 0 0 0 1023) with stamp := 5000, payload := leBytes 8 9960 ++ leBytes 2 9 ++ leBytes 1 254 ++ leBytes 29 0 })
     let s : State := mkS (fun c => { (((onPg 24 0x47 (upP 1023 { st := .active, rtts := [80] } (upP 0 { st := .active } c))).setReg (synC 0x308) 0x7FF)) with timeIn := [(0, { (syn 0x22 0 0 0 1023) with stamp := 5000, payload := leBytes 8 9960 ++ leBytes 2 9 ++ leBytes 1 254 ++ leBytes 29 0 })] })
     let rest : List (Nat × Arr) := (s.chip.timeIn).tail
     let o : Int := ((leAt x.2.payload 0 8 + s.chip.delay x.2.port s.chip.free : Nat) : Int) - (x.2.stamp : Int)
     ⟨x, rest, o, s, by decide +kernel +zetaReduce⟩),
    (let s : State := mkS (onPg 24 0x47); ⟨s, by decide +kernel +zetaReduce⟩),
    (let dom : Dom := .owner
     let s : State := mkS (fun c => (((onPg 24 0x47 c).setReg (synC 0x300) 0x80000000).setReg (synC 0x398) 5).setReg (synC 0x39C) 0xFFFFFFFF)
     ⟨dom, s, by decide +kernel +zetaReduce⟩),
    (let dom : Dom := .owner; let s : State := mkS (onPg 24 0x47); ⟨dom, s, by decide +kernel +zetaReduce⟩)⟩

/-- States and operands that meet the hypotheses of `Obligations.BanksAndRinses`, clause by clause. -/
theorem witness_BanksAndRinses :
    (∃ (dom : Dom) (j : BitVec 12) (b : Bool) (c : Chip) (s : State), s.chip.isOn 24 0x40 = true ∧ MayWrite s.chip dom 24
      0x40 0x100 (bnkWord 1 j.toNat b) ∧ s.chip.goBusy (bnk 0x100) = false ∧ c = s.chip.setReg (bnk 0x100) (bnkWord 1
      j.toNat b % 2 ^ 31) ∧ c.setOk j.toNat = true) ∧
    (∃ (dom : Dom) (j : BitVec 12) (b : Bool) (c : Chip) (s : State), s.chip.isOn 24 0x40 = true ∧ MayWrite s.chip dom 24
      0x40 0x100 (bnkWord 1 j.toNat b) ∧ s.chip.goBusy (bnk 0x100) = false ∧ c = s.chip.setReg (bnk 0x100) (bnkWord 1
      j.toNat b % 2 ^ 31) ∧ c.setOk j.toNat = true) ∧
    (∃ (dom : Dom) (j : BitVec 12) (b : Bool) (c : Chip) (s : State), s.chip.isOn 24 0x40 = true ∧ MayWrite s.chip dom 24
      0x40 0x100 (bnkWord 1 j.toNat b) ∧ s.chip.goBusy (bnk 0x100) = false ∧ c = s.chip.setReg (bnk 0x100) (bnkWord 1
      j.toNat b % 2 ^ 31) ∧ c.setOk j.toNat = false) ∧
    (∃ (dom : Dom) (b : Bool) (c : Chip) (s : State), s.chip.isOn 24 0x40 = true ∧ MayWrite s.chip dom 24 0x40 0x100
      (bnkWord 4 0 b) ∧ s.chip.goBusy (bnk 0x100) = false ∧ c = s.chip.setReg (bnk 0x100) (bnkWord 4 0 b % 2 ^ 31)) ∧
    (∃ (dom : Dom) (j : BitVec 12) (c : Chip) (s : State), s.chip.isOn 24 0x40 = true ∧ MayWrite s.chip dom 24 0x40 0x100
      (bnkWord 2 j.toNat false) ∧ s.chip.goBusy (bnk 0x100) = false ∧ c = s.chip.setReg (bnk 0x100) (bnkWord 2 j.toNat false
      % 2 ^ 31) ∧ c.rinseResult j.toNat = 0) ∧
    (∃ (dom : Dom) (j : BitVec 12) (c : Chip) (s : State), s.chip.isOn 24 0x40 = true ∧ MayWrite s.chip dom 24 0x40 0x100
      (bnkWord 2 j.toNat false) ∧ s.chip.goBusy (bnk 0x100) = false ∧ c = s.chip.setReg (bnk 0x100) (bnkWord 2 j.toNat false
      % 2 ^ 31) ∧ c.rinseResult j.toNat ≠ 0) ∧
    (∃ (dom : Dom) (j : BitVec 12) (c : Chip) (s : State), s.chip.isOn 24 0x40 = true ∧ MayWrite s.chip dom 24 0x40 0x100
      (bnkWord 3 j.toNat false) ∧ s.chip.goBusy (bnk 0x100) = false ∧ c = s.chip.setReg (bnk 0x100) (bnkWord 3 j.toNat false
      % 2 ^ 31) ∧ c.rinseOf j.toNat = none) ∧
    (∃ (dom : Dom) (j : BitVec 12) (c : Chip) (s : State), s.chip.isOn 24 0x40 = true ∧ MayWrite s.chip dom 24 0x40 0x100
      (bnkWord 3 j.toNat false) ∧ s.chip.goBusy (bnk 0x100) = false ∧ c = s.chip.setReg (bnk 0x100) (bnkWord 3 j.toNat false
      % 2 ^ 31) ∧ (c.rinseOf j.toNat).isSome = true) ∧
    (∃ (dom : Dom) (j : BitVec 12) (s : State), s.chip.isOn 24 0x40 = true ∧ MayWrite s.chip dom 24 0x40 0x100 (bnkWord 3
      j.toNat false) ∧ s.chip.goBusy (bnk 0x100) = true) ∧
    (∃ (j : BitVec 12) (r : Rinse) (s : State), s.chip.rinseOf j.toNat = some r ∧ r.phase = 1) ∧
    (∃ (j : BitVec 12) (r : Rinse) (rep : Report) (s : State), s.chip.rinseOf j.toNat = some r ∧ r.phase = 2 ∧ r.reported =
      none ∧ s.chip.drain j.toNat = 0 ∧ (rep =
      { epoch := (s.chip.bar r.drain).epoch, vote := if r.round = 1 ∨ r.rose = true then 1 else 0, stamp := s.chip.time.ft, at_ := s.chip.now })) ∧
    (∃ (j : BitVec 12) (r : Rinse) (rep : Report) (s : State), s.chip.rinseOf j.toNat = some r ∧ r.phase = 2 ∧ r.reported =
      none ∧ s.chip.drain j.toNat = 0 ∧ (rep =
      { epoch := (s.chip.bar r.drain).epoch, vote := if r.round = 1 ∨ r.rose = true then 1 else 0, stamp := s.chip.time.ft, at_ := s.chip.now })) ∧
    (∃ (j : BitVec 12) (r : Rinse) (rep : Report) (rep' : Report) (s : State), s.chip.rinseOf j.toNat = some r ∧ r.reported
      = some rep ∧ rep' = { rep with at_ := (s.chip.till (rep.at_ + 5000)).now } ∧ r.phase = 2) ∧
    (∃ (j : BitVec 12) (r : Rinse) (rep : Report) (rep' : Report) (s : State), s.chip.rinseOf j.toNat = some r ∧ r.reported
      = some rep ∧ rep' = { rep with at_ := (s.chip.till (rep.at_ + 5000)).now } ∧ r.phase = 3) ∧
    (∃ (j : BitVec 12) (r : Rinse) (s : State), s.chip.rinseOf j.toNat = some r ∧ r.late = false) ∧
    (∃ (p : Fin 1024) (vc : Fin 10) (h : Held) (k : Pkt) (s : State), s.chip.held.find? (fun h => h.port == p.val && h.vc ==
      vc.val) = some h ∧ s.chip.pkt? h.pkt = some k) ∧
    (∃ (j : BitVec 12) (b : Bool) (t : Nat) (s : State), (s.chip.job j.toNat).pend = some (b, t)) ∧
    (∃ (j : BitVec 12) (b : Bool) (t : Nat) (s : State), (s.chip.job j.toNat).pend = some (b, t)) ∧
    (∃ (j : BitVec 12) (s : State), (s.chip.job j.toNat).pend = none) :=
  ⟨ (let dom : Dom := .owner; let j : BitVec 12 := 4095; let b : Bool := true
     let s : State := mkS (fun c => onPg 24 0x40 c)
     let c : Chip := s.chip.setReg (bnk 0x100) (bnkWord 1 j.toNat b % 2 ^ 31)
     ⟨dom, j, b, c, s, by decide +kernel +zetaReduce⟩),
    (let dom : Dom := .owner; let j : BitVec 12 := 4095; let b : Bool := false
     let s : State := mkS (fun c => onPg 24 0x40 c)
     let c : Chip := s.chip.setReg (bnk 0x100) (bnkWord 1 j.toNat b % 2 ^ 31)
     ⟨dom, j, b, c, s, by decide +kernel +zetaReduce⟩),
    (let dom : Dom := .owner; let j : BitVec 12 := 4095; let b : Bool := true
     let s : State := mkS (fun c => { (onPg 24 0x40 c) with rinses := [{ rin 1 none with job := 4095 }] })
     let c : Chip := s.chip.setReg (bnk 0x100) (bnkWord 1 j.toNat b % 2 ^ 31)
     ⟨dom, j, b, c, s, by decide +kernel +zetaReduce⟩),
    (let dom : Dom := .owner; let b : Bool := true
     let s : State := mkS (fun c => { (onPg 24 0x40 c) with rinses := [{ rin 1 none with job := 4095 }] })
     let c : Chip := s.chip.setReg (bnk 0x100) (bnkWord 4 0 b % 2 ^ 31); ⟨dom, b, c, s, by decide +kernel +zetaReduce⟩),
    (let dom : Dom := .owner; let j : BitVec 12 := 4095
     let s : State := mkS (fun c => ((((onPg 24 0x40 c).setReg (bnk 0x108) (put 0 16 + 4095)).onBar 4095 (fun k => { k with valid := true, job := 4095 })).onBar 0 (fun k => { k with valid := true, job := 4095 })))
     let c : Chip := s.chip.setReg (bnk 0x100) (bnkWord 2 j.toNat false % 2 ^ 31)
     ⟨dom, j, c, s, by decide +kernel +zetaReduce⟩),
    (let dom : Dom := .owner; let j : BitVec 12 := 4095; let s : State := mkS (fun c => onPg 24 0x40 c)
     let c : Chip := s.chip.setReg (bnk 0x100) (bnkWord 2 j.toNat false % 2 ^ 31)
     ⟨dom, j, c, s, by decide +kernel +zetaReduce⟩),
    (let dom : Dom := .owner; let j : BitVec 12 := 4095; let s : State := mkS (fun c => onPg 24 0x40 c)
     let c : Chip := s.chip.setReg (bnk 0x100) (bnkWord 3 j.toNat false % 2 ^ 31)
     ⟨dom, j, c, s, by decide +kernel +zetaReduce⟩),
    (let dom : Dom := .owner; let j : BitVec 12 := 7
     let s : State := mkS (fun c => { (onPg 24 0x40 c) with rinses := [rin 3 none] })
     let c : Chip := s.chip.setReg (bnk 0x100) (bnkWord 3 j.toNat false % 2 ^ 31)
     ⟨dom, j, c, s, by decide +kernel +zetaReduce⟩),
    (let dom : Dom := .owner; let j : BitVec 12 := 4095
     let s : State := mkS (fun c => { onPg 24 0x40 c with busy := [(bnk 0x100, 5)] })
     ⟨dom, j, s, by decide +kernel +zetaReduce⟩),
    (let j : BitVec 12 := 7; let s : State := mkS (fun c => { (c) with rinses := [rin 1 none] })
     let r : Rinse := (s.chip.rinseOf j.toNat).get (by decide +kernel); ⟨j, r, s, by decide +kernel +zetaReduce⟩),
    (let j : BitVec 12 := 7
     let s : State := mkS (fun c => { ((onPg 3 0x47 c).onBar 4095 (fun k => { k with valid := true, job := 7 })) with rinses := [rin 2 none] })
     let r : Rinse := (s.chip.rinseOf j.toNat).get (by decide +kernel)
     let rep : Report := { epoch := (s.chip.bar r.drain).epoch, vote := if r.round = 1 ∨ r.rose = true then 1 else 0, stamp := s.chip.time.ft, at_ := s.chip.now }
     ⟨j, r, rep, s, by decide +kernel +zetaReduce⟩),
    (let j : BitVec 12 := 7; let s : State := mkS (fun c => { (c) with rinses := [rin 2 none] })
     let r : Rinse := (s.chip.rinseOf j.toNat).get (by decide +kernel)
     let rep : Report := { epoch := (s.chip.bar r.drain).epoch, vote := if r.round = 1 ∨ r.rose = true then 1 else 0, stamp := s.chip.time.ft, at_ := s.chip.now }
     ⟨j, r, rep, s, by decide +kernel +zetaReduce⟩),
    (let j : BitVec 12 := 7; let rep : Report := { epoch := 3, vote := 1, stamp := 2, at_ := 10 }
     let s : State := mkS (fun c => { (c) with rinses := [rin 2 (some { epoch := 3, vote := 1, stamp := 2, at_ := 10 })] })
     let r : Rinse := (s.chip.rinseOf j.toNat).get (by decide +kernel)
     let rep' : Report := { rep with at_ := (s.chip.till (rep.at_ + 5000)).now }
     ⟨j, r, rep, rep', s, by decide +kernel +zetaReduce⟩),
    (let j : BitVec 12 := 7; let rep : Report := { epoch := 3, vote := 1, stamp := 2, at_ := 10 }
     let s : State := mkS (fun c => { (c) with rinses := [rin 3 (some { epoch := 3, vote := 1, stamp := 2, at_ := 10 })] })
     let r : Rinse := (s.chip.rinseOf j.toNat).get (by decide +kernel)
     let rep' : Report := { rep with at_ := (s.chip.till (rep.at_ + 5000)).now }
     ⟨j, r, rep, rep', s, by decide +kernel +zetaReduce⟩),
    (let j : BitVec 12 := 7; let s : State := mkS (fun c => { (c) with rinses := [rin 3 none] })
     let r : Rinse := (s.chip.rinseOf j.toNat).get (by decide +kernel); ⟨j, r, s, by decide +kernel +zetaReduce⟩),
    (let p : Fin 1024 := 1023; let vc : Fin 10 := 9
     let s : State := mkS (fun c => { c with held := [{ port := 1023, vc := 9, pkt := 0, island := 0 }], pkts := [pk0] })
     let h : Held := (s.chip.held.find? (fun h => h.port == p.val && h.vc == vc.val)).get (by decide +kernel)
     let k : Pkt := (s.chip.pkt? h.pkt).get (by decide +kernel); ⟨p, vc, h, k, s, by decide +kernel +zetaReduce⟩),
    (let j : BitVec 12 := 7; let b : Bool := true; let t : Nat := 9
     let s : State := mkS (fun c => (ctxOn 3 23 (c.setReg (prs 3 0x6FC) 7)).onJob 7 (fun k => { k with pend := some (true, 9) }))
     ⟨j, b, t, s, by decide +kernel +zetaReduce⟩),
    (let j : BitVec 12 := 7; let b : Bool := true; let t : Nat := 9
     let s : State := mkS (fun c => c.onJob 7 (fun k => { k with pend := some (true, 9), moved := List.range 72 }))
     ⟨j, b, t, s, by decide +kernel +zetaReduce⟩),
    (let j : BitVec 12 := 7; let s : State := mkS id; ⟨j, s, by decide +kernel +zetaReduce⟩)⟩

/-- States and operands that meet the hypotheses of `Obligations.IslandsFlipOneByOne`, clause by clause. -/
theorem witness_IslandsFlipOneByOne :
    (∃ (i : Fin 68) (j : Nat) (b : Bool) (c : Chip), (c.job j).bankIn i.val ≠ b ∧ c.held = [] ∧ (c.job j).moved.contains
      i.val = false ∧ (c.job j).moved.length < 72) ∧
    (∃ (i : Fin 68) (j : Nat) (b : Bool) (c : Chip), (c.job j).bankIn i.val ≠ b ∧ c.held = [] ∧ (c.job j).moved.contains
      i.val = false ∧ (c.job j).moved.length < 72) ∧
    (∃ (i : Fin 68) (isl : Fin 68) (j : Nat) (b : Bool) (c : Chip), (c.job j).bankIn i.val ≠ b ∧ c.held = [] ∧ (c.job
      j).moved.contains i.val = false ∧ (c.job j).moved.length < 72 ∧ isl ≠ i) ∧
    (∃ (i : Fin 68) (isl : Fin 68) (j : Nat) (b : Bool) (c : Chip), (c.job j).bankIn i.val ≠ b ∧ c.held = [] ∧ (c.job
      j).moved.contains i.val = false ∧ (c.job j).moved.length < 72 ∧ isl ≠ i) ∧
    (∃ (i : Fin 68) (j : Nat) (j' : Nat) (b : Bool) (c : Chip), (c.job j).bankIn i.val ≠ b ∧ c.held = [] ∧ (c.job
      j).moved.contains i.val = false ∧ (c.job j).moved.length < 72 ∧ j' ≠ j) ∧
    (∃ (i : Fin 68) (j : Nat) (j' : Nat) (b : Bool) (c : Chip), (c.job j).bankIn i.val ≠ b ∧ c.held = [] ∧ (c.job
      j).moved.contains i.val = false ∧ (c.job j).moved.length < 72 ∧ j' ≠ j) :=
  ⟨ (let i : Fin 68 := 67; let j : Nat := 5; let b : Bool := true; let c : Chip := Chip.reset
     ⟨i, j, b, c, by decide +kernel +zetaReduce⟩),
    (let i : Fin 68 := 0; let j : Nat := 5; let b : Bool := true
     let c : Chip := Chip.reset.onJob 5 (fun k => { k with moved := (List.range 72).drop 1 })
     ⟨i, j, b, c, by decide +kernel +zetaReduce⟩),
    (let i : Fin 68 := 67; let isl : Fin 68 := 0; let j : Nat := 5; let b : Bool := true; let c : Chip := Chip.reset
     ⟨i, isl, j, b, c, by decide +kernel +zetaReduce⟩),
    (let i : Fin 68 := 0; let isl : Fin 68 := 1; let j : Nat := 5; let b : Bool := true
     let c : Chip := Chip.reset.onJob 5 (fun k => { k with moved := (List.range 72).drop 1 })
     ⟨i, isl, j, b, c, by decide +kernel +zetaReduce⟩),
    (let i : Fin 68 := 67; let j : Nat := 5; let j' : Nat := 6; let b : Bool := true; let c : Chip := Chip.reset
     ⟨i, j, j', b, c, by decide +kernel +zetaReduce⟩),
    (let i : Fin 68 := 0; let j : Nat := 5; let j' : Nat := 6; let b : Bool := true
     let c : Chip := Chip.reset.onJob 5 (fun k => { k with moved := (List.range 72).drop 1 })
     ⟨i, j, j', b, c, by decide +kernel +zetaReduce⟩)⟩

/-- States and operands that meet the hypotheses of `Obligations.TwinRoles`, clause by clause. -/
theorem witness_TwinRoles :
    (∃ (dom : Dom) (val : Word) (s : State), MayWrite s.chip dom 24 0x4A 0x100 val.toNat ∧ val.toNat &&& 0xFFFF000D =
      val.toNat ∧ bit val.toNat 0 = true ∧ fld val.toNat 31 16 ≠ 0 ∧ s.chip.regBit (twn 0x104) 31 = true ∧ s.chip.width (fld
      (s.chip.reg (twn 0x104)) 9 0) = 2 ∧ s.chip.regBit (twn 0x100) 0 = false) ∧
    (∃ (dom : Dom) (val : Word) (s : State), MayWrite s.chip dom 24 0x4A 0x100 val.toNat ∧ val.toNat &&& 0xFFFF000D =
      val.toNat ∧ bit val.toNat 0 = true ∧ fld val.toNat 31 16 = 0) ∧
    (∃ (dom : Dom) (val : Word) (s : State), MayWrite s.chip dom 24 0x4A 0x100 val.toNat ∧ val.toNat &&& 0xFFFF000D =
      val.toNat ∧ bit val.toNat 0 = false ∧ s.chip.regBit (twn 0x100) 0 = false) ∧
    (∃ (dom : Dom) (val : Word) (s : State), MayWrite s.chip dom 24 0x4A 0x100 val.toNat ∧ val.toNat &&& 0xFFFF000D =
      val.toNat ∧ bit val.toNat 0 = false ∧ s.chip.regBit (twn 0x100) 0 = true) ∧
    (∃ (c : Chip) (d : Chip), c.twin.role ≠ 0 ∧ d = c.twinOff) ∧
    (∃ (c : Chip) (d : Chip), c.twin.role ≠ 0 ∧ d = c.twinOff ∧ c.twin.paths.length = 2) ∧
    (∃ (c : Chip) (d : Chip), c.twin.role ≠ 0 ∧ d = c.twinOff ∧ c.twin.paired = true) ∧
    (∃ (c : Chip), c.twin.role = 0) ∧
    (∃ (dom : Dom) (val : Word) (s : State), MayWrite s.chip dom 24 0x4A 0x104 val.toNat ∧ val.toNat &&& 0x800003FF =
      val.toNat ∧ s.chip.regBit (twn 0x100) 0 = false) ∧
    (∃ (dom : Dom) (val : Word) (s : State), MayWrite s.chip dom 24 0x4A 0x104 val.toNat ∧ val.toNat &&& 0x800003FF =
      val.toNat ∧ s.chip.regBit (twn 0x100) 0 = true) ∧
    (∃ (s : State), s.chip.twinOn = true ∧ s.chip.twin.partition = false ∧ (s.chip.twin.role = 1 ∨ s.chip.twin.role = 2) ∧
      (s.chip.twin.paired = false ∨ s.chip.twin.armedAt ≤ s.chip.twin.lastBeat.getD 0)) ∧
    (∃ (s : State), s.chip.twinOn = true ∧ s.chip.twin.partition = false ∧ (s.chip.twin.role = 1 ∨ s.chip.twin.role = 2) ∧
      (s.chip.twin.paired = false ∨ s.chip.twin.armedAt ≤ s.chip.twin.lastBeat.getD 0)) ∧
    (∃ (s : State), s.chip.twinOn = true ∧ s.chip.twin.paired = true ∧ max s.chip.now (s.chip.twin.lastBeat.getD 0 + 20000)
      < s.chip.twin.armedAt + 20000) ∧
    (∃ (s : State), s.chip.twinOn = true ∧ s.chip.twin.partition = false ∧ s.chip.twin.role = 3 ∧ (s.chip.twin.paired =
      false ∨ s.chip.twin.armedAt ≤ s.chip.twin.lastBeat.getD 0)) ∧
    (∃ (c : Chip) (s : State), s.chip.twinOn = true ∧ s.chip.twin.partition = true ∧ c = s.chip.till (s.chip.twin.partAt +
      1000000)) ∧
    (∃ (dom : Dom) (c : Chip) (s : State), s.chip.isOn 24 0x4A = true ∧ MayWrite s.chip dom 24 0x4A 0x120 (2 ^ 31 + put 1
      24) ∧ c = s.chip.setReg (twn 0x120) (put 1 24) ∧ c.twin.role ≠ 4) ∧
    (∃ (dom : Dom) (c : Chip) (s : State), s.chip.isOn 24 0x4A = true ∧ MayWrite s.chip dom 24 0x4A 0x120 (2 ^ 31 + put 1
      24) ∧ c = s.chip.setReg (twn 0x120) (put 1 24) ∧ c.twin.role = 4 ∧ c.regBit (twn 0x100) 3 = true) ∧
    (∃ (dom : Dom) (c : Chip) (s : State), s.chip.isOn 24 0x4A = true ∧ MayWrite s.chip dom 24 0x4A 0x120 (2 ^ 31 + put 1
      24) ∧ c = s.chip.setReg (twn 0x120) (put 1 24) ∧ c.twin.role = 4 ∧ c.regBit (twn 0x100) 3 = false) ∧
    (∃ (dom : Dom) (c : Chip) (s : State), s.chip.isOn 24 0x4A = true ∧ MayWrite s.chip dom 24 0x4A 0x120 (2 ^ 31 + put 2
      24) ∧ c = s.chip.setReg (twn 0x120) (put 2 24) ∧ c.twin.role = 1 ∧ c.twin.peerRole = 2 ∧ c.twin.paired = true ∧
      c.rinses = []) ∧
    (∃ (dom : Dom) (c : Chip) (s : State), s.chip.isOn 24 0x4A = true ∧ MayWrite s.chip dom 24 0x4A 0x120 (2 ^ 31 + put 2
      24) ∧ c = s.chip.setReg (twn 0x120) (put 2 24) ∧ (c.twin.role ≠ 1 ∨ c.twin.peerRole ≠ 2 ∨ c.rinses ≠ [])) ∧
    (∃ (dom : Dom) (c : Chip) (s : State), s.chip.isOn 24 0x4A = true ∧ MayWrite s.chip dom 24 0x4A 0x120 (2 ^ 31 + put 3
      24) ∧ c = s.chip.setReg (twn 0x120) (put 3 24) ∧ c.twin.role = 2 ∧ c.twin.peerRole = 1 ∧ c.twin.paired = true) ∧
    (∃ (dom : Dom) (c : Chip) (s : State), s.chip.isOn 24 0x4A = true ∧ MayWrite s.chip dom 24 0x4A 0x120 (2 ^ 31 + put 3
      24) ∧ c = s.chip.setReg (twn 0x120) (put 3 24) ∧ (c.twin.role ≠ 2 ∨ c.twin.peerRole ≠ 1)) :=
  ⟨ (let dom : Dom := .owner; let val : Word := 0x7700000D
     let s : State := mkS (fun c => (((onPg 24 0x4A c).setReg (twn 0x104) 0x800003FF).setReg (lnePage 1023 + 0x100) 0x400))
     ⟨dom, val, s, by decide +kernel +zetaReduce⟩),
    (let dom : Dom := .owner; let val : Word := 1; let s : State := mkS (fun c => onPg 24 0x4A c)
     ⟨dom, val, s, by decide +kernel +zetaReduce⟩),
    (let dom : Dom := .owner; let val : Word := 0xFFFF000C; let s : State := mkS (fun c => onPg 24 0x4A c)
     ⟨dom, val, s, by decide +kernel +zetaReduce⟩),
    (let dom : Dom := .owner; let val : Word := 0; let s : State := mkS (fun c => twn0 3 c)
     ⟨dom, val, s, by decide +kernel +zetaReduce⟩),
    (let c : Chip := (twn0 3 Chip.reset).onTwin (fun t => { t with paired := true, paths := [true, true], own := [], fenceAt := some 5 })
     let d : Chip := c.twinOff; ⟨c, d, by decide +kernel +zetaReduce⟩),
    (let c : Chip := (twn0 3 Chip.reset).onTwin (fun t => { t with paired := true, paths := [true, true], own := [], fenceAt := some 5 })
     let d : Chip := c.twinOff; ⟨c, d, by decide +kernel +zetaReduce⟩),
    (let c : Chip := (twn0 3 Chip.reset).onTwin (fun t => { t with paired := true, paths := [true, true], own := [], fenceAt := some 5 })
     let d : Chip := c.twinOff; ⟨c, d, by decide +kernel +zetaReduce⟩),
    (let c : Chip := Chip.reset; ⟨c, by decide +kernel +zetaReduce⟩),
    (let dom : Dom := .owner; let val : Word := 0x800003FF; let s : State := mkS (fun c => onPg 24 0x4A c)
     ⟨dom, val, s, by decide +kernel +zetaReduce⟩),
    (let dom : Dom := .owner; let val : Word := 0x800003FF; let s : State := mkS (fun c => twn0 1 c)
     ⟨dom, val, s, by decide +kernel +zetaReduce⟩),
    (let s : State := mkS (fun c => (twn0 1 c).onTwin (fun t => { t with term := 4294967295, paired := true }))
     ⟨s, by decide +kernel +zetaReduce⟩),
    (let s : State := mkS (fun c => (twn0 2 c).onTwin (fun t => { t with paired := true, term := 5 }))
     ⟨s, by decide +kernel +zetaReduce⟩),
    (let s : State := mkS (fun c => (twn0 2 c).onTwin (fun t => { t with paired := true, armedAt := 5 }))
     ⟨s, by decide +kernel +zetaReduce⟩),
    (let s : State := mkS (fun c => twn0 3 c); ⟨s, by decide +kernel +zetaReduce⟩),
    (let s : State := mkS (fun c => (twn0 2 c).onTwin (fun t => { t with partition := true }))
     let c : Chip := s.chip.till (s.chip.twin.partAt + 1000000); ⟨c, s, by decide +kernel +zetaReduce⟩),
    (let dom : Dom := .owner; let s : State := mkS (fun c => twn0 1 c)
     let c : Chip := s.chip.setReg (twn 0x120) (put 1 24); ⟨dom, c, s, by decide +kernel +zetaReduce⟩),
    (let dom : Dom := .owner; let s : State := mkS (fun c => (twn0 4 c).setReg (twn 0x100) 0x770009)
     let c : Chip := s.chip.setReg (twn 0x120) (put 1 24); ⟨dom, c, s, by decide +kernel +zetaReduce⟩),
    (let dom : Dom := .owner; let s : State := mkS (fun c => twn0 4 c)
     let c : Chip := s.chip.setReg (twn 0x120) (put 1 24); ⟨dom, c, s, by decide +kernel +zetaReduce⟩),
    (let dom : Dom := .owner
     let s : State := mkS (fun c => (twn0 1 c).onTwin (fun t => { t with peerRole := 2, paired := true }))
     let c : Chip := s.chip.setReg (twn 0x120) (put 2 24); ⟨dom, c, s, by decide +kernel +zetaReduce⟩),
    (let dom : Dom := .owner
     let s : State := mkS (fun c => { ((twn0 1 c).onTwin (fun t => { t with peerRole := 2, paired := true })) with rinses := [rin 1 none] })
     let c : Chip := s.chip.setReg (twn 0x120) (put 2 24); ⟨dom, c, s, by decide +kernel +zetaReduce⟩),
    (let dom : Dom := .owner
     let s : State := mkS (fun c => (twn0 2 c).onTwin (fun t => { t with peerRole := 1, paired := true }))
     let c : Chip := s.chip.setReg (twn 0x120) (put 3 24); ⟨dom, c, s, by decide +kernel +zetaReduce⟩),
    (let dom : Dom := .owner
     let s : State := mkS (fun c => (twn0 2 c).onTwin (fun t => { t with peerRole := 2, paired := true }))
     let c : Chip := s.chip.setReg (twn 0x120) (put 3 24); ⟨dom, c, s, by decide +kernel +zetaReduce⟩)⟩

/-- States and operands that meet the hypotheses of `Obligations.Beats`, clause by clause. -/
theorem witness_Beats :
    (∃ (c : Chip) (s : State), s.chip.twinOn = true ∧ s.chip.twinLinkUp = true ∧ c = (s.chip.tick 1 1000).flagsExpire) ∧
    (∃ (c : Chip) (s : State), s.chip.twinOn = true ∧ s.chip.regBit (twn 0x108) 31 = true ∧ c = (s.chip.tick 2
      4000).flagsExpire) ∧
    (∃ (target : Nat) (c : Chip), c.twin.role < 8 ∧ target < 2 ^ 16) ∧
    (∃ (dest : Nat) (k : Nat) (n : Nat) (c : Chip), c.rst.c0Up = true ∧ k = put (fld (c.reg (twn 0x108)) 17 16) 16 + dest ∧
      n = SMap.getD c.twin.ibSeq k 0) ∧
    (∃ (x : Nat × Arr) (c : Chip) (s : State), s.chip.twinFront 0x30 = some x ∧ s.chip.twinOn = true ∧ s.chip.isTwinLink
      x.2.port = true ∧ x.2.payload.length = 32 ∧ c = { s.chip with twinIn := s.chip.twinIn.erase x } ∧ bit (byteAt
      x.2.payload 2) 4 = false) ∧
    (∃ (x : Nat × Arr) (c : Chip) (s : State), s.chip.twinFront 0x30 = some x ∧ s.chip.twinOn = true ∧ s.chip.isTwinLink
      x.2.port = true ∧ x.2.payload.length = 32 ∧ c = { s.chip with twinIn := s.chip.twinIn.erase x } ∧ bit (byteAt
      x.2.payload 2) 4 = false) ∧
    (∃ (x : Nat × Arr) (c : Chip) (s : State), s.chip.twinFront 0x30 = some x ∧ s.chip.twinOn = true ∧ s.chip.isTwinLink
      x.2.port = true ∧ x.2.payload.length = 32 ∧ c = { s.chip with twinIn := s.chip.twinIn.erase x } ∧ bit (byteAt
      x.2.payload 2) 4 = true ∧ leAt x.2.payload 20 2 = c.ownId) ∧
    (∃ (x : Nat × Arr) (c : Chip) (s : State), s.chip.twinFront 0x30 = some x ∧ s.chip.twinOn = true ∧ s.chip.isTwinLink
      x.2.port = true ∧ x.2.payload.length = 32 ∧ c = { s.chip with twinIn := s.chip.twinIn.erase x } ∧ bit (byteAt
      x.2.payload 2) 4 = true ∧ leAt x.2.payload 20 2 ≠ c.ownId) ∧
    (∃ (x : Nat × Arr) (c : Chip) (s : State), s.chip.c0In.find? (fun x => beatRequest x.2) = some x ∧ s.chip.twinOn = true
      ∧ x.2.payload.length = 40 ∧ c = { s.chip with c0In := s.chip.c0In.erase x } ∧ leAt (x.2.payload.drop 8) 20 2 =
      c.ownId) ∧
    (∃ (x : Nat × Arr) (c : Chip) (s : State), s.chip.c0In.find? (fun x => beatRequest x.2) = some x ∧ s.chip.twinOn = true
      ∧ x.2.payload.length = 40 ∧ c = { s.chip with c0In := s.chip.c0In.erase x } ∧ leAt (x.2.payload.drop 8) 20 2 ≠ c.ownId
      ∧ s.chip.twinLinkUp = true) ∧
    (∃ (l : List Byte) (c : Chip) (k : _), leAt l 0 2 = c.pairId ∧ fld (byteAt l 2) 0 0 ≠ c.sideCode ∧ c.twin.peerSeq = some
      k ∧ leAt l 8 4 ≤ k) ∧
    (∃ (path : Nat) (l : List Byte) (c : Chip) (d : _), leAt l 0 2 = c.pairId ∧ fld (byteAt l 2) 0 0 ≠ c.sideCode ∧
      c.twin.peerSeq.all (fun k => decide (k < leAt l 8 4)) = true ∧ d = (c.flagsExpire.bump (twn (if path = 0 then 0x140
      else 0x144)) 1).onTwin (fun t =>
      { t with peerSeq := some (leAt l 8 4), peerRole := fld (byteAt l 2) 3 1, peerTerm := leAt l 4 4, peerErr := leAt l 12 4, peerSseq := leAt l 16 4, paired := true, partition := false, lastBeat := some c.now, lastLink := if path = 0 then some c.now else t.lastLink, lastIb := if path = 0 then t.lastIb else some c.now, sseq := if t.role = 2 then t.sseq else leAt l 16 4 % 2 ^ 30, fenceAt := if fld (byteAt l 2) 3 1 = 4 then none else t.fenceAt, count := if c.twin.paired then t.count else [] })
      ∧ c.twin.paired = true) ∧
    (∃ (path : Nat) (l : List Byte) (c : Chip) (d : _), leAt l 0 2 = c.pairId ∧ fld (byteAt l 2) 0 0 ≠ c.sideCode ∧
      c.twin.peerSeq.all (fun k => decide (k < leAt l 8 4)) = true ∧ d = (c.flagsExpire.bump (twn (if path = 0 then 0x140
      else 0x144)) 1).onTwin (fun t =>
      { t with peerSeq := some (leAt l 8 4), peerRole := fld (byteAt l 2) 3 1, peerTerm := leAt l 4 4, peerErr := leAt l 12 4, peerSseq := leAt l 16 4, paired := true, partition := false, lastBeat := some c.now, lastLink := if path = 0 then some c.now else t.lastLink, lastIb := if path = 0 then t.lastIb else some c.now, sseq := if t.role = 2 then t.sseq else leAt l 16 4 % 2 ^ 30, fenceAt := if fld (byteAt l 2) 3 1 = 4 then none else t.fenceAt, count := if c.twin.paired then t.count else [] })
      ∧ c.twin.paired = true) ∧
    (∃ (path : Nat) (l : List Byte) (c : Chip) (d : _), leAt l 0 2 = c.pairId ∧ fld (byteAt l 2) 0 0 ≠ c.sideCode ∧
      c.twin.peerSeq.all (fun k => decide (k < leAt l 8 4)) = true ∧ d = (c.flagsExpire.bump (twn (if path = 0 then 0x140
      else 0x144)) 1).onTwin (fun t =>
      { t with peerSeq := some (leAt l 8 4), peerRole := fld (byteAt l 2) 3 1, peerTerm := leAt l 4 4, peerErr := leAt l 12 4, peerSseq := leAt l 16 4, paired := true, partition := false, lastBeat := some c.now, lastLink := if path = 0 then some c.now else t.lastLink, lastIb := if path = 0 then t.lastIb else some c.now, sseq := if t.role = 2 then t.sseq else leAt l 16 4 % 2 ^ 30, fenceAt := if fld (byteAt l 2) 3 1 = 4 then none else t.fenceAt, count := if c.twin.paired then t.count else [] })
      ∧ c.twin.paired = false) ∧
    (∃ (path : Nat) (l : List Byte) (c : Chip) (d : _), leAt l 0 2 = c.pairId ∧ fld (byteAt l 2) 0 0 ≠ c.sideCode ∧
      c.twin.peerSeq.all (fun k => decide (k < leAt l 8 4)) = true ∧ d = (c.flagsExpire.bump (twn (if path = 0 then 0x140
      else 0x144)) 1).onTwin (fun t =>
      { t with peerSeq := some (leAt l 8 4), peerRole := fld (byteAt l 2) 3 1, peerTerm := leAt l 4 4, peerErr := leAt l 12 4, peerSseq := leAt l 16 4, paired := true, partition := false, lastBeat := some c.now, lastLink := if path = 0 then some c.now else t.lastLink, lastIb := if path = 0 then t.lastIb else some c.now, sseq := if t.role = 2 then t.sseq else leAt l 16 4 % 2 ^ 30, fenceAt := if fld (byteAt l 2) 3 1 = 4 then none else t.fenceAt, count := if c.twin.paired then t.count else [] })
      ∧ c.twin.paired = false) ∧
    (∃ (c : Chip), c.twin.role = 2 ∧ c.twin.peerRole = 2 ∧ (c.twin.term < c.twin.peerTerm ∨ (c.twin.term = c.twin.peerTerm ∧
      c.sideCode = 1))) ∧
    (∃ (c : Chip), c.twin.role = 2 ∧ c.twin.peerRole = 2 ∧ (c.twin.peerTerm < c.twin.term ∨ (c.twin.term = c.twin.peerTerm ∧
      c.sideCode = 0))) ∧
    (∃ (c : Chip), c.twin.role = 2 ∧ c.twin.peerRole = 2 ∧ (c.twin.peerTerm < c.twin.term ∨ (c.twin.term = c.twin.peerTerm ∧
      c.sideCode = 0))) ∧
    (∃ (c : Chip), c.twin.role = 2 ∧ c.twin.peerRole = 3) ∧
    (∃ (c : Chip), c.twin.role = 1 ∧ (c.twin.peerRole = 4 ∨ (c.twin.peerRole = 1 ∧ c.sideCode = 0))) ∧
    (∃ (c : Chip), c.twin.role = 1 ∧ (c.twin.peerRole = 4 ∨ (c.twin.peerRole = 1 ∧ c.sideCode = 0))) ∧
    (∃ (c : Chip), c.twin.role = 1 ∧ c.twin.peerRole = 3) ∧
    (∃ (first : Bool) (c : Chip), c.twin.role = 1 ∧ c.twin.peerRole = 2 ∧ first = true ∧ c.regBit (twn 0x100) 3 = true) ∧
    (∃ (first : Bool) (c : Chip), c.twin.role = 1 ∧ c.twin.peerRole = 2 ∧ (first = false ∨ c.regBit (twn 0x100) 3 = false)) ∧
    (∃ (first : Bool) (c : Chip), c.twin.role = 1 ∧ c.twin.peerRole = 2 ∧ (first = false ∨ c.regBit (twn 0x100) 3 = false)) ∧
    (∃ (c : Chip), c.twin.role = 1 ∧ c.twin.peerRole = 1 ∧ c.sideCode = 1) ∧
    (∃ (c : Chip), (c.twin.role = 3 ∨ c.twin.role = 4)) ∧
    (∃ (c : Chip), (c.twin.role = 3 ∨ c.twin.role = 4)) ∧
    (∃ (path : Bool) (s : State), s.chip.twinOn = true ∧ s.chip.twin.paths.getD (b2n path) false = true) ∧
    (∃ (path : Bool) (s : State), s.chip.twinOn = true ∧ s.chip.twin.paths.getD (b2n path) false = true) :=
  ⟨ (let s : State := mkS (fun c => twn0 2 c); let c : Chip := (s.chip.tick 1 1000).flagsExpire
     ⟨c, s, by decide +kernel +zetaReduce⟩),
    (let s : State := mkS (fun c => (twn0 2 c).setReg (twn 0x108) 0x80000005)
     let c : Chip := (s.chip.tick 2 4000).flagsExpire; ⟨c, s, by decide +kernel +zetaReduce⟩),
    (let target : Nat := 65535; let c : Chip := twn0 4 Chip.reset; ⟨target, c, by decide +kernel +zetaReduce⟩),
    (let dest : Nat := 5; let c : Chip := (twn0 1 Chip.reset).setReg (twn 0x108) 0x80020005
     let k : Nat := put (fld (c.reg (twn 0x108)) 17 16) 16 + dest; let n : Nat := SMap.getD c.twin.ibSeq k 0
     ⟨dest, k, n, c, by decide +kernel +zetaReduce⟩),
    (let x : Nat × Arr := tw 0x30 (bt 0x77 1 0)
     let s : State := mkS (fun c => { (twn0 1 c) with twinIn := [tw 0x30 (bt 0x77 1 0)] })
     let c : Chip := { s.chip with twinIn := s.chip.twinIn.erase x }; ⟨x, c, s, by decide +kernel +zetaReduce⟩),
    (let x : Nat × Arr := tw 0x30 (bt 0x77 5 0)
     let s : State := mkS (fun c => { (twn0 2 c) with twinIn := [tw 0x30 (bt 0x77 5 0)] })
     let c : Chip := { s.chip with twinIn := s.chip.twinIn.erase x }; ⟨x, c, s, by decide +kernel +zetaReduce⟩),
    (let x : Nat × Arr := tw 0x30 (bt 0x77 16 0xFFFF)
     let s : State := mkS (fun c => { (twn0 1 c) with twinIn := [tw 0x30 (bt 0x77 16 0xFFFF)] })
     let c : Chip := { s.chip with twinIn := s.chip.twinIn.erase x }; ⟨x, c, s, by decide +kernel +zetaReduce⟩),
    (let x : Nat × Arr := tw 0x30 (bt 0x77 16 5)
     let s : State := mkS (fun c => { (twn0 1 c) with twinIn := [tw 0x30 (bt 0x77 16 5)] })
     let c : Chip := { s.chip with twinIn := s.chip.twinIn.erase x }; ⟨x, c, s, by decide +kernel +zetaReduce⟩),
    (let x : Nat × Arr := (0, { (tw 6 (leBytes 2 0x7B01 ++ leBytes 6 0 ++ bt 0x77 1 0xFFFF)).2 with hdr := { op := 6, len := 40 } })
     let s : State := mkS (fun c => { (twn0 1 c) with c0In := [(0, { (tw 6 (leBytes 2 0x7B01 ++ leBytes 6 0 ++ bt 0x77 1 0xFFFF)).2 with hdr := { op := 6, len := 40 } })] })
     let c : Chip := { s.chip with c0In := s.chip.c0In.erase x }; ⟨x, c, s, by decide +kernel +zetaReduce⟩),
    (let x : Nat × Arr := (0, { (tw 6 (leBytes 2 0x7B01 ++ leBytes 6 0 ++ bt 0x77 0 5)).2 with hdr := { op := 6, len := 40 } })
     let s : State := mkS (fun c => { (twn0 1 c) with c0In := [(0, { (tw 6 (leBytes 2 0x7B01 ++ leBytes 6 0 ++ bt 0x77 0 5)).2 with hdr := { op := 6, len := 40 } })] })
     let c : Chip := { s.chip with c0In := s.chip.c0In.erase x }; ⟨x, c, s, by decide +kernel +zetaReduce⟩),
    (let l : List Byte := bt 0x77 1 0; let k := 9
     let c : Chip := (twn0 1 Chip.reset).onTwin (fun t => { t with peerSeq := some 9 })
     ⟨l, c, k, by decide +kernel +zetaReduce⟩),
    (let path : Nat := 0; let l : List Byte := bt 0x77 5 0
     let c : Chip := (twn0 4 Chip.reset).onTwin (fun t => { t with paired := true })
     let d := (c.flagsExpire.bump (twn (if path = 0 then 0x140 else 0x144)) 1).onTwin (fun t => { t with peerSeq := some (leAt l 8 4), peerRole := fld (byteAt l 2) 3 1, peerTerm := leAt l 4 4, peerErr := leAt l 12 4, peerSseq := leAt l 16 4, paired := true, partition := false, lastBeat := some c.now, lastLink := if path = 0 then some c.now else t.lastLink, lastIb := if path = 0 then t.lastIb else some c.now, sseq := if t.role = 2 then t.sseq else leAt l 16 4 % 2 ^ 30, fenceAt := if fld (byteAt l 2) 3 1 = 4 then none else t.fenceAt, count := if c.twin.paired then t.count else [] })
     ⟨path, l, c, d, by decide +kernel +zetaReduce⟩),
    (let path : Nat := 1; let l : List Byte := bt 0x77 5 0
     let c : Chip := (twn0 2 Chip.reset).onTwin (fun t => { t with paired := true, partition := true, peerSeq := some 8 })
     let d := (c.flagsExpire.bump (twn (if path = 0 then 0x140 else 0x144)) 1).onTwin (fun t => { t with peerSeq := some (leAt l 8 4), peerRole := fld (byteAt l 2) 3 1, peerTerm := leAt l 4 4, peerErr := leAt l 12 4, peerSseq := leAt l 16 4, paired := true, partition := false, lastBeat := some c.now, lastLink := if path = 0 then some c.now else t.lastLink, lastIb := if path = 0 then t.lastIb else some c.now, sseq := if t.role = 2 then t.sseq else leAt l 16 4 % 2 ^ 30, fenceAt := if fld (byteAt l 2) 3 1 = 4 then none else t.fenceAt, count := if c.twin.paired then t.count else [] })
     ⟨path, l, c, d, by decide +kernel +zetaReduce⟩),
    (let path : Nat := 0; let l : List Byte := bt 0x77 5 0; let c : Chip := twn0 1 Chip.reset
     let d := (c.flagsExpire.bump (twn (if path = 0 then 0x140 else 0x144)) 1).onTwin (fun t => { t with peerSeq := some (leAt l 8 4), peerRole := fld (byteAt l 2) 3 1, peerTerm := leAt l 4 4, peerErr := leAt l 12 4, peerSseq := leAt l 16 4, paired := true, partition := false, lastBeat := some c.now, lastLink := if path = 0 then some c.now else t.lastLink, lastIb := if path = 0 then t.lastIb else some c.now, sseq := if t.role = 2 then t.sseq else leAt l 16 4 % 2 ^ 30, fenceAt := if fld (byteAt l 2) 3 1 = 4 then none else t.fenceAt, count := if c.twin.paired then t.count else [] })
     ⟨path, l, c, d, by decide +kernel +zetaReduce⟩),
    (let path : Nat := 1; let l : List Byte := bt 0x77 7 0
     let c : Chip := (twn0 4 Chip.reset).onTwin (fun t => { t with peerSeq := some 8 })
     let d := (c.flagsExpire.bump (twn (if path = 0 then 0x140 else 0x144)) 1).onTwin (fun t => { t with peerSeq := some (leAt l 8 4), peerRole := fld (byteAt l 2) 3 1, peerTerm := leAt l 4 4, peerErr := leAt l 12 4, peerSseq := leAt l 16 4, paired := true, partition := false, lastBeat := some c.now, lastLink := if path = 0 then some c.now else t.lastLink, lastIb := if path = 0 then t.lastIb else some c.now, sseq := if t.role = 2 then t.sseq else leAt l 16 4 % 2 ^ 30, fenceAt := if fld (byteAt l 2) 3 1 = 4 then none else t.fenceAt, count := if c.twin.paired then t.count else [] })
     ⟨path, l, c, d, by decide +kernel +zetaReduce⟩),
    (let c : Chip := (twn0 2 Chip.reset).onTwin (fun t => { t with peerRole := 2, peerTerm := 1 })
     ⟨c, by decide +kernel +zetaReduce⟩),
    (let c : Chip := (twn0 2 Chip.reset).onTwin (fun t => { t with peerRole := 2, term := 1 })
     ⟨c, by decide +kernel +zetaReduce⟩),
    (let c : Chip := (twn0 2 Chip.reset).onTwin (fun t => { t with peerRole := 2 }); ⟨c, by decide +kernel +zetaReduce⟩),
    (let c : Chip := (twn0 2 Chip.reset).onTwin (fun t => { t with peerRole := 3, txOn := true })
     ⟨c, by decide +kernel +zetaReduce⟩),
    (let c : Chip := (twn0 1 Chip.reset).onTwin (fun t => { t with peerRole := 4 }); ⟨c, by decide +kernel +zetaReduce⟩),
    (let c : Chip := (twn0 1 Chip.reset).onTwin (fun t => { t with peerRole := 1 }); ⟨c, by decide +kernel +zetaReduce⟩),
    (let c : Chip := { (twn0 1 Chip.reset).onTwin (fun t => { t with peerRole := 3 }) with rinses := [rin 1 none] }
     ⟨c, by decide +kernel +zetaReduce⟩),
    (let first : Bool := true
     let c : Chip := ((twn0 1 Chip.reset).setReg (twn 0x100) 0x770009).onTwin (fun t => { t with peerRole := 2 })
     ⟨first, c, by decide +kernel +zetaReduce⟩),
    (let first : Bool := false; let c : Chip := (twn0 1 Chip.reset).onTwin (fun t => { t with peerRole := 2 })
     ⟨first, c, by decide +kernel +zetaReduce⟩),
    (let first : Bool := true; let c : Chip := (twn0 1 Chip.reset).onTwin (fun t => { t with peerRole := 2 })
     ⟨first, c, by decide +kernel +zetaReduce⟩),
    (let c : Chip := ((twn0 1 Chip.reset).onTwin (fun t => { t with peerRole := 1 })).onRst (fun r => { r with strapped := true, side := false })
     ⟨c, by decide +kernel +zetaReduce⟩),
    (let c : Chip := (twn0 3 Chip.reset).onTwin (fun t => { t with peerRole := 1 }); ⟨c, by decide +kernel +zetaReduce⟩),
    (let c : Chip := (twn0 4 Chip.reset).onTwin (fun t => { t with peerRole := 2 }); ⟨c, by decide +kernel +zetaReduce⟩),
    (let path : Bool := false
     let s : State := mkS (fun c => (twn0 1 c).onTwin (fun t => { t with paths := [true, false] }))
     ⟨path, s, by decide +kernel +zetaReduce⟩),
    (let path : Bool := true
     let s : State := mkS (fun c => (twn0 1 c).onTwin (fun t => { t with paths := [false, true] }))
     ⟨path, s, by decide +kernel +zetaReduce⟩)⟩

/-- States and operands that meet the hypotheses of `Obligations.DigestsAndFencing`, clause by clause. -/
theorem witness_DigestsAndFencing :
    (∃ (s : State), s.chip.twinOn = true ∧ s.chip.twinLinkUp = true) ∧
    (∃ (s : State), s.chip.twinOn = true ∧ s.chip.twinLinkUp = true) ∧
    (∃ (x : Nat × Arr) (l : List Byte) (base : Nat) (ents : List DigEnt) (c : Chip) (d : Chip) (s : State), s.chip.twinFront
      0x31 = some x ∧ s.chip.twinOn = true ∧ s.chip.isTwinLink x.2.port = true ∧ l = x.2.payload ∧ leAt l 0 2 =
      s.chip.pairId ∧ byteAt l 2 ≠ s.chip.sideCode ∧ base = 256 * (leAt l 4 4 % 4) ∧ ents = (List.range (leAt l 8 2)).map
      (fun i =>
      { chunk := leAt l (1040 + 12 * i) 4, cstate := byteAt l (1044 + 12 * i), crc := leAt l (1048 + 12 * i) 4, at_ := s.chip.now, sent := true, matched := false })
      ∧ c = Chip.onTwin { s.chip with twinIn := s.chip.twinIn.erase x } (fun t =>
      { t with peer := t.peer ++ ents, peerHist := (List.range 256).foldl (fun m i => histAdd s.chip.cmpWin m (base + i) (leAt l (16 + 4 * i) 4 % 2 ^ 31, bit (leAt l (16 + 4 * i) 4) 31)) t.peerHist })
      ∧ d = c.each s.chip.twin.own (fun c e => c.digestMatch e)) ∧
    (∃ (x : Nat × Arr) (l : List Byte) (base : Nat) (ents : List DigEnt) (c : Chip) (d : Chip) (s : State), s.chip.twinFront
      0x31 = some x ∧ s.chip.twinOn = true ∧ s.chip.isTwinLink x.2.port = true ∧ l = x.2.payload ∧ leAt l 0 2 =
      s.chip.pairId ∧ byteAt l 2 ≠ s.chip.sideCode ∧ base = 256 * (leAt l 4 4 % 4) ∧ ents = (List.range (leAt l 8 2)).map
      (fun i =>
      { chunk := leAt l (1040 + 12 * i) 4, cstate := byteAt l (1044 + 12 * i), crc := leAt l (1048 + 12 * i) 4, at_ := s.chip.now, sent := true, matched := false })
      ∧ c = Chip.onTwin { s.chip with twinIn := s.chip.twinIn.erase x } (fun t =>
      { t with peer := t.peer ++ ents, peerHist := (List.range 256).foldl (fun m i => histAdd s.chip.cmpWin m (base + i) (leAt l (16 + 4 * i) 4 % 2 ^ 31, bit (leAt l (16 + 4 * i) 4) 31)) t.peerHist })
      ∧ d = c.each s.chip.twin.own (fun c e => c.digestMatch e)) ∧
    (∃ (p : Nat) (da : Nat) (db : Nat) (a : List (Nat × Bool)) (b : List (Nat × Bool)) (c : Chip), a = SMap.getD
      c.twin.ownHist p [] ∧ b = SMap.getD c.twin.peerHist p [] ∧ da = histRise a ∧ db = histRise b ∧ a.length = c.cmpWin ∧
      b.length = c.cmpWin ∧ (∀ x ∈ a ++ b, x.2 = false) ∧ fld (c.reg (twn 0x114)) 15 0 + max da db / 2 ^ fld (c.reg (twn
      0x114)) 27 24 < max da db - min da db) ∧
    (∃ (p : Nat) (da : Nat) (db : Nat) (a : List (Nat × Bool)) (b : List (Nat × Bool)) (c : Chip), a = SMap.getD
      c.twin.ownHist p [] ∧ b = SMap.getD c.twin.peerHist p [] ∧ da = histRise a ∧ db = histRise b ∧ (a.length ≠ c.cmpWin ∨
      b.length ≠ c.cmpWin ∨ (∃ x ∈ a ++ b, x.2 = true) ∨ max da db - min da db ≤ fld (c.reg (twn 0x114)) 15 0 + max da db /
      2 ^ fld (c.reg (twn 0x114)) 27 24)) ∧
    (∃ (p : Nat) (da : Nat) (db : Nat) (a : List (Nat × Bool)) (b : List (Nat × Bool)) (c : Chip), a = SMap.getD
      c.twin.ownHist p [] ∧ b = SMap.getD c.twin.peerHist p [] ∧ da = histRise a ∧ db = histRise b ∧ (a.length ≠ c.cmpWin ∨
      b.length ≠ c.cmpWin ∨ (∃ x ∈ a ++ b, x.2 = true) ∨ max da db - min da db ≤ fld (c.reg (twn 0x114)) 15 0 + max da db /
      2 ^ fld (c.reg (twn 0x114)) 27 24)) ∧
    (∃ (e : DigEnt) (c : Chip), (e.matched = true ∨ e.at_ + c.digestHold < c.now ∨ c.twin.peer.find? (fun p => !p.matched &&
      p.same e && decide (c.now ≤ p.at_ + c.digestHold)) = none)) ∧
    (∃ (e : DigEnt) (c : Chip), (e.matched = true ∨ e.at_ + c.digestHold < c.now ∨ c.twin.peer.find? (fun p => !p.matched &&
      p.same e && decide (c.now ≤ p.at_ + c.digestHold)) = none)) ∧
    (∃ (e : DigEnt) (p : DigEnt) (c : Chip), c.now ≤ e.at_ + c.digestHold ∧ e.matched = false ∧ c.twin.peer.find? (fun p =>
      !p.matched && p.same e && decide (c.now ≤ p.at_ + c.digestHold)) = some p ∧ e.crc = p.crc ∧ bit e.cstate 2 = bit
      p.cstate 2) ∧
    (∃ (e : DigEnt) (p : DigEnt) (c : Chip), c.now ≤ e.at_ + c.digestHold ∧ e.matched = false ∧ c.twin.peer.find? (fun p =>
      !p.matched && p.same e && decide (c.now ≤ p.at_ + c.digestHold)) = some p ∧ (e.crc ≠ p.crc ∨ bit e.cstate 2 ≠ bit
      p.cstate 2)) ∧
    (∃ (e : DigEnt) (p : DigEnt) (c : Chip), c.now ≤ e.at_ + c.digestHold ∧ e.matched = false ∧ c.twin.peer.find? (fun p =>
      !p.matched && p.same e && decide (c.now ≤ p.at_ + c.digestHold)) = some p ∧ (e.crc ≠ p.crc ∨ bit e.cstate 2 ≠ bit
      p.cstate 2)) ∧
    (∃ (e : DigEnt) (tl : List DigEnt) (s : State), (s.chip.twin.own = e :: tl ∧ ∀ k ∈ tl ++ s.chip.twin.peer, e.at_ ≤
      k.at_) ∨ (s.chip.twin.own = [] ∧ s.chip.twin.peer = e :: tl ∧ ∀ k ∈ tl, e.at_ ≤ k.at_)) ∧
    (∃ (e : DigEnt) (tl : List DigEnt) (s : State), (s.chip.twin.own = e :: tl ∧ ∀ k ∈ tl ++ s.chip.twin.peer, e.at_ ≤
      k.at_) ∨ (s.chip.twin.own = [] ∧ s.chip.twin.peer = e :: tl ∧ ∀ k ∈ tl, e.at_ ≤ k.at_)) ∧
    (∃ (at_ : Nat) (s : State), s.chip.twin.fenceAt = some at_ ∧ s.chip.twinOn = true ∧ (s.chip.twin.role = 1 ∨
      s.chip.twin.role = 2)) ∧
    (∃ (at_ : Nat) (c : Chip) (s : State), s.chip.twin.fencedAt = some at_ ∧ (c = s.chip.onTwin (fun t =>
      { t with fencedAt := none }) ∧ (∀ o ∈ s.chip.c0Out, o.hdr.op ≠ 0x1A) ∧ (∀ k ∈ s.chip.pkts, k.hdr.op ≠ 0x1A ∨ k.origin
      ≠ .ctl)) ∨ (c = (s.chip.till (at_ + 2000)).onTwin (fun t => { t with fencedAt := none }) ∧ ((∃ o ∈ s.chip.c0Out,
      o.hdr.op = 0x1A) ∨ ∃ k ∈ s.chip.pkts, k.hdr.op = 0x1A ∧ k.origin = .ctl))) ∧
    (∃ (at_ : Nat) (c : Chip) (s : State), s.chip.twin.fencedAt = some at_ ∧ (c = s.chip.onTwin (fun t =>
      { t with fencedAt := none }) ∧ (∀ o ∈ s.chip.c0Out, o.hdr.op ≠ 0x1A) ∧ (∀ k ∈ s.chip.pkts, k.hdr.op ≠ 0x1A ∨ k.origin
      ≠ .ctl)) ∨ (c = (s.chip.till (at_ + 2000)).onTwin (fun t => { t with fencedAt := none }) ∧ ((∃ o ∈ s.chip.c0Out,
      o.hdr.op = 0x1A) ∨ ∃ k ∈ s.chip.pkts, k.hdr.op = 0x1A ∧ k.origin = .ctl))) :=
  ⟨ (let s : State := mkS (fun c => (twn0 2 c).onTwin (fun t => { t with own := [{ chunk := 5, cstate := 4, crc := 7, at_ := 0, sent := false, matched := false }] }))
     ⟨s, by decide +kernel +zetaReduce⟩),
    (let s : State := mkS (fun c => (twn0 2 c).onTwin (fun t => { t with own := List.replicate 600 { chunk := 5, cstate := 4, crc := 7, at_ := 0, sent := false, matched := false }, digestSeq := 4294967295 }))
     ⟨s, by decide +kernel +zetaReduce⟩),
    (let x : Nat × Arr := tw 0x31 (leBytes 2 0x77 ++ leBytes 1 1 ++ leBytes 5 0 ++ leBytes 2 3 ++ leBytes 6 0 ++ leBytes 1024 0 ++ leBytes 36 5)
     let s : State := mkS (fun c => { (twn0 2 c) with twinIn := [tw 0x31 (leBytes 2 0x77 ++ leBytes 1 1 ++ leBytes 5 0 ++ leBytes 2 3 ++ leBytes 6 0 ++ leBytes 1024 0 ++ leBytes 36 5)] })
     let l : List Byte := x.2.payload; let base : Nat := 256 * (leAt l 4 4 % 4)
     let ents : List DigEnt := (List.range (leAt l 8 2)).map (fun i => { chunk := leAt l (1040 + 12 * i) 4, cstate := byteAt l (1044 + 12 * i), crc := leAt l (1048 + 12 * i) 4, at_ := s.chip.now, sent := true, matched := false })
     let c : Chip := Chip.onTwin { s.chip with twinIn := s.chip.twinIn.erase x } (fun t => { t with peer := t.peer ++ ents, peerHist := (List.range 256).foldl (fun m i => histAdd s.chip.cmpWin m (base + i) (leAt l (16 + 4 * i) 4 % 2 ^ 31, bit (leAt l (16 + 4 * i) 4) 31)) t.peerHist })
     let d : Chip := c.each s.chip.twin.own (fun c e => c.digestMatch e)
     ⟨x, l, base, ents, c, d, s, by decide +kernel +zetaReduce⟩),
    (let x : Nat × Arr := tw 0x31 (leBytes 2 0x77 ++ leBytes 1 1 ++ leBytes 5 0 ++ leBytes 2 0 ++ leBytes 6 0 ++ leBytes 1024 0 ++ leBytes 0 5)
     let s : State := mkS (fun c => { (twn0 1 c) with twinIn := [tw 0x31 (leBytes 2 0x77 ++ leBytes 1 1 ++ leBytes 5 0 ++ leBytes 2 0 ++ leBytes 6 0 ++ leBytes 1024 0 ++ leBytes 0 5)] })
     let l : List Byte := x.2.payload; let base : Nat := 256 * (leAt l 4 4 % 4)
     let ents : List DigEnt := (List.range (leAt l 8 2)).map (fun i => { chunk := leAt l (1040 + 12 * i) 4, cstate := byteAt l (1044 + 12 * i), crc := leAt l (1048 + 12 * i) 4, at_ := s.chip.now, sent := true, matched := false })
     let c : Chip := Chip.onTwin { s.chip with twinIn := s.chip.twinIn.erase x } (fun t => { t with peer := t.peer ++ ents, peerHist := (List.range 256).foldl (fun m i => histAdd s.chip.cmpWin m (base + i) (leAt l (16 + 4 * i) 4 % 2 ^ 31, bit (leAt l (16 + 4 * i) 4) 31)) t.peerHist })
     let d : Chip := c.each s.chip.twin.own (fun c e => c.digestMatch e)
     ⟨x, l, base, ents, c, d, s, by decide +kernel +zetaReduce⟩),
    (let p : Nat := 1023
     let c : Chip := (twn0 2 Chip.reset).onTwin (fun t => { t with ownHist := [(1023, (List.range Chip.reset.cmpWin).map (fun i => (100000 * i, false)))], peerHist := [(1023, (List.range Chip.reset.cmpWin).map (fun i => (0, false)))] })
     let a : List (Nat × Bool) := SMap.getD c.twin.ownHist p []
     let b : List (Nat × Bool) := SMap.getD c.twin.peerHist p []; let da : Nat := histRise a; let db : Nat := histRise b
     ⟨p, da, db, a, b, c, by decide +kernel +zetaReduce⟩),
    (let p : Nat := 3; let c : Chip := Chip.reset; let a : List (Nat × Bool) := SMap.getD c.twin.ownHist p []
     let b : List (Nat × Bool) := SMap.getD c.twin.peerHist p []; let da : Nat := histRise a; let db : Nat := histRise b
     ⟨p, da, db, a, b, c, by decide +kernel +zetaReduce⟩),
    (let p : Nat := 3
     let c : Chip := (twn0 2 Chip.reset).onTwin (fun t => { t with ownHist := [(3, (List.range Chip.reset.cmpWin).map (fun i => (i, false)))], peerHist := [(3, (List.range Chip.reset.cmpWin).map (fun i => (i, false)))] })
     let a : List (Nat × Bool) := SMap.getD c.twin.ownHist p []
     let b : List (Nat × Bool) := SMap.getD c.twin.peerHist p []; let da : Nat := histRise a; let db : Nat := histRise b
     ⟨p, da, db, a, b, c, by decide +kernel +zetaReduce⟩),
    (let e : DigEnt := { chunk := 5, cstate := 4, crc := 7, at_ := 0, sent := true, matched := false }
     let c : Chip := ((twn0 2 Chip.reset).onTwin (fun t => { t with own := [{ chunk := 5, cstate := 4, crc := 7, at_ := 0, sent := true, matched := false }], peer := [] }))
     ⟨e, c, by decide +kernel +zetaReduce⟩),
    (let e : DigEnt := { chunk := 5, cstate := 4, crc := 7, at_ := 0, sent := true, matched := true }
     let c : Chip := ((twn0 2 Chip.reset).onTwin (fun t => { t with own := [{ chunk := 5, cstate := 4, crc := 7, at_ := 0, sent := true, matched := true }], peer := [{ chunk := 5, cstate := 4, crc := 7, at_ := 0, sent := true, matched := false }] }))
     ⟨e, c, by decide +kernel +zetaReduce⟩),
    (let e : DigEnt := { chunk := 5, cstate := 4, crc := 7, at_ := 0, sent := true, matched := false }
     let p : DigEnt := { chunk := 5, cstate := 4, crc := 7, at_ := 0, sent := true, matched := false }
     let c : Chip := ((twn0 2 Chip.reset).onTwin (fun t => { t with own := [{ chunk := 5, cstate := 4, crc := 7, at_ := 0, sent := true, matched := false }], peer := [{ chunk := 5, cstate := 4, crc := 7, at_ := 0, sent := true, matched := false }] }))
     ⟨e, p, c, by decide +kernel +zetaReduce⟩),
    (let e : DigEnt := { chunk := 5, cstate := 4, crc := 7, at_ := 0, sent := true, matched := false }
     let p : DigEnt := { chunk := 5, cstate := 4, crc := 8, at_ := 0, sent := true, matched := false }
     let c : Chip := ((twn0 2 Chip.reset).onTwin (fun t => { t with own := [{ chunk := 5, cstate := 4, crc := 7, at_ := 0, sent := true, matched := false }], peer := [{ chunk := 5, cstate := 4, crc := 8, at_ := 0, sent := true, matched := false }] }))
     ⟨e, p, c, by decide +kernel +zetaReduce⟩),
    (let e : DigEnt := { chunk := 5, cstate := 4, crc := 7, at_ := 0, sent := true, matched := false }
     let p : DigEnt := { chunk := 5, cstate := 0, crc := 7, at_ := 0, sent := true, matched := false }
     let c : Chip := ((twn0 2 Chip.reset).onTwin (fun t => { t with own := [{ chunk := 5, cstate := 4, crc := 7, at_ := 0, sent := true, matched := false }], peer := [{ chunk := 5, cstate := 0, crc := 7, at_ := 0, sent := true, matched := false }] }))
     ⟨e, p, c, by decide +kernel +zetaReduce⟩),
    (let e : DigEnt := { chunk := 5, cstate := 4, crc := 7, at_ := 0, sent := true, matched := false }
     let tl : List DigEnt := []
     let s : State := mkS (fun c => (twn0 2 c).onTwin (fun t => { t with own := [{ chunk := 5, cstate := 4, crc := 7, at_ := 0, sent := true, matched := false }] }))
     ⟨e, tl, s, by decide +kernel +zetaReduce⟩),
    (let e : DigEnt := { chunk := 5, cstate := 4, crc := 7, at_ := 0, sent := false, matched := true }
     let tl : List DigEnt := [{ chunk := 5, cstate := 4, crc := 7, at_ := 7, sent := true, matched := false }]
     let s : State := mkS (fun c => (twn0 2 c).onTwin (fun t => { t with peer := [{ chunk := 5, cstate := 4, crc := 7, at_ := 0, sent := false, matched := true }, { chunk := 5, cstate := 4, crc := 7, at_ := 7, sent := true, matched := false }] }))
     ⟨e, tl, s, by decide +kernel +zetaReduce⟩),
    (let at_ : Nat := 50; let s : State := mkS (fun c => (twn0 2 c).onTwin (fun t => { t with fenceAt := some 50 }))
     ⟨at_, s, by decide +kernel +zetaReduce⟩),
    (let at_ : Nat := 50
     let s : State := mkS (fun c => (((twn0 4 c).onTwin (fun t => { t with fencedAt := some 50 })).setReg (pegOutReg 4) 0xFFFFFFFF))
     let c : Chip := s.chip.onTwin (fun t => { t with fencedAt := none }); ⟨at_, c, s, by decide +kernel +zetaReduce⟩),
    (let at_ : Nat := 50
     let s : State := mkS (fun c => { (upP 1023 { st := .active } ((twn0 4 c).onTwin (fun t => { t with fencedAt := some 50 }))).setReg (lnkReg 1023 0x100) 1 with pkts := [{ pk0 with hdr := { uni with op := 0x1A }, origin := .ctl }] })
     let c : Chip := (s.chip.till (50 + 2000)).onTwin (fun t => { t with fencedAt := none })
     ⟨at_, c, s, by decide +kernel +zetaReduce⟩)⟩

/-- States and operands that meet the hypotheses of `Obligations.Resynchronisation`, clause by clause. -/
theorem witness_Resynchronisation :
    (∃ (x : Nat × Arr) (c : Chip) (s : State), s.chip.twinFront 0x32 = some x ∧ s.chip.twinOn = true ∧ s.chip.isTwinLink
      x.2.port = true ∧ leAt x.2.payload 0 2 = s.chip.pairId ∧ s.chip.twin.role = 3 ∧ c = Chip.onTwin
      { s.chip with twinIn := s.chip.twinIn.erase x } (fun t => { t with rsAt := s.chip.now }) ∧ byteAt x.2.payload 2 = 1) ∧
    (∃ (x : Nat × Arr) (c : Chip) (s : State), s.chip.twinFront 0x32 = some x ∧ s.chip.twinOn = true ∧ s.chip.isTwinLink
      x.2.port = true ∧ leAt x.2.payload 0 2 = s.chip.pairId ∧ s.chip.twin.role = 3 ∧ c = Chip.onTwin
      { s.chip with twinIn := s.chip.twinIn.erase x } (fun t => { t with rsAt := s.chip.now }) ∧ byteAt x.2.payload 2 = 2) ∧
    (∃ (x : Nat × Arr) (c : Chip) (s : State), s.chip.twinFront 0x32 = some x ∧ s.chip.twinOn = true ∧ s.chip.isTwinLink
      x.2.port = true ∧ leAt x.2.payload 0 2 = s.chip.pairId ∧ s.chip.twin.role = 3 ∧ c = Chip.onTwin
      { s.chip with twinIn := s.chip.twinIn.erase x } (fun t => { t with rsAt := s.chip.now }) ∧ byteAt x.2.payload 2 = 3 ∧
      leAt x.2.payload 4 4 = s.chip.twin.rsCount) ∧
    (∃ (x : Nat × Arr) (c : Chip) (s : State), s.chip.twinFront 0x32 = some x ∧ s.chip.twinOn = true ∧ s.chip.isTwinLink
      x.2.port = true ∧ leAt x.2.payload 0 2 = s.chip.pairId ∧ s.chip.twin.role = 3 ∧ c = Chip.onTwin
      { s.chip with twinIn := s.chip.twinIn.erase x } (fun t => { t with rsAt := s.chip.now }) ∧ byteAt x.2.payload 2 = 3 ∧
      leAt x.2.payload 4 4 ≠ s.chip.twin.rsCount) ∧
    (∃ (s : State), s.chip.twinOn = true ∧ s.chip.twin.role = 3) ∧
    (∃ (c : Chip) (s : State), s.chip.twinOn = true ∧ s.chip.twin.txOn = true ∧ s.chip.twin.txTail = none ∧ c =
      s.chip.rsSend s.chip.rsFloorRecs) ∧
    (∃ (k : Fin 96) (c : Chip), (c.ctx k.val).st = 1) ∧
    (∃ (at_ : Nat) (s : State), s.chip.twin.txTail = some at_ ∧ s.chip.twin.txOn = true) :=
  ⟨ (let x : Nat × Arr := tw 0x32 (leBytes 2 0x77 ++ leBytes 1 1 ++ leBytes 1 0 ++ leBytes 4 0 ++ leBytes 8 0)
     let s : State := mkS (fun c => { (twn0 3 c) with twinIn := [tw 0x32 (leBytes 2 0x77 ++ leBytes 1 1 ++ leBytes 1 0 ++ leBytes 4 0 ++ leBytes 8 0)] })
     let c : Chip := Chip.onTwin { s.chip with twinIn := s.chip.twinIn.erase x } (fun t => { t with rsAt := s.chip.now })
     ⟨x, c, s, by decide +kernel +zetaReduce⟩),
    (let x : Nat × Arr := tw 0x32 (leBytes 2 0x77 ++ leBytes 1 2 ++ leBytes 1 0 ++ leBytes 4 0 ++ leBytes 8 0 ++ tblRec 0 true 3 [5])
     let s : State := mkS (fun c => { (twn0 3 c) with twinIn := [tw 0x32 (leBytes 2 0x77 ++ leBytes 1 2 ++ leBytes 1 0 ++ leBytes 4 0 ++ leBytes 8 0 ++ tblRec 0 true 3 [5])] })
     let c : Chip := Chip.onTwin { s.chip with twinIn := s.chip.twinIn.erase x } (fun t => { t with rsAt := s.chip.now })
     ⟨x, c, s, by decide +kernel +zetaReduce⟩),
    (let x : Nat × Arr := tw 0x32 (leBytes 2 0x77 ++ leBytes 1 3 ++ leBytes 1 0 ++ leBytes 4 7 ++ leBytes 8 0)
     let s : State := mkS (fun c => { ((twn0 3 c).onTwin (fun t => { t with rsCount := 7 })) with twinIn := [tw 0x32 (leBytes 2 0x77 ++ leBytes 1 3 ++ leBytes 1 0 ++ leBytes 4 7 ++ leBytes 8 0)] })
     let c : Chip := Chip.onTwin { s.chip with twinIn := s.chip.twinIn.erase x } (fun t => { t with rsAt := s.chip.now })
     ⟨x, c, s, by decide +kernel +zetaReduce⟩),
    (let x : Nat × Arr := tw 0x32 (leBytes 2 0x77 ++ leBytes 1 3 ++ leBytes 1 0 ++ leBytes 4 6 ++ leBytes 8 0)
     let s : State := mkS (fun c => { ((twn0 3 c).onTwin (fun t => { t with rsCount := 7 })) with twinIn := [tw 0x32 (leBytes 2 0x77 ++ leBytes 1 3 ++ leBytes 1 0 ++ leBytes 4 6 ++ leBytes 8 0)] })
     let c : Chip := Chip.onTwin { s.chip with twinIn := s.chip.twinIn.erase x } (fun t => { t with rsAt := s.chip.now })
     ⟨x, c, s, by decide +kernel +zetaReduce⟩),
    (let s : State := mkS (fun c => twn0 3 c); ⟨s, by decide +kernel +zetaReduce⟩),
    (let s : State := mkS (fun c => (twn0 2 c).onTwin (fun t => { t with txOn := true, txCount := 5 }))
     let c : Chip := s.chip.rsSend s.chip.rsFloorRecs; ⟨c, s, by decide +kernel +zetaReduce⟩),
    (let k : Fin 96 := 95; let c : Chip := Chip.reset.onCtx 95 (fun x => { x with st := 1 })
     ⟨k, c, by decide +kernel +zetaReduce⟩),
    (let at_ : Nat := 4
     let s : State := mkS (fun c => (twn0 2 c).onTwin (fun t => { t with txOn := true, txTail := some 4 }))
     ⟨at_, s, by decide +kernel +zetaReduce⟩)⟩

/-- States and operands that meet the hypotheses of `Obligations.ResyncWritesEveryQuadrant`, clause by clause. -/
theorem witness_ResyncWritesEveryQuadrant :
    (∃ (blk : Nat) (t : Nat) (idx : Nat) (k : Nat), blk ≤ 3 ∧ t ≤ 15 ∧ tblOf (0x40 + blk) t = some k ∧ idx < tblSize k) ∧
    (∃ (blk : Nat) (t : Nat) (idx : Nat) (k : Nat), blk ≤ 3 ∧ t ≤ 15 ∧ tblOf (0x40 + blk) t = some k ∧ idx < tblSize k) ∧
    (∃ (blk : Nat) (t : Nat) (idx : Nat) (k : Nat), blk ≤ 3 ∧ t ≤ 15 ∧ tblOf (0x40 + blk) t = some k ∧ idx < tblSize k) ∧
    (∃ (blk : Nat) (t : Nat) (idx : Nat) (k : Nat), blk ≤ 3 ∧ t ≤ 15 ∧ tblOf (0x40 + blk) t = some k ∧ idx < tblSize k) ∧
    (∃ (blk : Nat) (t : Nat) (idx : Nat) (k : Nat), blk ≤ 3 ∧ t ≤ 15 ∧ tblOf (0x40 + blk) t = some k ∧ idx < tblSize k) :=
  ⟨ (let blk : Nat := 0; let t : Nat := 0; let idx : Nat := tblSize ((tblOf (0x40 + 0) 0).getD 0) - 1
     let k : Nat := (tblOf (0x40 + blk) t).get (by decide +kernel); ⟨blk, t, idx, k, by decide +kernel +zetaReduce⟩),
    (let blk : Nat := 0; let t : Nat := 1; let idx : Nat := tblSize ((tblOf (0x40 + 0) 1).getD 0) - 1
     let k : Nat := (tblOf (0x40 + blk) t).get (by decide +kernel); ⟨blk, t, idx, k, by decide +kernel +zetaReduce⟩),
    (let blk : Nat := 1; let t : Nat := 1; let idx : Nat := tblSize ((tblOf (0x40 + 1) 1).getD 0) - 1
     let k : Nat := (tblOf (0x40 + blk) t).get (by decide +kernel); ⟨blk, t, idx, k, by decide +kernel +zetaReduce⟩),
    (let blk : Nat := 2; let t : Nat := 1; let idx : Nat := tblSize ((tblOf (0x40 + 2) 1).getD 0) - 1
     let k : Nat := (tblOf (0x40 + blk) t).get (by decide +kernel); ⟨blk, t, idx, k, by decide +kernel +zetaReduce⟩),
    (let blk : Nat := 3; let t : Nat := 0; let idx : Nat := tblSize ((tblOf (0x40 + 3) 0).getD 0) - 1
     let k : Nat := (tblOf (0x40 + blk) t).get (by decide +kernel); ⟨blk, t, idx, k, by decide +kernel +zetaReduce⟩)⟩

/-- States and operands that meet the hypotheses of `Obligations.CongestionAndCounters`, clause by clause. -/
theorem witness_CongestionAndCounters :
    (∃ (q : Fin 4) (c : Chip) (s : State), s.chip.isOn q.val 0x48 = true ∧ c = s.chip.restall.tick (16 + q.val) 1000) ∧
    (∃ (q : Fin 4) (i : Nat) (c : Chip), i < 260 ∧ c.level q.val i ≤ 255) ∧
    (∃ (q : Fin 4) (i : Nat) (c : Chip), i < 260 ∧ c.level q.val i ≤ 255) ∧
    (∃ (stalled : Nat) (len : Nat), 0 < len ∧ stalled ≤ len) ∧
    (∃ (stalled : Nat) (len : Nat), 0 < len ∧ stalled ≤ len) ∧
    (∃ (stalled : Nat) (len : Nat), 0 < len ∧ stalled ≤ len ∧ 16 * stalled < 16 * len) ∧
    (∃ (ns : Nat) (len : Nat), ns ≤ len) ∧
    (∃ (ns : Nat) (len : Nat), ns ≤ len) ∧
    (∃ (ns : Nat) (len : Nat) (n : Nat), ns ≤ len ∧ 0 < len ∧ n = len) ∧
    (∃ (u : Nat) (depth : Nat), 0 < occLevel u depth) ∧
    (∃ (u : Nat) (depth : Nat), 0 < occLevel u depth) ∧
    (∃ (u : Nat) (depth : Nat), 0 < occLevel u depth) ∧
    (∃ (s : State), s.chip.isOn 24 0x48 = true) ∧
    (∃ (e : WinEnd) (c : Chip) (s : State), s.chip.tele.winEnd = some e ∧ c = s.chip.onTele (fun t =>
      { t with winEnd := none }) ∧ s.chip.regBit (cgmC 0x100) 31 = true ∧ fld (s.chip.reg (cgmC 0x104)) 15 0 ≠ 0xFFFF ∧
      s.chip.regBit (ctlR 0x108) 4 = true ∧ s.chip.isOn 24 0x48 = true ∧ s.chip.suppressed = false ∧ s.chip.policy 4 = true) ∧
    (∃ (e : WinEnd) (c : Chip) (s : State), s.chip.tele.winEnd = some e ∧ c = s.chip.onTele (fun t =>
      { t with winEnd := none }) ∧ s.chip.regBit (cgmC 0x100) 31 = true ∧ fld (s.chip.reg (cgmC 0x104)) 15 0 ≠ 0xFFFF ∧
      s.chip.regBit (ctlR 0x108) 4 = true ∧ s.chip.isOn 24 0x48 = true ∧ (s.chip.suppressed = true ∨ s.chip.policy 4 =
      false)) ∧
    (∃ (e : WinEnd) (s : State), s.chip.tele.winEnd = some e ∧ (s.chip.regBit (cgmC 0x100) 31 = false ∨ fld (s.chip.reg
      (cgmC 0x104)) 15 0 = 0xFFFF ∨ s.chip.regBit (ctlR 0x108) 4 = false ∨ s.chip.isOn 24 0x48 = false)) ∧
    (∃ (dom : Dom) (die : Nat) (i : Nat) (k : Nat) (m : Nat) (addr : Word) (val : Word) (s : State), pageOf die (0x60 + i) =
      some (.pmc, i) ∧ k < pmcCount die i ∧ addr.toNat = regAddr die (0x60 + i) (0x200 + 4 * k) ∧ MayWrite s.chip dom die
      (0x60 + i) (0x200 + 4 * k) val.toNat ∧ evtQuals (fld val.toNat 15 0) = some m ∧ (fld val.toNat 15 0 / 4096 = 0 ∨ fld
      val.toNat 15 0 / 4096 = pmcClass die i) ∧ (m = 0 ∨ fld val.toNat 31 16 &&& m = fld val.toNat 31 16)) ∧
    (∃ (dom : Dom) (die : Nat) (i : Nat) (k : Nat) (m : Nat) (addr : Word) (val : Word) (s : State), pageOf die (0x60 + i) =
      some (.pmc, i) ∧ k < pmcCount die i ∧ addr.toNat = regAddr die (0x60 + i) (0x200 + 4 * k) ∧ MayWrite s.chip dom die
      (0x60 + i) (0x200 + 4 * k) val.toNat ∧ evtQuals (fld val.toNat 15 0) = some m ∧ (fld val.toNat 15 0 / 4096 = 0 ∨ fld
      val.toNat 15 0 / 4096 = pmcClass die i) ∧ (m = 0 ∨ fld val.toNat 31 16 &&& m = fld val.toNat 31 16)) ∧
    (∃ (dom : Dom) (die : Nat) (i : Nat) (k : Nat) (m : Nat) (addr : Word) (val : Word) (s : State), pageOf die (0x60 + i) =
      some (.pmc, i) ∧ k < pmcCount die i ∧ addr.toNat = regAddr die (0x60 + i) (0x200 + 4 * k) ∧ MayWrite s.chip dom die
      (0x60 + i) (0x200 + 4 * k) val.toNat ∧ evtQuals (fld val.toNat 15 0) = some m ∧ (fld val.toNat 15 0 / 4096 = 0 ∨ fld
      val.toNat 15 0 / 4096 = pmcClass die i) ∧ (m = 0 ∨ fld val.toNat 31 16 &&& m = fld val.toNat 31 16)) ∧
    (∃ (dom : Dom) (die : Nat) (i : Nat) (k : Nat) (m : Nat) (addr : Word) (val : Word) (s : State), pageOf die (0x60 + i) =
      some (.pmc, i) ∧ k < pmcCount die i ∧ addr.toNat = regAddr die (0x60 + i) (0x200 + 4 * k) ∧ MayWrite s.chip dom die
      (0x60 + i) (0x200 + 4 * k) val.toNat ∧ evtQuals (fld val.toNat 15 0) = some m ∧ (fld val.toNat 15 0 / 4096 = 0 ∨ fld
      val.toNat 15 0 / 4096 = pmcClass die i) ∧ (m = 0 ∨ fld val.toNat 31 16 &&& m = fld val.toNat 31 16)) ∧
    (∃ (dom : Dom) (die : Nat) (i : Nat) (k : Nat) (m : Nat) (addr : Word) (val : Word) (s : State), pageOf die (0x60 + i) =
      some (.pmc, i) ∧ k < pmcCount die i ∧ addr.toNat = regAddr die (0x60 + i) (0x200 + 4 * k) ∧ MayWrite s.chip dom die
      (0x60 + i) (0x200 + 4 * k) val.toNat ∧ evtQuals (fld val.toNat 15 0) = some m ∧ (fld val.toNat 15 0 / 4096 = 0 ∨ fld
      val.toNat 15 0 / 4096 = pmcClass die i) ∧ (m = 0 ∨ fld val.toNat 31 16 &&& m = fld val.toNat 31 16)) ∧
    (∃ (dom : Dom) (die : Nat) (i : Nat) (k : Nat) (m : Nat) (addr : Word) (val : Word) (s : State), pageOf die (0x60 + i) =
      some (.pmc, i) ∧ k < pmcCount die i ∧ addr.toNat = regAddr die (0x60 + i) (0x200 + 4 * k) ∧ MayWrite s.chip dom die
      (0x60 + i) (0x200 + 4 * k) val.toNat ∧ evtQuals (fld val.toNat 15 0) = some m ∧ fld val.toNat 15 0 / 4096 ≠ 0 ∧ fld
      val.toNat 15 0 / 4096 ≠ pmcClass die i) ∧
    (∃ (dom : Dom) (die : Nat) (i : Nat) (k : Nat) (m : Nat) (addr : Word) (val : Word) (s : State), pageOf die (0x60 + i) =
      some (.pmc, i) ∧ k < pmcCount die i ∧ addr.toNat = regAddr die (0x60 + i) (0x200 + 4 * k) ∧ MayWrite s.chip dom die
      (0x60 + i) (0x200 + 4 * k) val.toNat ∧ evtQuals (fld val.toNat 15 0) = some m ∧ fld val.toNat 15 0 / 4096 ≠ 0 ∧ fld
      val.toNat 15 0 / 4096 ≠ pmcClass die i) ∧
    (∃ (dom : Dom) (die : Nat) (i : Nat) (k : Nat) (addr : Word) (val : Word) (s : State), pageOf die (0x60 + i) = some
      (.pmc, i) ∧ k < pmcCount die i ∧ addr.toNat = regAddr die (0x60 + i) (0x400 + 4 * k) ∧ val.toNat &&& 0xF7 = val.toNat
      ∧ MayWrite s.chip dom die (0x60 + i) (0x400 + 4 * k) val.toNat ∧ (bit val.toNat 2 = false ∨ k % 2 = 1)) ∧
    (∃ (dom : Dom) (die : Nat) (i : Nat) (k : Nat) (addr : Word) (val : Word) (s : State), pageOf die (0x60 + i) = some
      (.pmc, i) ∧ k < pmcCount die i ∧ addr.toNat = regAddr die (0x60 + i) (0x400 + 4 * k) ∧ val.toNat &&& 0xF7 = val.toNat
      ∧ MayWrite s.chip dom die (0x60 + i) (0x400 + 4 * k) val.toNat ∧ (bit val.toNat 2 = false ∨ k % 2 = 1)) ∧
    (∃ (dom : Dom) (die : Nat) (i : Nat) (k : Nat) (addr : Word) (val : Word) (s : State), pageOf die (0x60 + i) = some
      (.pmc, i) ∧ k < pmcCount die i ∧ addr.toNat = regAddr die (0x60 + i) (0x400 + 4 * k) ∧ val.toNat &&& 0xF7 = val.toNat
      ∧ MayWrite s.chip dom die (0x60 + i) (0x400 + 4 * k) val.toNat ∧ k % 2 = 0 ∧ bit val.toNat 2 = true) ∧
    (∃ (dom : Dom) (die : Nat) (i : Nat) (k : Nat) (addr : Word) (val : Word) (s : State), pageOf die (0x60 + i) = some
      (.pmc, i) ∧ k < pmcCount die i ∧ addr.toNat = regAddr die (0x60 + i) (0x400 + 4 * k) ∧ val.toNat &&& 0xF7 = val.toNat
      ∧ MayWrite s.chip dom die (0x60 + i) (0x400 + 4 * k) val.toNat ∧ k % 2 = 0 ∧ bit val.toNat 2 = true) ∧
    (∃ (dom : Dom) (die : Nat) (i : Nat) (k : Nat) (addr : Word) (val : Word) (s : State), pageOf die (0x60 + i) = some
      (.pmc, i) ∧ k < pmcCount die i ∧ addr.toNat = regAddr die (0x60 + i) (0x800 + 8 * k) ∧ MayWrite s.chip dom die (0x60 +
      i) (0x800 + 8 * k) val.toNat ∧ s.chip.regBit (regAddr die (0x60 + i) (0x400 + 4 * k)) 0 = false) ∧
    (∃ (dom : Dom) (die : Nat) (i : Nat) (k : Nat) (addr : Word) (val : Word) (s : State), pageOf die (0x60 + i) = some
      (.pmc, i) ∧ k < pmcCount die i ∧ addr.toNat = regAddr die (0x60 + i) (0x800 + 8 * k) ∧ MayWrite s.chip dom die (0x60 +
      i) (0x800 + 8 * k) val.toNat ∧ s.chip.regBit (regAddr die (0x60 + i) (0x400 + 4 * k)) 0 = false) ∧
    (∃ (dom : Dom) (die : Nat) (i : Nat) (k : Nat) (addr : Word) (val : Word) (s : State), pageOf die (0x60 + i) = some
      (.pmc, i) ∧ k < pmcCount die i ∧ addr.toNat = regAddr die (0x60 + i) (0x800 + 8 * k) ∧ MayWrite s.chip dom die (0x60 +
      i) (0x800 + 8 * k) val.toNat ∧ s.chip.regBit (regAddr die (0x60 + i) (0x400 + 4 * k)) 0 = true) ∧
    (∃ (dom : Dom) (die : Nat) (i : Nat) (k : Nat) (addr : Word) (val : Word) (s : State), pageOf die (0x60 + i) = some
      (.pmc, i) ∧ k < pmcCount die i ∧ addr.toNat = regAddr die (0x60 + i) (0x800 + 8 * k) ∧ MayWrite s.chip dom die (0x60 +
      i) (0x800 + 8 * k) val.toNat ∧ s.chip.regBit (regAddr die (0x60 + i) (0x400 + 4 * k)) 0 = true) ∧
    (∃ (dom : Dom) (die : Nat) (i : Nat) (page : Word) (s : State), pageOf die (0x60 + i) = some (.pmc, i) ∧ page.toNat =
      regAddr die (0x60 + i) 0 ∧ s.chip.isOn die (0x60 + i) = true ∧ MayWrite s.chip dom die (0x60 + i) 0x100 1) ∧
    (∃ (dom : Dom) (die : Nat) (i : Nat) (page : Word) (s : State), pageOf die (0x60 + i) = some (.pmc, i) ∧ page.toNat =
      regAddr die (0x60 + i) 0 ∧ s.chip.isOn die (0x60 + i) = true ∧ MayWrite s.chip dom die (0x60 + i) 0x100 2) ∧
    (∃ (die : Nat) (i : Nat) (k : Fin 128) (page : Word) (s : State), pageOf die (0x60 + i) = some (.pmc, i) ∧ page.toNat =
      regAddr die (0x60 + i) 0 ∧ k.val < pmcCount die i ∧ s.chip.isOn die (0x60 + i) = true ∧ s.chip.regBit (regAddr die
      (0x60 + i) (0x400 + 4 * k.val)) 0 = true ∧ s.chip.pmcVal (regAddr die (0x60 + i) 0) k.val = 2 ^ 48 - 1 ∧
      s.chip.pmcChained (regAddr die (0x60 + i) 0) k.val = false) ∧
    (∃ (die : Nat) (i : Nat) (k : Fin 128) (page : Word) (s : State), pageOf die (0x60 + i) = some (.pmc, i) ∧ page.toNat =
      regAddr die (0x60 + i) 0 ∧ k.val < pmcCount die i ∧ s.chip.isOn die (0x60 + i) = true ∧ s.chip.regBit (regAddr die
      (0x60 + i) (0x400 + 4 * k.val)) 0 = true ∧ s.chip.pmcVal (regAddr die (0x60 + i) 0) k.val = 2 ^ 48 - 1 ∧
      s.chip.pmcChained (regAddr die (0x60 + i) 0) k.val = true) ∧
    (∃ (die : Nat) (i : Nat) (k : Nat) (c : Chip), pageOf die (0x60 + i) = some (.pmc, i) ∧ k < pmcCount die i ∧ k % 2 = 1 ∧
      c.pmcVal (regAddr die (0x60 + i) 0) k = 2 ^ 48 - 1) ∧
    (∃ (die : Nat) (i : Nat) (k : Nat) (c : Chip), pageOf die (0x60 + i) = some (.pmc, i) ∧ k < pmcCount die i ∧ k % 2 = 1 ∧
      c.pmcVal (regAddr die (0x60 + i) 0) k = 2 ^ 48 - 1) ∧
    (∃ (die : Nat) (i : Nat) (k : Nat) (c : Chip), pageOf die (0x60 + i) = some (.pmc, i) ∧ k < pmcCount die i ∧ c.pmcVal
      (regAddr die (0x60 + i) 0) k < 2 ^ 48 - 1) ∧
    (∃ (die : Nat) (i : Nat) (k : Nat) (c : Chip), pageOf die (0x60 + i) = some (.pmc, i) ∧ k < pmcCount die i ∧ c.pmcVal
      (regAddr die (0x60 + i) 0) k < 2 ^ 48 - 1) ∧
    (∃ (die : Nat) (i : Nat) (k : Nat) (f : Chip → Chip) (c : Chip), pageOf die (0x60 + i) = some (.pmc, i) ∧ k < pmcCount
      die i ∧ c.levelAt (regAddr die (0x60 + i) 0) k = none ∧ (f c).regBit (regAddr die (0x60 + i) (0x400 + 4 * k)) 0 =
      false) ∧
    (∃ (die : Nat) (i : Nat) (k : Nat) (f : Chip → Chip) (c : Chip), pageOf die (0x60 + i) = some (.pmc, i) ∧ k < pmcCount
      die i ∧ c.levelAt (regAddr die (0x60 + i) 0) k = none ∧ (f c).regBit (regAddr die (0x60 + i) (0x400 + 4 * k)) 0 =
      false) ∧
    (∃ (die : Nat) (i : Nat) (k : Nat) (t : Nat) (tm : Nat) (n0 : Nat) (ns : Nat) (c : Chip), pageOf die (0x60 + i) = some
      (.pmc, i) ∧ k < pmcCount die i ∧ c.levelAt (regAddr die (0x60 + i) 0) k = some t ∧ SMap.getD c.tele.clk (32 * die + i)
      (0, 0) = (tm, n0) ∧ t ≤ n0 ∧ tm < c.now ∧ ns = c.now - tm ∧ c.pmcVal (regAddr die (0x60 + i) 0) k + (n0 - t +
      cyclesMax die i ns) < 2 ^ 48) ∧
    (∃ (die : Nat) (i : Nat) (k : Nat) (t : Nat) (tm : Nat) (n0 : Nat) (ns : Nat) (c : Chip), pageOf die (0x60 + i) = some
      (.pmc, i) ∧ k < pmcCount die i ∧ c.levelAt (regAddr die (0x60 + i) 0) k = some t ∧ SMap.getD c.tele.clk (32 * die + i)
      (0, 0) = (tm, n0) ∧ t ≤ n0 ∧ tm < c.now ∧ ns = c.now - tm ∧ c.pmcVal (regAddr die (0x60 + i) 0) k + (n0 - t +
      cyclesMax die i ns) < 2 ^ 48) ∧
    (∃ (die : Nat) (i : Nat) (k : Nat) (k' : Nat) (t : Nat) (tm : Nat) (n0 : Nat) (ns : Nat) (c : Chip) (d : Chip), pageOf
      die (0x60 + i) = some (.pmc, i) ∧ k < pmcCount die i ∧ k' < pmcCount die i ∧ k ≠ k' ∧ c.levelAt (regAddr die (0x60 +
      i) 0) k = some t ∧ c.levelAt (regAddr die (0x60 + i) 0) k' = some t ∧ SMap.getD c.tele.clk (32 * die + i) (0, 0) =
      (tm, n0) ∧ t ≤ n0 ∧ ns = c.now - tm ∧ d = c.levelAdd (regAddr die (0x60 + i) 0) k true ∧ c.pmcVal (regAddr die (0x60 +
      i) 0) k + (n0 - t + cyclesMax die i ns) < 2 ^ 48 ∧ c.pmcVal (regAddr die (0x60 + i) 0) k' + (n0 - t + cyclesMax die i
      ns) < 2 ^ 48) ∧
    (∃ (die : Nat) (i : Nat) (k : Nat) (k' : Nat) (t : Nat) (tm : Nat) (n0 : Nat) (ns : Nat) (c : Chip) (d : Chip), pageOf
      die (0x60 + i) = some (.pmc, i) ∧ k < pmcCount die i ∧ k' < pmcCount die i ∧ k ≠ k' ∧ c.levelAt (regAddr die (0x60 +
      i) 0) k = some t ∧ c.levelAt (regAddr die (0x60 + i) 0) k' = some t ∧ SMap.getD c.tele.clk (32 * die + i) (0, 0) =
      (tm, n0) ∧ t ≤ n0 ∧ ns = c.now - tm ∧ d = c.levelAdd (regAddr die (0x60 + i) 0) k true ∧ c.pmcVal (regAddr die (0x60 +
      i) 0) k + (n0 - t + cyclesMax die i ns) < 2 ^ 48 ∧ c.pmcVal (regAddr die (0x60 + i) 0) k' + (n0 - t + cyclesMax die i
      ns) < 2 ^ 48) ∧
    (∃ (die : Nat) (i : Nat) (c : Chip), c.isOn die (0x60 + i) = false) :=
  ⟨ (let q : Fin 4 := 3; let s : State := mkS (fun c => onPg 3 0x48 c)
     let c : Chip := s.chip.restall.tick (16 + q.val) 1000; ⟨q, c, s, by decide +kernel +zetaReduce⟩),
    (let q : Fin 4 := 3; let i : Nat := 259; let c : Chip := Chip.reset; ⟨q, i, c, by decide +kernel +zetaReduce⟩),
    (let q : Fin 4 := 0; let i : Nat := 0
     let c : Chip := Chip.reset.onTele (fun t => { t with cgm := SMap.set t.cgm 0 0x35 })
     ⟨q, i, c, by decide +kernel +zetaReduce⟩),
    (let stalled : Nat := 20; let len : Nat := 1000; ⟨stalled, len, by decide +kernel +zetaReduce⟩),
    (let stalled : Nat := 1000; let len : Nat := 1000; ⟨stalled, len, by decide +kernel +zetaReduce⟩),
    (let stalled : Nat := 20; let len : Nat := 1000; ⟨stalled, len, by decide +kernel +zetaReduce⟩),
    (let ns : Nat := 20; let len : Nat := 1000; ⟨ns, len, by decide +kernel +zetaReduce⟩),
    (let ns : Nat := 0; let len : Nat := 0; ⟨ns, len, by decide +kernel +zetaReduce⟩),
    (let ns : Nat := 20; let len : Nat := 1000; let n : Nat := 1000; ⟨ns, len, n, by decide +kernel +zetaReduce⟩),
    (let u : Nat := 3; let depth : Nat := 8; ⟨u, depth, by decide +kernel +zetaReduce⟩),
    (let u : Nat := 15; let depth : Nat := 2^40; ⟨u, depth, by decide +kernel +zetaReduce⟩),
    (let u : Nat := 0; let depth : Nat := 7; ⟨u, depth, by decide +kernel +zetaReduce⟩),
    (let s : State := mkS (fun c => (onPg 24 0x48 (upP 1023 { st := .active } c)).onTele (fun t => { t with cgm := [(1, 5)], winW := 8 }))
     ⟨s, by decide +kernel +zetaReduce⟩),
    (let e : WinEnd := { time := 64000, w := 64, active := [1], levels := [1, 2], shift := 0, flags := 0 }
     let s : State := mkS (fun c => (((fwOn (onPg 24 0x48 c)).setReg (cgmC 0x100) 0x80000040).setReg (cgmC 0x104) 5).setReg (regAddr 24 1 0x108) 0x1F |>.onTele (fun t => { t with winEnd := some { time := 64000, w := 64, active := [1], levels := [1, 2], shift := 0, flags := 0 } }))
     let c : Chip := s.chip.onTele (fun t => { t with winEnd := none }); ⟨e, c, s, by decide +kernel +zetaReduce⟩),
    (let e : WinEnd := { time := 64000, w := 64, active := [1], levels := [1, 2], shift := 0, flags := 0 }
     let s : State := mkS (fun c => (((onPg 24 0x48 (twn0 4 c)).setReg (cgmC 0x100) 0x80000040).setReg (cgmC 0x104) 5) |>.onTele (fun t => { t with winEnd := some { time := 64000, w := 64, active := [1], levels := [1, 2], shift := 0, flags := 0 } }))
     let c : Chip := s.chip.onTele (fun t => { t with winEnd := none }); ⟨e, c, s, by decide +kernel +zetaReduce⟩),
    (let e : WinEnd := { time := 64000, w := 64, active := [1], levels := [1, 2], shift := 0, flags := 0 }
     let s : State := mkS (fun c => ((c.setReg (cgmC 0x100) 0x40).onTele (fun t => { t with winEnd := some { time := 64000, w := 64, active := [1], levels := [1, 2], shift := 0, flags := 0 } })))
     ⟨e, s, by decide +kernel +zetaReduce⟩),
    (let dom : Dom := .owner; let die : Nat := 24; let i : Nat := 5; let k : Nat := 0
     let addr : Word := ad 24 (0x60 + 5) (0x200 + 4 * 0); let val : Word := 0xC001
     let m : Nat := (evtQuals (fld val.toNat 15 0)).getD 0; let s : State := mkS id
     ⟨dom, die, i, k, m, addr, val, s, by decide +kernel +zetaReduce⟩),
    (let dom : Dom := .owner; let die : Nat := 3; let i : Nat := 22; let k : Nat := 1
     let addr : Word := ad 3 (0x60 + 22) (0x200 + 4 * 1); let val : Word := 0x34001
     let m : Nat := (evtQuals (fld val.toNat 15 0)).getD 0; let s : State := mkS id
     ⟨dom, die, i, k, m, addr, val, s, by decide +kernel +zetaReduce⟩),
    (let dom : Dom := .owner; let die : Nat := 0; let i : Nat := 0; let k : Nat := 47
     let addr : Word := ad 0 (0x60 + 0) (0x200 + 4 * 47); let val : Word := 0xFFFF1001
     let m : Nat := (evtQuals (fld val.toNat 15 0)).getD 0; let s : State := mkS id
     ⟨dom, die, i, k, m, addr, val, s, by decide +kernel +zetaReduce⟩),
    (let dom : Dom := .owner; let die : Nat := 7; let i : Nat := 8; let k : Nat := 95
     let addr : Word := ad 7 (0x60 + 8) (0x200 + 4 * 95); let val : Word := 0x80007001
     let m : Nat := (evtQuals (fld val.toNat 15 0)).getD 0; let s : State := mkS id
     ⟨dom, die, i, k, m, addr, val, s, by decide +kernel +zetaReduce⟩),
    (let dom : Dom := .owner; let die : Nat := 0; let i : Nat := 0; let k : Nat := 5
     let addr : Word := ad 0 (0x60 + 0) (0x200 + 4 * 5); let val : Word := 1
     let m : Nat := (evtQuals (fld val.toNat 15 0)).getD 0; let s : State := mkS id
     ⟨dom, die, i, k, m, addr, val, s, by decide +kernel +zetaReduce⟩),
    (let dom : Dom := .owner; let die : Nat := 24; let i : Nat := 5; let k : Nat := 0
     let addr : Word := ad 24 (0x60 + 5) (0x200 + 4 * 0); let val : Word := 0xA001
     let m : Nat := (evtQuals (fld val.toNat 15 0)).getD 0; let s : State := mkS id
     ⟨dom, die, i, k, m, addr, val, s, by decide +kernel +zetaReduce⟩),
    (let dom : Dom := .owner; let die : Nat := 3; let i : Nat := 22; let k : Nat := 1
     let addr : Word := ad 3 (0x60 + 22) (0x200 + 4 * 1); let val : Word := 0x1001
     let m : Nat := (evtQuals (fld val.toNat 15 0)).getD 0; let s : State := mkS id
     ⟨dom, die, i, k, m, addr, val, s, by decide +kernel +zetaReduce⟩),
    (let dom : Dom := .owner; let die : Nat := 24; let i : Nat := 5; let k : Nat := 1
     let addr : Word := ad 24 (0x60 + 5) (0x400 + 4 * 1); let val : Word := 0xF5; let s : State := mkS id
     ⟨dom, die, i, k, addr, val, s, by decide +kernel +zetaReduce⟩),
    (let dom : Dom := .owner; let die : Nat := 0; let i : Nat := 0; let k : Nat := 0
     let addr : Word := ad 0 (0x60 + 0) (0x400 + 4 * 0); let val : Word := 1; let s : State := mkS id
     ⟨dom, die, i, k, addr, val, s, by decide +kernel +zetaReduce⟩),
    (let dom : Dom := .owner; let die : Nat := 24; let i : Nat := 5; let k : Nat := 0
     let addr : Word := ad 24 (0x60 + 5) (0x400 + 4 * 0); let val : Word := 4; let s : State := mkS id
     ⟨dom, die, i, k, addr, val, s, by decide +kernel +zetaReduce⟩),
    (let dom : Dom := .owner; let die : Nat := 7; let i : Nat := 8; let k : Nat := 94
     let addr : Word := ad 7 (0x60 + 8) (0x400 + 4 * 94); let val : Word := 5; let s : State := mkS id
     ⟨dom, die, i, k, addr, val, s, by decide +kernel +zetaReduce⟩),
    (let dom : Dom := .owner; let die : Nat := 24; let i : Nat := 5; let k : Nat := 0
     let addr : Word := ad 24 (0x60 + 5) (0x800 + 8 * 0); let val : Word := 0xFFFFFFFF; let s : State := mkS id
     ⟨dom, die, i, k, addr, val, s, by decide +kernel +zetaReduce⟩),
    (let dom : Dom := .owner; let die : Nat := 7; let i : Nat := 8; let k : Nat := 95
     let addr : Word := ad 7 (0x60 + 8) (0x800 + 8 * 95); let val : Word := 1; let s : State := mkS id
     ⟨dom, die, i, k, addr, val, s, by decide +kernel +zetaReduce⟩),
    (let dom : Dom := .owner; let die : Nat := 24; let i : Nat := 5; let k : Nat := 0
     let addr : Word := ad 24 (0x60 + 5) (0x800 + 8 * 0); let val : Word := 0xFFFFFFFF
     let s : State := mkS (fun c => c.setReg (regAddr die (0x60 + i) (0x400 + 4 * k)) 1)
     ⟨dom, die, i, k, addr, val, s, by decide +kernel +zetaReduce⟩),
    (let dom : Dom := .owner; let die : Nat := 7; let i : Nat := 8; let k : Nat := 95
     let addr : Word := ad 7 (0x60 + 8) (0x800 + 8 * 95); let val : Word := 1
     let s : State := mkS (fun c => c.setReg (regAddr die (0x60 + i) (0x400 + 4 * k)) 1)
     ⟨dom, die, i, k, addr, val, s, by decide +kernel +zetaReduce⟩),
    (let dom : Dom := .owner; let die : Nat := 0; let i : Nat := 0; let page : Word := ad 0 0x60 0
     let s : State := mkS (fun c => ((onPg 0 0x60 c).setReg (regAddr 0 0x60 0x4BC) 5).setReg (regAddr 0 0x60 0x978) 9)
     ⟨dom, die, i, page, s, by decide +kernel +zetaReduce⟩),
    (let dom : Dom := .owner; let die : Nat := 0; let i : Nat := 0; let page : Word := ad 0 0x60 0
     let s : State := mkS (fun c => ((onPg 0 0x60 c).setReg (regAddr 0 0x60 0x4BC) 5).setReg (regAddr 0 0x60 0x978) 9)
     ⟨dom, die, i, page, s, by decide +kernel +zetaReduce⟩),
    (let die : Nat := 0; let i : Nat := 0; let k : Fin 128 := 47; let page : Word := ad 0 0x60 0
     let s : State := mkS (fun c => (((onPg 0 0x60 c).setReg (regAddr 0 0x60 0x4BC) 1).setReg (regAddr 0 0x60 0x978) 0xFFFFFFFF).setReg (regAddr 0 0x60 0x97C) 0xFFFF)
     ⟨die, i, k, page, s, by decide +kernel +zetaReduce⟩),
    (let die : Nat := 0; let i : Nat := 0; let k : Fin 128 := 47; let page : Word := ad 0 0x60 0
     let s : State := mkS (fun c => (((onPg 0 0x60 c).setReg (regAddr 0 0x60 0x4BC) 5).setReg (regAddr 0 0x60 0x978) 0xFFFFFFFF).setReg (regAddr 0 0x60 0x97C) 0xFFFF)
     ⟨die, i, k, page, s, by decide +kernel +zetaReduce⟩),
    (let die : Nat := 0; let i : Nat := 0; let k : Nat := 47
     let c : Chip := (((onPg 0 0x60 Chip.reset).setReg (regAddr 0 0x60 0x4BC) 5).setReg (regAddr 0 0x60 0x978) 0xFFFFFFFF).setReg (regAddr 0 0x60 0x97C) 0xFFFF
     ⟨die, i, k, c, by decide +kernel +zetaReduce⟩),
    (let die : Nat := 24; let i : Nat := 5; let k : Nat := 1
     let c : Chip := ((Chip.reset).setReg (regAddr 24 0x65 0x808) 0xFFFFFFFF).setReg (regAddr 24 0x65 0x80C) 0xFFFF
     ⟨die, i, k, c, by decide +kernel +zetaReduce⟩),
    (let die : Nat := 0; let i : Nat := 0; let k : Nat := 47
     let c : Chip := ((onPg 0 0x60 Chip.reset).setReg (regAddr 0 0x60 0x978) 0xFFFFFFFF)
     ⟨die, i, k, c, by decide +kernel +zetaReduce⟩),
    (let die : Nat := 24; let i : Nat := 5; let k : Nat := 0; let c : Chip := Chip.reset
     ⟨die, i, k, c, by decide +kernel +zetaReduce⟩),
    (let die : Nat := 0; let i : Nat := 0; let k : Nat := 47
     let f : Chip → Chip := fun c => c.setReg (regAddr 0 0x60 0x4BC) 0; let c : Chip := onPg 0 0x60 Chip.reset
     ⟨die, i, k, f, c, by decide +kernel +zetaReduce⟩),
    (let die : Nat := 24; let i : Nat := 5; let k : Nat := 0; let f : Chip → Chip := fun c => c
     let c : Chip := Chip.reset; ⟨die, i, k, f, c, by decide +kernel +zetaReduce⟩),
    (let die : Nat := 0; let i : Nat := 0; let k : Nat := 47; let t : Nat := 500; let tm : Nat := 400; let n0 : Nat := 700
     let c : Chip := { (onPg 0 0x60 Chip.reset).onTele (fun t => { t with clk := [(0, (400, 700))], lvl := [(regAddr 0 0x60 0x4B8, 500), (regAddr 0 0x60 0x4BC, 500)] }) with now := 1500 }
     let ns : Nat := c.now - tm; ⟨die, i, k, t, tm, n0, ns, c, by decide +kernel +zetaReduce⟩),
    (let die : Nat := 24; let i : Nat := 5; let k : Nat := 0; let t : Nat := 0; let tm : Nat := 0; let n0 : Nat := 0
     let c : Chip := { Chip.reset.onTele (fun t => { t with lvl := [(regAddr 24 0x65 0x400, 0), (regAddr 24 0x65 0x404, 0)] }) with now := 1500 }
     let ns : Nat := c.now - tm; ⟨die, i, k, t, tm, n0, ns, c, by decide +kernel +zetaReduce⟩),
    (let die : Nat := 0; let i : Nat := 0; let k : Nat := 47; let k' : Nat := 46; let t : Nat := 500; let tm : Nat := 400
     let n0 : Nat := 700
     let c : Chip := { (onPg 0 0x60 Chip.reset).onTele (fun t => { t with clk := [(0, (400, 700))], lvl := [(regAddr 0 0x60 0x4B8, 500), (regAddr 0 0x60 0x4BC, 500)] }) with now := 1500 }
     let ns : Nat := c.now - tm; let d : Chip := c.levelAdd (regAddr die (0x60 + i) 0) k true
     ⟨die, i, k, k', t, tm, n0, ns, c, d, by decide +kernel +zetaReduce, by decide +kernel +zetaReduce,
      by decide +kernel +zetaReduce, by decide +kernel +zetaReduce, by decide +kernel +zetaReduce,
      by decide +kernel +zetaReduce, by decide +kernel +zetaReduce, by decide +kernel +zetaReduce, rfl, rfl,
      by decide +kernel +zetaReduce, by decide +kernel +zetaReduce⟩),
    (let die : Nat := 24; let i : Nat := 5; let k : Nat := 0; let k' : Nat := 1; let t : Nat := 0; let tm : Nat := 0
     let n0 : Nat := 0
     let c : Chip := { Chip.reset.onTele (fun t => { t with lvl := [(regAddr 24 0x65 0x400, 0), (regAddr 24 0x65 0x404, 0)] }) with now := 1500 }
     let ns : Nat := c.now - tm; let d : Chip := c.levelAdd (regAddr die (0x60 + i) 0) k true
     ⟨die, i, k, k', t, tm, n0, ns, c, d, by decide +kernel +zetaReduce, by decide +kernel +zetaReduce,
      by decide +kernel +zetaReduce, by decide +kernel +zetaReduce, by decide +kernel +zetaReduce,
      by decide +kernel +zetaReduce, by decide +kernel +zetaReduce, by decide +kernel +zetaReduce, rfl, rfl,
      by decide +kernel +zetaReduce, by decide +kernel +zetaReduce⟩),
    (let die : Nat := 0; let i : Nat := 0; let c : Chip := Chip.reset; ⟨die, i, c, by decide +kernel +zetaReduce⟩)⟩

/-- States and operands that meet the hypotheses of `Obligations.Dumps`, clause by clause. -/
theorem witness_Dumps :
    (∃ (c : Chip) (s : State), s.chip.isOn 24 0x4B = true ∧ s.chip.regBit (dmp 0x100) 0 = true ∧ s.chip.tele.dumpRec = none
      ∧ c = s.chip.tick 5 (1000 * fld (s.chip.reg (dmp 0x104)) 19 0)) ∧
    (∃ (c : Chip) (s : State), s.chip.isOn 24 0x4B = true ∧ s.chip.regBit (dmp 0x100) 0 = true ∧ s.chip.tele.dumpRec = none
      ∧ c = s.chip.tick 5 (1000 * fld (s.chip.reg (dmp 0x104)) 19 0)) ∧
    (∃ (s : State), s.chip.isOn 24 0x4B = true ∧ s.chip.regBit (dmp 0x100) 0 = true ∧ s.chip.tele.dumpRec.isSome = true) ∧
    (∃ (r : List Byte) (n : Nat) (wr : Nat) (rd : Nat) (s : State), s.chip.tele.dumpRec = some r ∧ n = max s.chip.dumpSlots
      1 ∧ wr = s.chip.reg (dmp 0x118) % n ∧ rd = s.chip.reg (dmp 0x11C) ∧ s.chip.regBit (dmp 0x100) 1 = false ∧ s.chip.isOn
      24 0x64 = false) ∧
    (∃ (r : List Byte) (n : Nat) (wr : Nat) (rd : Nat) (s : State), s.chip.tele.dumpRec = some r ∧ n = max s.chip.dumpSlots
      1 ∧ wr = s.chip.reg (dmp 0x118) % n ∧ rd = s.chip.reg (dmp 0x11C) ∧ s.chip.regBit (dmp 0x100) 1 = false ∧ s.chip.isOn
      24 0x64 = false) ∧
    (∃ (r : List Byte) (n : Nat) (wr : Nat) (rd : Nat) (s : State), s.chip.tele.dumpRec = some r ∧ n = max s.chip.dumpSlots
      1 ∧ wr = s.chip.reg (dmp 0x118) % n ∧ rd = s.chip.reg (dmp 0x11C) ∧ s.chip.regBit (dmp 0x100) 1 = false ∧ s.chip.isOn
      24 0x64 = false) ∧
    (∃ (dom : Dom) (val : Word) (s : State), MayWrite s.chip dom 24 0x4B 0x11C val.toNat ∧ val.toNat < s.chip.dumpSlots) ∧
    (∃ (dom : Dom) (val : Word) (s : State), MayWrite s.chip dom 24 0x4B 0x11C val.toNat ∧ s.chip.dumpSlots ≤ val.toNat) ∧
    (∃ (c : Chip) (d : _), d ∈ c.dumpPages) :=
  ⟨ (let s : State := mkS (fun c => onPg 0 0x60 (((((onPg 24 0x4B c).setReg (dmp 0x100) 1).setReg (dmp 0x104) 100).setReg (dmp 0x120) 1).setReg (dmp 0x110) 0x20000))
     let c : Chip := s.chip.tick 5 (1000 * fld (s.chip.reg (dmp 0x104)) 19 0); ⟨c, s, by decide +kernel +zetaReduce⟩),
    (let s : State := mkS (fun c => (((((onPg 24 0x4B c).setReg (dmp 0x100) 1).setReg (dmp 0x104) 100).setReg (dmp 0x120) 1).setReg (dmp 0x110) 0x20000).setReg (dmp 0x130) 0x2000000)
     let c : Chip := s.chip.tick 5 (1000 * fld (s.chip.reg (dmp 0x104)) 19 0); ⟨c, s, by decide +kernel +zetaReduce⟩),
    (let s : State := mkS (fun c => (((((onPg 24 0x4B c).setReg (dmp 0x100) 1).setReg (dmp 0x104) 100).setReg (dmp 0x120) 1).setReg (dmp 0x110) 0x20000).onTele (fun t => { t with dumpRec := some [] }))
     ⟨s, by decide +kernel +zetaReduce⟩),
    (let r : List Byte := [1, 0, 3]
     let s : State := mkS (fun c => (((((onPg 24 0x4B c).setReg (dmp 0x100) 1).setReg (dmp 0x104) 100).setReg (dmp 0x120) 1).setReg (dmp 0x110) 0x20000).onTele (fun t => { t with dumpRec := some [1, 0, 3] }))
     let n : Nat := max s.chip.dumpSlots 1; let wr : Nat := s.chip.reg (dmp 0x118) % n
     let rd : Nat := s.chip.reg (dmp 0x11C); ⟨r, n, wr, rd, s, by decide +kernel +zetaReduce⟩),
    (let r : List Byte := [1, 0, 3]
     let s : State := mkS (fun c => ((((((onPg 24 0x4B c).setReg (dmp 0x100) 1).setReg (dmp 0x104) 100).setReg (dmp 0x120) 1).setReg (dmp 0x110) 0x20000).onTele (fun t => { t with dumpRec := some [1, 0, 3] })).setReg (dmp 0x11C) 1)
     let n : Nat := max s.chip.dumpSlots 1; let wr : Nat := s.chip.reg (dmp 0x118) % n
     let rd : Nat := s.chip.reg (dmp 0x11C); ⟨r, n, wr, rd, s, by decide +kernel +zetaReduce⟩),
    (let r : List Byte := [1, 0, 3]
     let s : State := mkS (fun c => ((((((((onPg 24 0x4B c).setReg (dmp 0x100) 1).setReg (dmp 0x104) 100).setReg (dmp 0x120) 1).setReg (dmp 0x110) 0x20000).onTele (fun t => { t with dumpRec := some [1, 0, 3] })).setReg (dmp 0x118) 0xFFFFFFFF).setReg (dmp 0x140) 0xFFFFFFFF).setReg (dmp 0x11C) 8)
     let n : Nat := max s.chip.dumpSlots 1; let wr : Nat := s.chip.reg (dmp 0x118) % n
     let rd : Nat := s.chip.reg (dmp 0x11C); ⟨r, n, wr, rd, s, by decide +kernel +zetaReduce⟩),
    (let dom : Dom := .owner; let val : Word := 1
     let s : State := mkS (fun c => ((((onPg 24 0x4B c).setReg (dmp 0x100) 1).setReg (dmp 0x104) 100).setReg (dmp 0x120) 1).setReg (dmp 0x110) 0x20000)
     ⟨dom, val, s, by decide +kernel +zetaReduce⟩),
    (let dom : Dom := .owner; let val : Word := 1000
     let s : State := mkS (fun c => ((((onPg 24 0x4B c).setReg (dmp 0x100) 1).setReg (dmp 0x104) 100).setReg (dmp 0x120) 1).setReg (dmp 0x110) 0x20000)
     ⟨dom, val, s, by decide +kernel +zetaReduce⟩),
    (let d := (0, 0)
     let c : Chip := ((((onPg 24 0x4B Chip.reset).setReg (dmp 0x100) 1).setReg (dmp 0x104) 100).setReg (dmp 0x120) 1).setReg (dmp 0x110) 0x20000
     ⟨c, d, by decide +kernel +zetaReduce⟩)⟩

/-- States and operands that meet the hypotheses of `Obligations.Lint`, clause by clause. -/
theorem witness_Lint :
    (∃ (q : Fin 4) (t : Nat) (r : LintRec) (rest : List LintRec) (s : State), t < 32 ∧ (s.chip.tap q.val t).due = r :: rest
      ∧ s.chip.isOn q.val 0x49 = true ∧ s.chip.isOn q.val 0x72 = false ∧ 4 ≤ (s.chip.tap q.val t).busy.length) ∧
    (∃ (q : Fin 4) (t : Nat) (r : LintRec) (rest : List LintRec) (s : State), t < 32 ∧ (s.chip.tap q.val t).due = r :: rest
      ∧ s.chip.isOn q.val 0x49 = true ∧ s.chip.isOn q.val 0x72 = false ∧ (s.chip.tap q.val t).busy.length < 4) ∧
    (∃ (q : Fin 4) (t : Nat) (r : LintRec) (s : State), t < 32 ∧ (s.chip.tap q.val t).busy.find? (fun r => r.done) = some r
      ∧ s.chip.works q.val 0x49 = true) ∧
    (∃ (q : Nat) (c : Chip), (c.tele.lintQ.filter (fun x => x.1 == q)).length < 64) ∧
    (∃ (q : Fin 4) (x : Nat × List Byte) (s : State), s.chip.tele.lintQ.find? (fun x => x.1 == q.val) = some x ∧ s.chip.isOn
      24 0x49 = true ∧ s.chip.rst.c0Up = true ∧ s.chip.ringUsed + x.2.length ≤ s.chip.reg (lntC 0x114)) ∧
    (∃ (q : Fin 4) (x : Nat × List Byte) (s : State), s.chip.tele.lintQ.find? (fun x => x.1 == q.val) = some x ∧ s.chip.isOn
      24 0x49 = true ∧ s.chip.rst.c0Up = true ∧ s.chip.ringUsed + x.2.length ≤ s.chip.reg (lntC 0x114)) ∧
    (∃ (q : Fin 4) (x : Nat × List Byte) (s : State), s.chip.tele.lintQ.find? (fun x => x.1 == q.val) = some x ∧ s.chip.isOn
      24 0x49 = true ∧ s.chip.rst.c0Up = true ∧ s.chip.reg (lntC 0x114) < s.chip.ringUsed + x.2.length) ∧
    (∃ (r0 : Nat × Nat × Nat) (rs : List (Nat × Nat × Nat)) (b : List (Nat × Nat × Nat)) (s : State), s.chip.tele.ring = r0
      :: rs ∧ s.chip.isOn 24 0x49 = true ∧ s.chip.rst.c0Up = true ∧ s.chip.regBit (lntC 0x100) 0 = true ∧ fld (s.chip.reg
      (lntC 0x104)) 15 0 ≠ 0xFFFF ∧ b = batchOf 8176 s.chip.tele.ring ∧ s.chip.suppressed = true) ∧
    (∃ (r0 : Nat × Nat × Nat) (rs : List (Nat × Nat × Nat)) (b : List (Nat × Nat × Nat)) (s : State), s.chip.tele.ring = r0
      :: rs ∧ s.chip.isOn 24 0x49 = true ∧ s.chip.rst.c0Up = true ∧ s.chip.regBit (lntC 0x100) 0 = true ∧ fld (s.chip.reg
      (lntC 0x104)) 15 0 ≠ 0xFFFF ∧ b = batchOf 8176 s.chip.tele.ring ∧ s.chip.suppressed = false ∧ s.chip.isOn 24 0x64 =
      false) ∧
    (∃ (r0 : Nat × Nat × Nat) (rs : List (Nat × Nat × Nat)) (b : List (Nat × Nat × Nat)) (s : State), s.chip.tele.ring = r0
      :: rs ∧ s.chip.isOn 24 0x49 = true ∧ s.chip.rst.c0Up = true ∧ s.chip.regBit (lntC 0x100) 0 = true ∧ fld (s.chip.reg
      (lntC 0x104)) 15 0 ≠ 0xFFFF ∧ b = batchOf 8176 s.chip.tele.ring ∧ s.chip.suppressed = false ∧ s.chip.isOn 24 0x64 =
      false) :=
  ⟨ (let q : Fin 4 := 3; let t : Nat := 31
     let r : LintRec := { pkt := 0, copy := none, port := 1023, time := 5, hdr := uni, disp := 0, skipped := 0 }
     let rest : List LintRec := []
     let s : State := mkS (fun c => (onPg 3 0x49 c).onTap 3 31 (fun x => { x with due := [{ pkt := 0, copy := none, port := 1023, time := 5, hdr := uni, disp := 0, skipped := 0 }], busy := List.replicate 4 { pkt := 0, copy := none, port := 1023, time := 5, hdr := uni, disp := 0, skipped := 0 } }))
     ⟨q, t, r, rest, s, by decide +kernel +zetaReduce⟩),
    (let q : Fin 4 := 3; let t : Nat := 31
     let r : LintRec := { pkt := 0, copy := none, port := 1023, time := 5, hdr := uni, disp := 0, skipped := 0 }
     let rest : List LintRec := []
     let s : State := mkS (fun c => (onPg 3 0x49 c).onTap 3 31 (fun x => { x with due := [{ pkt := 0, copy := none, port := 1023, time := 5, hdr := uni, disp := 0, skipped := 0 }], busy := [] }))
     ⟨q, t, r, rest, s, by decide +kernel +zetaReduce⟩),
    (let q : Fin 4 := 3; let t : Nat := 31
     let r : LintRec := { pkt := 0, copy := none, port := 1023, time := 5, hdr := uni, disp := 0, skipped := 0, done := true, body := [1, 2] }
     let s : State := mkS (fun c => (onPg 3 0x49 c).onTap 3 31 (fun x => { x with due := [{ pkt := 0, copy := none, port := 1023, time := 5, hdr := uni, disp := 0, skipped := 0 }], busy := [{ pkt := 0, copy := none, port := 1023, time := 5, hdr := uni, disp := 0, skipped := 0 }, { pkt := 0, copy := none, port := 1023, time := 5, hdr := uni, disp := 0, skipped := 0, done := true, body := [1, 2] }] }))
     ⟨q, t, r, s, by decide +kernel +zetaReduce⟩),
    (let q : Nat := 3; let c : Chip := Chip.reset; ⟨q, c, by decide +kernel +zetaReduce⟩),
    (let q : Fin 4 := 3; let x : Nat × List Byte := (3, [1, 0, 3])
     let s : State := mkS (fun c => { ((onPg 24 0x49 c).setReg (lntC 0x114) 0x1000) with tele := { c.tele with lintQ := [(0, [9]), (3, [1, 0, 3])], ringWr := 0 } })
     ⟨q, x, s, by decide +kernel +zetaReduce⟩),
    (let q : Fin 4 := 3; let x : Nat × List Byte := (3, [1, 0, 3])
     let s : State := mkS (fun c => { ((onPg 24 0x49 c).setReg (lntC 0x114) 0x1000) with tele := { c.tele with lintQ := [(0, [9]), (3, [1, 0, 3])], ringWr := 4095 } })
     ⟨q, x, s, by decide +kernel +zetaReduce⟩),
    (let q : Fin 4 := 3; let x : Nat × List Byte := (3, [1, 0, 3])
     let s : State := mkS (fun c => { ((onPg 24 0x49 c).setReg (lntC 0x114) 0) with tele := { c.tele with lintQ := [(0, [9]), (3, [1, 0, 3])], ringWr := 0 } })
     ⟨q, x, s, by decide +kernel +zetaReduce⟩),
    (let r0 : Nat × Nat × Nat := (0, 3, 0); let rs : List (Nat × Nat × Nat) := [(3, 4, 9)]
     let s : State := mkS (fun c => (((((onPg 24 0x49 c).setReg (lntC 0x114) 0x1000).setReg (lntC 0x100) 1).setReg (lntC 0x104) 5).onTele (fun t => { t with ring := [(0, 3, 0), (3, 4, 9)], ringWr := 7 })).onTwin (fun t => { t with role := 4 }))
     let b : List (Nat × Nat × Nat) := batchOf 8176 s.chip.tele.ring; ⟨r0, rs, b, s, by decide +kernel +zetaReduce⟩),
    (let r0 : Nat × Nat × Nat := (0, 3, 0); let rs : List (Nat × Nat × Nat) := [(3, 4, 9)]
     let s : State := mkS (fun c => ((((onPg 24 0x49 c).setReg (lntC 0x114) 0x1000).setReg (lntC 0x100) 1).setReg (lntC 0x104) 5).onTele (fun t => { t with ring := [(0, 3, 0), (3, 4, 9)], ringWr := 7 }))
     let b : List (Nat × Nat × Nat) := batchOf 8176 s.chip.tele.ring; ⟨r0, rs, b, s, by decide +kernel +zetaReduce⟩),
    (let r0 : Nat × Nat × Nat := (0, 4000, 0); let rs : List (Nat × Nat × Nat) := [(4000, 4176, 9), (8176, 8, 9)]
     let s : State := mkS (fun c => ((((onPg 24 0x49 c).setReg (lntC 0x114) 0x1000).setReg (lntC 0x100) 1).setReg (lntC 0x104) 5).onTele (fun t => { t with ring := [(0, 4000, 0), (4000, 4176, 9), (8176, 8, 9)], ringWr := 7 }))
     let b : List (Nat × Nat × Nat) := batchOf 8176 s.chip.tele.ring; ⟨r0, rs, b, s, by decide +kernel +zetaReduce⟩)⟩

/-- States and operands that meet the hypotheses of `Obligations.CheckValues`, clause by clause. -/
theorem witness_CheckValues :
    (∃ (dom : Dom) (k : Fin 32) (fold : Bool) (s : State), k.val < 29 ∧ s.chip.isOn 24 0x4C = true ∧ MayWrite s.chip dom 24
      0x4C (0x12C + 0x40 * k.val) (1 + 2 * b2n fold)) ∧
    (∃ (dom : Dom) (k : Fin 32) (fold : Bool) (s : State), k.val < 29 ∧ s.chip.isOn 24 0x4C = true ∧ MayWrite s.chip dom 24
      0x4C (0x12C + 0x40 * k.val) (1 + 2 * b2n fold)) ∧
    (∃ (dom : Dom) (k : Fin 32) (s : State), k.val < 29 ∧ s.chip.isOn 24 0x4C = true ∧ MayWrite s.chip dom 24 0x4C (0x12C +
      0x40 * k.val) 2) ∧
    (∃ (dom : Dom) (k : Fin 32) (val : Word) (s : State), k.val < 29 ∧ s.chip.isOn 24 0x4C = true ∧ MayWrite s.chip dom 24
      0x4C (0x120 + 0x40 * k.val) val.toNat ∧ val.toNat < 256) ∧
    (∃ (dom : Dom) (k : Fin 32) (val : Word) (s : State), k.val < 29 ∧ s.chip.isOn 24 0x4C = true ∧ MayWrite s.chip dom 24
      0x4C (0x120 + 0x40 * k.val) val.toNat ∧ val.toNat < 256) ∧
    (∃ (dom : Dom) (k : Fin 32) (val : Word) (s : State), k.val < 29 ∧ s.chip.isOn 24 0x4C = true ∧ MayWrite s.chip dom 24
      0x4C (0x124 + 0x40 * k.val) val.toNat ∧ val.toNat < 65536 ∧ (s.chip.cveOf k.val).swap = false) ∧
    (∃ (dom : Dom) (k : Fin 32) (val : Word) (s : State), k.val < 29 ∧ s.chip.isOn 24 0x4C = true ∧ MayWrite s.chip dom 24
      0x4C (0x124 + 0x40 * k.val) val.toNat ∧ val.toNat < 65536 ∧ (s.chip.cveOf k.val).swap = true) ∧
    (∃ (dom : Dom) (k : Fin 32) (val : Word) (s : State), k.val < 29 ∧ s.chip.isOn 24 0x4C = true ∧ MayWrite s.chip dom 24
      0x4C (0x128 + 0x40 * k.val) val.toNat) ∧
    (∃ (dom : Dom) (k : Fin 32) (val : Word) (s : State), k.val < 29 ∧ s.chip.isOn 24 0x4C = true ∧ MayWrite s.chip dom 24
      0x4C (0x128 + 0x40 * k.val) val.toNat) ∧
    (∃ (dom : Dom) (k : Fin 32) (hi : Bool) (val : Word) (s : State), k.val < 29 ∧ MayWrite s.chip dom 24 0x4C (0x100 + 0x40
      * k.val + (if hi then 0x34 else 0x30)) val.toNat) ∧
    (∃ (dom : Dom) (k : Fin 32) (hi : Bool) (val : Word) (s : State), k.val < 29 ∧ MayWrite s.chip dom 24 0x4C (0x100 + 0x40
      * k.val + (if hi then 0x34 else 0x30)) val.toNat) ∧
    (∃ (dom : Dom) (k : Fin 32) (s : State), s.chip.mayManage dom = true ∧ s.chip.allowed dom (cve k.val 0x38) none = true) ∧
    (∃ (dom : Dom) (k : Fin 32) (s : State), s.chip.mayManage dom = true ∧ s.chip.allowed dom (cve k.val 0x38) none = true) ∧
    (∃ (dom : Dom) (k : Fin 32) (s : State), s.chip.mayManage dom = true ∧ s.chip.allowed dom (cve k.val 0x30) none = true) ∧
    (∃ (dom : Dom) (k : Fin 32) (s : State), s.chip.mayManage dom = true ∧ s.chip.allowed dom (cve k.val 0x30) none = true) ∧
    (∃ (dom : Dom) (k : Fin 32) (s : State) (off : BitVec 12), s.chip.mayManage dom = true ∧ (off = 0x34 ∨ off = 0x3C) ∧
      s.chip.allowed dom (cve k.val off.toNat) none = true) ∧
    (∃ (dom : Dom) (k : Fin 32) (s : State) (off : BitVec 12), s.chip.mayManage dom = true ∧ (off = 0x34 ∨ off = 0x3C) ∧
      s.chip.allowed dom (cve k.val off.toNat) none = true) ∧
    (∃ (dom : Dom) (k : Fin 32) (val : Word) (s : State), k.val < 29 ∧ MayWrite s.chip dom 24 0x4C (0x118 + 0x40 * k.val)
      val.toNat ∧ val.toNat &&& 0x003F077F = val.toNat ∧ 8 ≤ fld val.toNat 6 0 ∧ fld val.toNat 6 0 ≤ 64 ∧ fld val.toNat 21
      16 < fld val.toNat 6 0 ∧ (s.chip.cveOf k.val).poly < 2 ^ fld val.toNat 6 0 ∧ (s.chip.cveOf k.val).init < 2 ^ fld
      val.toNat 6 0 ∧ (s.chip.cveOf k.val).xorout < 2 ^ fld val.toNat 6 0) ∧
    (∃ (dom : Dom) (k : Fin 32) (val : Word) (s : State), k.val < 29 ∧ MayWrite s.chip dom 24 0x4C (0x118 + 0x40 * k.val)
      val.toNat ∧ val.toNat &&& 0x003F077F = val.toNat ∧ 8 ≤ fld val.toNat 6 0 ∧ fld val.toNat 6 0 ≤ 64 ∧ fld val.toNat 21
      16 < fld val.toNat 6 0 ∧ (s.chip.cveOf k.val).poly < 2 ^ fld val.toNat 6 0 ∧ (s.chip.cveOf k.val).init < 2 ^ fld
      val.toNat 6 0 ∧ (s.chip.cveOf k.val).xorout < 2 ^ fld val.toNat 6 0) ∧
    (∃ (dom : Dom) (k : Fin 32) (val : Word) (s : State), k.val < 29 ∧ MayWrite s.chip dom 24 0x4C (0x118 + 0x40 * k.val)
      val.toNat ∧ val.toNat &&& 0x003F077F = val.toNat ∧ (fld val.toNat 6 0 < 8 ∨ 64 < fld val.toNat 6 0 ∨ fld val.toNat 6 0
      ≤ fld val.toNat 21 16 ∨ 2 ^ fld val.toNat 6 0 ≤ (s.chip.cveOf k.val).poly ∨ 2 ^ fld val.toNat 6 0 ≤ (s.chip.cveOf
      k.val).init ∨ 2 ^ fld val.toNat 6 0 ≤ (s.chip.cveOf k.val).xorout)) ∧
    (∃ (dom : Dom) (k : Fin 32) (val : Word) (s : State), k.val < 29 ∧ MayWrite s.chip dom 24 0x4C (0x118 + 0x40 * k.val)
      val.toNat ∧ val.toNat &&& 0x003F077F = val.toNat ∧ (fld val.toNat 6 0 < 8 ∨ 64 < fld val.toNat 6 0 ∨ fld val.toNat 6 0
      ≤ fld val.toNat 21 16 ∨ 2 ^ fld val.toNat 6 0 ≤ (s.chip.cveOf k.val).poly ∨ 2 ^ fld val.toNat 6 0 ≤ (s.chip.cveOf
      k.val).init ∨ 2 ^ fld val.toNat 6 0 ≤ (s.chip.cveOf k.val).xorout)) ∧
    (∃ (dom : Dom) (k : Fin 32) (val : Word) (s : State), k.val < 29 ∧ MayWrite s.chip dom 24 0x4C (0x118 + 0x40 * k.val)
      val.toNat ∧ val.toNat &&& 0x003F077F = val.toNat ∧ (fld val.toNat 6 0 < 8 ∨ 64 < fld val.toNat 6 0 ∨ fld val.toNat 6 0
      ≤ fld val.toNat 21 16 ∨ 2 ^ fld val.toNat 6 0 ≤ (s.chip.cveOf k.val).poly ∨ 2 ^ fld val.toNat 6 0 ≤ (s.chip.cveOf
      k.val).init ∨ 2 ^ fld val.toNat 6 0 ≤ (s.chip.cveOf k.val).xorout)) ∧
    (∃ (dom : Dom) (k : Fin 32) (val : Word) (s : State), k.val < 29 ∧ MayWrite s.chip dom 24 0x4C (0x118 + 0x40 * k.val)
      val.toNat ∧ val.toNat &&& 0x003F077F = val.toNat ∧ (fld val.toNat 6 0 < 8 ∨ 64 < fld val.toNat 6 0 ∨ fld val.toNat 6 0
      ≤ fld val.toNat 21 16 ∨ 2 ^ fld val.toNat 6 0 ≤ (s.chip.cveOf k.val).poly ∨ 2 ^ fld val.toNat 6 0 ≤ (s.chip.cveOf
      k.val).init ∨ 2 ^ fld val.toNat 6 0 ≤ (s.chip.cveOf k.val).xorout)) ∧
    (∃ (dom : Dom) (k : Fin 32) (val : Word) (s : State), k.val < 29 ∧ MayWrite s.chip dom 24 0x4C (0x11C + 0x40 * k.val)
      val.toNat) ∧
    (∃ (dom : Dom) (k : Fin 32) (off : BitVec 12) (val : Word) (s : State), k.val < 29 ∧ (off = 0 ∨ off = 8 ∨ off = 0x10) ∧
      MayWrite s.chip dom 24 0x4C (0x100 + 0x40 * k.val + off.toNat) val.toNat) ∧
    (∃ (dom : Dom) (k : Fin 32) (off : BitVec 12) (val : Word) (s : State), k.val < 29 ∧ (off = 0 ∨ off = 8 ∨ off = 0x10) ∧
      MayWrite s.chip dom 24 0x4C (0x100 + 0x40 * k.val + off.toNat) val.toNat) ∧
    (∃ (dom : Dom) (k : Fin 32) (off : BitVec 12) (val : Word) (lo : Nat) (s : State), k.val < 29 ∧ (off = 0 ∨ off = 8 ∨ off
      = 0x10) ∧ MayWrite s.chip dom 24 0x4C (0x104 + 0x40 * k.val + off.toNat) val.toNat ∧ lo = ((SMap.get? s.chip.regs
      (lowHalf (cve k.val off.toNat))).map (fun w => w.toNat)).getD (s.chip.reg (cve k.val off.toNat)) ∧ lo + 2 ^ 32 *
      val.toNat < 2 ^ (s.chip.cveOf k.val).width ∧ (off = 0 → lo % 2 = 1)) ∧
    (∃ (dom : Dom) (k : Fin 32) (off : BitVec 12) (val : Word) (lo : Nat) (s : State), k.val < 29 ∧ (off = 0 ∨ off = 8 ∨ off
      = 0x10) ∧ MayWrite s.chip dom 24 0x4C (0x104 + 0x40 * k.val + off.toNat) val.toNat ∧ lo = ((SMap.get? s.chip.regs
      (lowHalf (cve k.val off.toNat))).map (fun w => w.toNat)).getD (s.chip.reg (cve k.val off.toNat)) ∧ lo + 2 ^ 32 *
      val.toNat < 2 ^ (s.chip.cveOf k.val).width ∧ (off = 0 → lo % 2 = 1)) ∧
    (∃ (dom : Dom) (k : Fin 32) (off : BitVec 12) (val : Word) (lo : Nat) (s : State), k.val < 29 ∧ (off = 0 ∨ off = 8 ∨ off
      = 0x10) ∧ MayWrite s.chip dom 24 0x4C (0x104 + 0x40 * k.val + off.toNat) val.toNat ∧ lo = ((SMap.get? s.chip.regs
      (lowHalf (cve k.val off.toNat))).map (fun w => w.toNat)).getD (s.chip.reg (cve k.val off.toNat)) ∧ lo + 2 ^ 32 *
      val.toNat < 2 ^ (s.chip.cveOf k.val).width ∧ (off = 0 → lo % 2 = 1)) ∧
    (∃ (dom : Dom) (k : Fin 32) (off : BitVec 12) (val : Word) (lo : Nat) (s : State), k.val < 29 ∧ (off = 0 ∨ off = 8 ∨ off
      = 0x10) ∧ MayWrite s.chip dom 24 0x4C (0x104 + 0x40 * k.val + off.toNat) val.toNat ∧ lo = ((SMap.get? s.chip.regs
      (lowHalf (cve k.val off.toNat))).map (fun w => w.toNat)).getD (s.chip.reg (cve k.val off.toNat)) ∧ (2 ^ (s.chip.cveOf
      k.val).width ≤ lo + 2 ^ 32 * val.toNat ∨ (off = 0 ∧ lo % 2 = 0))) ∧
    (∃ (dom : Dom) (k : Fin 32) (off : BitVec 12) (val : Word) (lo : Nat) (s : State), k.val < 29 ∧ (off = 0 ∨ off = 8 ∨ off
      = 0x10) ∧ MayWrite s.chip dom 24 0x4C (0x104 + 0x40 * k.val + off.toNat) val.toNat ∧ lo = ((SMap.get? s.chip.regs
      (lowHalf (cve k.val off.toNat))).map (fun w => w.toNat)).getD (s.chip.reg (cve k.val off.toNat)) ∧ (2 ^ (s.chip.cveOf
      k.val).width ≤ lo + 2 ^ 32 * val.toNat ∨ (off = 0 ∧ lo % 2 = 0))) ∧
    (∃ (dom : Dom) (k : Fin 32) (hi : Bool) (fold : Bool) (off : BitVec 12) (val : Word) (o : Nat) (v : Nat) (i : Instr) (s
      : State), 29 ≤ k.val ∧ (off.toNat ≤ 0x1C ∧ off.toNat % 4 = 0 ∧ (off = 0x18 → val.toNat &&& 0x003F077F = val.toNat) ∧ i
      = .cveSettingWrite dom k off val ∧ o = off.toNat ∧ v = val.toNat) ∨ (val.toNat < 256 ∧ i = .cveFeedB dom k val ∧ o =
      0x20 ∧ v = val.toNat) ∨ (val.toNat < 65536 ∧ i = .cveFeedH dom k val ∧ o = 0x24 ∧ v = val.toNat) ∨ (i = .cveFeedW dom
      k val ∧ o = 0x28 ∧ v = val.toNat) ∨ (i = .cveStart dom k fold ∧ o = 0x2C ∧ v = 1 + 2 * b2n fold) ∨ (i = .cveFold dom k
      ∧ o = 0x2C ∧ v = 2) ∨ (i = .cveStateWrite dom k hi val ∧ o = (if hi then 0x34 else 0x30) ∧ v = val.toNat) ∧ MayWrite
      s.chip dom 24 0x4C (0x100 + 0x40 * k.val + o) v) ∧
    (∃ (dom : Dom) (k : Fin 32) (hi : Bool) (fold : Bool) (off : BitVec 12) (val : Word) (o : Nat) (v : Nat) (i : Instr) (s
      : State), 29 ≤ k.val ∧ (off.toNat ≤ 0x1C ∧ off.toNat % 4 = 0 ∧ (off = 0x18 → val.toNat &&& 0x003F077F = val.toNat) ∧ i
      = .cveSettingWrite dom k off val ∧ o = off.toNat ∧ v = val.toNat) ∨ (val.toNat < 256 ∧ i = .cveFeedB dom k val ∧ o =
      0x20 ∧ v = val.toNat) ∨ (val.toNat < 65536 ∧ i = .cveFeedH dom k val ∧ o = 0x24 ∧ v = val.toNat) ∨ (i = .cveFeedW dom
      k val ∧ o = 0x28 ∧ v = val.toNat) ∨ (i = .cveStart dom k fold ∧ o = 0x2C ∧ v = 1 + 2 * b2n fold) ∨ (i = .cveFold dom k
      ∧ o = 0x2C ∧ v = 2) ∨ (i = .cveStateWrite dom k hi val ∧ o = (if hi then 0x34 else 0x30) ∧ v = val.toNat) ∧ MayWrite
      s.chip dom 24 0x4C (0x100 + 0x40 * k.val + o) v) ∧
    (∃ (dom : Dom) (k : Fin 32) (hi : Bool) (fold : Bool) (off : BitVec 12) (val : Word) (o : Nat) (v : Nat) (i : Instr) (s
      : State), 29 ≤ k.val ∧ (off.toNat ≤ 0x1C ∧ off.toNat % 4 = 0 ∧ (off = 0x18 → val.toNat &&& 0x003F077F = val.toNat) ∧ i
      = .cveSettingWrite dom k off val ∧ o = off.toNat ∧ v = val.toNat) ∨ (val.toNat < 256 ∧ i = .cveFeedB dom k val ∧ o =
      0x20 ∧ v = val.toNat) ∨ (val.toNat < 65536 ∧ i = .cveFeedH dom k val ∧ o = 0x24 ∧ v = val.toNat) ∨ (i = .cveFeedW dom
      k val ∧ o = 0x28 ∧ v = val.toNat) ∨ (i = .cveStart dom k fold ∧ o = 0x2C ∧ v = 1 + 2 * b2n fold) ∨ (i = .cveFold dom k
      ∧ o = 0x2C ∧ v = 2) ∨ (i = .cveStateWrite dom k hi val ∧ o = (if hi then 0x34 else 0x30) ∧ v = val.toNat) ∧ MayWrite
      s.chip dom 24 0x4C (0x100 + 0x40 * k.val + o) v) ∧
    (∃ (dom : Dom) (k : Fin 32) (hi : Bool) (fold : Bool) (off : BitVec 12) (val : Word) (o : Nat) (v : Nat) (i : Instr) (s
      : State), 29 ≤ k.val ∧ (off.toNat ≤ 0x1C ∧ off.toNat % 4 = 0 ∧ (off = 0x18 → val.toNat &&& 0x003F077F = val.toNat) ∧ i
      = .cveSettingWrite dom k off val ∧ o = off.toNat ∧ v = val.toNat) ∨ (val.toNat < 256 ∧ i = .cveFeedB dom k val ∧ o =
      0x20 ∧ v = val.toNat) ∨ (val.toNat < 65536 ∧ i = .cveFeedH dom k val ∧ o = 0x24 ∧ v = val.toNat) ∨ (i = .cveFeedW dom
      k val ∧ o = 0x28 ∧ v = val.toNat) ∨ (i = .cveStart dom k fold ∧ o = 0x2C ∧ v = 1 + 2 * b2n fold) ∨ (i = .cveFold dom k
      ∧ o = 0x2C ∧ v = 2) ∨ (i = .cveStateWrite dom k hi val ∧ o = (if hi then 0x34 else 0x30) ∧ v = val.toNat) ∧ MayWrite
      s.chip dom 24 0x4C (0x100 + 0x40 * k.val + o) v) ∧
    (∃ (dom : Dom) (k : Fin 32) (hi : Bool) (fold : Bool) (off : BitVec 12) (val : Word) (o : Nat) (v : Nat) (i : Instr) (s
      : State), 29 ≤ k.val ∧ (off.toNat ≤ 0x1C ∧ off.toNat % 4 = 0 ∧ (off = 0x18 → val.toNat &&& 0x003F077F = val.toNat) ∧ i
      = .cveSettingWrite dom k off val ∧ o = off.toNat ∧ v = val.toNat) ∨ (val.toNat < 256 ∧ i = .cveFeedB dom k val ∧ o =
      0x20 ∧ v = val.toNat) ∨ (val.toNat < 65536 ∧ i = .cveFeedH dom k val ∧ o = 0x24 ∧ v = val.toNat) ∨ (i = .cveFeedW dom
      k val ∧ o = 0x28 ∧ v = val.toNat) ∨ (i = .cveStart dom k fold ∧ o = 0x2C ∧ v = 1 + 2 * b2n fold) ∨ (i = .cveFold dom k
      ∧ o = 0x2C ∧ v = 2) ∨ (i = .cveStateWrite dom k hi val ∧ o = (if hi then 0x34 else 0x30) ∧ v = val.toNat) ∧ MayWrite
      s.chip dom 24 0x4C (0x100 + 0x40 * k.val + o) v) ∧
    (∃ (dom : Dom) (k : Fin 32) (hi : Bool) (fold : Bool) (off : BitVec 12) (val : Word) (o : Nat) (v : Nat) (i : Instr) (s
      : State), 29 ≤ k.val ∧ (off.toNat ≤ 0x1C ∧ off.toNat % 4 = 0 ∧ (off = 0x18 → val.toNat &&& 0x003F077F = val.toNat) ∧ i
      = .cveSettingWrite dom k off val ∧ o = off.toNat ∧ v = val.toNat) ∨ (val.toNat < 256 ∧ i = .cveFeedB dom k val ∧ o =
      0x20 ∧ v = val.toNat) ∨ (val.toNat < 65536 ∧ i = .cveFeedH dom k val ∧ o = 0x24 ∧ v = val.toNat) ∨ (i = .cveFeedW dom
      k val ∧ o = 0x28 ∧ v = val.toNat) ∨ (i = .cveStart dom k fold ∧ o = 0x2C ∧ v = 1 + 2 * b2n fold) ∨ (i = .cveFold dom k
      ∧ o = 0x2C ∧ v = 2) ∨ (i = .cveStateWrite dom k hi val ∧ o = (if hi then 0x34 else 0x30) ∧ v = val.toNat) ∧ MayWrite
      s.chip dom 24 0x4C (0x100 + 0x40 * k.val + o) v) ∧
    (∃ (dom : Dom) (k : Fin 32) (hi : Bool) (fold : Bool) (off : BitVec 12) (val : Word) (o : Nat) (v : Nat) (i : Instr) (s
      : State), 29 ≤ k.val ∧ (off.toNat ≤ 0x1C ∧ off.toNat % 4 = 0 ∧ (off = 0x18 → val.toNat &&& 0x003F077F = val.toNat) ∧ i
      = .cveSettingWrite dom k off val ∧ o = off.toNat ∧ v = val.toNat) ∨ (val.toNat < 256 ∧ i = .cveFeedB dom k val ∧ o =
      0x20 ∧ v = val.toNat) ∨ (val.toNat < 65536 ∧ i = .cveFeedH dom k val ∧ o = 0x24 ∧ v = val.toNat) ∨ (i = .cveFeedW dom
      k val ∧ o = 0x28 ∧ v = val.toNat) ∨ (i = .cveStart dom k fold ∧ o = 0x2C ∧ v = 1 + 2 * b2n fold) ∨ (i = .cveFold dom k
      ∧ o = 0x2C ∧ v = 2) ∨ (i = .cveStateWrite dom k hi val ∧ o = (if hi then 0x34 else 0x30) ∧ v = val.toNat) ∧ MayWrite
      s.chip dom 24 0x4C (0x100 + 0x40 * k.val + o) v) ∧
    (∃ (dom : Dom) (k : Fin 32) (hi : Bool) (fold : Bool) (off : BitVec 12) (val : Word) (o : Nat) (v : Nat) (i : Instr) (s
      : State), 29 ≤ k.val ∧ (off.toNat ≤ 0x1C ∧ off.toNat % 4 = 0 ∧ (off = 0x18 → val.toNat &&& 0x003F077F = val.toNat) ∧ i
      = .cveSettingWrite dom k off val ∧ o = off.toNat ∧ v = val.toNat) ∨ (val.toNat < 256 ∧ i = .cveFeedB dom k val ∧ o =
      0x20 ∧ v = val.toNat) ∨ (val.toNat < 65536 ∧ i = .cveFeedH dom k val ∧ o = 0x24 ∧ v = val.toNat) ∨ (i = .cveFeedW dom
      k val ∧ o = 0x28 ∧ v = val.toNat) ∨ (i = .cveStart dom k fold ∧ o = 0x2C ∧ v = 1 + 2 * b2n fold) ∨ (i = .cveFold dom k
      ∧ o = 0x2C ∧ v = 2) ∨ (i = .cveStateWrite dom k hi val ∧ o = (if hi then 0x34 else 0x30) ∧ v = val.toNat) ∧ MayWrite
      s.chip dom 24 0x4C (0x100 + 0x40 * k.val + o) v) :=
  ⟨ (let dom : Dom := .owner; let k : Fin 32 := 28; let fold : Bool := true
     let s : State := mkS (fun c => ((((onPg 24 0x4C c).setReg (cve 28 0x18) 0x120).setReg (cve 28 0) 0x04C11DB7).setReg (cve 28 8) 0xFFFFFFFF).setReg (cve 28 0x1C) 5)
     ⟨dom, k, fold, s, by decide +kernel +zetaReduce⟩),
    (let dom : Dom := .owner; let k : Fin 32 := 28; let fold : Bool := false
     let s : State := mkS (fun c => ((((onPg 24 0x4C c).setReg (cve 28 0x18) 0x320).setReg (cve 28 0) 0x04C11DB7).setReg (cve 28 8) 0xFFFFFFFF))
     ⟨dom, k, fold, s, by decide +kernel +zetaReduce⟩),
    (let dom : Dom := .owner; let k : Fin 32 := 28
     let s : State := mkS (fun c => ((((onPg 24 0x4C c).setReg (cve 28 0x18) 0x120).setReg (cve 28 0) 0x04C11DB7).setReg (cve 28 8) 0xFFFFFFFF).setReg (cve 28 0x1C) 0xFFFFFFFF)
     ⟨dom, k, s, by decide +kernel +zetaReduce⟩),
    (let dom : Dom := .owner; let k : Fin 32 := 28; let val : Word := 255
     let s : State := mkS (fun c => ((((onPg 24 0x4C c).setReg (cve 28 0x18) 0x120).setReg (cve 28 0) 0x04C11DB7).setReg (cve 28 8) 0xFFFFFFFF))
     ⟨dom, k, val, s, by decide +kernel +zetaReduce⟩),
    (let dom : Dom := .owner; let k : Fin 32 := 28; let val : Word := 0
     let s : State := mkS (fun c => ((((onPg 24 0x4C c).setReg (cve 28 0x18) 0x320).setReg (cve 28 0) 0x04C11DB7).setReg (cve 28 8) 0xFFFFFFFF))
     ⟨dom, k, val, s, by decide +kernel +zetaReduce⟩),
    (let dom : Dom := .owner; let k : Fin 32 := 28; let val : Word := 0xFFFE
     let s : State := mkS (fun c => ((((onPg 24 0x4C c).setReg (cve 28 0x18) 0x120).setReg (cve 28 0) 0x04C11DB7).setReg (cve 28 8) 0xFFFFFFFF))
     ⟨dom, k, val, s, by decide +kernel +zetaReduce⟩),
    (let dom : Dom := .owner; let k : Fin 32 := 28; let val : Word := 0xFFFE
     let s : State := mkS (fun c => ((((onPg 24 0x4C c).setReg (cve 28 0x18) 0x520).setReg (cve 28 0) 0x04C11DB7).setReg (cve 28 8) 0xFFFFFFFF))
     ⟨dom, k, val, s, by decide +kernel +zetaReduce⟩),
    (let dom : Dom := .owner; let k : Fin 32 := 28; let val : Word := 0xFFFEFDFC
     let s : State := mkS (fun c => ((((onPg 24 0x4C c).setReg (cve 28 0x18) 0x120).setReg (cve 28 0) 0x04C11DB7).setReg (cve 28 8) 0xFFFFFFFF))
     ⟨dom, k, val, s, by decide +kernel +zetaReduce⟩),
    (let dom : Dom := .owner; let k : Fin 32 := 28; let val : Word := 0xFFFEFDFC
     let s : State := mkS (fun c => ((((onPg 24 0x4C c).setReg (cve 28 0x18) 0x720).setReg (cve 28 0) 0x04C11DB7).setReg (cve 28 8) 0xFFFFFFFF))
     ⟨dom, k, val, s, by decide +kernel +zetaReduce⟩),
    (let dom : Dom := .owner; let k : Fin 32 := 28; let hi : Bool := true; let val : Word := 5
     let s : State := mkS (fun c => ((((onPg 24 0x4C c).setReg (cve 28 0x18) 0x120).setReg (cve 28 0) 0x04C11DB7).setReg (cve 28 8) 0xFFFFFFFF))
     ⟨dom, k, hi, val, s, by decide +kernel +zetaReduce⟩),
    (let dom : Dom := .owner; let k : Fin 32 := 28; let hi : Bool := false; let val : Word := 5
     let s : State := mkS (fun c => ((((onPg 24 0x4C c).setReg (cve 28 0x18) 0x120).setReg (cve 28 0) 0x04C11DB7).setReg (cve 28 8) 0xFFFFFFFF))
     ⟨dom, k, hi, val, s, by decide +kernel +zetaReduce⟩),
    (let dom : Dom := .owner; let k : Fin 32 := 31
     let s : State := mkS (fun c => (((onPg 24 0x4C c).setReg (cve 31 0x18) 0x40).setReg (cve 31 0x34) 5))
     ⟨dom, k, s, by decide +kernel +zetaReduce⟩),
    (let dom : Dom := .owner; let k : Fin 32 := 28
     let s : State := mkS (fun c => (((((onPg 24 0x4C c).setReg (cve 28 0x18) 0x320).setReg (cve 28 0) 0x04C11DB7).setReg (cve 28 8) 0xFFFFFFFF)).setReg (cve 28 0x30) 5)
     ⟨dom, k, s, by decide +kernel +zetaReduce⟩),
    (let dom : Dom := .owner; let k : Fin 32 := 31
     let s : State := mkS (fun c => (((onPg 24 0x4C c).setReg (cve 31 0x18) 0x40).setReg (cve 31 0x34) 5))
     ⟨dom, k, s, by decide +kernel +zetaReduce⟩),
    (let dom : Dom := .owner; let k : Fin 32 := 28
     let s : State := mkS (fun c => (((((onPg 24 0x4C c).setReg (cve 28 0x18) 0x320).setReg (cve 28 0) 0x04C11DB7).setReg (cve 28 8) 0xFFFFFFFF)).setReg (cve 28 0x30) 5)
     ⟨dom, k, s, by decide +kernel +zetaReduce⟩),
    (let dom : Dom := .owner; let k : Fin 32 := 31; let off : BitVec 12 := 0x3C
     let s : State := mkS (fun c => { onPg 24 0x4C c with latch := SMap.set c.latch (latchKey .owner (cve 31 0x38)) 7 })
     ⟨dom, k, s, off, by decide +kernel +zetaReduce⟩),
    (let dom : Dom := .owner; let k : Fin 32 := 0; let off : BitVec 12 := 0x34; let s : State := mkS (fun c => c)
     ⟨dom, k, s, off, by decide +kernel +zetaReduce⟩),
    (let dom : Dom := .owner; let k : Fin 32 := 28; let val : Word := 0x3F0740
     let s : State := mkS (fun c => onPg 24 0x4C c); ⟨dom, k, val, s, by decide +kernel +zetaReduce⟩),
    (let dom : Dom := .owner; let k : Fin 32 := 28; let val : Word := 0x20
     let s : State := mkS (fun c => ((((onPg 24 0x4C c).setReg (cve 28 0x18) 0x120).setReg (cve 28 0) 0x04C11DB7).setReg (cve 28 8) 0xFFFFFFFF))
     ⟨dom, k, val, s, by decide +kernel +zetaReduce⟩),
    (let dom : Dom := .owner; let k : Fin 32 := 28; let val : Word := 7; let s : State := mkS (fun c => c)
     ⟨dom, k, val, s, by decide +kernel +zetaReduce⟩),
    (let dom : Dom := .owner; let k : Fin 32 := 28; let val : Word := 0x41; let s : State := mkS (fun c => c)
     ⟨dom, k, val, s, by decide +kernel +zetaReduce⟩),
    (let dom : Dom := .owner; let k : Fin 32 := 28; let val : Word := 0x200020; let s : State := mkS (fun c => c)
     ⟨dom, k, val, s, by decide +kernel +zetaReduce⟩),
    (let dom : Dom := .owner; let k : Fin 32 := 28; let val : Word := 0x1F; let s : State := mkS (fun c => c)
     ⟨dom, k, val, s, by decide +kernel +zetaReduce⟩),
    (let dom : Dom := .owner; let k : Fin 32 := 28; let val : Word := 5
     let s : State := mkS (fun c => ((((onPg 24 0x4C c).setReg (cve 28 0x18) 0x120).setReg (cve 28 0) 0x04C11DB7).setReg (cve 28 8) 0xFFFFFFFF))
     ⟨dom, k, val, s, by decide +kernel +zetaReduce⟩),
    (let dom : Dom := .owner; let k : Fin 32 := 28; let off : BitVec 12 := 0; let val : Word := 5
     let s : State := mkS (fun c => ((((onPg 24 0x4C c).setReg (cve 28 0x18) 0x120).setReg (cve 28 0) 0x04C11DB7).setReg (cve 28 8) 0xFFFFFFFF))
     ⟨dom, k, off, val, s, by decide +kernel +zetaReduce⟩),
    (let dom : Dom := .owner; let k : Fin 32 := 28; let off : BitVec 12 := 0x10; let val : Word := 0xFFFFFFFF
     let s : State := mkS (fun c => c); ⟨dom, k, off, val, s, by decide +kernel +zetaReduce⟩),
    (let dom : Dom := .owner; let k : Fin 32 := 28; let off : BitVec 12 := 0; let val : Word := 0
     let s : State := mkS (fun c => c)
     let lo : Nat := ((SMap.get? s.chip.regs (lowHalf (cve k.val off.toNat))).map (fun w => w.toNat)).getD (s.chip.reg (cve k.val off.toNat))
     ⟨dom, k, off, val, lo, s, by decide +kernel +zetaReduce⟩),
    (let dom : Dom := .owner; let k : Fin 32 := 28; let off : BitVec 12 := 8; let val : Word := 0xFFFFFFFF
     let s : State := mkS (fun c => ((c.setReg (cve 28 0x18) 0x40).setReg (lowHalf (cve 28 8)) 0xFFFFFFFE))
     let lo : Nat := ((SMap.get? s.chip.regs (lowHalf (cve k.val off.toNat))).map (fun w => w.toNat)).getD (s.chip.reg (cve k.val off.toNat))
     ⟨dom, k, off, val, lo, s, by decide +kernel +zetaReduce⟩),
    (let dom : Dom := .owner; let k : Fin 32 := 28; let off : BitVec 12 := 0x10; let val : Word := 0
     let s : State := mkS (fun c => ((c.setReg (cve 28 0x18) 0x20).setReg (lowHalf (cve 28 0x10)) 2))
     let lo : Nat := ((SMap.get? s.chip.regs (lowHalf (cve k.val off.toNat))).map (fun w => w.toNat)).getD (s.chip.reg (cve k.val off.toNat))
     ⟨dom, k, off, val, lo, s, by decide +kernel +zetaReduce⟩),
    (let dom : Dom := .owner; let k : Fin 32 := 28; let off : BitVec 12 := 0; let val : Word := 0
     let s : State := mkS (fun c => c.setReg (lowHalf (cve 28 0)) 4)
     let lo : Nat := ((SMap.get? s.chip.regs (lowHalf (cve k.val off.toNat))).map (fun w => w.toNat)).getD (s.chip.reg (cve k.val off.toNat))
     ⟨dom, k, off, val, lo, s, by decide +kernel +zetaReduce⟩),
    (let dom : Dom := .owner; let k : Fin 32 := 28; let off : BitVec 12 := 8; let val : Word := 1
     let s : State := mkS (fun c => c)
     let lo : Nat := ((SMap.get? s.chip.regs (lowHalf (cve k.val off.toNat))).map (fun w => w.toNat)).getD (s.chip.reg (cve k.val off.toNat))
     ⟨dom, k, off, val, lo, s, by decide +kernel +zetaReduce⟩),
    (let dom : Dom := .owner; let k : Fin 32 := 29; let off : BitVec 12 := 0x1C; let val : Word := 5
     let hi : Bool := true; let fold : Bool := true; let i : Instr := .cveSettingWrite .owner 29 0x1C 5
     let o : Nat := 0x1C; let v : Nat := 5; let s : State := mkS (fun c => onPg 24 0x4C c)
     ⟨dom, k, hi, fold, off, val, o, v, i, s, by decide +kernel +zetaReduce⟩),
    (let dom : Dom := .owner; let k : Fin 32 := 31; let off : BitVec 12 := 0x18; let val : Word := 0x3F0740
     let hi : Bool := true; let fold : Bool := true; let i : Instr := .cveSettingWrite .owner 31 0x18 0x3F0740
     let o : Nat := 0x18; let v : Nat := 0x3F0740; let s : State := mkS (fun c => onPg 24 0x4C c)
     ⟨dom, k, hi, fold, off, val, o, v, i, s, by decide +kernel +zetaReduce⟩),
    (let dom : Dom := .owner; let k : Fin 32 := 30; let off : BitVec 12 := 0; let val : Word := 255; let hi : Bool := true
     let fold : Bool := true; let i : Instr := .cveFeedB .owner 30 255; let o : Nat := 0x20; let v : Nat := 255
     let s : State := mkS (fun c => onPg 24 0x4C c)
     ⟨dom, k, hi, fold, off, val, o, v, i, s, by decide +kernel +zetaReduce⟩),
    (let dom : Dom := .owner; let k : Fin 32 := 30; let off : BitVec 12 := 0; let val : Word := 65535
     let hi : Bool := true; let fold : Bool := true; let i : Instr := .cveFeedH .owner 30 65535; let o : Nat := 0x24
     let v : Nat := 65535; let s : State := mkS (fun c => onPg 24 0x4C c)
     ⟨dom, k, hi, fold, off, val, o, v, i, s, by decide +kernel +zetaReduce⟩),
    (let dom : Dom := .owner; let k : Fin 32 := 31; let off : BitVec 12 := 0; let val : Word := 0xFFFFFFFF
     let hi : Bool := true; let fold : Bool := true; let i : Instr := .cveFeedW .owner 31 0xFFFFFFFF; let o : Nat := 0x28
     let v : Nat := 0xFFFFFFFF; let s : State := mkS (fun c => onPg 24 0x4C c)
     ⟨dom, k, hi, fold, off, val, o, v, i, s, by decide +kernel +zetaReduce⟩),
    (let dom : Dom := .owner; let k : Fin 32 := 29; let off : BitVec 12 := 0; let val : Word := 0; let hi : Bool := true
     let fold : Bool := true; let i : Instr := .cveStart .owner 29 true; let o : Nat := 0x2C; let v : Nat := 3
     let s : State := mkS (fun c => onPg 24 0x4C c)
     ⟨dom, k, hi, fold, off, val, o, v, i, s, by decide +kernel +zetaReduce⟩),
    (let dom : Dom := .owner; let k : Fin 32 := 29; let off : BitVec 12 := 0; let val : Word := 0; let hi : Bool := true
     let fold : Bool := true; let i : Instr := .cveFold .owner 29; let o : Nat := 0x2C; let v : Nat := 2
     let s : State := mkS (fun c => onPg 24 0x4C c)
     ⟨dom, k, hi, fold, off, val, o, v, i, s, by decide +kernel +zetaReduce⟩),
    (let dom : Dom := .owner; let k : Fin 32 := 31; let off : BitVec 12 := 0; let val : Word := 9; let hi : Bool := true
     let fold : Bool := true; let i : Instr := .cveStateWrite .owner 31 true 9; let o : Nat := 0x34; let v : Nat := 9
     let s : State := mkS (fun c => onPg 24 0x4C c)
     ⟨dom, k, hi, fold, off, val, o, v, i, s, by decide +kernel +zetaReduce⟩)⟩

/-- States and operands that meet the hypotheses of `Obligations.CheckValuesKeepTheirWidth`, clause by clause. -/
theorem witness_CheckValuesKeepTheirWidth :
    (∃ (k : Cve) (s : Nat) (b : Nat) (top : BitVec 64) (mask : BitVec 64), 0 < k.width ∧ k.width ≤ 64 ∧ k.poly < 2 ^ k.width
      ∧ s < 2 ^ k.width ∧ b < 256 ∧ top = 1#64 <<< (k.width - 1) ∧ mask = top ||| (top - 1#64)) ∧
    (∃ (k : Cve) (s : Nat) (b : Nat) (top : BitVec 64) (mask : BitVec 64), 0 < k.width ∧ k.width ≤ 64 ∧ k.poly < 2 ^ k.width
      ∧ s < 2 ^ k.width ∧ b < 256 ∧ top = 1#64 <<< (k.width - 1) ∧ mask = top ||| (top - 1#64)) ∧
    (∃ (k : Cve) (s : Nat) (b : Nat) (top : BitVec 64) (mask : BitVec 64), 0 < k.width ∧ k.width ≤ 64 ∧ k.poly < 2 ^ k.width
      ∧ s < 2 ^ k.width ∧ b < 256 ∧ top = 1#64 <<< (k.width - 1) ∧ mask = top ||| (top - 1#64)) ∧
    (∃ (k : Cve) (s : Nat) (b : Nat) (top : BitVec 64) (mask : BitVec 64), 0 < k.width ∧ k.width ≤ 64 ∧ k.poly < 2 ^ k.width
      ∧ s < 2 ^ k.width ∧ b < 256 ∧ top = 1#64 <<< (k.width - 1) ∧ mask = top ||| (top - 1#64)) ∧
    (∃ (k : Cve) (s : Nat), 0 < k.width ∧ k.poly < 2 ^ k.width ∧ s < 2 ^ k.width) ∧
    (∃ (k : Cve) (s : Nat), 0 < k.width ∧ k.poly < 2 ^ k.width ∧ s < 2 ^ k.width) ∧
    (∃ (k : Cve) (s : Nat), 0 < k.width ∧ k.poly < 2 ^ k.width ∧ s < 2 ^ k.width) ∧
    (∃ (w : Nat) (x : Nat), x < 2 ^ w) ∧
    (∃ (w : Nat) (x : Nat), x < 2 ^ w) :=
  ⟨ (let k : Cve := { Chip.reset.cveOf 0 with width := 64, poly := 18446744073709551615, refin := true }
     let s : Nat := 18446744073709551615; let b : Nat := 90; let top : BitVec 64 := 1#64 <<< (k.width - 1)
     let mask : BitVec 64 := top ||| (top - 1#64); ⟨k, s, b, top, mask, by decide +kernel +zetaReduce⟩),
    (let k : Cve := { Chip.reset.cveOf 0 with width := 1, poly := 1, refin := false }; let s : Nat := 1
     let b : Nat := 255; let top : BitVec 64 := 1#64 <<< (k.width - 1); let mask : BitVec 64 := top ||| (top - 1#64)
     ⟨k, s, b, top, mask, by decide +kernel +zetaReduce⟩),
    (let k : Cve := { Chip.reset.cveOf 0 with width := 64, poly := 4823603603198064275, refin := false }
     let s : Nat := 9223372036854775817; let b : Nat := 165; let top : BitVec 64 := 1#64 <<< (k.width - 1)
     let mask : BitVec 64 := top ||| (top - 1#64); ⟨k, s, b, top, mask, by decide +kernel +zetaReduce⟩),
    (let k : Cve := { Chip.reset.cveOf 0 with width := 32, poly := 517762881, refin := true }; let s : Nat := 4294967295
     let b : Nat := 49; let top : BitVec 64 := 1#64 <<< (k.width - 1); let mask : BitVec 64 := top ||| (top - 1#64)
     ⟨k, s, b, top, mask, by decide +kernel +zetaReduce⟩),
    (let k : Cve := { Chip.reset.cveOf 0 with width := 64, poly := 18446744073709551615, refin := true }
     let s : Nat := 18446744073709551615; ⟨k, s, by decide +kernel +zetaReduce⟩),
    (let k : Cve := { Chip.reset.cveOf 0 with width := 1, poly := 1, refin := false }; let s : Nat := 1
     ⟨k, s, by decide +kernel +zetaReduce⟩),
    (let k : Cve := { Chip.reset.cveOf 0 with width := 8, poly := 7, refin := true }; let s : Nat := 255
     ⟨k, s, by decide +kernel +zetaReduce⟩),
    (let w : Nat := 5; let x : Nat := 19; ⟨w, x, by decide +kernel +zetaReduce⟩),
    (let w : Nat := 0; let x : Nat := 0; ⟨w, x, by decide +kernel +zetaReduce⟩)⟩

/-- States and operands that meet the hypotheses of `Obligations.ThreadFrames`, clause by clause. -/
theorem witness_ThreadFrames :
    (∃ (s : State), s.chip.threadOn = false) ∧
    (∃ (l : List Byte) (s : State), s.chip.threadOn = true ∧ (8192 < leAt l 4 2 ∨ byteAt l 2 = 0 ∨ 5 < byteAt l 2 ∨ l.length
      ≠ 12 + leAt l 4 2 ∨ leAt l (8 + leAt l 4 2) 4 ≠ (crc32 (l.take (8 + leAt l 4 2))).toNat)) ∧
    (∃ (l : List Byte) (s : State), s.chip.threadOn = true ∧ (8192 < leAt l 4 2 ∨ byteAt l 2 = 0 ∨ 5 < byteAt l 2 ∨ l.length
      ≠ 12 + leAt l 4 2 ∨ leAt l (8 + leAt l 4 2) 4 ≠ (crc32 (l.take (8 + leAt l 4 2))).toNat)) ∧
    (∃ (l : List Byte) (s : State), s.chip.threadOn = true ∧ (8192 < leAt l 4 2 ∨ byteAt l 2 = 0 ∨ 5 < byteAt l 2 ∨ l.length
      ≠ 12 + leAt l 4 2 ∨ leAt l (8 + leAt l 4 2) 4 ≠ (crc32 (l.take (8 + leAt l 4 2))).toNat)) ∧
    (∃ (l : List Byte) (s : State), s.chip.threadOn = true ∧ (8192 < leAt l 4 2 ∨ byteAt l 2 = 0 ∨ 5 < byteAt l 2 ∨ l.length
      ≠ 12 + leAt l 4 2 ∨ leAt l (8 + leAt l 4 2) 4 ≠ (crc32 (l.take (8 + leAt l 4 2))).toNat)) ∧
    (∃ (dst : Nat) (src : Nat) (kind : Nat) (hops : Nat) (pay : List Byte) (c : Chip) (s : State), s.chip.threadOn = true ∧
      dst < 256 ∧ src < 256 ∧ 1 ≤ kind ∧ kind ≤ 5 ∧ hops < 256 ∧ pay.length ≤ 8192 ∧ c = (s.chip.onMgmt (fun m =>
      { m with rxLock := true })).bump (thr 0x108) 1 ∧ 63 ≤ hops) ∧
    (∃ (dst : Nat) (src : Nat) (kind : Nat) (hops : Nat) (pay : List Byte) (c : Chip) (s : State), s.chip.threadOn = true ∧
      dst < 256 ∧ src < 256 ∧ 1 ≤ kind ∧ kind ≤ 5 ∧ hops < 256 ∧ pay.length ≤ 8192 ∧ c = (s.chip.onMgmt (fun m =>
      { m with rxLock := true })).bump (thr 0x108) 1 ∧ 63 ≤ hops) ∧
    (∃ (dst : Nat) (src : Nat) (kind : Nat) (hops : Nat) (pay : List Byte) (c : Chip) (s : State), s.chip.threadOn = true ∧
      dst < 256 ∧ src < 256 ∧ 1 ≤ kind ∧ kind ≤ 5 ∧ hops < 256 ∧ pay.length ≤ 8192 ∧ c = (s.chip.onMgmt (fun m =>
      { m with rxLock := true })).bump (thr 0x108) 1 ∧ hops < 63 ∧ s.chip.mgmt.addr = some src) ∧
    (∃ (dst : Nat) (src : Nat) (kind : Nat) (hops : Nat) (pay : List Byte) (c : Chip) (s : State), s.chip.threadOn = true ∧
      dst < 256 ∧ src < 256 ∧ 1 ≤ kind ∧ kind ≤ 5 ∧ hops < 256 ∧ pay.length ≤ 8192 ∧ c = (s.chip.onMgmt (fun m =>
      { m with rxLock := true })).bump (thr 0x108) 1 ∧ hops < 63 ∧ s.chip.mgmt.addr ≠ some src ∧ kind ≠ 1 ∧ s.chip.mgmt.addr
      = some dst) ∧
    (∃ (dst : Nat) (src : Nat) (kind : Nat) (hops : Nat) (pay : List Byte) (c : Chip) (s : State), s.chip.threadOn = true ∧
      dst < 256 ∧ src < 256 ∧ 1 ≤ kind ∧ kind ≤ 5 ∧ hops < 256 ∧ pay.length ≤ 8192 ∧ c = (s.chip.onMgmt (fun m =>
      { m with rxLock := true })).bump (thr 0x108) 1 ∧ hops < 63 ∧ s.chip.mgmt.addr ≠ some src ∧ kind ≠ 1 ∧ s.chip.mgmt.addr
      = some dst) ∧
    (∃ (dst : Nat) (src : Nat) (kind : Nat) (hops : Nat) (pay : List Byte) (c : Chip) (s : State), s.chip.threadOn = true ∧
      dst < 256 ∧ src < 256 ∧ 1 ≤ kind ∧ kind ≤ 5 ∧ hops < 256 ∧ pay.length ≤ 8192 ∧ c = (s.chip.onMgmt (fun m =>
      { m with rxLock := true })).bump (thr 0x108) 1 ∧ hops < 63 ∧ s.chip.mgmt.addr ≠ some src ∧ kind ≠ 1 ∧ s.chip.mgmt.addr
      ≠ some dst ∧ dst = 0x3F) ∧
    (∃ (dst : Nat) (src : Nat) (kind : Nat) (hops : Nat) (pay : List Byte) (c : Chip) (s : State), s.chip.threadOn = true ∧
      dst < 256 ∧ src < 256 ∧ 1 ≤ kind ∧ kind ≤ 5 ∧ hops < 256 ∧ pay.length ≤ 8192 ∧ c = (s.chip.onMgmt (fun m =>
      { m with rxLock := true })).bump (thr 0x108) 1 ∧ hops < 63 ∧ s.chip.mgmt.addr ≠ some src ∧ kind ≠ 1 ∧ s.chip.mgmt.addr
      ≠ some dst ∧ dst = 0x3F) ∧
    (∃ (dst : Nat) (src : Nat) (kind : Nat) (hops : Nat) (pay : List Byte) (c : Chip) (s : State), s.chip.threadOn = true ∧
      dst < 256 ∧ src < 256 ∧ 1 ≤ kind ∧ kind ≤ 5 ∧ hops < 256 ∧ pay.length ≤ 8192 ∧ c = (s.chip.onMgmt (fun m =>
      { m with rxLock := true })).bump (thr 0x108) 1 ∧ hops < 63 ∧ s.chip.mgmt.addr ≠ some src ∧ kind ≠ 1 ∧ s.chip.mgmt.addr
      ≠ some dst ∧ dst ≠ 0x3F) ∧
    (∃ (dst : Nat) (src : Nat) (kind : Nat) (hops : Nat) (pay : List Byte) (c : Chip) (s : State), s.chip.threadOn = true ∧
      dst < 256 ∧ src < 256 ∧ 1 ≤ kind ∧ kind ≤ 5 ∧ hops < 256 ∧ pay.length ≤ 8192 ∧ c = (s.chip.onMgmt (fun m =>
      { m with rxLock := true })).bump (thr 0x108) 1 ∧ hops < 63 ∧ s.chip.mgmt.addr ≠ some src ∧ kind ≠ 1 ∧ s.chip.mgmt.addr
      ≠ some dst ∧ dst ≠ 0x3F) ∧
    (∃ (next : Nat) (flags : Nat) (count : Nat) (hops : Nat) (recs : List Byte) (c : Chip) (s : State), s.chip.threadOn =
      true ∧ next < 256 ∧ flags < 2 ∧ count < 65536 ∧ hops < 63 ∧ recs.length ≤ 8188 ∧ s.chip.mgmt.addr ≠ some 0 ∧ c =
      (s.chip.onMgmt (fun m => { m with rxLock := true })).bump (thr 0x108) 1 ∧ next ≤ 0x3E ∧ (flags = 1 ∨ s.chip.mgmt.addr
      = none)) ∧
    (∃ (next : Nat) (flags : Nat) (count : Nat) (hops : Nat) (recs : List Byte) (c : Chip) (s : State), s.chip.threadOn =
      true ∧ next < 256 ∧ flags < 2 ∧ count < 65536 ∧ hops < 63 ∧ recs.length ≤ 8188 ∧ s.chip.mgmt.addr ≠ some 0 ∧ c =
      (s.chip.onMgmt (fun m => { m with rxLock := true })).bump (thr 0x108) 1 ∧ next ≤ 0x3E ∧ (flags = 1 ∨ s.chip.mgmt.addr
      = none)) ∧
    (∃ (next : Nat) (flags : Nat) (count : Nat) (hops : Nat) (recs : List Byte) (c : Chip) (s : State) (a : _),
      s.chip.threadOn = true ∧ next < 256 ∧ flags < 2 ∧ count < 65536 ∧ hops < 63 ∧ recs.length ≤ 8188 ∧ s.chip.mgmt.addr ≠
      some 0 ∧ c = (s.chip.onMgmt (fun m => { m with rxLock := true })).bump (thr 0x108) 1 ∧ flags = 0 ∧ s.chip.mgmt.addr =
      some a) ∧
    (∃ (next : Nat) (flags : Nat) (count : Nat) (hops : Nat) (recs : List Byte) (c : Chip) (s : State), s.chip.threadOn =
      true ∧ next < 256 ∧ flags < 2 ∧ count < 65536 ∧ hops < 63 ∧ recs.length ≤ 8188 ∧ s.chip.mgmt.addr ≠ some 0 ∧ c =
      (s.chip.onMgmt (fun m => { m with rxLock := true })).bump (thr 0x108) 1 ∧ 0x3E < next ∧ (flags = 1 ∨ s.chip.mgmt.addr
      = none)) ∧
    (∃ (next : Nat) (flags : Nat) (count : Nat) (hops : Nat) (recs : List Byte) (c : Chip) (s : State), s.chip.threadOn =
      true ∧ next < 256 ∧ flags < 2 ∧ count < 65536 ∧ hops < 63 ∧ recs.length ≤ 8188 ∧ s.chip.mgmt.addr ≠ some 0 ∧ c =
      (s.chip.onMgmt (fun m => { m with rxLock := true })).bump (thr 0x108) 1 ∧ 0x3E < next ∧ (flags = 1 ∨ s.chip.mgmt.addr
      = none)) ∧
    (∃ (c : Chip) (s : State), s.chip.threadOn = true ∧ s.chip.mgmt.addr = none ∧ c = s.chip.till s.chip.mgmt.helloAt) ∧
    (∃ (a : Nat) (q : List EvEnt) (s : State), s.chip.threadOn = true ∧ s.chip.mgmt.addr = some a ∧ s.chip.regBit (thr
      0x100) 0 = true ∧ s.chip.mgmt.evq.getD 0 [] = q ∧ q ≠ []) ∧
    (∃ (a : Nat) (q : List EvEnt) (s : State), s.chip.threadOn = true ∧ s.chip.mgmt.addr = some a ∧ s.chip.regBit (thr
      0x100) 0 = true ∧ s.chip.mgmt.evq.getD 0 [] = q ∧ q ≠ []) :=
  ⟨ (let s : State := mkS id; ⟨s, by decide +kernel +zetaReduce⟩),
    (let l : List Byte := []; let s : State := mkS (fun c => thOn (some 7) c); ⟨l, s, by decide +kernel +zetaReduce⟩),
    (let l : List Byte := threadFrame 1 2 6 0 []; let s : State := mkS (fun c => thOn (some 7) c)
     ⟨l, s, by decide +kernel +zetaReduce⟩),
    (let l : List Byte := threadFrame 1 2 5 0 [] ++ [0]; let s : State := mkS (fun c => thOn (some 7) c)
     ⟨l, s, by decide +kernel +zetaReduce⟩),
    (let l : List Byte := threadFrame 1 2 0 0 []; let s : State := mkS (fun c => thOn (some 7) c)
     ⟨l, s, by decide +kernel +zetaReduce⟩),
    (let dst : Nat := 0; let src : Nat := 0; let kind : Nat := 1; let hops : Nat := 63; let pay : List Byte := []
     let s : State := mkS (fun c => thOn (some 7) c)
     let c : Chip := (s.chip.onMgmt (fun m => { m with rxLock := true })).bump (thr 0x108) 1
     ⟨dst, src, kind, hops, pay, c, s, by decide +kernel +zetaReduce⟩),
    (let dst : Nat := 7; let src : Nat := 9; let kind : Nat := 3; let hops : Nat := 255; let pay : List Byte := [1, 2]
     let s : State := mkS (fun c => thOn (some 7) c)
     let c : Chip := (s.chip.onMgmt (fun m => { m with rxLock := true })).bump (thr 0x108) 1
     ⟨dst, src, kind, hops, pay, c, s, by decide +kernel +zetaReduce⟩),
    (let dst : Nat := 0; let src : Nat := 7; let kind : Nat := 3; let hops : Nat := 62; let pay : List Byte := []
     let s : State := mkS (fun c => thOn (some 7) c)
     let c : Chip := (s.chip.onMgmt (fun m => { m with rxLock := true })).bump (thr 0x108) 1
     ⟨dst, src, kind, hops, pay, c, s, by decide +kernel +zetaReduce⟩),
    (let dst : Nat := 7; let src : Nat := 9; let kind : Nat := 3; let hops : Nat := 62; let pay : List Byte := [1, 2]
     let s : State := mkS (fun c => thOn (some 7) c)
     let c : Chip := (s.chip.onMgmt (fun m => { m with rxLock := true })).bump (thr 0x108) 1
     ⟨dst, src, kind, hops, pay, c, s, by decide +kernel +zetaReduce⟩),
    (let dst : Nat := 7; let src : Nat := 9; let kind : Nat := 2; let hops : Nat := 0; let pay : List Byte := [1, 2]
     let s : State := mkS (fun c => thOn (some 7) c)
     let c : Chip := (s.chip.onMgmt (fun m => { m with rxLock := true })).bump (thr 0x108) 1
     ⟨dst, src, kind, hops, pay, c, s, by decide +kernel +zetaReduce⟩),
    (let dst : Nat := 63; let src : Nat := 9; let kind : Nat := 3; let hops : Nat := 62; let pay : List Byte := [1, 2]
     let s : State := mkS (fun c => thOn (some 7) c)
     let c : Chip := (s.chip.onMgmt (fun m => { m with rxLock := true })).bump (thr 0x108) 1
     ⟨dst, src, kind, hops, pay, c, s, by decide +kernel +zetaReduce⟩),
    (let dst : Nat := 63; let src : Nat := 9; let kind : Nat := 5; let hops : Nat := 0; let pay : List Byte := [1, 2]
     let s : State := mkS (fun c => thOn (some 7) c)
     let c : Chip := (s.chip.onMgmt (fun m => { m with rxLock := true })).bump (thr 0x108) 1
     ⟨dst, src, kind, hops, pay, c, s, by decide +kernel +zetaReduce⟩),
    (let dst : Nat := 8; let src : Nat := 9; let kind : Nat := 3; let hops : Nat := 62; let pay : List Byte := [1, 2]
     let s : State := mkS (fun c => thOn (some 7) c)
     let c : Chip := (s.chip.onMgmt (fun m => { m with rxLock := true })).bump (thr 0x108) 1
     ⟨dst, src, kind, hops, pay, c, s, by decide +kernel +zetaReduce⟩),
    (let dst : Nat := 8; let src : Nat := 9; let kind : Nat := 3; let hops : Nat := 62; let pay : List Byte := [1, 2]
     let s : State := mkS (fun c => thOn none c)
     let c : Chip := (s.chip.onMgmt (fun m => { m with rxLock := true })).bump (thr 0x108) 1
     ⟨dst, src, kind, hops, pay, c, s, by decide +kernel +zetaReduce⟩),
    (let next : Nat := 62; let flags : Nat := 1; let count : Nat := 65535; let hops : Nat := 62
     let recs : List Byte := [1]; let s : State := mkS (fun c => thOn (some 7) c)
     let c : Chip := (s.chip.onMgmt (fun m => { m with rxLock := true })).bump (thr 0x108) 1
     ⟨next, flags, count, hops, recs, c, s, by decide +kernel +zetaReduce⟩),
    (let next : Nat := 0; let flags : Nat := 0; let count : Nat := 0; let hops : Nat := 62; let recs : List Byte := [1]
     let s : State := mkS (fun c => thOn none c)
     let c : Chip := (s.chip.onMgmt (fun m => { m with rxLock := true })).bump (thr 0x108) 1
     ⟨next, flags, count, hops, recs, c, s, by decide +kernel +zetaReduce⟩),
    (let next : Nat := 255; let flags : Nat := 0; let count : Nat := 65535; let hops : Nat := 62
     let recs : List Byte := []; let a := 7; let s : State := mkS (fun c => thOn (some 7) c)
     let c : Chip := (s.chip.onMgmt (fun m => { m with rxLock := true })).bump (thr 0x108) 1
     ⟨next, flags, count, hops, recs, c, s, a, by decide +kernel +zetaReduce⟩),
    (let next : Nat := 63; let flags : Nat := 1; let count : Nat := 65535; let hops : Nat := 62
     let recs : List Byte := [1]; let s : State := mkS (fun c => thOn (some 7) c)
     let c : Chip := (s.chip.onMgmt (fun m => { m with rxLock := true })).bump (thr 0x108) 1
     ⟨next, flags, count, hops, recs, c, s, by decide +kernel +zetaReduce⟩),
    (let next : Nat := 255; let flags : Nat := 0; let count : Nat := 65535; let hops : Nat := 62
     let recs : List Byte := [1]; let s : State := mkS (fun c => thOn none c)
     let c : Chip := (s.chip.onMgmt (fun m => { m with rxLock := true })).bump (thr 0x108) 1
     ⟨next, flags, count, hops, recs, c, s, by decide +kernel +zetaReduce⟩),
    (let s : State := mkS (fun c => thOn none c); let c : Chip := s.chip.till s.chip.mgmt.helloAt
     ⟨c, s, by decide +kernel +zetaReduce⟩),
    (let a : Nat := 7; let q : List EvEnt := [{ time := 5, page := 6, evt := 7 }]
     let s : State := mkS (fun c => (thOn (some 7) c).onMgmt (fun m => { m with evq := [[{ time := 5, page := 6, evt := 7 }], []] }))
     ⟨a, q, s, by decide +kernel +zetaReduce⟩),
    (let a : Nat := 0; let q : List EvEnt := List.replicate 65 { time := 5, page := 6, evt := 7 }
     let s : State := mkS (fun c => (thOn (some 0) c).onMgmt (fun m => { m with evLost := [5, 3], evq := [List.replicate 65 { time := 5, page := 6, evt := 7 }, []] }))
     ⟨a, q, s, by decide +kernel +zetaReduce⟩)⟩

/-- States and operands that meet the hypotheses of `Obligations.RequestsAndResponses`, clause by clause. -/
theorem witness_RequestsAndResponses :
    (∃ (x : Nat × Arr) (s : State), s.chip.c0In.find? (fun x => !beatRequest x.2) = some x ∧ s.chip.rst.c0Up = true ∧
      x.2.hdr.op = 6 ∧ x.2.port = 1025) ∧
    (∃ (x : Nat × Arr) (s : State), s.chip.c0In.find? (fun x => !beatRequest x.2) = some x ∧ s.chip.rst.c0Up = true ∧
      x.2.hdr.op = 6 ∧ x.2.port ≠ 1025 ∧ s.chip.mgmt.fw < 3) ∧
    (∃ (x : Nat × Arr) (s : State), s.chip.c0In.find? (fun x => !beatRequest x.2) = some x ∧ s.chip.rst.c0Up = true ∧
      x.2.hdr.op = 6 ∧ x.2.port ≠ 1025 ∧ 3 ≤ s.chip.mgmt.fw ∧ s.chip.twin.role ≠ 0 ∧ 2 ≤ fld (leAt x.2.payload 4 4) 1 0 ∧
      fld (leAt x.2.payload 4 4) 1 0 ≠ 2 + s.chip.sideCode) ∧
    (∃ (x : Nat × Arr) (s : State), s.chip.c0In.find? (fun x => !beatRequest x.2) = some x ∧ s.chip.rst.c0Up = true ∧
      x.2.hdr.op = 6 ∧ x.2.port ≠ 1025 ∧ 3 ≤ s.chip.mgmt.fw ∧ (s.chip.twin.role = 0 ∨ fld (leAt x.2.payload 4 4) 1 0 < 2)) ∧
    (∃ (x : Nat × Arr) (s : State), s.chip.c0In.find? (fun x => !beatRequest x.2) = some x ∧ s.chip.rst.c0Up = true ∧
      x.2.hdr.op = 6 ∧ x.2.port ≠ 1025 ∧ 3 ≤ s.chip.mgmt.fw ∧ (s.chip.twin.role = 0 ∨ fld (leAt x.2.payload 4 4) 1 0 < 2)) ∧
    (∃ (x : Nat × Arr) (s : State), s.chip.c0In.find? (fun x => !beatRequest x.2) = some x ∧ s.chip.rst.c0Up = true ∧
      x.2.hdr.op = 6 ∧ x.2.port ≠ 1025 ∧ 3 ≤ s.chip.mgmt.fw ∧ s.chip.twin.role ≠ 0 ∧ fld (leAt x.2.payload 4 4) 1 0 = 2 +
      s.chip.sideCode) ∧
    (∃ (who : Requester) (pay : List Byte) (c : Chip), (pay.length < 8 ∨ leAt pay 0 2 ≠ 1 ∨ 16 ≤ leAt pay 4 4 ∨
      c.sideReserved who (leAt pay 4 4) = true ∨ parseCmds 33 (pay.drop 8) = none ∨ (parseCmds 33 (pay.drop 8)).any (fun l
      => l.isEmpty || decide (32 < l.length)) = true)) ∧
    (∃ (who : Requester) (pay : List Byte) (c : Chip), (pay.length < 8 ∨ leAt pay 0 2 ≠ 1 ∨ 16 ≤ leAt pay 4 4 ∨
      c.sideReserved who (leAt pay 4 4) = true ∨ parseCmds 33 (pay.drop 8) = none ∨ (parseCmds 33 (pay.drop 8)).any (fun l
      => l.isEmpty || decide (32 < l.length)) = true)) ∧
    (∃ (who : Requester) (pay : List Byte) (c : Chip), (pay.length < 8 ∨ leAt pay 0 2 ≠ 1 ∨ 16 ≤ leAt pay 4 4 ∨
      c.sideReserved who (leAt pay 4 4) = true ∨ parseCmds 33 (pay.drop 8) = none ∨ (parseCmds 33 (pay.drop 8)).any (fun l
      => l.isEmpty || decide (32 < l.length)) = true)) ∧
    (∃ (who : Requester) (pay : List Byte) (c : Chip), (pay.length < 8 ∨ leAt pay 0 2 ≠ 1 ∨ 16 ≤ leAt pay 4 4 ∨
      c.sideReserved who (leAt pay 4 4) = true ∨ parseCmds 33 (pay.drop 8) = none ∨ (parseCmds 33 (pay.drop 8)).any (fun l
      => l.isEmpty || decide (32 < l.length)) = true)) ∧
    (∃ (dom : Dom) (who : Requester) (pay : List Byte) (cmds : List MCmd) (ctrl : Nat) (tag : Nat) (c : Chip) (x : _), 8 ≤
      pay.length ∧ leAt pay 0 2 = 1 ∧ tag = leAt pay 2 2 ∧ ctrl = leAt pay 4 4 ∧ ctrl < 16 ∧ c.sideReserved who ctrl = false
      ∧ parseCmds 33 (pay.drop 8) = some cmds ∧ cmds ≠ [] ∧ cmds.length ≤ 32 ∧ tag ≠ 0 ∧ (c.mgmt.stored.getD (domIdx dom)
      []).find? (fun s => s.2.1 == tag && Requester.same s.1 who) = some x) ∧
    (∃ (dom : Dom) (who : Requester) (pay : List Byte) (cmds : List MCmd) (ctrl : Nat) (tag : Nat) (c : Chip) (r : _), r ∈
      c.mgmt.reqs.getD (domIdx dom) [] ∧ 8 ≤ pay.length ∧ leAt pay 0 2 = 1 ∧ tag = leAt pay 2 2 ∧ ctrl = leAt pay 4 4 ∧ ctrl
      < 16 ∧ c.sideReserved who ctrl = false ∧ parseCmds 33 (pay.drop 8) = some cmds ∧ cmds ≠ [] ∧ cmds.length ≤ 32 ∧ tag ≠
      0 ∧ r.tag = tag ∧ Requester.same r.who who = true ∧ (∀ x ∈ c.mgmt.stored.getD (domIdx dom) [], ¬ (x.2.1 = tag ∧
      Requester.same x.1 who = true))) ∧
    (∃ (dom : Dom) (who : Requester) (pay : List Byte) (cmds : List MCmd) (ctrl : Nat) (tag : Nat) (c : Chip), 8 ≤
      pay.length ∧ leAt pay 0 2 = 1 ∧ tag = leAt pay 2 2 ∧ ctrl = leAt pay 4 4 ∧ ctrl < 16 ∧ c.sideReserved who ctrl = false
      ∧ parseCmds 33 (pay.drop 8) = some cmds ∧ cmds ≠ [] ∧ cmds.length ≤ 32 ∧ (tag = 0 ∨ ((∀ x ∈ c.mgmt.stored.getD (domIdx
      dom) [], ¬ (x.2.1 = tag ∧ Requester.same x.1 who = true)) ∧ ∀ r ∈ c.mgmt.reqs.getD (domIdx dom) [], ¬ (r.tag = tag ∧
      Requester.same r.who who = true))) ∧ 8184 < (cmds.map (fun m => 8 + 4 * m.results)).sum) ∧
    (∃ (dom : Dom) (who : Requester) (pay : List Byte) (cmds : List MCmd) (ctrl : Nat) (tag : Nat) (c : Chip), 8 ≤
      pay.length ∧ leAt pay 0 2 = 1 ∧ tag = leAt pay 2 2 ∧ ctrl = leAt pay 4 4 ∧ ctrl < 16 ∧ c.sideReserved who ctrl = false
      ∧ parseCmds 33 (pay.drop 8) = some cmds ∧ cmds ≠ [] ∧ cmds.length ≤ 32 ∧ (tag = 0 ∨ ((∀ x ∈ c.mgmt.stored.getD (domIdx
      dom) [], ¬ (x.2.1 = tag ∧ Requester.same x.1 who = true)) ∧ ∀ r ∈ c.mgmt.reqs.getD (domIdx dom) [], ¬ (r.tag = tag ∧
      Requester.same r.who who = true))) ∧ 8184 < (cmds.map (fun m => 8 + 4 * m.results)).sum) ∧
    (∃ (dom : Dom) (who : Requester) (pay : List Byte) (cmds : List MCmd) (ctrl : Nat) (tag : Nat) (c : Chip), 8 ≤
      pay.length ∧ leAt pay 0 2 = 1 ∧ tag = leAt pay 2 2 ∧ ctrl = leAt pay 4 4 ∧ ctrl < 16 ∧ c.sideReserved who ctrl = false
      ∧ parseCmds 33 (pay.drop 8) = some cmds ∧ cmds ≠ [] ∧ cmds.length ≤ 32 ∧ (tag = 0 ∨ ((∀ x ∈ c.mgmt.stored.getD (domIdx
      dom) [], ¬ (x.2.1 = tag ∧ Requester.same x.1 who = true)) ∧ ∀ r ∈ c.mgmt.reqs.getD (domIdx dom) [], ¬ (r.tag = tag ∧
      Requester.same r.who who = true))) ∧ (cmds.map (fun m => 8 + 4 * m.results)).sum ≤ 8184 ∧ 4096 < c.cmdsHeld (domIdx
      dom) + cmds.length) ∧
    (∃ (dom : Dom) (who : Requester) (pay : List Byte) (cmds : List MCmd) (ctrl : Nat) (tag : Nat) (c : Chip), 8 ≤
      pay.length ∧ leAt pay 0 2 = 1 ∧ tag = leAt pay 2 2 ∧ ctrl = leAt pay 4 4 ∧ ctrl < 16 ∧ c.sideReserved who ctrl = false
      ∧ parseCmds 33 (pay.drop 8) = some cmds ∧ cmds ≠ [] ∧ cmds.length ≤ 32 ∧ (tag = 0 ∨ ((∀ x ∈ c.mgmt.stored.getD (domIdx
      dom) [], ¬ (x.2.1 = tag ∧ Requester.same x.1 who = true)) ∧ ∀ r ∈ c.mgmt.reqs.getD (domIdx dom) [], ¬ (r.tag = tag ∧
      Requester.same r.who who = true))) ∧ (cmds.map (fun m => 8 + 4 * m.results)).sum ≤ 8184 ∧ c.cmdsHeld (domIdx dom) +
      cmds.length ≤ 4096) ∧
    (∃ (dom : Dom) (who : Requester) (pay : List Byte) (cmds : List MCmd) (ctrl : Nat) (tag : Nat) (c : Chip), 8 ≤
      pay.length ∧ leAt pay 0 2 = 1 ∧ tag = leAt pay 2 2 ∧ ctrl = leAt pay 4 4 ∧ ctrl < 16 ∧ c.sideReserved who ctrl = false
      ∧ parseCmds 33 (pay.drop 8) = some cmds ∧ cmds ≠ [] ∧ cmds.length ≤ 32 ∧ (tag = 0 ∨ ((∀ x ∈ c.mgmt.stored.getD (domIdx
      dom) [], ¬ (x.2.1 = tag ∧ Requester.same x.1 who = true)) ∧ ∀ r ∈ c.mgmt.reqs.getD (domIdx dom) [], ¬ (r.tag = tag ∧
      Requester.same r.who who = true))) ∧ (cmds.map (fun m => 8 + 4 * m.results)).sum ≤ 8184 ∧ c.cmdsHeld (domIdx dom) +
      cmds.length ≤ 4096) ∧
    (∃ (dom : Dom) (who : Requester) (pay : List Byte) (cmds : List MCmd) (ctrl : Nat) (tag : Nat) (c : Chip), 8 ≤
      pay.length ∧ leAt pay 0 2 = 1 ∧ tag = leAt pay 2 2 ∧ ctrl = leAt pay 4 4 ∧ ctrl < 16 ∧ c.sideReserved who ctrl = false
      ∧ parseCmds 33 (pay.drop 8) = some cmds ∧ cmds ≠ [] ∧ cmds.length ≤ 32 ∧ (tag = 0 ∨ ((∀ x ∈ c.mgmt.stored.getD (domIdx
      dom) [], ¬ (x.2.1 = tag ∧ Requester.same x.1 who = true)) ∧ ∀ r ∈ c.mgmt.reqs.getD (domIdx dom) [], ¬ (r.tag = tag ∧
      Requester.same r.who who = true))) ∧ (cmds.map (fun m => 8 + 4 * m.results)).sum ≤ 8184 ∧ c.cmdsHeld (domIdx dom) +
      cmds.length ≤ 4096) ∧
    (∃ (first : Bool) (r : Req) (r1 : Req), r1 = r.settle 33 ∧ first = false ∧ r.pass = false) ∧
    (∃ (first : Bool) (r : Req) (r1 : Req), r1 = r.settle 33 ∧ (first = true ∨ r.pass = true) ∧ r1.next? = none) ∧
    (∃ (first : Bool) (r : Req) (r1 : Req), r1 = r.settle 33 ∧ (first = true ∨ r.pass = true) ∧ r1.next? = none) ∧
    (∃ (first : Bool) (r : Req) (r1 : Req), r1 = r.settle 33 ∧ (first = true ∨ r.pass = true) ∧ r1.next?.isSome = true ∧
      r1.waiting = true) ∧
    (∃ (first : Bool) (r : Req) (r1 : Req), r1 = r.settle 33 ∧ (first = true ∨ r.pass = true) ∧ r1.next?.isSome = true ∧
      r1.waiting = false) ∧
    (∃ (first : Bool) (r : Req) (r1 : Req), r1 = r.settle 33 ∧ (first = true ∨ r.pass = true) ∧ r1.next?.isSome = true ∧
      r1.waiting = false) ∧
    (∃ (r : Req) (m : MCmd), r.next? = some m ∧ m.unknown = true) ∧
    (∃ (r : Req) (m : MCmd), r.next? = some m ∧ m.unknown = false) ∧
    (∃ (st : Nat) (r : Req) (m : MCmd), r.next? = some m ∧ (r.stop = false ∨ st = 0)) ∧
    (∃ (st : Nat) (r : Req) (m : MCmd), r.next? = some m ∧ (r.stop = false ∨ st = 0)) ∧
    (∃ (st : Nat) (r : Req) (m : MCmd), r.next? = some m ∧ r.stop = true ∧ st ≠ 0) ∧
    (∃ (r : Req), r.next? = none) ∧
    (∃ (first : Bool) (r : Req) (k : _), r.next? = some k ∧ first = false ∧ r.pass = false) ∧
    (∃ (m : MCmd) (first : Bool) (r : Req), r.next? = some m ∧ (first = true ∨ r.pass = true) ∧ r.busy = none) ∧
    (∃ (m : MCmd) (first : Bool) (r : Req), r.next? = some m ∧ (first = true ∨ r.pass = true) ∧ r.busy = none) ∧
    (∃ (first : Bool) (r : Req) (k : _), r.next? = some k ∧ (first = true ∨ r.pass = true) ∧ r.waiting = true) ∧
    (∃ (m : MCmd) (first : Bool) (r : Req) (k : _), r.next? = some k ∧ (first = true ∨ r.pass = true) ∧ r.waiting = false ∧
      (r.busy.isSome = true ∨ k ≠ m)) ∧
    (∃ (m : MCmd) (first : Bool) (r : Req) (k : _), r.next? = some k ∧ (first = true ∨ r.pass = true) ∧ r.waiting = false ∧
      (r.busy.isSome = true ∨ k ≠ m)) ∧
    (∃ (dom : Dom) (m : MCmd) (c : Chip), findReq m true (c.reqsOf dom) = none) ∧
    (∃ (dom : Dom) (m : MCmd) (c : Chip) (i : _), findReq m true (c.reqsOf dom) = some i) ∧
    (∃ (n : Nat) (i : Nat) (rs : List Req), findRun n rs = some i) ∧
    (∃ (dom : Dom) (r : Req) (s : State), (s.chip.waitsOf (domIdx dom)).evs = [] ∧ (s.chip.mgmt.reqs.getD (domIdx dom)
      []).find? (fun r => r.done.length == r.cmds.length) = some r ∧ r.mute = false) ∧
    (∃ (dom : Dom) (r : Req) (s : State), (s.chip.waitsOf (domIdx dom)).evs = [] ∧ (s.chip.mgmt.reqs.getD (domIdx dom)
      []).find? (fun r => r.done.length == r.cmds.length) = some r ∧ r.mute = false) ∧
    (∃ (dom : Dom) (r : Req) (s : State), (s.chip.waitsOf (domIdx dom)).evs = [] ∧ (s.chip.mgmt.reqs.getD (domIdx dom)
      []).find? (fun r => r.done.length == r.cmds.length) = some r ∧ r.mute = false) ∧
    (∃ (dom : Dom) (r : Req) (s : State), (s.chip.waitsOf (domIdx dom)).evs = [] ∧ (s.chip.mgmt.reqs.getD (domIdx dom)
      []).find? (fun r => r.done.length == r.cmds.length) = some r ∧ r.mute = true) :=
  ⟨ (let x : Nat × Arr := c0 1025 (rq 5 0 1); let s : State := mkS (fun c => { c with c0In := [c0 1025 (rq 5 0 1)] })
     ⟨x, s, by decide +kernel +zetaReduce⟩),
    (let x : Nat × Arr := c0 3 (rq 5 0 1); let s : State := mkS (fun c => { c with c0In := [c0 3 (rq 5 0 1)] })
     ⟨x, s, by decide +kernel +zetaReduce⟩),
    (let x : Nat × Arr := c0 3 (rq 5 3 1)
     let s : State := mkS (fun c => { ((fwOn c).onTwin (fun t => { t with role := 2 })) with c0In := [c0 3 (rq 5 3 1)] })
     ⟨x, s, by decide +kernel +zetaReduce⟩),
    (let x : Nat × Arr := c0 3 (rq 5 3 1); let s : State := mkS (fun c => { (fwOn c) with c0In := [c0 3 (rq 5 3 1)] })
     ⟨x, s, by decide +kernel +zetaReduce⟩),
    (let x : Nat × Arr := c0 1026 (rq 5 1 1)
     let s : State := mkS (fun c => { ((fwOn c).onTwin (fun t => { t with role := 2 })) with c0In := [c0 1026 (rq 5 1 1)] })
     ⟨x, s, by decide +kernel +zetaReduce⟩),
    (let x : Nat × Arr := c0 3 (rq 5 2 1)
     let s : State := mkS (fun c => { ((fwOn c).onTwin (fun t => { t with role := 2 })) with c0In := [c0 3 (rq 5 2 1)] })
     ⟨x, s, by decide +kernel +zetaReduce⟩),
    (let who : Requester := (.thread 9); let pay : List Byte := []; let c : Chip := Chip.reset
     ⟨who, pay, c, by decide +kernel +zetaReduce⟩),
    (let who : Requester := (.inband 5 3 1 0 0 false false); let pay : List Byte := rq 5 16 1
     let c : Chip := fwOn Chip.reset; ⟨who, pay, c, by decide +kernel +zetaReduce⟩),
    (let who : Requester := (.inband 5 3 1 0 0 false false); let pay : List Byte := rq 5 1 1
     let c : Chip := (fwOn Chip.reset).onTwin (fun t => { t with role := 2 })
     ⟨who, pay, c, by decide +kernel +zetaReduce⟩),
    (let who : Requester := (.thread 9); let pay : List Byte := rq 5 0 1 ++ [1]; let c : Chip := Chip.reset
     ⟨who, pay, c, by decide +kernel +zetaReduce⟩),
    (let dom : Dom := .owner; let who : Requester := (.thread 9); let pay : List Byte := rq 5 2 1
     let ctrl : Nat := leAt (rq 5 2 1) 4 4; let tag : Nat := 5
     let cmds : List MCmd := (parseCmds 33 ((rq 5 2 1).drop 8)).getD []; let x := (.thread 9, 5, [7])
     let c : Chip := Chip.reset.onMgmt (fun m => { m with stored := [[(.thread 9, 5, [7])], []] })
     ⟨dom, who, pay, cmds, ctrl, tag, c, x, by decide +kernel +zetaReduce⟩),
    (let dom : Dom := .owner; let who : Requester := (.thread 9); let pay : List Byte := rq 5 2 1
     let ctrl : Nat := leAt (rq 5 2 1) 4 4; let tag : Nat := 5
     let cmds : List MCmd := (parseCmds 33 ((rq 5 2 1).drop 8)).getD []
     let r := { who := .thread 9, tag := 5, pass := false, stop := false, cmds := [{ code := 1, addr := 0x18000000, args := [1] }], done := [] }
     let c : Chip := Chip.reset.onMgmt (fun m => { m with reqs := [[{ who := .thread 9, tag := 5, pass := false, stop := false, cmds := [{ code := 1, addr := 0x18000000, args := [1] }], done := [] }], []] })
     ⟨dom, who, pay, cmds, ctrl, tag, c, r, by decide +kernel +zetaReduce⟩),
    (let dom : Dom := .owner; let who : Requester := (.thread 9)
     let pay : List Byte := leBytes 2 1 ++ leBytes 2 5 ++ leBytes 4 0 ++ (List.replicate 2 (leBytes 2 0x10 ++ leBytes 2 1 ++ leBytes 4 0 ++ leBytes 4 8000)).flatten
     let ctrl : Nat := 0; let tag : Nat := 5
     let cmds : List MCmd := (parseCmds 33 ((leBytes 2 1 ++ leBytes 2 5 ++ leBytes 4 0 ++ (List.replicate 2 (leBytes 2 0x10 ++ leBytes 2 1 ++ leBytes 4 0 ++ leBytes 4 8000)).flatten).drop 8)).getD []
     let c : Chip := Chip.reset; ⟨dom, who, pay, cmds, ctrl, tag, c, by decide +kernel +zetaReduce⟩),
    (let dom : Dom := .fabric; let who : Requester := (.inband 5 3 1 0 0 false false)
     let pay : List Byte := leBytes 2 1 ++ leBytes 2 5 ++ leBytes 4 0 ++ (List.replicate 2 (leBytes 2 0x10 ++ leBytes 2 1 ++ leBytes 4 0 ++ leBytes 4 8000)).flatten
     let ctrl : Nat := 0; let tag : Nat := 5
     let cmds : List MCmd := (parseCmds 33 ((leBytes 2 1 ++ leBytes 2 5 ++ leBytes 4 0 ++ (List.replicate 2 (leBytes 2 0x10 ++ leBytes 2 1 ++ leBytes 4 0 ++ leBytes 4 8000)).flatten).drop 8)).getD []
     let c : Chip := Chip.reset; ⟨dom, who, pay, cmds, ctrl, tag, c, by decide +kernel +zetaReduce⟩),
    (let dom : Dom := .owner; let who : Requester := (.thread 9); let pay : List Byte := rq 5 12 1
     let ctrl : Nat := leAt (rq 5 12 1) 4 4; let tag : Nat := 5
     let cmds : List MCmd := (parseCmds 33 ((rq 5 12 1).drop 8)).getD []
     let c : Chip := Chip.reset.onMgmt (fun m => { m with reqs := [List.replicate 128 { who := .thread 9, tag := 4, pass := false, stop := false, cmds := List.replicate 32 { code := 1, addr := 0x18000000, args := [1] }, done := [] }, []] })
     ⟨dom, who, pay, cmds, ctrl, tag, c, by decide +kernel +zetaReduce⟩),
    (let dom : Dom := .owner; let who : Requester := (.thread 9); let pay : List Byte := rq 5 12 1
     let ctrl : Nat := leAt (rq 5 12 1) 4 4; let tag : Nat := 5
     let cmds : List MCmd := (parseCmds 33 ((rq 5 12 1).drop 8)).getD []; let c : Chip := Chip.reset
     ⟨dom, who, pay, cmds, ctrl, tag, c, by decide +kernel +zetaReduce⟩),
    (let dom : Dom := .owner; let who : Requester := (.thread 9); let pay : List Byte := rq 0 15 64
     let ctrl : Nat := leAt (rq 0 15 64) 4 4; let tag : Nat := 0
     let cmds : List MCmd := (parseCmds 33 ((rq 0 15 64).drop 8)).getD []; let c : Chip := Chip.reset
     ⟨dom, who, pay, cmds, ctrl, tag, c, by decide +kernel +zetaReduce⟩),
    (let dom : Dom := .owner; let who : Requester := (.thread 9); let pay : List Byte := rq 5 12 0
     let ctrl : Nat := leAt (rq 5 12 0) 4 4; let tag : Nat := 5
     let cmds : List MCmd := (parseCmds 33 ((rq 5 12 0).drop 8)).getD []
     let c : Chip := Chip.reset.onMgmt (fun m => { m with reqs := [{ who := .thread 9, tag := 4, pass := false, stop := false, cmds := List.replicate 31 { code := 1, addr := 0x18000000, args := [1] }, done := [] } :: List.replicate 127 { who := .thread 9, tag := 4, pass := false, stop := false, cmds := List.replicate 32 { code := 1, addr := 0x18000000, args := [1] }, done := [] }, []] })
     ⟨dom, who, pay, cmds, ctrl, tag, c, by decide +kernel +zetaReduce⟩),
    (let first : Bool := false
     let r : Req := { who := .thread 9, tag := 5, pass := false, stop := false, cmds := [{ code := 9, addr := 0, args := [] }], done := [], busy := none }
     let r1 : Req := r.settle 33; ⟨first, r, r1, by decide +kernel +zetaReduce⟩),
    (let first : Bool := true
     let r : Req := { who := .thread 9, tag := 5, pass := false, stop := false, cmds := [{ code := 9, addr := 0, args := [] }, { code := 9, addr := 0, args := [] }], done := [], busy := none }
     let r1 : Req := r.settle 33; ⟨first, r, r1, by decide +kernel +zetaReduce⟩),
    (let first : Bool := false
     let r : Req := { who := .thread 9, tag := 5, pass := true, stop := false, cmds := [{ code := 1, addr := 0x18000000, args := [1] }], done := [(1, 0, [7])], busy := none }
     let r1 : Req := r.settle 33; ⟨first, r, r1, by decide +kernel +zetaReduce⟩),
    (let first : Bool := true
     let r : Req := { who := .thread 9, tag := 5, pass := false, stop := false, cmds := [{ code := 4, addr := 0x18000000, args := [0, 0, 5] }], done := [], busy := some 3 }
     let r1 : Req := r.settle 33; ⟨first, r, r1, by decide +kernel +zetaReduce⟩),
    (let first : Bool := true
     let r : Req := { who := .thread 9, tag := 5, pass := false, stop := false, cmds := [{ code := 9, addr := 0, args := [] }, { code := 1, addr := 0x18000000, args := [1] }], done := [], busy := none }
     let r1 : Req := r.settle 33; ⟨first, r, r1, by decide +kernel +zetaReduce⟩),
    (let first : Bool := true
     let r : Req := { who := .thread 9, tag := 5, pass := false, stop := false, cmds := [{ code := 4, addr := 0x18000000, args := [0, 0, 5] }], done := [], busy := none }
     let r1 : Req := r.settle 33; ⟨first, r, r1, by decide +kernel +zetaReduce⟩),
    (let m : MCmd := { code := 9, addr := 0, args := [] }
     let r : Req := { who := .thread 9, tag := 5, pass := false, stop := true, cmds := [{ code := 9, addr := 0, args := [] }, { code := 1, addr := 0x18000000, args := [1] }], done := [], busy := none }
     ⟨r, m, by decide +kernel +zetaReduce⟩),
    (let m : MCmd := { code := 1, addr := 0x18000000, args := [1] }
     let r : Req := { who := .thread 9, tag := 5, pass := false, stop := false, cmds := [{ code := 1, addr := 0x18000000, args := [1] }, { code := 9, addr := 0, args := [] }], done := [], busy := none }
     ⟨r, m, by decide +kernel +zetaReduce⟩),
    (let st : Nat := 0; let m : MCmd := { code := 1, addr := 0x18000000, args := [1] }
     let r : Req := { who := .thread 9, tag := 5, pass := false, stop := true, cmds := [{ code := 1, addr := 0x18000000, args := [1] }, { code := 9, addr := 0, args := [] }], done := [], busy := some 3 }
     ⟨st, r, m, by decide +kernel +zetaReduce⟩),
    (let st : Nat := 1; let m : MCmd := { code := 1, addr := 0x18000000, args := [1] }
     let r : Req := { who := .thread 9, tag := 5, pass := false, stop := false, cmds := [{ code := 1, addr := 0x18000000, args := [1] }], done := [], busy := some 3 }
     ⟨st, r, m, by decide +kernel +zetaReduce⟩),
    (let st : Nat := 1; let m : MCmd := { code := 1, addr := 0x18000000, args := [1] }
     let r : Req := { who := .thread 9, tag := 5, pass := false, stop := true, cmds := [{ code := 1, addr := 0x18000000, args := [1] }, { code := 1, addr := 0x18000000, args := [1] }], done := [], busy := some 3 }
     ⟨st, r, m, by decide +kernel +zetaReduce⟩),
    (let r : Req := { who := .thread 9, tag := 5, pass := false, stop := false, cmds := [{ code := 1, addr := 0x18000000, args := [1] }], done := [(1, 0, [7])], busy := none }
     ⟨r, by decide +kernel +zetaReduce⟩),
    (let first : Bool := false; let k := { code := 1, addr := 0x18000000, args := [1] }
     let r : Req := { who := .thread 9, tag := 5, pass := false, stop := false, cmds := [{ code := 1, addr := 0x18000000, args := [1] }], done := [], busy := none }
     ⟨first, r, k, by decide +kernel +zetaReduce⟩),
    (let m : MCmd := { code := 1, addr := 0x18000000, args := [1] }; let first : Bool := true
     let r : Req := { who := .thread 9, tag := 5, pass := false, stop := false, cmds := [{ code := 1, addr := 0x18000000, args := [1] }], done := [], busy := none }
     ⟨m, first, r, by decide +kernel +zetaReduce⟩),
    (let m : MCmd := { code := 4, addr := 0x18000000, args := [0, 0, 5] }; let first : Bool := false
     let r : Req := { who := .thread 9, tag := 5, pass := true, stop := false, cmds := [{ code := 4, addr := 0x18000000, args := [0, 0, 5] }], done := [], busy := none }
     ⟨m, first, r, by decide +kernel +zetaReduce⟩),
    (let first : Bool := true; let k := { code := 4, addr := 0x18000000, args := [0, 0, 5] }
     let r : Req := { who := .thread 9, tag := 5, pass := false, stop := false, cmds := [{ code := 4, addr := 0x18000000, args := [0, 0, 5] }], done := [], busy := some 3 }
     ⟨first, r, k, by decide +kernel +zetaReduce⟩),
    (let m : MCmd := { code := 1, addr := 0x18000000, args := [1] }; let first : Bool := true
     let k := { code := 4, addr := 0x18000000, args := [0, 0, 5] }
     let r : Req := { who := .thread 9, tag := 5, pass := false, stop := false, cmds := [{ code := 4, addr := 0x18000000, args := [0, 0, 5] }], done := [], busy := none }
     ⟨m, first, r, k, by decide +kernel +zetaReduce⟩),
    (let m : MCmd := { code := 1, addr := 0x18000000, args := [1] }; let first : Bool := true
     let k := { code := 1, addr := 0x18000000, args := [1] }
     let r : Req := { who := .thread 9, tag := 5, pass := false, stop := false, cmds := [{ code := 1, addr := 0x18000000, args := [1] }], done := [], busy := some 3 }
     ⟨m, first, r, k, by decide +kernel +zetaReduce⟩),
    (let dom : Dom := .owner; let m : MCmd := { code := 4, addr := 0x18000000, args := [0, 0, 5] }
     let c : Chip := Chip.reset; ⟨dom, m, c, by decide +kernel +zetaReduce⟩),
    (let dom : Dom := .owner; let m : MCmd := { code := 1, addr := 0x18000000, args := [1] }; let i := 1
     let c : Chip := Chip.reset.onMgmt (fun m => { m with reqs := [[{ who := .thread 9, tag := 5, pass := false, stop := false, cmds := [{ code := 4, addr := 0x18000000, args := [0, 0, 5] }], done := [], busy := some 3 }, { who := .thread 9, tag := 5, pass := true, stop := false, cmds := [{ code := 1, addr := 0x18000000, args := [1] }], done := [], busy := none }], []] })
     ⟨dom, m, c, i, by decide +kernel +zetaReduce⟩),
    (let n : Nat := 3; let i : Nat := 1
     let rs : List Req := [{ who := .thread 9, tag := 5, pass := true, stop := false, cmds := [{ code := 1, addr := 0x18000000, args := [1] }], done := [], busy := none }, { who := .thread 9, tag := 5, pass := false, stop := false, cmds := [{ code := 4, addr := 0x18000000, args := [0, 0, 5] }], done := [], busy := some 3 }]
     ⟨n, i, rs, by decide +kernel +zetaReduce⟩),
    (let dom : Dom := .owner
     let r : Req := { who := .thread 9, tag := 5, pass := false, stop := false, cmds := [{ code := 1, addr := 0x18000000, args := [1] }], done := [(1, 0, [7])] }
     let s : State := mkS (fun c => c.onMgmt (fun m => { m with reqs := [[{ who := .thread 9, tag := 5, pass := false, stop := false, cmds := [{ code := 1, addr := 0x18000000, args := [1] }], done := [(1, 0, [7])] }], []] }))
     ⟨dom, r, s, by decide +kernel +zetaReduce⟩),
    (let dom : Dom := .owner
     let r : Req := { who := .thread 9, tag := 0, pass := false, stop := false, cmds := [{ code := 1, addr := 0x18000000, args := [1] }], done := [(1, 0, [7])] }
     let s : State := mkS (fun c => c.onMgmt (fun m => { m with reqs := [[{ who := .thread 9, tag := 0, pass := false, stop := false, cmds := [{ code := 1, addr := 0x18000000, args := [1] }], done := [(1, 0, [7])] }], []] }))
     ⟨dom, r, s, by decide +kernel +zetaReduce⟩),
    (let dom : Dom := .owner
     let r : Req := { who := .thread 9, tag := 5, pass := false, stop := false, cmds := [{ code := 1, addr := 0x18000000, args := [1] }], done := [(1, 0, [7])] }
     let s : State := mkS (fun c => c.onMgmt (fun m => { m with reqs := [[{ who := .thread 9, tag := 5, pass := false, stop := false, cmds := [{ code := 1, addr := 0x18000000, args := [1] }], done := [(1, 0, [7])] }], []], stored := [List.replicate 64 (.thread 1, 1, []), []] }))
     ⟨dom, r, s, by decide +kernel +zetaReduce⟩),
    (let dom : Dom := .owner
     let r : Req := { who := .thread 9, tag := 5, pass := false, stop := false, cmds := [{ code := 1, addr := 0x18000000, args := [1] }], done := [(1, 0, [7])], mute := true }
     let s : State := mkS (fun c => c.onMgmt (fun m => { m with reqs := [[{ who := .thread 9, tag := 5, pass := false, stop := false, cmds := [{ code := 1, addr := 0x18000000, args := [1] }], done := [(1, 0, [7])], mute := true }], []] }))
     ⟨dom, r, s, by decide +kernel +zetaReduce⟩)⟩

/-- States and operands that meet the hypotheses of `Obligations.RegisterCommands`, clause by clause. -/
theorem witness_RegisterCommands :
    (∃ (dom : Dom) (addr : Word) (count : Nat) (s : State), s.chip.mayStart dom
      { code := 1, addr := addr.toNat, args := [BitVec.ofNat 32 count] } = true ∧ 1 ≤ count ∧ count ≤ 64 ∧ badAddr
      addr.toNat = false ∧ adOff addr.toNat + 4 * (count - 1) ≤ 0xFFC ∧ adDie addr.toNat < 30) ∧
    (∃ (dom : Dom) (addr : Word) (count : Nat) (s : State), s.chip.mayStart dom
      { code := 1, addr := addr.toNat, args := [BitVec.ofNat 32 count] } = true ∧ 1 ≤ count ∧ count ≤ 64 ∧ badAddr
      addr.toNat = false ∧ adOff addr.toNat + 4 * (count - 1) ≤ 0xFFC ∧ adDie addr.toNat < 30) ∧
    (∃ (dom : Dom) (addr : Word) (count : Nat) (s : State), s.chip.mayStart dom
      { code := 1, addr := addr.toNat, args := [BitVec.ofNat 32 count] } = true ∧ (count = 0 ∨ 64 < count)) ∧
    (∃ (dom : Dom) (addr : Word) (count : Nat) (s : State), s.chip.mayStart dom
      { code := 1, addr := addr.toNat, args := [BitVec.ofNat 32 count] } = true ∧ (count = 0 ∨ 64 < count)) ∧
    (∃ (dom : Dom) (addr : Word) (count : Nat) (s : State), s.chip.mayStart dom
      { code := 1, addr := addr.toNat, args := [BitVec.ofNat 32 count] } = true ∧ 1 ≤ count ∧ count ≤ 64 ∧ (badAddr
      addr.toNat = true ∨ 0xFFC < adOff addr.toNat + 4 * (count - 1) ∨ 30 ≤ adDie addr.toNat)) ∧
    (∃ (dom : Dom) (addr : Word) (count : Nat) (s : State), s.chip.mayStart dom
      { code := 1, addr := addr.toNat, args := [BitVec.ofNat 32 count] } = true ∧ 1 ≤ count ∧ count ≤ 64 ∧ (badAddr
      addr.toNat = true ∨ 0xFFC < adOff addr.toNat + 4 * (count - 1) ∨ 30 ≤ adDie addr.toNat)) ∧
    (∃ (dom : Dom) (addr : Word) (count : Nat) (s : State), s.chip.mayStart dom
      { code := 1, addr := addr.toNat, args := [BitVec.ofNat 32 count] } = true ∧ 1 ≤ count ∧ count ≤ 64 ∧ (badAddr
      addr.toNat = true ∨ 0xFFC < adOff addr.toNat + 4 * (count - 1) ∨ 30 ≤ adDie addr.toNat)) ∧
    (∃ (dom : Dom) (addr : Word) (vals : List Word) (s : State), s.chip.mayStart dom
      { code := 2, addr := addr.toNat, args := vals } = true ∧ 1 ≤ vals.length ∧ vals.length ≤ 64 ∧ badAddr addr.toNat =
      false ∧ adOff addr.toNat + 4 * (vals.length - 1) ≤ 0xFFC ∧ (Chip.muteIf s.chip (s.chip.writeWords dom vals
      addr.toNat).2 dom { code := 2, addr := addr.toNat, args := vals }).rst.c0Up = true) ∧
    (∃ (dom : Dom) (addr : Word) (vals : List Word) (s : State), s.chip.mayStart dom
      { code := 2, addr := addr.toNat, args := vals } = true ∧ 1 ≤ vals.length ∧ vals.length ≤ 64 ∧ badAddr addr.toNat =
      false ∧ adOff addr.toNat + 4 * (vals.length - 1) ≤ 0xFFC ∧ (Chip.muteIf s.chip (s.chip.writeWords dom vals
      addr.toNat).2 dom { code := 2, addr := addr.toNat, args := vals }).rst.c0Up = true) ∧
    (∃ (c : Chip), c.rst.c0Up = true) ∧
    (∃ (dom : Dom) (addr : Word) (mask : Word) (val : Word) (old : Word) (new : Word) (c : Chip) (s : State),
      s.chip.mayStart dom { code := 3, addr := addr.toNat, args := [mask, val] } = true ∧ s.chip.readWord dom addr.toNat =
      (0, old.toNat, c) ∧ new = (old &&& ~~~ mask) ||| (val &&& mask) ∧ s.chip.allowed dom addr.toNat (some new.toNat) =
      true ∧ (Chip.muteIf s.chip (c.writeWord dom addr.toNat new.toNat).2 dom
      { code := 3, addr := addr.toNat, args := [mask, val] }).rst.c0Up = true) ∧
    (∃ (dom : Dom) (addr : Word) (mask : Word) (val : Word) (st : Nat) (v : Nat) (c : Chip) (s : State), s.chip.mayStart dom
      { code := 3, addr := addr.toNat, args := [mask, val] } = true ∧ s.chip.readWord dom addr.toNat = (st, v, c) ∧ st ≠ 0) ∧
    (∃ (dom : Dom) (addr : Word) (mask : Word) (val : Word) (st : Nat) (v : Nat) (c : Chip) (s : State), s.chip.mayStart dom
      { code := 3, addr := addr.toNat, args := [mask, val] } = true ∧ s.chip.readWord dom addr.toNat = (st, v, c) ∧ st ≠ 0) ∧
    (∃ (dom : Dom) (a : Nat) (c : Chip), badAddr a = false ∧ adDie a < 30 ∧ c.allowed dom a none = true) ∧
    (∃ (dom : Dom) (a : Nat) (c : Chip), badAddr a = false ∧ adDie a < 30 ∧ c.allowed dom a none = true) ∧
    (∃ (was : Chip) (c : Chip), (c.partDue = false ∨ was.partDue = true)) ∧
    (∃ (was : Chip) (c : Chip), (c.partDue = false ∨ was.partDue = true)) ∧
    (∃ (was : Chip) (c : Chip) (dom : Dom) (m : MCmd) (i : _), c.partDue = true ∧ was.partDue = false ∧ findReq m true
      (c.mgmt.reqs.getD (domIdx dom) []) = some i) ∧
    (∃ (dom : Dom) (addr : Word) (mask : Word) (val : Word) (timeout : Nat) (s : State) (b : _), s.chip.mayStart dom
      { code := 4, addr := addr.toNat, args := [mask, val, BitVec.ofNat 32 timeout] } = true ∧ s.chip.mgmt.fw = 3 ∧ 1 ≤
      timeout ∧ timeout ≤ 1000000 ∧ badAddr addr.toNat = false ∧ adDie addr.toNat < 30 ∧ s.chip.allowed dom addr.toNat none
      = true ∧ b = s.chip.begin dom { code := 4, addr := addr.toNat, args := [mask, val, BitVec.ofNat 32 timeout] }) ∧
    (∃ (dom : Dom) (addr : Word) (mask : Word) (val : Word) (timeout : Nat) (s : State), s.chip.mayStart dom
      { code := 4, addr := addr.toNat, args := [mask, val, BitVec.ofNat 32 timeout] } = true ∧ s.chip.mgmt.fw ≠ 3) ∧
    (∃ (dom : Dom) (p : Poll) (rest : List Poll) (v : Nat) (c : Chip) (s : State), s.chip.mgmt.fw = 3 ∧ (s.chip.waitsOf
      (domIdx dom)).polls = p :: rest ∧ (s.chip.pass 1000).readReg dom p.addr = (v, c) ∧ v &&& p.mask = p.val) ∧
    (∃ (dom : Dom) (p : Poll) (rest : List Poll) (v : Nat) (c : Chip) (s : State), s.chip.mgmt.fw = 3 ∧ (s.chip.waitsOf
      (domIdx dom)).polls = p :: rest ∧ (s.chip.pass 1000).readReg dom p.addr = (v, c) ∧ v &&& p.mask ≠ p.val ∧ p.start +
      1000 * p.time ≤ c.now) ∧
    (∃ (dom : Dom) (p : Poll) (rest : List Poll) (v : Nat) (c : Chip) (s : State), s.chip.mgmt.fw = 3 ∧ (s.chip.waitsOf
      (domIdx dom)).polls = p :: rest ∧ (s.chip.pass 1000).readReg dom p.addr = (v, c) ∧ v &&& p.mask ≠ p.val ∧ c.now <
      p.start + 1000 * p.time) :=
  ⟨ (let dom : Dom := .owner; let addr : Word := ad 24 1 0; let count : Nat := 64; let s : State := mkS (fun c => c)
     ⟨dom, addr, count, s, by decide +kernel +zetaReduce⟩),
    (let dom : Dom := .fabric; let addr : Word := ad 24 1 0xFFC; let count : Nat := 1
     let s : State := mkS (fun c => fwOn c); ⟨dom, addr, count, s, by decide +kernel +zetaReduce⟩),
    (let dom : Dom := .owner; let addr : Word := 0; let count : Nat := 65; let s : State := mkS (fun c => c)
     ⟨dom, addr, count, s, by decide +kernel +zetaReduce⟩),
    (let dom : Dom := .owner; let addr : Word := 0; let count : Nat := 0; let s : State := mkS (fun c => c)
     ⟨dom, addr, count, s, by decide +kernel +zetaReduce⟩),
    (let dom : Dom := .owner; let addr : Word := ad 24 1 0xFFC; let count : Nat := 2; let s : State := mkS (fun c => c)
     ⟨dom, addr, count, s, by decide +kernel +zetaReduce⟩),
    (let dom : Dom := .owner; let addr : Word := ad 30 1 0; let count : Nat := 1; let s : State := mkS (fun c => c)
     ⟨dom, addr, count, s, by decide +kernel +zetaReduce⟩),
    (let dom : Dom := .owner; let addr : Word := 1; let count : Nat := 64; let s : State := mkS (fun c => c)
     ⟨dom, addr, count, s, by decide +kernel +zetaReduce⟩),
    (let dom : Dom := .owner; let addr : Word := ad 24 1 0x100; let vals : List Word := [1, 2, 3]
     let s : State := mkS (fun c => c); ⟨dom, addr, vals, s, by decide +kernel +zetaReduce⟩),
    (let dom : Dom := .owner; let addr : Word := ad 24 1 0xFFC; let vals : List Word := [1]
     let s : State := mkS (fun c => c); ⟨dom, addr, vals, s, by decide +kernel +zetaReduce⟩),
    (let c : Chip := Chip.reset; ⟨c, by decide +kernel +zetaReduce⟩),
    (let dom : Dom := .owner; let addr : Word := ad 24 1 0x108; let mask : Word := 0xF0; let val : Word := 0x3F
     let s : State := mkS (fun c => c); let old : Word := BitVec.ofNat 32 (s.chip.readWord .owner addr.toNat).2.1
     let c : Chip := (s.chip.readWord .owner addr.toNat).2.2; let new : Word := (old &&& ~~~ mask) ||| (val &&& mask)
     ⟨dom, addr, mask, val, old, new, c, s, by decide +kernel +zetaReduce⟩),
    (let dom : Dom := .owner; let addr : Word := 1; let mask : Word := 1; let val : Word := 1; let st : Nat := 3
     let v : Nat := 0; let s : State := mkS (fun c => c); let c : Chip := s.chip
     ⟨dom, addr, mask, val, st, v, c, s, by decide +kernel +zetaReduce⟩),
    (let dom : Dom := .owner; let addr : Word := ad 0 0x45 0x180; let mask : Word := 1; let val : Word := 1
     let st : Nat := 1; let v : Nat := 0
     let s : State := mkS (fun c => { onPg 0 0x45 c with regs := SMap.set c.regs (scar 0 0x45) 1 })
     let c : Chip := (s.chip.readWord dom addr.toNat).2.2
     ⟨dom, addr, mask, val, st, v, c, s, by decide +kernel +zetaReduce⟩),
    (let dom : Dom := .owner; let a : Nat := regAddr 24 1 0x108; let c : Chip := Chip.reset
     ⟨dom, a, c, by decide +kernel +zetaReduce⟩),
    (let dom : Dom := .owner; let a : Nat := regAddr 0 0x45 0x1A4
     let c : Chip := { Chip.reset with regs := SMap.set Chip.reset.regs (scar 0 0x45) 1 }
     ⟨dom, a, c, by decide +kernel +zetaReduce⟩),
    (let was : Chip := Chip.reset; let c : Chip := Chip.reset; ⟨was, c, by decide +kernel +zetaReduce⟩),
    (let was : Chip := Chip.reset.onRst (fun r => { r with kind := 1 })
     let c : Chip := Chip.reset.onRst (fun r => { r with kind := 1 }); ⟨was, c, by decide +kernel +zetaReduce⟩),
    (let was : Chip := Chip.reset
     let c : Chip := (Chip.reset.onRst (fun r => { r with kind := 1 })).onMgmt (fun m => { m with reqs := [[{ who := .thread 9, tag := 4, pass := false, stop := false, cmds := [{ code := 1, addr := 0x18000000, args := [1] }], done := [] }], []] })
     let dom : Dom := .owner; let m : MCmd := { code := 1, addr := 0x18000000, args := [1] }; let i := 0
     ⟨was, c, dom, m, i, by decide +kernel +zetaReduce⟩),
    (let dom : Dom := .owner; let addr : Word := ad 24 1 0; let mask : Word := 0; let val : Word := 0
     let timeout : Nat := 1000000; let s : State := mkS (fun c => fwOn c)
     let b := s.chip.begin dom { code := 4, addr := addr.toNat, args := [mask, val, BitVec.ofNat 32 timeout] }
     ⟨dom, addr, mask, val, timeout, s, b, by decide +kernel +zetaReduce⟩),
    (let dom : Dom := .owner; let addr : Word := ad 24 1 0; let mask : Word := 0; let val : Word := 0
     let timeout : Nat := 1000000; let s : State := mkS (fun c => c)
     ⟨dom, addr, mask, val, timeout, s, by decide +kernel +zetaReduce⟩),
    (let dom : Dom := .owner
     let p : Poll := { addr := regAddr 24 1 0x108, mask := 0xFF, val := 0x7F, time := 5, start := 0, last := 0, id := 7, seq := 3 }
     let rest : List Poll := []
     let s : State := mkS (fun c => (fwOn c).onWaits 0 (fun w => { w with polls := [{ addr := regAddr 24 1 0x108, mask := 0xFF, val := 0x7F, time := 5, start := 0, last := 0, id := 7, seq := 3 }] }))
     let v : Nat := ((s.chip.pass 1000).readReg .owner p.addr).1
     let c : Chip := ((s.chip.pass 1000).readReg .owner p.addr).2; ⟨dom, p, rest, v, c, s, by decide +kernel +zetaReduce⟩),
    (let dom : Dom := .owner
     let p : Poll := { addr := regAddr 24 1 0x108, mask := 0xFF, val := 0x7E, time := 1, start := 0, last := 0, id := 7, seq := 3 }
     let rest : List Poll := []
     let s : State := mkS (fun c => (fwOn c).onWaits 0 (fun w => { w with polls := [{ addr := regAddr 24 1 0x108, mask := 0xFF, val := 0x7E, time := 1, start := 0, last := 0, id := 7, seq := 3 }] }))
     let v : Nat := ((s.chip.pass 1000).readReg .owner p.addr).1
     let c : Chip := ((s.chip.pass 1000).readReg .owner p.addr).2; ⟨dom, p, rest, v, c, s, by decide +kernel +zetaReduce⟩),
    (let dom : Dom := .owner
     let p : Poll := { addr := regAddr 24 1 0x108, mask := 0xFF, val := 0x7E, time := 2, start := 0, last := 0, id := 7, seq := 3 }
     let rest : List Poll := []
     let s : State := mkS (fun c => (fwOn c).onWaits 0 (fun w => { w with polls := [{ addr := regAddr 24 1 0x108, mask := 0xFF, val := 0x7E, time := 2, start := 0, last := 0, id := 7, seq := 3 }] }))
     let v : Nat := ((s.chip.pass 1000).readReg .owner p.addr).1
     let c : Chip := ((s.chip.pass 1000).readReg .owner p.addr).2; ⟨dom, p, rest, v, c, s, by decide +kernel +zetaReduce⟩)⟩

/-- States and operands that meet the hypotheses of `Obligations.SramCommands`, clause by clause. -/
theorem witness_SramCommands :
    (∃ (dom : Dom) (off : Word) (len : Nat) (s : State), s.chip.mayStart dom
      { code := 0x10, addr := off.toNat, args := [BitVec.ofNat 32 len] } = true ∧ off.toNat % 4 = 0 ∧ len % 4 = 0 ∧ 4 ≤ len
      ∧ len ≤ 8000 ∧ off.toNat + len ≤ 0x4000000 ∧ s.chip.mayReadMem dom off.toNat len = true ∧ s.chip.badWord? off.toNat
      len = none) ∧
    (∃ (dom : Dom) (off : Word) (len : Nat) (s : State), s.chip.mayStart dom
      { code := 0x10, addr := off.toNat, args := [BitVec.ofNat 32 len] } = true ∧ off.toNat % 4 = 0 ∧ len % 4 = 0 ∧ 4 ≤ len
      ∧ len ≤ 8000 ∧ off.toNat + len ≤ 0x4000000 ∧ s.chip.mayReadMem dom off.toNat len = true ∧ s.chip.badWord? off.toNat
      len = none) ∧
    (∃ (dom : Dom) (off : Word) (len : Nat) (s : State) (w : _), s.chip.mayStart dom
      { code := 0x10, addr := off.toNat, args := [BitVec.ofNat 32 len] } = true ∧ off.toNat % 4 = 0 ∧ len % 4 = 0 ∧ 4 ≤ len
      ∧ len ≤ 8000 ∧ off.toNat + len ≤ 0x4000000 ∧ s.chip.mayReadMem dom off.toNat len = true ∧ s.chip.badWord? off.toNat
      len = some w) ∧
    (∃ (dom : Dom) (off : Word) (len : Nat) (s : State) (w : _), s.chip.mayStart dom
      { code := 0x10, addr := off.toNat, args := [BitVec.ofNat 32 len] } = true ∧ off.toNat % 4 = 0 ∧ len % 4 = 0 ∧ 4 ≤ len
      ∧ len ≤ 8000 ∧ off.toNat + len ≤ 0x4000000 ∧ s.chip.mayReadMem dom off.toNat len = true ∧ s.chip.badWord? off.toNat
      len = some w) ∧
    (∃ (dom : Dom) (off : Word) (len : Nat) (s : State), s.chip.mayStart dom
      { code := 0x10, addr := off.toNat, args := [BitVec.ofNat 32 len] } = true ∧ off.toNat % 4 = 0 ∧ len % 4 = 0 ∧ 4 ≤ len
      ∧ len ≤ 8000 ∧ off.toNat + len ≤ 0x4000000 ∧ s.chip.mayReadMem dom off.toNat len = false) ∧
    (∃ (dom : Dom) (off : Word) (len : Nat) (s : State), s.chip.mayStart dom
      { code := 0x10, addr := off.toNat, args := [BitVec.ofNat 32 len] } = true ∧ off.toNat % 4 = 0 ∧ len % 4 = 0 ∧ 4 ≤ len
      ∧ len ≤ 8000 ∧ 0x4000000 < off.toNat + len) ∧
    (∃ (dom : Dom) (off : Word) (words : List Word) (s : State), s.chip.mayStart dom
      { code := 0x11, addr := off.toNat, args := words } = true ∧ off.toNat % 4 = 0 ∧ 1 ≤ words.length ∧ words.length ≤ 2000
      ∧ (dom = .fabric → s.chip.granted 14 = true) ∧ (0x2E00000 ≤ off.toNat ∧ off.toNat + 4 * words.length ≤ 0x3000000) ∨
      (0x3C00000 ≤ off.toNat ∧ off.toNat + 4 * words.length ≤ 0x4000000) ∨ (s.chip.mgmt.fw < 3 ∧ off.toNat + 4 *
      words.length ≤ 0x2000000)) ∧
    (∃ (dom : Dom) (off : Word) (words : List Word) (s : State), s.chip.mayStart dom
      { code := 0x11, addr := off.toNat, args := words } = true ∧ off.toNat % 4 = 0 ∧ 1 ≤ words.length ∧ words.length ≤ 2000
      ∧ (dom = .fabric → s.chip.granted 14 = true) ∧ (0x2E00000 ≤ off.toNat ∧ off.toNat + 4 * words.length ≤ 0x3000000) ∨
      (0x3C00000 ≤ off.toNat ∧ off.toNat + 4 * words.length ≤ 0x4000000) ∨ (s.chip.mgmt.fw < 3 ∧ off.toNat + 4 *
      words.length ≤ 0x2000000)) ∧
    (∃ (dom : Dom) (off : Word) (words : List Word) (s : State), s.chip.mayStart dom
      { code := 0x11, addr := off.toNat, args := words } = true ∧ off.toNat % 4 = 0 ∧ 1 ≤ words.length ∧ words.length ≤ 2000
      ∧ (dom = .fabric → s.chip.granted 14 = true) ∧ (0x2E00000 ≤ off.toNat ∧ off.toNat + 4 * words.length ≤ 0x3000000) ∨
      (0x3C00000 ≤ off.toNat ∧ off.toNat + 4 * words.length ≤ 0x4000000) ∨ (s.chip.mgmt.fw < 3 ∧ off.toNat + 4 *
      words.length ≤ 0x2000000)) ∧
    (∃ (dom : Dom) (off : Word) (words : List Word) (s : State), s.chip.mayStart dom
      { code := 0x11, addr := off.toNat, args := words } = true ∧ off.toNat % 4 = 0 ∧ 1 ≤ words.length ∧ words.length ≤ 2000
      ∧ (dom = .fabric → s.chip.granted 14 = true) ∧ (0x2E00000 ≤ off.toNat ∧ off.toNat + 4 * words.length ≤ 0x3000000) ∨
      (0x3C00000 ≤ off.toNat ∧ off.toNat + 4 * words.length ≤ 0x4000000) ∨ (s.chip.mgmt.fw < 3 ∧ off.toNat + 4 *
      words.length ≤ 0x2000000)) ∧
    (∃ (dom : Dom) (off : Word) (words : List Word) (s : State), s.chip.mayStart dom
      { code := 0x11, addr := off.toNat, args := words } = true ∧ off.toNat % 4 = 0 ∧ 1 ≤ words.length ∧ words.length ≤ 2000
      ∧ (dom = .fabric → s.chip.granted 14 = true) ∧ (0x2E00000 ≤ off.toNat ∧ off.toNat + 4 * words.length ≤ 0x3000000) ∨
      (0x3C00000 ≤ off.toNat ∧ off.toNat + 4 * words.length ≤ 0x4000000) ∨ (s.chip.mgmt.fw < 3 ∧ off.toNat + 4 *
      words.length ≤ 0x2000000)) ∧
    (∃ (dom : Dom) (off : Word) (words : List Word) (s : State), s.chip.mayStart dom
      { code := 0x11, addr := off.toNat, args := words } = true ∧ off.toNat % 4 = 0 ∧ 1 ≤ words.length ∧ words.length ≤ 2000
      ∧ (dom = .fabric → s.chip.granted 14 = true) ∧ (0x2E00000 ≤ off.toNat ∧ off.toNat + 4 * words.length ≤ 0x3000000) ∨
      (0x3C00000 ≤ off.toNat ∧ off.toNat + 4 * words.length ≤ 0x4000000) ∨ (s.chip.mgmt.fw < 3 ∧ off.toNat + 4 *
      words.length ≤ 0x2000000)) ∧
    (∃ (dom : Dom) (off : Word) (words : List Word) (s : State), s.chip.mayStart dom
      { code := 0x11, addr := off.toNat, args := words } = true ∧ off.toNat % 4 = 0 ∧ 1 ≤ words.length ∧ words.length ≤ 2000
      ∧ (dom = .fabric → s.chip.granted 14 = true) ∧ ((off.toNat < 0x2E00000 ∧ (3 ≤ s.chip.mgmt.fw ∨ 0x2000000 < off.toNat +
      4 * words.length)) ∨ (0x2E00000 ≤ off.toNat ∧ off.toNat < 0x3C00000 ∧ 0x3000000 < off.toNat + 4 * words.length) ∨
      0x4000000 < off.toNat + 4 * words.length)) ∧
    (∃ (dom : Dom) (off : Word) (words : List Word) (s : State), s.chip.mayStart dom
      { code := 0x11, addr := off.toNat, args := words } = true ∧ off.toNat % 4 = 0 ∧ 1 ≤ words.length ∧ words.length ≤ 2000
      ∧ (dom = .fabric → s.chip.granted 14 = true) ∧ ((off.toNat < 0x2E00000 ∧ (3 ≤ s.chip.mgmt.fw ∨ 0x2000000 < off.toNat +
      4 * words.length)) ∨ (0x2E00000 ≤ off.toNat ∧ off.toNat < 0x3C00000 ∧ 0x3000000 < off.toNat + 4 * words.length) ∨
      0x4000000 < off.toNat + 4 * words.length)) ∧
    (∃ (dom : Dom) (off : Word) (words : List Word) (s : State), s.chip.mayStart dom
      { code := 0x11, addr := off.toNat, args := words } = true ∧ off.toNat % 4 = 0 ∧ 1 ≤ words.length ∧ words.length ≤ 2000
      ∧ (dom = .fabric → s.chip.granted 14 = true) ∧ ((off.toNat < 0x2E00000 ∧ (3 ≤ s.chip.mgmt.fw ∨ 0x2000000 < off.toNat +
      4 * words.length)) ∨ (0x2E00000 ≤ off.toNat ∧ off.toNat < 0x3C00000 ∧ 0x3000000 < off.toNat + 4 * words.length) ∨
      0x4000000 < off.toNat + 4 * words.length)) ∧
    (∃ (dom : Dom) (off : Word) (words : List Word) (s : State), s.chip.mayStart dom
      { code := 0x11, addr := off.toNat, args := words } = true ∧ off.toNat % 4 = 0 ∧ 1 ≤ words.length ∧ words.length ≤ 2000
      ∧ (dom = .fabric → s.chip.granted 14 = true) ∧ ((off.toNat < 0x2E00000 ∧ (3 ≤ s.chip.mgmt.fw ∨ 0x2000000 < off.toNat +
      4 * words.length)) ∨ (0x2E00000 ≤ off.toNat ∧ off.toNat < 0x3C00000 ∧ 0x3000000 < off.toNat + 4 * words.length) ∨
      0x4000000 < off.toNat + 4 * words.length)) ∧
    (∃ (m : Memory) (words : List Word) (i : _), m.wf = true ∧ i < words.length) ∧
    (∃ (m : Memory) (a : Nat) (words : List Word) (b : _), m.wf = true ∧ (b < a ∨ a + 4 * words.length ≤ b)) ∧
    (∃ (off : Word) (words : List Word) (s : State), s.chip.mayStart .fabric
      { code := 0x11, addr := off.toNat, args := words } = true ∧ off.toNat % 4 = 0 ∧ 1 ≤ words.length ∧ words.length ≤ 2000
      ∧ s.chip.granted 14 = false) ∧
    (∃ (dom : Dom) (addr : Word) (source : Word) (first : Nat) (count : Nat) (cmd : Word) (words : Nat) (k : Nat) (st : Nat)
      (n : Nat) (res : Nat) (die : Nat) (m : MCmd) (b : Nat × Chip) (c : Chip) (s : State), m =
      { code := 0x20, addr := addr.toNat, args := [source, BitVec.ofNat 32 first, BitVec.ofNat 32 count, cmd, BitVec.ofNat 32 words] }
      ∧ s.chip.mayStart dom m = true ∧ s.chip.mgmt.fw = 3 ∧ badAddr addr.toNat = false ∧ tblIndexBits addr.toNat = some k ∧
      1 ≤ words ∧ words ≤ 40 ∧ source.toNat % 4 = 0 ∧ bit cmd.toNat 31 = false ∧ cmd.toNat % 2 ^ k = 0 ∧ first + count ≤ 2 ^
      k ∧ source.toNat + 4 * words * count ≤ 0x4000000 ∧ s.chip.allowed dom addr.toNat (some cmd.toNat) = true ∧ b =
      s.chip.stintStarts.begin dom m ∧ Chip.loadEntries (s.chip.sramWord s.sram) dom addr.toNat source.toNat first cmd.toNat
      words (min 40 count) 0 b.2.drawn = (st, n, res, die, c) ∧ c.rst.c0Up = true ∧ (st ≠ 0 ∨ n = count)) ∧
    (∃ (dom : Dom) (addr : Word) (source : Word) (first : Nat) (count : Nat) (cmd : Word) (words : Nat) (k : Nat) (st : Nat)
      (n : Nat) (res : Nat) (die : Nat) (m : MCmd) (b : Nat × Chip) (c : Chip) (s : State), m =
      { code := 0x20, addr := addr.toNat, args := [source, BitVec.ofNat 32 first, BitVec.ofNat 32 count, cmd, BitVec.ofNat 32 words] }
      ∧ s.chip.mayStart dom m = true ∧ s.chip.mgmt.fw = 3 ∧ badAddr addr.toNat = false ∧ tblIndexBits addr.toNat = some k ∧
      1 ≤ words ∧ words ≤ 40 ∧ source.toNat % 4 = 0 ∧ bit cmd.toNat 31 = false ∧ cmd.toNat % 2 ^ k = 0 ∧ first + count ≤ 2 ^
      k ∧ source.toNat + 4 * words * count ≤ 0x4000000 ∧ s.chip.allowed dom addr.toNat (some cmd.toNat) = true ∧ b =
      s.chip.stintStarts.begin dom m ∧ Chip.loadEntries (s.chip.sramWord s.sram) dom addr.toNat source.toNat first cmd.toNat
      words (min 40 count) 0 b.2.drawn = (st, n, res, die, c) ∧ c.rst.c0Up = true ∧ (st ≠ 0 ∨ n = count)) ∧
    (∃ (dom : Dom) (addr : Word) (source : Word) (first : Nat) (count : Nat) (cmd : Word) (words : Nat) (k : Nat) (st : Nat)
      (n : Nat) (res : Nat) (die : Nat) (m : MCmd) (b : Nat × Chip) (c : Chip) (s : State), m =
      { code := 0x20, addr := addr.toNat, args := [source, BitVec.ofNat 32 first, BitVec.ofNat 32 count, cmd, BitVec.ofNat 32 words] }
      ∧ s.chip.mayStart dom m = true ∧ s.chip.mgmt.fw = 3 ∧ badAddr addr.toNat = false ∧ tblIndexBits addr.toNat = some k ∧
      1 ≤ words ∧ words ≤ 40 ∧ source.toNat % 4 = 0 ∧ bit cmd.toNat 31 = false ∧ cmd.toNat % 2 ^ k = 0 ∧ first + count ≤ 2 ^
      k ∧ source.toNat + 4 * words * count ≤ 0x4000000 ∧ s.chip.allowed dom addr.toNat (some cmd.toNat) = true ∧ b =
      s.chip.stintStarts.begin dom m ∧ Chip.loadEntries (s.chip.sramWord s.sram) dom addr.toNat source.toNat first cmd.toNat
      words (min 40 count) 0 b.2.drawn = (st, n, res, die, c) ∧ c.rst.c0Up = true ∧ (st ≠ 0 ∨ n = count)) ∧
    (∃ (dom : Dom) (addr : Word) (source : Word) (first : Nat) (count : Nat) (cmd : Word) (words : Nat) (k : Nat) (st : Nat)
      (n : Nat) (res : Nat) (die : Nat) (m : MCmd) (b : Nat × Chip) (c : Chip) (s : State), m =
      { code := 0x20, addr := addr.toNat, args := [source, BitVec.ofNat 32 first, BitVec.ofNat 32 count, cmd, BitVec.ofNat 32 words] }
      ∧ s.chip.mayStart dom m = true ∧ s.chip.mgmt.fw = 3 ∧ badAddr addr.toNat = false ∧ tblIndexBits addr.toNat = some k ∧
      1 ≤ words ∧ words ≤ 40 ∧ source.toNat % 4 = 0 ∧ bit cmd.toNat 31 = false ∧ cmd.toNat % 2 ^ k = 0 ∧ first + count ≤ 2 ^
      k ∧ source.toNat + 4 * words * count ≤ 0x4000000 ∧ s.chip.allowed dom addr.toNat (some cmd.toNat) = true ∧ b =
      s.chip.stintStarts.begin dom m ∧ Chip.loadEntries (s.chip.sramWord s.sram) dom addr.toNat source.toNat first cmd.toNat
      words (min 40 count) 0 b.2.drawn = (st, n, res, die, c) ∧ c.rst.c0Up = true ∧ st = 0 ∧ n < count) ∧
    (∃ (dom : Dom) (addr : Word) (source : Word) (first : Nat) (count : Nat) (cmd : Word) (words : Nat) (m : MCmd) (s :
      State), m =
      { code := 0x20, addr := addr.toNat, args := [source, BitVec.ofNat 32 first, BitVec.ofNat 32 count, cmd, BitVec.ofNat 32 words] }
      ∧ s.chip.mayStart dom m = true ∧ s.chip.mgmt.fw ≠ 3) ∧
    (∃ (rd : Nat → Word) (dom : Dom) (addr : Nat) (source : Nat) (first : Nat) (cmd : Nat) (words : Nat) (i : Nat) (x : Nat
      × Chip) (y : Nat × Chip) (z : Chip) (c : Chip), x = c.writeWords dom ((List.range words).map (fun k => rd (source + 4
      * words * i + 4 * k))) (addr + 0x40) ∧ x.1 = 0 ∧ y = x.2.writeWord dom addr (2 ^ 31 + cmd + (first + i)) ∧ y.1 = 0 ∧ z
      = y.2.goWait ((windowDies addr).map (inDie addr)) ∧ (∀ d ∈ windowDies addr, z.tblResult addr d = 0)) ∧
    (∃ (rd : Nat → Word) (dom : Dom) (addr : Nat) (source : Nat) (first : Nat) (cmd : Nat) (words : Nat) (i : Nat) (d : Nat)
      (x : Nat × Chip) (y : Nat × Chip) (z : Chip) (c : Chip), x = c.writeWords dom ((List.range words).map (fun k => rd
      (source + 4 * words * i + 4 * k))) (addr + 0x40) ∧ x.1 = 0 ∧ y = x.2.writeWord dom addr (2 ^ 31 + cmd + (first + i)) ∧
      y.1 = 0 ∧ z = y.2.goWait ((windowDies addr).map (inDie addr)) ∧ (windowDies addr).find? (fun d => z.tblResult addr d
      != 0) = some d) ∧
    (∃ (a : Nat), (a < 0x2000000 ∨ 0x2E00000 ≤ a)) ∧
    (∃ (a : Nat), (a < 0x2000000 ∨ 0x2E00000 ≤ a)) :=
  ⟨ (let dom : Dom := .owner; let off : Word := 0x3FFFFFC; let len : Nat := 4; let s : State := mkS (fun c => c)
     ⟨dom, off, len, s, by decide +kernel +zetaReduce⟩),
    (let dom : Dom := .owner; let off : Word := 0; let len : Nat := 8000; let s : State := mkS (fun c => c)
     ⟨dom, off, len, s, by decide +kernel +zetaReduce⟩),
    (let dom : Dom := .owner; let off : Word := 0x2E00000; let len : Nat := 8; let w := 0x5C0000
     let s : State := mkS (fun c => c.onMgmt (fun m => { m with badSram := [0x5C0000] }))
     ⟨dom, off, len, s, w, by decide +kernel +zetaReduce⟩),
    (let dom : Dom := .owner; let off : Word := 0x2E00004; let len : Nat := 4; let w := 0x5C0000
     let s : State := mkS (fun c => c.onMgmt (fun m => { m with badSram := [0x5C0000] }))
     ⟨dom, off, len, s, w, by decide +kernel +zetaReduce⟩),
    (let dom : Dom := .fabric; let off : Word := 0x2E00000; let len : Nat := 4; let s : State := mkS (fun c => fwOn c)
     ⟨dom, off, len, s, by decide +kernel +zetaReduce⟩),
    (let dom : Dom := .owner; let off : Word := 0x4000000; let len : Nat := 4; let s : State := mkS (fun c => c)
     ⟨dom, off, len, s, by decide +kernel +zetaReduce⟩),
    (let dom : Dom := .owner; let off : Word := 0x2E00000; let words : List Word := [1, 0, 0xFF000000]
     let s : State := mkS (fun c => fwOn c); ⟨dom, off, words, s, by decide +kernel +zetaReduce⟩),
    (let dom : Dom := .owner; let off : Word := 0x2FFFFFC; let words : List Word := [7]
     let s : State := { mkS (fun c => c) with sram := [(5, 1), (0x2FFFFFD, 9)] }
     ⟨dom, off, words, s, by decide +kernel +zetaReduce⟩),
    (let dom : Dom := .fabric; let off : Word := 0x3C00000; let words : List Word := [7]
     let s : State := mkS (fun c => (fwOn c).setReg (ctlR 0x100) (2 ^ 14))
     ⟨dom, off, words, s, by decide +kernel +zetaReduce⟩),
    (let dom : Dom := .owner; let off : Word := 0x3FFFFFC; let words : List Word := [7]; let s : State := mkS (fun c => c)
     ⟨dom, off, words, s, by decide +kernel +zetaReduce⟩),
    (let dom : Dom := .owner; let off : Word := 0x1FFFFF8; let words : List Word := [7, 8]
     let s : State := mkS (fun c => c); ⟨dom, off, words, s, by decide +kernel +zetaReduce⟩),
    (let dom : Dom := .owner; let off : Word := 0; let words : List Word := [0x80000000]
     let s : State := mkS (fun c => c.onMgmt (fun m => { m with fw := 2 }))
     ⟨dom, off, words, s, by decide +kernel +zetaReduce⟩),
    (let dom : Dom := .owner; let off : Word := 0; let words : List Word := [1]; let s : State := mkS (fun c => fwOn c)
     ⟨dom, off, words, s, by decide +kernel +zetaReduce⟩),
    (let dom : Dom := .owner; let off : Word := 0x1FFFFFC; let words : List Word := [1, 2]
     let s : State := mkS (fun c => c); ⟨dom, off, words, s, by decide +kernel +zetaReduce⟩),
    (let dom : Dom := .owner; let off : Word := 0x2FFFFFC; let words : List Word := [1, 2]
     let s : State := mkS (fun c => c); ⟨dom, off, words, s, by decide +kernel +zetaReduce⟩),
    (let dom : Dom := .owner; let off : Word := 0x3FFFFFC; let words : List Word := [1, 2]
     let s : State := mkS (fun c => c); ⟨dom, off, words, s, by decide +kernel +zetaReduce⟩),
    (let m : Memory := [(3, 1)]; let words : List Word := [1, 0x80000000]; let i := 1
     ⟨m, words, i, by decide +kernel +zetaReduce⟩),
    (let m : Memory := [(3, 1)]; let a : Nat := 4; let words : List Word := [1, 0x80000000]; let b := 3
     ⟨m, a, words, b, by decide +kernel +zetaReduce⟩),
    (let off : Word := 0; let words : List Word := [1]; let s : State := mkS (fun c => (fwOn c).setReg (ctlR 0x100) 0x1F)
     ⟨off, words, s, by decide +kernel +zetaReduce⟩),
    (let dom : Dom := .owner; let addr : Word := ad 3 0x41 0x100; let source : Word := 0x2E00000; let first : Nat := 5
     let count : Nat := 1; let cmd : Word := 0x40000000; let words : Nat := 1; let k : Nat := 20
     let s : State := { mkS (fun c => fwOn (onPg 3 0x41 c)) with sram := [(0x2E00000, 7)] }
     let m : MCmd := { code := 0x20, addr := addr.toNat, args := [source, BitVec.ofNat 32 first, BitVec.ofNat 32 count, cmd, BitVec.ofNat 32 words] }
     let b : Nat × Chip := (s.chip.draw Config.pick).2.begin dom m
     let st : Nat := (Chip.loadEntries (s.chip.sramWord s.sram) dom addr.toNat source.toNat first cmd.toNat words (min 40 count) 0 b.2.drawn).1
     let n : Nat := (Chip.loadEntries (s.chip.sramWord s.sram) dom addr.toNat source.toNat first cmd.toNat words (min 40 count) 0 b.2.drawn).2.1
     let res : Nat := (Chip.loadEntries (s.chip.sramWord s.sram) dom addr.toNat source.toNat first cmd.toNat words (min 40 count) 0 b.2.drawn).2.2.1
     let die : Nat := (Chip.loadEntries (s.chip.sramWord s.sram) dom addr.toNat source.toNat first cmd.toNat words (min 40 count) 0 b.2.drawn).2.2.2.1
     let c : Chip := (Chip.loadEntries (s.chip.sramWord s.sram) dom addr.toNat source.toNat first cmd.toNat words (min 40 count) 0 b.2.drawn).2.2.2.2
     ⟨dom, addr, source, first, count, cmd, words, k, st, n, res, die, m, b, c, s, rfl, by decide +kernel +zetaReduce,
      by decide +kernel +zetaReduce, by decide +kernel +zetaReduce, by decide +kernel +zetaReduce,
      by decide +kernel +zetaReduce, by decide +kernel +zetaReduce, by decide +kernel +zetaReduce,
      by decide +kernel +zetaReduce, by decide +kernel +zetaReduce, by decide +kernel +zetaReduce,
      by decide +kernel +zetaReduce, by decide +kernel +zetaReduce,
      (congrArg (fun c => Chip.begin c dom m) (stint_off s.chip (by decide +kernel +zetaReduce))).symm, five _,
      by decide +kernel +zetaReduce, by decide +kernel +zetaReduce⟩),
    (let dom : Dom := .owner; let addr : Word := ad 3 0x41 0x100; let source : Word := 0x2E00000; let first : Nat := 65535
     let count : Nat := 1; let cmd : Word := 0x40000000; let words : Nat := 1; let k : Nat := 20
     let s : State := { mkS (fun c => fwOn (onPg 3 0x41 c)) with sram := [(0x2E00002, 7)] }
     let m : MCmd := { code := 0x20, addr := addr.toNat, args := [source, BitVec.ofNat 32 first, BitVec.ofNat 32 count, cmd, BitVec.ofNat 32 words] }
     let b : Nat × Chip := (s.chip.draw Config.pick).2.begin dom m
     let st : Nat := (Chip.loadEntries (s.chip.sramWord s.sram) dom addr.toNat source.toNat first cmd.toNat words (min 40 count) 0 b.2.drawn).1
     let n : Nat := (Chip.loadEntries (s.chip.sramWord s.sram) dom addr.toNat source.toNat first cmd.toNat words (min 40 count) 0 b.2.drawn).2.1
     let res : Nat := (Chip.loadEntries (s.chip.sramWord s.sram) dom addr.toNat source.toNat first cmd.toNat words (min 40 count) 0 b.2.drawn).2.2.1
     let die : Nat := (Chip.loadEntries (s.chip.sramWord s.sram) dom addr.toNat source.toNat first cmd.toNat words (min 40 count) 0 b.2.drawn).2.2.2.1
     let c : Chip := (Chip.loadEntries (s.chip.sramWord s.sram) dom addr.toNat source.toNat first cmd.toNat words (min 40 count) 0 b.2.drawn).2.2.2.2
     ⟨dom, addr, source, first, count, cmd, words, k, st, n, res, die, m, b, c, s, rfl, by decide +kernel +zetaReduce,
      by decide +kernel +zetaReduce, by decide +kernel +zetaReduce, by decide +kernel +zetaReduce,
      by decide +kernel +zetaReduce, by decide +kernel +zetaReduce, by decide +kernel +zetaReduce,
      by decide +kernel +zetaReduce, by decide +kernel +zetaReduce, by decide +kernel +zetaReduce,
      by decide +kernel +zetaReduce, by decide +kernel +zetaReduce,
      (congrArg (fun c => Chip.begin c dom m) (stint_off s.chip (by decide +kernel +zetaReduce))).symm, five _,
      by decide +kernel +zetaReduce, by decide +kernel +zetaReduce⟩),
    (let dom : Dom := .owner; let addr : Word := ad 7 0x41 0x100; let source : Word := 0x2E00000; let first : Nat := 0
     let count : Nat := 1; let cmd : Word := 0x40000000; let words : Nat := 2; let k : Nat := 17
     let s : State := { mkS (fun c => fwOn (onPg 7 0x41 c)) with sram := [] }
     let m : MCmd := { code := 0x20, addr := addr.toNat, args := [source, BitVec.ofNat 32 first, BitVec.ofNat 32 count, cmd, BitVec.ofNat 32 words] }
     let b : Nat × Chip := (s.chip.draw Config.pick).2.begin dom m
     let st : Nat := (Chip.loadEntries (s.chip.sramWord s.sram) dom addr.toNat source.toNat first cmd.toNat words (min 40 count) 0 b.2.drawn).1
     let n : Nat := (Chip.loadEntries (s.chip.sramWord s.sram) dom addr.toNat source.toNat first cmd.toNat words (min 40 count) 0 b.2.drawn).2.1
     let res : Nat := (Chip.loadEntries (s.chip.sramWord s.sram) dom addr.toNat source.toNat first cmd.toNat words (min 40 count) 0 b.2.drawn).2.2.1
     let die : Nat := (Chip.loadEntries (s.chip.sramWord s.sram) dom addr.toNat source.toNat first cmd.toNat words (min 40 count) 0 b.2.drawn).2.2.2.1
     let c : Chip := (Chip.loadEntries (s.chip.sramWord s.sram) dom addr.toNat source.toNat first cmd.toNat words (min 40 count) 0 b.2.drawn).2.2.2.2
     ⟨dom, addr, source, first, count, cmd, words, k, st, n, res, die, m, b, c, s, rfl, by decide +kernel +zetaReduce,
      by decide +kernel +zetaReduce, by decide +kernel +zetaReduce, by decide +kernel +zetaReduce,
      by decide +kernel +zetaReduce, by decide +kernel +zetaReduce, by decide +kernel +zetaReduce,
      by decide +kernel +zetaReduce, by decide +kernel +zetaReduce, by decide +kernel +zetaReduce,
      by decide +kernel +zetaReduce, by decide +kernel +zetaReduce,
      (congrArg (fun c => Chip.begin c dom m) (stint_off s.chip (by decide +kernel +zetaReduce))).symm, five _,
      by decide +kernel +zetaReduce, by decide +kernel +zetaReduce⟩),
    (let dom : Dom := .owner; let addr : Word := ad 3 0x41 0x100; let source : Word := 0x2E00000; let first : Nat := 5
     let count : Nat := 41; let cmd : Word := 0x40000000; let words : Nat := 1; let k : Nat := 20
     let s : State := { mkS (fun c => fwOn (onPg 3 0x41 c)) with sram := [(0x2E00000, 7)] }
     let m : MCmd := { code := 0x20, addr := addr.toNat, args := [source, BitVec.ofNat 32 first, BitVec.ofNat 32 count, cmd, BitVec.ofNat 32 words] }
     let b : Nat × Chip := (s.chip.draw Config.pick).2.begin dom m
     let st : Nat := (Chip.loadEntries (s.chip.sramWord s.sram) dom addr.toNat source.toNat first cmd.toNat words (min 40 count) 0 b.2.drawn).1
     let n : Nat := (Chip.loadEntries (s.chip.sramWord s.sram) dom addr.toNat source.toNat first cmd.toNat words (min 40 count) 0 b.2.drawn).2.1
     let res : Nat := (Chip.loadEntries (s.chip.sramWord s.sram) dom addr.toNat source.toNat first cmd.toNat words (min 40 count) 0 b.2.drawn).2.2.1
     let die : Nat := (Chip.loadEntries (s.chip.sramWord s.sram) dom addr.toNat source.toNat first cmd.toNat words (min 40 count) 0 b.2.drawn).2.2.2.1
     let c : Chip := (Chip.loadEntries (s.chip.sramWord s.sram) dom addr.toNat source.toNat first cmd.toNat words (min 40 count) 0 b.2.drawn).2.2.2.2
     ⟨dom, addr, source, first, count, cmd, words, k, st, n, res, die, m, b, c, s, rfl, by decide +kernel +zetaReduce,
      by decide +kernel +zetaReduce, by decide +kernel +zetaReduce, by decide +kernel +zetaReduce,
      by decide +kernel +zetaReduce, by decide +kernel +zetaReduce, by decide +kernel +zetaReduce,
      by decide +kernel +zetaReduce, by decide +kernel +zetaReduce, by decide +kernel +zetaReduce,
      by decide +kernel +zetaReduce, by decide +kernel +zetaReduce,
      (congrArg (fun c => Chip.begin c dom m) (stint_off s.chip (by decide +kernel +zetaReduce))).symm, five _,
      by decide +kernel +zetaReduce, by decide +kernel +zetaReduce, by decide +kernel +zetaReduce⟩),
    (let dom : Dom := .owner; let addr : Word := ad 3 0x41 0x100; let source : Word := 0x2E00000; let first : Nat := 5
     let count : Nat := 1; let cmd : Word := 0; let words : Nat := 1
     let s : State := mkS (fun c => c.onMgmt (fun m => { m with fw := 2 }))
     let m : MCmd := { code := 0x20, addr := addr.toNat, args := [source, BitVec.ofNat 32 first, BitVec.ofNat 32 count, cmd, BitVec.ofNat 32 words] }
     ⟨dom, addr, source, first, count, cmd, words, m, s, by decide +kernel +zetaReduce⟩),
    (let rd : Nat → Word := Memory.word [(0x2E00000, 7)]; let dom : Dom := .owner; let addr : Nat := regAddr 3 0x41 0x100
     let source : Nat := 0x2E00000; let first : Nat := 5; let cmd : Nat := 0x40000000; let words : Nat := 1
     let i : Nat := 1; let c : Chip := fwOn (onPg 3 0x41 Chip.reset)
     let x : Nat × Chip := c.writeWords dom ((List.range words).map (fun k => rd (source + 4 * words * i + 4 * k))) (addr + 0x40)
     let y : Nat × Chip := x.2.writeWord dom addr (2 ^ 31 + cmd + (first + i))
     let z : Chip := y.2.goWait ((windowDies addr).map (inDie addr))
     ⟨rd, dom, addr, source, first, cmd, words, i, x, y, z, c, rfl, by decide +kernel +zetaReduce, rfl,
      by decide +kernel +zetaReduce, rfl, by decide +kernel +zetaReduce⟩),
    (let rd : Nat → Word := Memory.word [(0x2E00000, 7)]; let dom : Dom := .owner; let addr : Nat := regAddr 7 0x41 0x100
     let source : Nat := 0x2E00000; let first : Nat := 5; let cmd : Nat := 0x40000000; let words : Nat := 1
     let i : Nat := 1; let d : Nat := 7; let c : Chip := ctxOn 3 0 (fwOn (onPg 7 0x41 Chip.reset))
     let x : Nat × Chip := c.writeWords dom ((List.range words).map (fun k => rd (source + 4 * words * i + 4 * k))) (addr + 0x40)
     let y : Nat × Chip := x.2.writeWord dom addr (2 ^ 31 + cmd + (first + i))
     let z : Chip := y.2.goWait ((windowDies addr).map (inDie addr))
     ⟨rd, dom, addr, source, first, cmd, words, i, d, x, y, z, c, rfl, by decide +kernel +zetaReduce, rfl,
      by decide +kernel +zetaReduce, rfl, by decide +kernel +zetaReduce⟩),
    (let a : Nat := 0x1FFFFFC; ⟨a, by decide +kernel +zetaReduce⟩),
    (let a : Nat := 0x2E00000; ⟨a, by decide +kernel +zetaReduce⟩)⟩

/-- States and operands that meet the hypotheses of `Obligations.EventWaitsAndIdent`, clause by clause. -/
theorem witness_EventWaitsAndIdent :
    (∃ (dom : Dom) (d : Nat) (timeout : Nat) (q : List EvEnt) (b : Nat × Chip) (s : State), d = domIdx dom ∧ s.chip.mayStart
      dom { code := 0x30, addr := 0, args := [BitVec.ofNat 32 timeout] } = true ∧ 3 ≤ s.chip.mgmt.fw ∧ timeout ≤ 1000000 ∧
      s.chip.waitTakes d = true ∧ s.chip.mgmt.evq.getD d [] = q ∧ b = s.chip.begin dom
      { code := 0x30, addr := 0, args := [BitVec.ofNat 32 timeout] } ∧ q ≠ []) ∧
    (∃ (dom : Dom) (d : Nat) (timeout : Nat) (q : List EvEnt) (b : Nat × Chip) (s : State), d = domIdx dom ∧ s.chip.mayStart
      dom { code := 0x30, addr := 0, args := [BitVec.ofNat 32 timeout] } = true ∧ 3 ≤ s.chip.mgmt.fw ∧ timeout ≤ 1000000 ∧
      s.chip.waitTakes d = true ∧ s.chip.mgmt.evq.getD d [] = q ∧ b = s.chip.begin dom
      { code := 0x30, addr := 0, args := [BitVec.ofNat 32 timeout] } ∧ q ≠ []) ∧
    (∃ (dom : Dom) (d : Nat) (timeout : Nat) (q : List EvEnt) (b : Nat × Chip) (s : State), d = domIdx dom ∧ s.chip.mayStart
      dom { code := 0x30, addr := 0, args := [BitVec.ofNat 32 timeout] } = true ∧ 3 ≤ s.chip.mgmt.fw ∧ timeout ≤ 1000000 ∧
      s.chip.waitTakes d = true ∧ s.chip.mgmt.evq.getD d [] = q ∧ b = s.chip.begin dom
      { code := 0x30, addr := 0, args := [BitVec.ofNat 32 timeout] } ∧ q = []) ∧
    (∃ (dom : Dom) (timeout : Nat) (s : State), s.chip.mayStart dom
      { code := 0x30, addr := 0, args := [BitVec.ofNat 32 timeout] } = true ∧ s.chip.mgmt.fw < 3) ∧
    (∃ (dom : Dom) (d : Nat) (e : Nat × Nat × Nat) (rest : List (Nat × Nat × Nat)) (c : Chip) (s : State), d = domIdx dom ∧
      d < s.chip.mgmt.waits.length ∧ (s.chip.waitsOf d).evs = e :: rest ∧ s.chip.mgmt.evq.getD d [] = [] ∧ d <
      s.chip.mgmt.evq.length ∧ c = s.chip.till (e.2.1 + 1000 * e.1)) ∧
    (∃ (dom : Dom) (d : Nat) (e : Nat × Nat × Nat) (rest : List (Nat × Nat × Nat)) (c : Chip) (s : State), d = domIdx dom ∧
      d < s.chip.mgmt.waits.length ∧ (s.chip.waitsOf d).evs = e :: rest ∧ s.chip.mgmt.evq.getD d [] = [] ∧ d <
      s.chip.mgmt.evq.length ∧ c = s.chip.till (e.2.1 + 1000 * e.1)) ∧
    (∃ (dom : Dom) (s : State), s.chip.mayStart dom { code := 0x40, addr := 0, args := [] } = true) ∧
    (∃ (dom : Dom) (s : State), s.chip.mayStart dom { code := 0x40, addr := 0, args := [] } = true) :=
  ⟨ (let dom : Dom := .owner; let d : Nat := 0; let timeout : Nat := 1000000
     let q : List EvEnt := [{ time := 5, page := 6, evt := 7 }]
     let s : State := mkS (fun c => (fwOn c).onMgmt (fun m => { m with evq := [[{ time := 5, page := 6, evt := 7 }], []] }))
     let b : Nat × Chip := s.chip.begin dom { code := 0x30, addr := 0, args := [BitVec.ofNat 32 timeout] }
     ⟨dom, d, timeout, q, b, s, by decide +kernel +zetaReduce⟩),
    (let dom : Dom := .fabric; let d : Nat := 1; let timeout : Nat := 0
     let q : List EvEnt := List.replicate 33 { time := 5, page := 6, evt := 7 }
     let s : State := mkS (fun c => (fwOn c).onMgmt (fun m => { m with evLost := [0, 5], evq := [[], List.replicate 33 { time := 5, page := 6, evt := 7 }] }))
     let b : Nat × Chip := s.chip.begin dom { code := 0x30, addr := 0, args := [BitVec.ofNat 32 timeout] }
     ⟨dom, d, timeout, q, b, s, by decide +kernel +zetaReduce⟩),
    (let dom : Dom := .owner; let d : Nat := 0; let timeout : Nat := 5; let q : List EvEnt := []
     let s : State := mkS (fun c => fwOn c)
     let b : Nat × Chip := s.chip.begin dom { code := 0x30, addr := 0, args := [BitVec.ofNat 32 timeout] }
     ⟨dom, d, timeout, q, b, s, by decide +kernel +zetaReduce⟩),
    (let dom : Dom := .owner; let timeout : Nat := 5; let s : State := mkS (fun c => c)
     ⟨dom, timeout, s, by decide +kernel +zetaReduce⟩),
    (let dom : Dom := .owner; let d : Nat := 0; let e : Nat × Nat × Nat := (5, 7, 3)
     let rest : List (Nat × Nat × Nat) := []
     let s : State := mkS (fun c => (fwOn c).onWaits 0 (fun w => { w with evs := [(5, 7, 3)] }))
     let c : Chip := s.chip.till (e.2.1 + 1000 * e.1); ⟨dom, d, e, rest, c, s, by decide +kernel +zetaReduce⟩),
    (let dom : Dom := .fabric; let d : Nat := 1; let e : Nat × Nat × Nat := (5, 7, 3)
     let rest : List (Nat × Nat × Nat) := [(1, 2, 4)]
     let s : State := mkS (fun c => ((fwOn c).onMgmt (fun m => { m with evLost := [0, 9] })).onWaits 1 (fun w => { w with evs := [(5, 7, 3), (1, 2, 4)] }))
     let c : Chip := s.chip.till (e.2.1 + 1000 * e.1); ⟨dom, d, e, rest, c, s, by decide +kernel +zetaReduce⟩),
    (let dom : Dom := .owner; let s : State := mkS (fun c => c); ⟨dom, s, by decide +kernel +zetaReduce⟩),
    (let dom : Dom := .fabric; let s : State := mkS (fun c => fwOn c); ⟨dom, s, by decide +kernel +zetaReduce⟩)⟩

/-- States and operands that meet the hypotheses of `Obligations.FirmwareAndFuses`, clause by clause. -/
theorem witness_FirmwareAndFuses :
    (∃ (dom : Dom) (b : Nat × Chip) (s : State), s.chip.mayStart dom { code := 0x60, addr := 0, args := [] } = true ∧ b =
      s.chip.begin dom { code := 0x60, addr := 0, args := [] } ∧ (s.chip.mgmt.fw = 0 ∨ s.chip.mgmt.fw = 2)) ∧
    (∃ (dom : Dom) (b : Nat × Chip) (s : State), s.chip.mayStart dom { code := 0x60, addr := 0, args := [] } = true ∧ b =
      s.chip.begin dom { code := 0x60, addr := 0, args := [] } ∧ (s.chip.mgmt.fw = 0 ∨ s.chip.mgmt.fw = 2)) ∧
    (∃ (dom : Dom) (b : Nat × Chip) (s : State), s.chip.mayStart dom { code := 0x60, addr := 0, args := [] } = true ∧ b =
      s.chip.begin dom { code := 0x60, addr := 0, args := [] } ∧ s.chip.mgmt.fw ≠ 0 ∧ s.chip.mgmt.fw ≠ 2) ∧
    (∃ (dom : Dom) (b : Nat × Chip) (s : State), s.chip.mayStart dom { code := 0x60, addr := 0, args := [] } = true ∧ b =
      s.chip.begin dom { code := 0x60, addr := 0, args := [] } ∧ s.chip.mgmt.fw ≠ 0 ∧ s.chip.mgmt.fw ≠ 2) ∧
    (∃ (dom : Dom) (n : Nat) (s : State), s.chip.mgmt.fw = 1 ∧ s.chip.mgmt.fwBy = some (domIdx dom, n)) ∧
    (∃ (dom : Dom) (n : Nat) (s : State), s.chip.mgmt.fw = 1 ∧ s.chip.mgmt.fwBy = some (domIdx dom, n)) ∧
    (∃ (m : Memory), (leAt (m.bytes 0 1024) 0 4 ≠ 0x5746534B ∨ leAt (m.bytes 0 1024) 4 4 ≠ 1)) ∧
    (∃ (m : Memory), (leAt (m.bytes 0 1024) 0 4 ≠ 0x5746534B ∨ leAt (m.bytes 0 1024) 4 4 ≠ 1)) ∧
    (∃ (m : Memory), leAt (m.bytes 0 1024) 0 4 = 0x5746534B ∧ leAt (m.bytes 0 1024) 4 4 = 1 ∧ (leAt (m.bytes 0 1024) 12 4 %
      4096 ≠ 0 ∨ leAt (m.bytes 0 1024) 12 4 < 8192 ∨ 0x2000000 < leAt (m.bytes 0 1024) 12 4 ∨ leAt (m.bytes 0 1024) 16 4 <
      1024 ∨ leAt (m.bytes 0 1024) 12 4 ≤ leAt (m.bytes 0 1024) 16 4)) ∧
    (∃ (m : Memory), leAt (m.bytes 0 1024) 0 4 = 0x5746534B ∧ leAt (m.bytes 0 1024) 4 4 = 1 ∧ (leAt (m.bytes 0 1024) 12 4 %
      4096 ≠ 0 ∨ leAt (m.bytes 0 1024) 12 4 < 8192 ∨ 0x2000000 < leAt (m.bytes 0 1024) 12 4 ∨ leAt (m.bytes 0 1024) 16 4 <
      1024 ∨ leAt (m.bytes 0 1024) 12 4 ≤ leAt (m.bytes 0 1024) 16 4)) ∧
    (∃ (m : Memory), leAt (m.bytes 0 1024) 0 4 = 0x5746534B ∧ leAt (m.bytes 0 1024) 4 4 = 1 ∧ (leAt (m.bytes 0 1024) 12 4 %
      4096 ≠ 0 ∨ leAt (m.bytes 0 1024) 12 4 < 8192 ∨ 0x2000000 < leAt (m.bytes 0 1024) 12 4 ∨ leAt (m.bytes 0 1024) 16 4 <
      1024 ∨ leAt (m.bytes 0 1024) 12 4 ≤ leAt (m.bytes 0 1024) 16 4)) ∧
    (∃ (m : Memory), leAt (m.bytes 0 1024) 0 4 = 0x5746534B ∧ leAt (m.bytes 0 1024) 4 4 = 1 ∧ (leAt (m.bytes 0 1024) 12 4 %
      4096 ≠ 0 ∨ leAt (m.bytes 0 1024) 12 4 < 8192 ∨ 0x2000000 < leAt (m.bytes 0 1024) 12 4 ∨ leAt (m.bytes 0 1024) 16 4 <
      1024 ∨ leAt (m.bytes 0 1024) 12 4 ≤ leAt (m.bytes 0 1024) 16 4)) ∧
    (∃ (c : Chip) (m : Memory), leAt (m.bytes 0 1024) 0 4 = 0x5746534B ∧ leAt (m.bytes 0 1024) 4 4 = 1 ∧ leAt (m.bytes 0
      1024) 12 4 % 4096 = 0 ∧ 8192 ≤ leAt (m.bytes 0 1024) 12 4 ∧ leAt (m.bytes 0 1024) 12 4 ≤ 0x2000000 ∧ 1024 ≤ leAt
      (m.bytes 0 1024) 16 4 ∧ leAt (m.bytes 0 1024) 16 4 < leAt (m.bytes 0 1024) 12 4 ∧ c.keyHash (byteAt (m.bytes 0 1024)
      20) = none) ∧
    (∃ (c : Chip) (m : Memory), leAt (m.bytes 0 1024) 0 4 = 0x5746534B ∧ leAt (m.bytes 0 1024) 4 4 = 1 ∧ leAt (m.bytes 0
      1024) 12 4 % 4096 = 0 ∧ 8192 ≤ leAt (m.bytes 0 1024) 12 4 ∧ leAt (m.bytes 0 1024) 12 4 ≤ 0x2000000 ∧ 1024 ≤ leAt
      (m.bytes 0 1024) 16 4 ∧ leAt (m.bytes 0 1024) 16 4 < leAt (m.bytes 0 1024) 12 4 ∧ c.keyHash (byteAt (m.bytes 0 1024)
      20) = none) ∧
    (∃ (c : Chip) (m : Memory) (k : _), leAt (m.bytes 0 1024) 0 4 = 0x5746534B ∧ leAt (m.bytes 0 1024) 4 4 = 1 ∧ leAt
      (m.bytes 0 1024) 12 4 % 4096 = 0 ∧ 8192 ≤ leAt (m.bytes 0 1024) 12 4 ∧ leAt (m.bytes 0 1024) 12 4 ≤ 0x2000000 ∧ 1024 ≤
      leAt (m.bytes 0 1024) 16 4 ∧ leAt (m.bytes 0 1024) 16 4 < leAt (m.bytes 0 1024) 12 4 ∧ c.keyHash (byteAt (m.bytes 0
      1024) 20) = some k ∧ sha384 (((m.bytes 0 1024).drop 512).take 97) ≠ k) ∧
    (∃ (c : Chip) (m : Memory) (k : _), leAt (m.bytes 0 1024) 0 4 = 0x5746534B ∧ leAt (m.bytes 0 1024) 4 4 = 1 ∧ leAt
      (m.bytes 0 1024) 12 4 % 4096 = 0 ∧ 8192 ≤ leAt (m.bytes 0 1024) 12 4 ∧ leAt (m.bytes 0 1024) 12 4 ≤ 0x2000000 ∧ 1024 ≤
      leAt (m.bytes 0 1024) 16 4 ∧ leAt (m.bytes 0 1024) 16 4 < leAt (m.bytes 0 1024) 12 4 ∧ c.keyHash (byteAt (m.bytes 0
      1024) 20) = some k ∧ sha384 (((m.bytes 0 1024).drop 512).take 97) = k ∧ leAt (m.bytes 0 1024) 8 4 < c.mgmt.floor) ∧
    (∃ (c : Chip) (m : Memory) (k : _), leAt (m.bytes 0 1024) 0 4 = 0x5746534B ∧ leAt (m.bytes 0 1024) 4 4 = 1 ∧ leAt
      (m.bytes 0 1024) 12 4 % 4096 = 0 ∧ 8192 ≤ leAt (m.bytes 0 1024) 12 4 ∧ leAt (m.bytes 0 1024) 12 4 ≤ 0x2000000 ∧ 1024 ≤
      leAt (m.bytes 0 1024) 16 4 ∧ leAt (m.bytes 0 1024) 16 4 < leAt (m.bytes 0 1024) 12 4 ∧ c.keyHash (byteAt (m.bytes 0
      1024) 20) = some k ∧ sha384 (((m.bytes 0 1024).drop 512).take 97) = k ∧ c.mgmt.floor ≤ leAt (m.bytes 0 1024) 8 4 ∧
      pubKey (((m.bytes 0 1024).drop 512).take 97) = none) ∧
    (∃ (c : Chip) (m : Memory) (k : _) (q : _), leAt (m.bytes 0 1024) 0 4 = 0x5746534B ∧ leAt (m.bytes 0 1024) 4 4 = 1 ∧
      leAt (m.bytes 0 1024) 12 4 % 4096 = 0 ∧ 8192 ≤ leAt (m.bytes 0 1024) 12 4 ∧ leAt (m.bytes 0 1024) 12 4 ≤ 0x2000000 ∧
      1024 ≤ leAt (m.bytes 0 1024) 16 4 ∧ leAt (m.bytes 0 1024) 16 4 < leAt (m.bytes 0 1024) 12 4 ∧ c.keyHash (byteAt
      (m.bytes 0 1024) 20) = some k ∧ sha384 (((m.bytes 0 1024).drop 512).take 97) = k ∧ c.mgmt.floor ≤ leAt (m.bytes 0
      1024) 8 4 ∧ pubKey (((m.bytes 0 1024).drop 512).take 97) = some q) ∧
    (∃ (c : Chip) (i : _), bit c.mgmt.revoked i = true) ∧
    (∃ (dom : Dom) (slot : Word) (s : State), s.chip.mayStart dom { code := 0x61, addr := 0, args := [1, slot] } = true ∧
      (slot.toNat = 2 ∨ slot.toNat = 3) ∧ (s.chip.mgmt.fw = 0 ∨ s.chip.mgmt.fw = 2) ∧ s.chip.mgmt.keys.getD (slot.toNat - 2)
      none = none) ∧
    (∃ (dom : Dom) (slot : Word) (s : State), s.chip.mayStart dom { code := 0x61, addr := 0, args := [1, slot] } = true ∧
      (slot.toNat = 2 ∨ slot.toNat = 3) ∧ ((s.chip.mgmt.fw ≠ 0 ∧ s.chip.mgmt.fw ≠ 2) ∨ (s.chip.mgmt.keys.getD (slot.toNat -
      2) none).isSome = true)) ∧
    (∃ (dom : Dom) (slot : Word) (s : State), s.chip.mayStart dom { code := 0x61, addr := 0, args := [1, slot] } = true ∧
      (slot.toNat = 2 ∨ slot.toNat = 3) ∧ ((s.chip.mgmt.fw ≠ 0 ∧ s.chip.mgmt.fw ≠ 2) ∨ (s.chip.mgmt.keys.getD (slot.toNat -
      2) none).isSome = true)) ∧
    (∃ (dom : Dom) (slot : Word) (s : State), s.chip.mayStart dom { code := 0x61, addr := 0, args := [1, slot] } = true ∧
      slot.toNat < 2) ∧
    (∃ (dom : Dom) (slot : Word) (s : State), s.chip.mayStart dom { code := 0x61, addr := 0, args := [2, slot] } = true ∧
      slot.toNat < 4 ∧ (s.chip.mgmt.fw = 0 ∨ s.chip.mgmt.fw = 2)) ∧
    (∃ (i : Nat) (j : Nat), i ≠ j) ∧
    (∃ (dom : Dom) (floor : Word) (s : State), s.chip.mayStart dom { code := 0x61, addr := 0, args := [3, floor] } = true ∧
      floor.toNat ≤ 64 ∧ (s.chip.mgmt.fw = 0 ∨ s.chip.mgmt.fw = 2) ∧ s.chip.mgmt.floor ≤ floor.toNat) ∧
    (∃ (dom : Dom) (floor : Word) (s : State), s.chip.mayStart dom { code := 0x61, addr := 0, args := [3, floor] } = true ∧
      floor.toNat ≤ 64 ∧ (floor.toNat < s.chip.mgmt.floor ∨ (s.chip.mgmt.fw ≠ 0 ∧ s.chip.mgmt.fw ≠ 2))) ∧
    (∃ (dom : Dom) (floor : Word) (s : State), s.chip.mayStart dom { code := 0x61, addr := 0, args := [3, floor] } = true ∧
      floor.toNat ≤ 64 ∧ (floor.toNat < s.chip.mgmt.floor ∨ (s.chip.mgmt.fw ≠ 0 ∧ s.chip.mgmt.fw ≠ 2))) :=
  ⟨ (let dom : Dom := .owner; let s : State := mkS (fun c => c)
     let b : Nat × Chip := s.chip.begin dom { code := 0x60, addr := 0, args := [] }
     ⟨dom, b, s, by decide +kernel +zetaReduce⟩),
    (let dom : Dom := .owner; let s : State := mkS (fun c => c.onMgmt (fun m => { m with fw := 2 }))
     let b : Nat × Chip := s.chip.begin dom { code := 0x60, addr := 0, args := [] }
     ⟨dom, b, s, by decide +kernel +zetaReduce⟩),
    (let dom : Dom := .owner; let s : State := mkS (fun c => c.onMgmt (fun m => { m with fw := 1 }))
     let b : Nat × Chip := s.chip.begin dom { code := 0x60, addr := 0, args := [] }
     ⟨dom, b, s, by decide +kernel +zetaReduce⟩),
    (let dom : Dom := .fabric; let s : State := mkS (fun c => c.onMgmt (fun m => { m with fw := 3 }))
     let b : Nat × Chip := s.chip.begin dom { code := 0x60, addr := 0, args := [] }
     ⟨dom, b, s, by decide +kernel +zetaReduce⟩),
    (let dom : Dom := .owner; let n : Nat := 3
     let s : State := mkS (fun c => c.onMgmt (fun m => { m with fw := 1, fwBy := some (0, 3) }))
     ⟨dom, n, s, by decide +kernel +zetaReduce⟩),
    (let dom : Dom := .fabric; let n : Nat := 0
     let s : State := mkS (fun c => c.onMgmt (fun m => { m with fw := 1, fwBy := some (1, 0) }))
     ⟨dom, n, s, by decide +kernel +zetaReduce⟩),
    (let m : Memory := []; ⟨m, by decide +kernel +zetaReduce⟩),
    (let m : Memory := (img 8192 1024 2).put 4 2; ⟨m, by decide +kernel +zetaReduce⟩),
    (let m : Memory := img 8192 1023 2; ⟨m, by decide +kernel +zetaReduce⟩),
    (let m : Memory := img 8192 8192 2; ⟨m, by decide +kernel +zetaReduce⟩),
    (let m : Memory := img 0x2001000 1024 2; ⟨m, by decide +kernel +zetaReduce⟩),
    (let m : Memory := img 4096 1024 2; ⟨m, by decide +kernel +zetaReduce⟩),
    (let c : Chip := Chip.reset; let m : Memory := img 8192 1024 2; ⟨c, m, by decide +kernel +zetaReduce⟩),
    (let c : Chip := Chip.reset; let m : Memory := img 0x2000000 8191 200; ⟨c, m, by decide +kernel +zetaReduce⟩),
    (let c : Chip := Chip.reset.onMgmt (fun m => { m with keys := [some 5, none] }); let m : Memory := img 8192 1024 2
     let k := 5; ⟨c, m, k, by decide +kernel +zetaReduce⟩),
    (let m : Memory := img 8192 1024 2; let k := sha384 (4 :: List.replicate 96 0)
     let c : Chip := Chip.reset.onMgmt (fun m => { m with floor := 4, keys := [some (BitVec.ofNat 384 (sha384 (4 :: List.replicate 96 0))), none] })
     ⟨c, m, k, by decide +kernel +zetaReduce⟩),
    (let m : Memory := (img 8192 1024 2).put 512 0; let k := sha384 (List.replicate 97 0)
     let c : Chip := Chip.reset.onMgmt (fun m => { m with floor := 3, keys := [some (BitVec.ofNat 384 (sha384 (List.replicate 97 0))), none] })
     ⟨c, m, k, by decide +kernel +zetaReduce⟩),
    (let m : Memory := img 8192 1024 2; let k := sha384 (4 :: List.replicate 96 0); let q := (0, 0)
     let c : Chip := Chip.reset.onMgmt (fun m => { m with floor := 3, keys := [some (BitVec.ofNat 384 (sha384 (4 :: List.replicate 96 0))), none] })
     ⟨c, m, k, q, by decide +kernel +zetaReduce⟩),
    (let c : Chip := Chip.reset.onMgmt (fun m => { m with revoked := 5 }); let i := 2; let m : Memory := []
     ⟨c, i, by decide +kernel +zetaReduce⟩),
    (let dom : Dom := .owner; let slot : Word := 3
     let s : State := { mkS (fun c => c.onMgmt (fun m => { m with fw := 2 })) with sram := [(0x2E00000, 9)] }
     ⟨dom, slot, s, by decide +kernel +zetaReduce⟩),
    (let dom : Dom := .owner; let slot : Word := 3
     let s : State := mkS (fun c => c.onMgmt (fun m => { m with fw := 0, keys := [none, some 5] }))
     ⟨dom, slot, s, by decide +kernel +zetaReduce⟩),
    (let dom : Dom := .owner; let slot : Word := 2; let s : State := mkS (fun c => c.onMgmt (fun m => { m with fw := 3 }))
     ⟨dom, slot, s, by decide +kernel +zetaReduce⟩),
    (let dom : Dom := .owner; let slot : Word := 1; let s : State := mkS (fun c => c)
     ⟨dom, slot, s, by decide +kernel +zetaReduce⟩),
    (let dom : Dom := .owner; let slot : Word := 3
     let s : State := mkS (fun c => c.onMgmt (fun m => { m with fw := 2, revoked := 1 }))
     ⟨dom, slot, s, by decide +kernel +zetaReduce⟩),
    (let i : Nat := 1; let j : Nat := 2; ⟨i, j, by decide +kernel +zetaReduce⟩),
    (let dom : Dom := .owner; let floor : Word := 64
     let s : State := mkS (fun c => c.onMgmt (fun m => { m with fw := 0, floor := 64 }))
     ⟨dom, floor, s, by decide +kernel +zetaReduce⟩),
    (let dom : Dom := .owner; let floor : Word := 4
     let s : State := mkS (fun c => c.onMgmt (fun m => { m with fw := 0, floor := 5 }))
     ⟨dom, floor, s, by decide +kernel +zetaReduce⟩),
    (let dom : Dom := .owner; let floor : Word := 64
     let s : State := mkS (fun c => c.onMgmt (fun m => { m with fw := 3 }))
     ⟨dom, floor, s, by decide +kernel +zetaReduce⟩)⟩

/-- States and operands that meet the hypotheses of `Obligations.CoresAndPolicies`, clause by clause. -/
theorem witness_CoresAndPolicies :
    (∃ (core : Fin 4) (s : State) (c : _), s.chip.mgmt.fw = 3 ∧ c = (s.chip.onMgmt (fun m =>
      { m with running := setBit m.running core.val true })).pmc 24 core.val 0xA002 none none ∧ (core = 0 ∨ (c.oldestFw
      .owner = none ∧ c.oldestFw .fabric = none))) ∧
    (∃ (core : Fin 4) (s : State) (c : _), s.chip.mgmt.fw = 3 ∧ c = (s.chip.onMgmt (fun m =>
      { m with running := setBit m.running core.val true })).pmc 24 core.val 0xA002 none none ∧ (core = 0 ∨ (c.oldestFw
      .owner = none ∧ c.oldestFw .fabric = none))) ∧
    (∃ (core : Fin 4) (s : State) (c : _) (dom : Dom) (n : Nat) (d : Chip) (l : Load) (rest : List Load), s.chip.mgmt.fw = 3
      ∧ c = (s.chip.onMgmt (fun m => { m with running := setBit m.running core.val true })).pmc 24 core.val 0xA002 none none
      ∧ core ≠ 0 ∧ dom = c.fwTurn ∧ c.oldestFw dom = some n ∧ d = c.onMgmt (fun m => { m with turn := 1 - domIdx dom }) ∧
      c.loadsOf (domIdx dom) = l :: rest ∧ l.seq = n) ∧
    (∃ (core : Fin 4) (s : State) (c : _) (dom : Dom) (n : Nat) (d : Chip) (l : Load) (rest : List Load), s.chip.mgmt.fw = 3
      ∧ c = (s.chip.onMgmt (fun m => { m with running := setBit m.running core.val true })).pmc 24 core.val 0xA002 none none
      ∧ core ≠ 0 ∧ dom = c.fwTurn ∧ c.oldestFw dom = some n ∧ d = c.onMgmt (fun m => { m with turn := 1 - domIdx dom }) ∧
      c.loadsOf (domIdx dom) = l :: rest ∧ l.seq = n) ∧
    (∃ (core : Fin 4) (s : State) (c : _) (dom : Dom) (n : Nat) (d : Chip), s.chip.mgmt.fw = 3 ∧ c = (s.chip.onMgmt (fun m
      => { m with running := setBit m.running core.val true })).pmc 24 core.val 0xA002 none none ∧ core ≠ 0 ∧ dom = c.fwTurn
      ∧ c.oldestFw dom = some n ∧ d = c.onMgmt (fun m => { m with turn := 1 - domIdx dom }) ∧ (c.loadsOf (domIdx dom) = [] ∨
      (c.loadsOf (domIdx dom)).head?.any (fun l => l.seq != n) = true)) ∧
    (∃ (core : Fin 4) (s : State) (c : _) (dom : Dom) (n : Nat) (d : Chip), s.chip.mgmt.fw = 3 ∧ c = (s.chip.onMgmt (fun m
      => { m with running := setBit m.running core.val true })).pmc 24 core.val 0xA002 none none ∧ core ≠ 0 ∧ dom = c.fwTurn
      ∧ c.oldestFw dom = some n ∧ d = c.onMgmt (fun m => { m with turn := 1 - domIdx dom }) ∧ (c.loadsOf (domIdx dom) = [] ∨
      (c.loadsOf (domIdx dom)).head?.any (fun l => l.seq != n) = true)) ∧
    (∃ (s : State), s.chip.mgmt.fw = 3) ∧
    (∃ (dom : Dom) (c : Chip) (p : Poll) (ps : List Poll), (c.waitsOf (domIdx dom)).polls = p :: ps ∧ c.loadsOf (domIdx dom)
      = []) ∧
    (∃ (dom : Dom) (c : Chip) (p : Poll) (ps : List Poll) (l : Load) (ls : List Load), (c.waitsOf (domIdx dom)).polls = p ::
      ps ∧ c.loadsOf (domIdx dom) = l :: ls) ∧
    (∃ (dom : Dom) (c : Chip), (c.waitsOf (domIdx dom)).polls = [] ∧ c.loadsOf (domIdx dom) = []) ∧
    (∃ (dom : Dom) (c : Chip) (l : Load) (ls : List Load), (c.waitsOf (domIdx dom)).polls = [] ∧ c.loadsOf (domIdx dom) = l
      :: ls) ∧
    (∃ (dom : Dom) (c : Chip), domIdx dom = c.mgmt.turn ∧ (c.oldestFw dom).isSome = true) ∧
    (∃ (dom : Dom) (c : Chip), domIdx dom ≠ c.mgmt.turn ∧ c.mgmt.turn < 2 ∧ c.oldestFw (if dom = .owner then .fabric else
      .owner) = none) ∧
    (∃ (rd : Nat → Word) (dom : Dom) (l : Load) (c : Chip) (d : Chip) (st : Nat) (n : Nat) (res : Nat) (die : Nat),
      Chip.loadEntries rd dom l.addr l.source l.first l.cmd l.words (min 40 (l.count - l.next)) l.next c.drawn = (st, n,
      res, die, d) ∧ st = 0 ∧ n < l.count) ∧
    (∃ (rd : Nat → Word) (dom : Dom) (l : Load) (c : Chip) (d : Chip) (st : Nat) (n : Nat) (res : Nat) (die : Nat),
      Chip.loadEntries rd dom l.addr l.source l.first l.cmd l.words (min 40 (l.count - l.next)) l.next c.drawn = (st, n,
      res, die, d) ∧ (st ≠ 0 ∨ l.count ≤ n) ∧ d.rst.c0Up = true) ∧
    (∃ (rd : Nat → Word) (dom : Dom) (l : Load) (c : Chip) (d : Chip) (st : Nat) (n : Nat) (res : Nat) (die : Nat),
      Chip.loadEntries rd dom l.addr l.source l.first l.cmd l.words (min 40 (l.count - l.next)) l.next c.drawn = (st, n,
      res, die, d) ∧ (st ≠ 0 ∨ l.count ≤ n) ∧ d.rst.c0Up = true) ∧
    (∃ (wd : Bool) (c : Chip) (d : Chip), c.mgmt.waits.length = 2 ∧ c.mgmt.loads.length = 2 ∧ d = c.haltCores wd) ∧
    (∃ (wd : Bool) (c : Chip) (d : Chip), c.mgmt.waits.length = 2 ∧ c.mgmt.loads.length = 2 ∧ d = c.haltCores wd) ∧
    (∃ (dom : Dom) (s : State), s.chip.isOn 24 1 = true ∧ MayWrite s.chip dom 24 1 0x10C 0x100 ∧ s.chip.mgmt.fw = 3) ∧
    (∃ (dom : Dom) (s : State), s.chip.isOn 24 1 = true ∧ MayWrite s.chip dom 24 1 0x10C 0x200 ∧ s.chip.mgmt.fw = 4) ∧
    (∃ (dom : Dom) (s : State), s.chip.isOn 24 1 = true ∧ MayWrite s.chip dom 24 1 0x10C 0x400 ∧ s.chip.mgmt.fw ≠ 1) ∧
    (∃ (dom : Dom) (s : State), s.chip.isOn 24 1 = true ∧ MayWrite s.chip dom 24 1 0x10C 0x400 ∧ s.chip.mgmt.fw ≠ 1) ∧
    (∃ (dom : Dom) (val : Word) (c : Chip) (s : State), val.toNat ≤ 0x7F ∧ MayWrite s.chip dom 24 1 0x108 val.toNat ∧ c =
      s.chip.each (List.range 4) (fun c q => c.onBuf q (fun b =>
      { b with trigger := b.trigger && bit val.toNat 3, holdUp := b.holdUp && bit val.toNat 2, spillUp := b.spillUp && bit val.toNat 2 }))
      ∧ s.chip.reg (ctlR 0x108) ≤ 0x7F) ∧
    (∃ (dom : Dom) (val : Word) (c : Chip) (s : State), val.toNat ≤ 0x7F ∧ MayWrite s.chip dom 24 1 0x108 val.toNat ∧ c =
      s.chip.each (List.range 4) (fun c q => c.onBuf q (fun b =>
      { b with trigger := b.trigger && bit val.toNat 3, holdUp := b.holdUp && bit val.toNat 2, spillUp := b.spillUp && bit val.toNat 2 }))
      ∧ s.chip.reg (ctlR 0x108) ≤ 0x7F) ∧
    (∃ (was : Chip) (c : Chip), (c.policy 5 = false ∨ was.policy 5 = true)) ∧
    (∃ (was : Chip) (c : Chip), (c.policy 5 = false ∨ was.policy 5 = true)) ∧
    (∃ (was : Chip) (c : Chip), c.policy 5 = true ∧ was.policy 5 = false) :=
  ⟨ (let core : Fin 4 := 0
     let s : State := mkS (fun c => fwOn (c.onMgmt (fun m => { m with loads := [[{ addr := regAddr 3 0x41 0x100, source := 0x2E00000, first := 5, count := 80, cmd := 0x40000000, words := 1, next := 40, id := 7, seq := 3 }], []] })))
     let c := (s.chip.onMgmt (fun m => { m with running := setBit m.running core.val true })).pmc 24 core.val 0xA002 none none
     ⟨core, s, c, by decide +kernel +zetaReduce⟩),
    (let core : Fin 4 := 3; let s : State := mkS (fun c => fwOn c)
     let c := (s.chip.onMgmt (fun m => { m with running := setBit m.running core.val true })).pmc 24 core.val 0xA002 none none
     ⟨core, s, c, by decide +kernel +zetaReduce⟩),
    (let core : Fin 4 := 1; let dom : Dom := .owner
     let l : Load := { addr := regAddr 3 0x41 0x100, source := 0x2E00000, first := 5, count := 80, cmd := 0x40000000, words := 1, next := 40, id := 7, seq := 3 }
     let rest : List Load := []; let n : Nat := 3
     let s : State := mkS (fun c => fwOn (onPg 3 0x41 (c.onMgmt (fun m => { m with loads := [[{ addr := regAddr 3 0x41 0x100, source := 0x2E00000, first := 5, count := 80, cmd := 0x40000000, words := 1, next := 40, id := 7, seq := 3 }], [{ addr := regAddr 3 0x41 0x100, source := 0x2E00000, first := 5, count := 80, cmd := 0x40000000, words := 1, next := 40, id := 7, seq := 3 }]] }))))
     let c := (s.chip.onMgmt (fun m => { m with running := setBit m.running core.val true })).pmc 24 core.val 0xA002 none none
     let d : Chip := c.onMgmt (fun m => { m with turn := 1 - domIdx dom })
     ⟨core, s, c, dom, n, d, l, rest, by decide +kernel +zetaReduce⟩),
    (let core : Fin 4 := 3; let dom : Dom := .fabric
     let l : Load := { addr := regAddr 3 0x41 0x100, source := 0x2E00000, first := 5, count := 80, cmd := 0x40000000, words := 1, next := 40, id := 7, seq := 3 }
     let rest : List Load := []; let n : Nat := 3
     let s : State := mkS (fun c => fwOn (onPg 3 0x41 (c.onMgmt (fun m => { m with loads := [[], [{ addr := regAddr 3 0x41 0x100, source := 0x2E00000, first := 5, count := 80, cmd := 0x40000000, words := 1, next := 40, id := 7, seq := 3 }]] }))))
     let c := (s.chip.onMgmt (fun m => { m with running := setBit m.running core.val true })).pmc 24 core.val 0xA002 none none
     let d : Chip := c.onMgmt (fun m => { m with turn := 1 - domIdx dom })
     ⟨core, s, c, dom, n, d, l, rest, by decide +kernel +zetaReduce⟩),
    (let core : Fin 4 := 3; let dom : Dom := .owner; let n : Nat := 3
     let s : State := mkS (fun c => (fwOn c).onWaits 0 (fun w => { w with polls := [{ addr := regAddr 24 1 0x108, mask := 0xFF, val := 0x7E, time := 2, start := 0, last := 5, id := 7, seq := 3 }] }))
     let c := (s.chip.onMgmt (fun m => { m with running := setBit m.running core.val true })).pmc 24 core.val 0xA002 none none
     let d : Chip := c.onMgmt (fun m => { m with turn := 1 - domIdx dom })
     ⟨core, s, c, dom, n, d, by decide +kernel +zetaReduce⟩),
    (let core : Fin 4 := 1; let dom : Dom := .fabric; let n : Nat := 2
     let s : State := mkS (fun c => (fwOn (c.onMgmt (fun m => { m with turn := 1, loads := [[], [{ addr := regAddr 3 0x41 0x100, source := 0x2E00000, first := 5, count := 80, cmd := 0x40000000, words := 1, next := 40, id := 7, seq := 3 }]] }))).onWaits 1 (fun w => { w with polls := [{ addr := regAddr 24 1 0x108, mask := 0xFF, val := 0x7E, time := 2, start := 0, last := 5, id := 7, seq := 2 }] }))
     let c := (s.chip.onMgmt (fun m => { m with running := setBit m.running core.val true })).pmc 24 core.val 0xA002 none none
     let d : Chip := c.onMgmt (fun m => { m with turn := 1 - domIdx dom })
     ⟨core, s, c, dom, n, d, by decide +kernel +zetaReduce⟩),
    (let s : State := mkS (fun c => fwOn c); ⟨s, by decide +kernel +zetaReduce⟩),
    (let dom : Dom := .owner
     let p : Poll := { addr := regAddr 24 1 0x108, mask := 0xFF, val := 0x7E, time := 2, start := 0, last := 5, id := 7, seq := 3 }
     let ps : List Poll := []
     let c : Chip := Chip.reset.onWaits 0 (fun w => { w with polls := [{ addr := regAddr 24 1 0x108, mask := 0xFF, val := 0x7E, time := 2, start := 0, last := 5, id := 7, seq := 3 }] })
     ⟨dom, c, p, ps, by decide +kernel +zetaReduce⟩),
    (let dom : Dom := .fabric
     let p : Poll := { addr := regAddr 24 1 0x108, mask := 0xFF, val := 0x7E, time := 2, start := 0, last := 5, id := 7, seq := 3 }
     let ps : List Poll := []
     let l : Load := { addr := regAddr 3 0x41 0x100, source := 0x2E00000, first := 5, count := 80, cmd := 0x40000000, words := 1, next := 40, id := 7, seq := 3 }
     let ls : List Load := []
     let c : Chip := (Chip.reset.onMgmt (fun m => { m with loads := [[], [{ addr := regAddr 3 0x41 0x100, source := 0x2E00000, first := 5, count := 80, cmd := 0x40000000, words := 1, next := 40, id := 7, seq := 3 }]] })).onWaits 1 (fun w => { w with polls := [{ addr := regAddr 24 1 0x108, mask := 0xFF, val := 0x7E, time := 2, start := 0, last := 5, id := 7, seq := 3 }] })
     ⟨dom, c, p, ps, l, ls, by decide +kernel +zetaReduce⟩),
    (let dom : Dom := .fabric; let c : Chip := Chip.reset; ⟨dom, c, by decide +kernel +zetaReduce⟩),
    (let dom : Dom := .owner
     let l : Load := { addr := regAddr 3 0x41 0x100, source := 0x2E00000, first := 5, count := 80, cmd := 0x40000000, words := 1, next := 40, id := 7, seq := 3 }
     let ls : List Load := []
     let c : Chip := Chip.reset.onMgmt (fun m => { m with loads := [[{ addr := regAddr 3 0x41 0x100, source := 0x2E00000, first := 5, count := 80, cmd := 0x40000000, words := 1, next := 40, id := 7, seq := 3 }], []] })
     ⟨dom, c, l, ls, by decide +kernel +zetaReduce⟩),
    (let dom : Dom := .owner
     let c : Chip := Chip.reset.onMgmt (fun m => { m with loads := [[{ addr := regAddr 3 0x41 0x100, source := 0x2E00000, first := 5, count := 80, cmd := 0x40000000, words := 1, next := 40, id := 7, seq := 3 }], []] })
     ⟨dom, c, by decide +kernel +zetaReduce⟩),
    (let dom : Dom := .owner
     let c : Chip := Chip.reset.onMgmt (fun m => { m with turn := 1, loads := [[{ addr := regAddr 3 0x41 0x100, source := 0x2E00000, first := 5, count := 80, cmd := 0x40000000, words := 1, next := 40, id := 7, seq := 3 }], []] })
     ⟨dom, c, by decide +kernel +zetaReduce⟩),
    (let rd : Nat → Word := Memory.word []; let dom : Dom := .fabric
     let l : Load := { addr := regAddr 3 0x41 0x100, source := 0x2E00000, first := 5, count := 80, cmd := 0x40000000, words := 1, next := 0, id := 7, seq := 3 }
     let c : Chip := (fwOn (onPg 3 0x41 Chip.reset)).setReg (ctlR 0x100) (2 ^ 31 - 1)
     let st : Nat := (Chip.loadEntries rd dom l.addr l.source l.first l.cmd l.words (min 40 (l.count - l.next)) l.next c.drawn).1
     let n : Nat := (Chip.loadEntries rd dom l.addr l.source l.first l.cmd l.words (min 40 (l.count - l.next)) l.next c.drawn).2.1
     let res : Nat := (Chip.loadEntries rd dom l.addr l.source l.first l.cmd l.words (min 40 (l.count - l.next)) l.next c.drawn).2.2.1
     let die : Nat := (Chip.loadEntries rd dom l.addr l.source l.first l.cmd l.words (min 40 (l.count - l.next)) l.next c.drawn).2.2.2.1
     let d : Chip := (Chip.loadEntries rd dom l.addr l.source l.first l.cmd l.words (min 40 (l.count - l.next)) l.next c.drawn).2.2.2.2
     ⟨rd, dom, l, c, d, st, n, res, die, five _, by decide +kernel +zetaReduce, by decide +kernel +zetaReduce⟩),
    (let rd : Nat → Word := Memory.word []; let dom : Dom := .fabric
     let l : Load := { addr := regAddr 3 0x41 0x100, source := 0x2E00000, first := 5, count := 80, cmd := 0x40000000, words := 1, next := 40, id := 7, seq := 3 }
     let c : Chip := (fwOn (onPg 3 0x41 Chip.reset)).setReg (ctlR 0x100) (2 ^ 31 - 1)
     let st : Nat := (Chip.loadEntries rd dom l.addr l.source l.first l.cmd l.words (min 40 (l.count - l.next)) l.next c.drawn).1
     let n : Nat := (Chip.loadEntries rd dom l.addr l.source l.first l.cmd l.words (min 40 (l.count - l.next)) l.next c.drawn).2.1
     let res : Nat := (Chip.loadEntries rd dom l.addr l.source l.first l.cmd l.words (min 40 (l.count - l.next)) l.next c.drawn).2.2.1
     let die : Nat := (Chip.loadEntries rd dom l.addr l.source l.first l.cmd l.words (min 40 (l.count - l.next)) l.next c.drawn).2.2.2.1
     let d : Chip := (Chip.loadEntries rd dom l.addr l.source l.first l.cmd l.words (min 40 (l.count - l.next)) l.next c.drawn).2.2.2.2
     ⟨rd, dom, l, c, d, st, n, res, die, five _, by decide +kernel +zetaReduce, by decide +kernel +zetaReduce⟩),
    (let rd : Nat → Word := Memory.word []; let dom : Dom := .fabric
     let l : Load := { addr := regAddr 3 0x41 0x100, source := 0x2E00000, first := 5, count := 41, cmd := 0x40000000, words := 1, next := 40, id := 7, seq := 3 }
     let c : Chip := (fwOn (onPg 3 0x41 Chip.reset)).setReg (ctlR 0x100) (2 ^ 31 - 1)
     let st : Nat := (Chip.loadEntries rd dom l.addr l.source l.first l.cmd l.words (min 40 (l.count - l.next)) l.next c.drawn).1
     let n : Nat := (Chip.loadEntries rd dom l.addr l.source l.first l.cmd l.words (min 40 (l.count - l.next)) l.next c.drawn).2.1
     let res : Nat := (Chip.loadEntries rd dom l.addr l.source l.first l.cmd l.words (min 40 (l.count - l.next)) l.next c.drawn).2.2.1
     let die : Nat := (Chip.loadEntries rd dom l.addr l.source l.first l.cmd l.words (min 40 (l.count - l.next)) l.next c.drawn).2.2.2.1
     let d : Chip := (Chip.loadEntries rd dom l.addr l.source l.first l.cmd l.words (min 40 (l.count - l.next)) l.next c.drawn).2.2.2.2
     ⟨rd, dom, l, c, d, st, n, res, die, five _, by decide +kernel +zetaReduce, by decide +kernel +zetaReduce⟩),
    (let wd : Bool := true
     let c : Chip := ((fwOn Chip.reset).onMgmt (fun m => { m with loads := [[], [{ addr := regAddr 3 0x41 0x100, source := 0x2E00000, first := 5, count := 80, cmd := 0x40000000, words := 1, next := 40, id := 7, seq := 3 }]] })).onWaits 0 (fun w => { w with polls := [{ addr := regAddr 24 1 0x108, mask := 0xFF, val := 0x7E, time := 2, start := 0, last := 5, id := 7, seq := 3 }, { addr := regAddr 24 1 0x108, mask := 0xFF, val := 0x7E, time := 2, start := 0, last := 5, id := 7, seq := 3 }] })
     let d : Chip := c.haltCores wd; ⟨wd, c, d, by decide +kernel +zetaReduce⟩),
    (let wd : Bool := true
     let c : Chip := ((fwOn Chip.reset).onMgmt (fun m => { m with loads := [[], [{ addr := regAddr 3 0x41 0x100, source := 0x2E00000, first := 5, count := 80, cmd := 0x40000000, words := 1, next := 40, id := 7, seq := 3 }]] })).onWaits 0 (fun w => { w with polls := [{ addr := regAddr 24 1 0x108, mask := 0xFF, val := 0x7E, time := 2, start := 0, last := 5, id := 7, seq := 3 }, { addr := regAddr 24 1 0x108, mask := 0xFF, val := 0x7E, time := 2, start := 0, last := 5, id := 7, seq := 3 }] })
     let d : Chip := c.haltCores wd; ⟨wd, c, d, by decide +kernel +zetaReduce⟩),
    (let dom : Dom := .owner; let s : State := mkS (fun c => fwOn c); ⟨dom, s, by decide +kernel +zetaReduce⟩),
    (let dom : Dom := .owner
     let s : State := mkS (fun c => c.onMgmt (fun m => { m with fw := 4, halted := true, watchdog := true }))
     ⟨dom, s, by decide +kernel +zetaReduce⟩),
    (let dom : Dom := .owner; let s : State := mkS (fun c => fwOn c); ⟨dom, s, by decide +kernel +zetaReduce⟩),
    (let dom : Dom := .owner; let s : State := mkS (fun c => c.onMgmt (fun m => { m with fw := 0 }))
     ⟨dom, s, by decide +kernel +zetaReduce⟩),
    (let dom : Dom := .owner; let val : Word := 0x7F; let s : State := mkS (fun c => c)
     let c : Chip := s.chip.each (List.range 4) (fun c q => c.onBuf q (fun b => { b with trigger := b.trigger && bit val.toNat 3, holdUp := b.holdUp && bit val.toNat 2, spillUp := b.spillUp && bit val.toNat 2 }))
     ⟨dom, val, c, s, by decide +kernel +zetaReduce⟩),
    (let dom : Dom := .owner; let val : Word := 0
     let s : State := mkS (fun c => c.onBuf 3 (fun b => { b with trigger := true, holdUp := true, spillUp := true }))
     let c : Chip := s.chip.each (List.range 4) (fun c q => c.onBuf q (fun b => { b with trigger := b.trigger && bit val.toNat 3, holdUp := b.holdUp && bit val.toNat 2, spillUp := b.spillUp && bit val.toNat 2 }))
     ⟨dom, val, c, s, by decide +kernel +zetaReduce⟩),
    (let was : Chip := Chip.reset; let c : Chip := Chip.reset; ⟨was, c, by decide +kernel +zetaReduce⟩),
    (let was : Chip := fwOn (Chip.reset.setReg (ctlR 0x108) 0x20)
     let c : Chip := fwOn (Chip.reset.setReg (ctlR 0x108) 0x20); ⟨was, c, by decide +kernel +zetaReduce⟩),
    (let was : Chip := Chip.reset; let c : Chip := fwOn (Chip.reset.setReg (ctlR 0x108) 0x20)
     ⟨was, c, by decide +kernel +zetaReduce⟩)⟩

/-- States and operands that meet the hypotheses of `Obligations.StepRunsTheFrontCommand`, clause by clause. -/
theorem witness_StepRunsTheFrontCommand :
    (∃ (c : Instr) (rest : List Instr) (s : State), s.pending = c :: rest) ∧
    (∃ (s : State), s.pending = []) ∧
    (∃ (s : State), s.pending = []) :=
  ⟨ (let c : Instr := .inputWarn; let rest : List Instr := [.mapPublish]
     let s : State := { State.reset with pending := [.inputWarn, .mapPublish] }
     ⟨c, rest, s, by decide +kernel +zetaReduce⟩),
    (let s : State := mkS id; ⟨s, by decide +kernel +zetaReduce⟩),
    (let s : State := mkS (fun c => c.onRst (fun r => { r with c0Up := false })); ⟨s, by decide +kernel +zetaReduce⟩)⟩

/-- States and operands that meet the hypotheses of `Obligations.ResetState`, clause by clause. -/
theorem witness_ResetState :
    (∃ (die : Nat) (pg : Nat) (i : Nat) (b : Block), pageOf die pg = some (b, i)) ∧
    (∃ (die : Nat) (pg : Nat) (i : Nat) (b : Block), pageOf die pg = some (b, i)) ∧
    (∃ (a : Nat) (i : Nat) (b : Block) (d : RegDef), pageOf (adDie a) (adPage a) = some (b, i) ∧ regDef b i (adOff a) = some
      d ∧ adOff a < 0x100) ∧
    (∃ (a : Nat) (i : Nat) (b : Block) (d : RegDef), pageOf (adDie a) (adPage a) = some (b, i) ∧ regDef b i (adOff a) = some
      d ∧ adOff a < 0x100) ∧
    (∃ (a : Nat) (i : Nat) (b : Block) (d : RegDef), pageOf (adDie a) (adPage a) = some (b, i) ∧ regDef b i (adOff a) = some
      d ∧ adOff a < 0x100) ∧
    (∃ (a : Nat) (i : Nat) (b : Block) (d : RegDef), pageOf (adDie a) (adPage a) = some (b, i) ∧ regDef b i (adOff a) = some
      d ∧ 0x100 ≤ adOff a) ∧
    (∃ (a : Nat) (i : Nat) (b : Block) (d : RegDef), pageOf (adDie a) (adPage a) = some (b, i) ∧ regDef b i (adOff a) = some
      d ∧ 0x100 ≤ adOff a) ∧
    (∃ (a : Nat) (i : Nat) (b : Block) (d : RegDef), pageOf (adDie a) (adPage a) = some (b, i) ∧ regDef b i (adOff a) = some
      d ∧ 0x100 ≤ adOff a) ∧
    (∃ (a : Nat) (i : Nat) (b : Block) (d : RegDef), pageOf (adDie a) (adPage a) = some (b, i) ∧ regDef b i (adOff a) = some
      d ∧ 0x100 ≤ adOff a) ∧
    (∃ (a : Nat) (i : Nat) (b : Block) (d : RegDef), pageOf (adDie a) (adPage a) = some (b, i) ∧ regDef b i (adOff a) = some
      d ∧ 0x100 ≤ adOff a) ∧
    (∃ (a : Nat) (i : Nat) (b : Block) (d : RegDef), pageOf (adDie a) (adPage a) = some (b, i) ∧ regDef b i (adOff a) = some
      d ∧ 0x100 ≤ adOff a) :=
  ⟨ (let die : Nat := 24; let pg : Nat := 7; let i : Nat := 0; let b : Block := .ras
     ⟨die, pg, i, b, by decide +kernel +zetaReduce⟩),
    (let die : Nat := 0; let pg : Nat := 0x1F; let i : Nat := 15; let b : Block := .lne
     ⟨die, pg, i, b, by decide +kernel +zetaReduce⟩),
    (let a : Nat := regAddr 24 1 0x1C; let i : Nat := 0; let b : Block := .ctl
     let d : RegDef := (headerDef .ctl 0x1C).getD {}; ⟨a, i, b, d, by decide +kernel +zetaReduce⟩),
    (let a : Nat := regAddr 7 0x40 0x30; let i : Nat := 0; let b : Block := .prs
     let d : RegDef := (headerDef .prs 0x30).getD {}; ⟨a, i, b, d, by decide +kernel +zetaReduce⟩),
    (let a : Nat := regAddr 3 0x44 0x28; let i : Nat := 0; let b : Block := .buf
     let d : RegDef := (headerDef .buf 0x28).getD {}; ⟨a, i, b, d, by decide +kernel +zetaReduce⟩),
    (let a : Nat := regAddr 23 0x40 0x330; let i : Nat := 0; let b : Block := .oen
     let d : RegDef := (regDef .oen 0 (adOff a)).getD {}; ⟨a, i, b, d, by decide +kernel +zetaReduce⟩),
    (let a : Nat := regAddr 3 0x1F 0x110; let i : Nat := 15; let b : Block := .lne
     let d : RegDef := (regDef .lne 15 (adOff a)).getD {}; ⟨a, i, b, d, by decide +kernel +zetaReduce⟩),
    (let a : Nat := regAddr 0 0x44 0x1B8; let i : Nat := 0; let b : Block := .buf
     let d : RegDef := (regDef .buf 0 (adOff a)).getD {}; ⟨a, i, b, d, by decide +kernel +zetaReduce⟩),
    (let a : Nat := regAddr 24 0x4C 0x8F0; let i : Nat := 0; let b : Block := .cve
     let d : RegDef := (regDef .cve 0 (adOff a)).getD {}; ⟨a, i, b, d, by decide +kernel +zetaReduce⟩),
    (let a : Nat := regAddr 24 4 0x364; let i : Nat := 0; let b : Block := .thm
     let d : RegDef := (regDef .thm 0 (adOff a)).getD {}; ⟨a, i, b, d, by decide +kernel +zetaReduce⟩),
    (let a : Nat := regAddr 7 0x40 0x6F8; let i : Nat := 0; let b : Block := .prs
     let d : RegDef := (regDef .prs 0 (adOff a)).getD {}; ⟨a, i, b, d, by decide +kernel +zetaReduce⟩)⟩

/-- States and operands that meet the hypotheses of `Obligations.SramStaysCanonical`: a MEM_WRITE waits. -/
theorem witness_SramStaysCanonical : ∃ s t : State, SramCanonical s ∧ step s = .next t :=
  ⟨{ State.reset with pending := [.memWrite .owner 0x2E00000 [0x00FF0001]] }, _, by unfold SramCanonical; decide +kernel, rfl⟩

/-- States and operands that meet the hypotheses of `Obligations.SramIsWrittenByThree`, clause by clause. -/
theorem witness_SramIsWrittenByThree :
    (∃ (c : Instr) (s t : State), exec c s = .next t ∧ (∀ dom off ws, c ≠ .memWrite dom off ws) ∧ c ≠ .dumpRecordWritten ∧
      (∀ q, c ≠ .lintRingWrite q)) ∧
    (∃ (dom : Dom) (off : Word) (ws : List Word) (s t : State) (a : Nat), SramCanonical s ∧
      exec (.memWrite dom off ws) s = .next t ∧ (a < off.toNat ∨ off.toNat + 4 * ws.length ≤ a ∨
        (0x2000000 ≤ a ∧ a < 0x2E00000) ∨ (0x3000000 ≤ a ∧ a < 0x3C00000) ∨ (a < 0x2000000 ∧ 3 ≤ s.chip.mgmt.fw) ∨
        0x4000000 ≤ a)) ∧
    (∃ (s t : State) (lo a : Nat), SramCanonical s ∧ exec .dumpRecordWritten s = .next t ∧
      lo = s.chip.reg (dmp 0x10C) + s.chip.reg (dmp 0x118) % max s.chip.dumpSlots 1 * s.chip.recordLen ∧
      (a < lo ∨ lo + (s.chip.tele.dumpRec.getD []).length ≤ a)) ∧
    (∃ (q : Fin 4) (s t : State) (a : Nat), SramCanonical s ∧ exec (.lintRingWrite q) s = .next t ∧
      (a < s.chip.reg (lntC 0x110) ∨ s.chip.reg (lntC 0x110) + max (s.chip.reg (lntC 0x114)) 1 ≤ a)) :=
  ⟨⟨.inputWarn, State.reset, _, rfl, (fun _ _ _ h => by cases h), (fun h => by cases h), (fun _ h => by cases h)⟩,
   ⟨.owner, 0x2E00000, [1], State.reset, _, 0x2E00004, by unfold SramCanonical; decide +kernel, rfl, by decide⟩,
   ⟨mkS (fun c => c.onTele (fun t => { t with dumpRec := some [1, 2] })), _, _, 0, by unfold SramCanonical; decide +kernel, rfl, rfl,
     by decide +kernel⟩,
   ⟨3, mkS (fun c => onPg 24 0x49 (c.onTele (fun t => { t with lintQ := [(3, [1, 2])] }))), _, 0,
     by unfold SramCanonical; decide +kernel, rfl, by decide +kernel⟩⟩

end Sys2Proof.Tests
end

/-! The counts of a PMC page are brought up to now by every read of that page (R455), a read of its ERR_COUNT among them, so
such a read changes more than the count that it clears. -/
namespace Sys2Proof.Machine

/-- The first performance-counter page of C0, page 0x60 of die 24. -/
def firstC0Pmc (off : Nat) : Nat := regAddr 24 0x60 off

/-- A part 1 µs after reset whose counter 0 of C0's first PMC page has run in level mode since the island's count was 0: the page
is ON, PMC_EVT selects the event that always holds, EN is 1, and the island's clock now stands at 1200 (R454, R455). -/
def levelCounterRunning : State :=
  { State.reset with
    chip := { Chip.reset with
      now := 1000
      regs := [(firstC0Pmc 0x200, 1), (firstC0Pmc 0x400, 1)]
      pages := [(pageKey 24 0x60, { st := 2 })]
      tele := { Chip.reset.tele with lvl := [(firstC0Pmc 0x400, 0)], clk := [(32 * 24, (1000, 1200))] } } }

/-- In that part PMC_VAL 0 holds 0 before the read. -/
theorem levelCounterRunning_val : levelCounterRunning.chip.reg (firstC0Pmc 0x800) = 0 := by decide +kernel

/-- RC_READ of the page's ERR_COUNT adds the 1200 cycles of the time since to PMC_VAL 0. -/
theorem rcRead_errCount_settles_level_counter :
    ∃ t, exec (.rcRead .owner (BitVec.ofNat 32 (firstC0Pmc 0x28))) levelCounterRunning = .next t ∧
      t.chip.reg (firstC0Pmc 0x800) = 1200 :=
  ⟨_, rfl, by decide +kernel⟩

/-- Clearing ERR_COUNT and sending its value leaves PMC_VAL 0 of the page. -/
theorem reg_clear_errCount_emit (c : Chip) (e : Emit) :
    ((c.setReg (firstC0Pmc 0x28) 0).emit e).reg (firstC0Pmc 0x800) = c.reg (firstC0Pmc 0x800) :=
  c.reg_setReg_other _ _ _ (by decide)

/-- Refutes O3: its first clause, for every page, says that RC_READ of ERR_COUNT changes nothing but that count. On a PMC page
with a counter that runs in level mode the read also adds the cycles up to now to the counter's value. -/
theorem not_clearingAndLatchingReads : ¬ Obligations.ClearingAndLatchingReads := by
  unfold Obligations.ClearingAndLatchingReads
  rintro ⟨clearsErrCount, -⟩
  have haddr : (BitVec.ofNat 32 (firstC0Pmc 0x28)).toNat = firstC0Pmc 0x28 := by decide
  obtain ⟨t, hread, hval⟩ := rcRead_errCount_settles_level_counter
  have hclaim := clearsErrCount .owner 24 0x60 0 .pmc _ levelCounterRunning (by decide) haddr (by decide +kernel) rfl
  rw [hread, Host.Outcome.next.injEq] at hclaim
  rw [hclaim, haddr] at hval
  have hkept : levelCounterRunning.chip.reg (firstC0Pmc 0x800) = 1200 :=
    (reg_clear_errCount_emit _ _).symm.trans hval
  exact absurd (levelCounterRunning_val.symm.trans hkept) (by decide)

end Sys2Proof.Machine

/-! Counters and events write registers, event queues, the clocks of the counters and the count of free values, and nothing else
of the part. -/
namespace Sys2Proof.Machine

/-- The part without what counters and events write. -/
def Chip.uncounted (c : Chip) : Chip :=
  { c with regs := [], mgmt := Chip.reset.mgmt, tele := Chip.reset.tele, free := 0 }

/-- What every change of a list of changes keeps, the whole list keeps. -/
theorem Chip.each_keeps {α β : Type} (g : Chip → β) (f : Chip → α → Chip) (hf : ∀ c a, g (f c a) = g c) (c : Chip)
    (l : List α) : g (c.each l f) = g c :=
  List.foldlRecOn l f (motive := fun d => g d = g c) rfl fun d hd a _ => (hf d a).trans hd

@[simp] theorem Chip.setReg_uncounted (c : Chip) (a v : Nat) : (c.setReg a v).uncounted = c.uncounted := rfl
@[simp] theorem Chip.setPmcVal_uncounted (c : Chip) (pa i v : Nat) : (c.setPmcVal pa i v).uncounted = c.uncounted := rfl

@[simp] theorem Chip.bump_uncounted (c : Chip) (a n : Nat) : (c.bump a n).uncounted = c.uncounted := by
  unfold Chip.bump
  split <;> rfl

@[simp] theorem Chip.setEvt_uncounted (c : Chip) (pa bits : Nat) : (c.setEvt pa bits).1.uncounted = c.uncounted := by
  simp only [Chip.setEvt]
  split <;> rfl

@[simp] theorem Chip.pushEvent_uncounted (c : Chip) (d : Nat) (e : EvEnt) :
    (c.pushEvent d e).1.uncounted = c.uncounted := by
  simp only [Chip.pushEvent]
  split
  · rfl
  · exact Chip.bump_uncounted _ _ _

@[simp] theorem Chip.signal_uncounted (c : Chip) (pa : Nat) : (c.signal pa).1.uncounted = c.uncounted := by
  simp only [Chip.signal]
  split <;> simp

@[simp] theorem Chip.raise_uncounted (c : Chip) (pa bits : Nat) : (c.raise pa bits).uncounted = c.uncounted := by
  simp only [Chip.raise]
  repeat' split
  all_goals simp

@[simp] theorem Chip.pmcStep_uncounted (c : Chip) (pa i : Nat) (ovf : Bool) :
    (c.pmcStep pa i ovf).1.uncounted = c.uncounted := by
  simp only [Chip.pmcStep]
  repeat' split
  all_goals simp [Chip.setRegBit]

@[simp] theorem Chip.pmcCount_uncounted (c : Chip) (pa i : Nat) : (c.pmcCount pa i).uncounted = c.uncounted := by
  simp only [Chip.pmcCount]
  split <;> simp

@[simp] theorem Chip.islandClock_uncounted (c : Chip) (die inst : Nat) :
    (c.islandClock die inst).2.uncounted = c.uncounted := by
  simp only [Chip.islandClock]
  split <;> rfl

@[simp] theorem Chip.pmcAdd_uncounted (c : Chip) (pa i n : Nat) : (c.pmcAdd pa i n).uncounted = c.uncounted := by
  simp only [Chip.pmcAdd]
  repeat' split
  all_goals simp

@[simp] theorem Chip.levelFrom_uncounted (c : Chip) (pa i : Nat) : (c.levelFrom pa i).uncounted = c.uncounted :=
  Chip.islandClock_uncounted c _ _

@[simp] theorem Chip.levelAdd_uncounted (c : Chip) (pa i : Nat) (whole : Bool) :
    (c.levelAdd pa i whole).uncounted = c.uncounted := by
  simp only [Chip.levelAdd]
  split
  · rfl
  · exact (Chip.pmcAdd_uncounted _ _ _ _).trans (Chip.islandClock_uncounted c _ _)

/-- A lasting condition that changes moves only counters. -/
@[simp] theorem Chip.pmcEdgeOf_uncounted (c : Chip) (die inst code : Nat) (sub : Option Nat) (was is : List Nat) :
    (c.pmcEdgeOf die inst code sub was is).uncounted = c.uncounted := by
  simp only [Chip.pmcEdgeOf]
  split
  · refine Chip.each_keeps Chip.uncounted _ (fun d i => ?_) c _
    repeat' split
    all_goals simp
  · rfl

@[simp] theorem Chip.pmcEdge_uncounted (c : Chip) (die inst code : Nat) (was is : List Nat) :
    (c.pmcEdge die inst code was is).uncounted = c.uncounted := c.pmcEdgeOf_uncounted _ _ _ _ _ _

@[simp] theorem Chip.recordErr_uncounted (c : Chip) (pa cause off syn : Nat) (fabric : Bool) :
    (c.recordErr pa cause off syn fabric).uncounted = c.uncounted := by
  have hcount : ((c.bump (pa + 0x28) 1).setReg (pa + 0x2C) syn).uncounted = c.uncounted :=
    c.bump_uncounted _ _
  simp only [Chip.recordErr]
  split
  · exact hcount
  · exact (Chip.setReg_uncounted _ _ _).trans hcount

@[simp] theorem Chip.bump_rst (c : Chip) (a n : Nat) : (c.bump a n).rst = c.rst :=
  (congrArg Chip.rst (c.bump_uncounted a n) :)

@[simp] theorem Chip.bump_wins (c : Chip) (a n : Nat) : (c.bump a n).wins = c.wins :=
  (congrArg Chip.wins (c.bump_uncounted a n) :)

@[simp] theorem Chip.bump_time (c : Chip) (a n : Nat) : (c.bump a n).time = c.time :=
  (congrArg Chip.time (c.bump_uncounted a n) :)

@[simp] theorem Chip.recordErr_rst (c : Chip) (pa cause off syn : Nat) (fabric : Bool) :
    (c.recordErr pa cause off syn fabric).rst = c.rst :=
  (congrArg Chip.rst (c.recordErr_uncounted pa cause off syn fabric) :)

@[simp] theorem Chip.pmcEdge_rst (c : Chip) (die inst code : Nat) (was is : List Nat) :
    (c.pmcEdge die inst code was is).rst = c.rst :=
  (congrArg Chip.rst (c.pmcEdge_uncounted die inst code was is) :)

@[simp] theorem Chip.pmcEdge_wins (c : Chip) (die inst code : Nat) (was is : List Nat) :
    (c.pmcEdge die inst code was is).wins = c.wins :=
  (congrArg Chip.wins (c.pmcEdge_uncounted die inst code was is) :)

/-- A counter that goes up leaves what every other register reads as. -/
theorem Chip.reg_bump_other (c : Chip) (a b n : Nat) (h : b ≠ a) : (c.bump a n).reg b = c.reg b := by
  unfold Chip.bump
  split
  · rfl
  · exact c.reg_setReg_other _ _ _ h

end Sys2Proof.Machine

/-! A write of a register of a quadrant page that stores bits, and has a rule of its own for the values that it takes. -/
namespace Sys2Proof.Machine

/-- Block `b`, the `i`-th of its kind in a quadrant, stands at a page, and its register at an offset beyond the header stores the bits `m`;
it starts nothing, and no command of the block keeps it busy. -/
structure QuadStore (b : Block) (i q page off m : Nat) : Prop where
  quad : q < 4
  block : pageOf q page = some (b, i)
  beyondHeader : 0x100 ≤ off
  inPage : off < 2 ^ 12
  aligned : off % 4 = 0
  stores : ∃ r, regDef b i off = rW m r
  nonzero : m ≠ 0
  noChannel : b ≠ .cve
  noCounter : b ≠ .pmc
  noCommand : goGuard b off = none

/-- No check stands before the rule of a storing register of a quadrant page. -/
theorem QuadStore.ruleWrite {b : Block} {i q page off m : Nat} (h : QuadStore b i q page off m) (c : Chip) (r v : Nat) :
    c.ruleWrite b i { rw := m, rst := r } q page off v = wrQuad b { rw := m, rst := r } q i off v c := by
  have hlow : ¬ off < 0x100 := Nat.not_lt.2 h.beyondHeader
  have hpart : partChannel b off = false := by simp [partChannel, h.noChannel]
  have hstart : startsAction b { rw := m, rst := r } off v = false := by simp [startsAction, h.noChannel]
  simp [Chip.ruleWrite, hpart, h.nonzero, hlow, hstart, h.noCommand, h.noCounter, h.quad]

/-- A write of a storing register of a quadrant page, its reserved bits 0: the register's rule decides (R578, R581). -/
theorem QuadStore.write {b : Block} {i q page off m : Nat} (h : QuadStore b i q page off m) (c : Chip) (dom : Dom) (v : Nat)
    (hmay : MayWrite c dom q page off v) (hv : v &&& m = v) :
    ∃ d, c.write dom (regAddr q page off) v = (wrQuad b d q i off v c).after c q page off v (dom == .fabric) := by
  obtain ⟨hdie, hpage⟩ := pageOf_lt q page _ h.block
  obtain ⟨r, hd⟩ := h.stores
  have hat : regAt q b i off = some { rw := m, rst := r } := by simpa [regAt, pmcAbsent, h.noCounter, rW] using hd
  refine ⟨{ rw := m, rst := r }, ?_⟩
  rw [c.write_rule dom q page off v b i _ (by omega) (by omega) h.inPage h.aligned h.block hat hmay (by simpa using hv),
    h.ruleWrite]

/-- A value lies within bounds that it meets. -/
theorem within_iff (v lo hi : Nat) : within v lo hi = true ↔ lo ≤ v ∧ v ≤ hi := by
  simp [within]

/-- The QUE page of a quadrant. -/
theorem pageOf_que (q : Fin 4) : pageOf q.val 0x45 = some (.que, 0) := by
  revert q
  decide

/-- The WIN pages of a quadrant, one for each island. -/
theorem pageOf_win (q : Fin 4) (d : Fin 16) : pageOf q.val (0x30 + d.val) = some (.win, d.val) := by
  revert q d
  decide

/-- QUE_AGE_LIMIT stores 14 bits. -/
theorem regDef_ageLimit (tc : Fin 4) : ∃ r, regDef .que 0 (0x110 + 4 * tc.val) = rW 0x3FFF r :=
  match tc with
  | 0 => ⟨0xFA0, rfl⟩
  | 1 => ⟨0xFA0, rfl⟩
  | 2 => ⟨0xFA0, rfl⟩
  | 3 => ⟨0xFA, rfl⟩

/-- WIN_LIMIT stores 16 bits. -/
theorem regDef_winLimit (d : Nat) (i : Fin 64) : regDef .win d (0x100 + 4 * i.val) = rW 0xFFFF 0 := by
  have harr : inArr (0x100 + 4 * i.val) 0x100 64 4 = true := by
    simp only [inArr, Bool.and_eq_true, decide_eq_true_eq, beq_iff_eq]
    omega
  have hdata : dataplaneDef .win d (0x100 + 4 * i.val) = rW 0xFFFF 0 := if_pos harr
  rw [regDef, if_neg (by omega), if_neg (by omega), hdata]
  rfl

/-- QUE_AGE_LIMIT of a traffic class. -/
theorem quadStore_ageLimit (q tc : Fin 4) : QuadStore .que 0 q.val 0x45 (0x110 + 4 * tc.val) 0x3FFF :=
  ⟨q.isLt, pageOf_que q, by omega, by omega, by omega, regDef_ageLimit tc, by decide, by decide, by decide, rfl⟩

/-- WIN_EXPIRE of an island. -/
theorem quadStore_winExpire (q : Fin 4) (d : Fin 16) : QuadStore .win d.val q.val (0x30 + d.val) 0x300 0x3FFF :=
  ⟨q.isLt, pageOf_win q d, by decide, by decide, rfl, ⟨_, rfl⟩, by decide, by decide, by decide, rfl⟩

/-- WIN_LIMIT of a port and traffic class. -/
theorem quadStore_winLimit (q : Fin 4) (d : Fin 16) (i : Fin 64) :
    QuadStore .win d.val q.val (0x30 + d.val) (0x100 + 4 * i.val) 0xFFFF :=
  ⟨q.isLt, pageOf_win q d, by omega, by omega, by omega, ⟨0, regDef_winLimit d.val i⟩, by decide, by decide, by decide, rfl⟩

/-- A write of QUE_AGE_LIMIT (R281): 1 to 16,000 is stored, any other value is refused. -/
theorem Chip.write_ageLimit (c : Chip) (dom : Dom) (q tc : Fin 4) (v : Nat)
    (hmay : MayWrite c dom q.val 0x45 (0x110 + 4 * tc.val) v) (hv : v < 2 ^ 14) :
    c.write dom (quePage q.val + 0x110 + 4 * tc.val) v =
      if within v 1 16000 then c.setReg (quePage q.val + 0x110 + 4 * tc.val) v
      else c.recordErr (quePage q.val) 1 (0x110 + 4 * tc.val) v (dom == .fabric) := by
  obtain ⟨d, hwrite⟩ := (quadStore_ageLimit q tc).write c dom v hmay (Nat.and_two_pow_sub_one_of_lt_two_pow hv)
  have haddr : quePage q.val + 0x110 + 4 * tc.val = regAddr q.val 0x45 (0x110 + 4 * tc.val) := by
    rw [Nat.add_assoc, quePage, regAddr_add]
  have hrule : wrQuad .que d q.val 0 (0x110 + 4 * tc.val) v c =
      storeIf (within v 1 16000) (regAddr q.val 0x45 (0x110 + 4 * tc.val)) v c := by
    simp only [wrQuad, quePage, regAddr_add]
    exact if_pos (by omega)
  rw [haddr, hwrite, hrule, storeIf]
  split <;> rfl

/-- A write of WIN_EXPIRE (R286): 16 to 16,000 is stored and every epoch of the island is looked at again, any other value is
refused. -/
theorem Chip.write_winExpire (c : Chip) (dom : Dom) (q : Fin 4) (d : Fin 16) (v : Nat)
    (hmay : MayWrite c dom q.val (0x30 + d.val) 0x300 v) (hv : v < 2 ^ 14) :
    c.write dom (regAddr q.val (0x30 + d.val) 0x300) v =
      if within v 16 16000 then
        (c.setReg (regAddr q.val (0x30 + d.val) 0x300) v).each (islandPorts q.val d.val)
          (fun c p => c.each (List.range 4) (fun c t => c.expireEpochs p t))
      else c.recordErr (regAddr q.val (0x30 + d.val) 0) 1 0x300 v (dom == .fabric) := by
  obtain ⟨r, hwrite⟩ := (quadStore_winExpire q d).write c dom v hmay (Nat.and_two_pow_sub_one_of_lt_two_pow hv)
  have hrule : wrQuad .win r q.val d.val 0x300 v c = wrWinExpire q.val d.val v c := rfl
  rw [hwrite, hrule, wrWinExpire]
  split <;> rfl

/-- A write of WIN_LIMIT (R288) is stored, and the window is looked at again. -/
theorem Chip.write_winLimit (c : Chip) (dom : Dom) (q : Fin 4) (d : Fin 16) (i : Fin 64) (v : Nat)
    (hmay : MayWrite c dom q.val (0x30 + d.val) (0x100 + 4 * i.val) v) (hv : v < 2 ^ 16) :
    c.write dom (regAddr q.val (0x30 + d.val) (0x100 + 4 * i.val)) v =
      (c.setReg (regAddr q.val (0x30 + d.val) (0x100 + 4 * i.val)) v).winCheck
        (256 * q.val + 16 * d.val + i.val % 16) (i.val / 16) := by
  obtain ⟨r, hwrite⟩ := (quadStore_winLimit q d i).write c dom v hmay (Nat.and_two_pow_sub_one_of_lt_two_pow hv)
  have hindex : (0x100 + 4 * i.val - 0x100) / 4 = i.val := by omega
  have hrule : wrQuad .win r q.val d.val (0x100 + 4 * i.val) v c = wrWinLimit q.val d.val i.val v c := by
    simp only [wrQuad, if_pos (show 0x100 + 4 * i.val < 0x200 by omega), hindex]
  rw [hwrite, hrule]
  rfl

end Sys2Proof.Machine

/-! Edge windows (R283 to R289), their epochs, the TC3 gate (R272) and ageing (R278, R279). -/
namespace Sys2Proof.Machine

/-- A window is closed when LIMIT is above 0, OUT has reached it, and the port advertises credits on VC4 to VC7 (R287, R289; the
ports without an advertisement in force by log entry 113, DESIGN CHOICE). -/
def Chip.winShut (c : Chip) (p t : Nat) : Bool :=
  decide (0 < c.winLimit p t) && decide (c.winLimit p t ≤ (c.win p t).out) &&
    (List.range 4).any (fun i => cnt (c.port p).advPriv (4 + i) != 0)

/-- A window that stands as it should is left alone. -/
theorem Chip.winCheck_same (c : Chip) (p t : Nat) (h : c.winShut p t = (c.win p t).closed) : c.winCheck p t = c :=
  if_pos h

/-- An open window without a limit is left alone. -/
theorem Chip.winCheck_unlimited (c : Chip) (p t : Nat) (hlim : c.winLimit p t = 0) (hopen : (c.win p t).closed = false) :
    c.winCheck p t = c :=
  c.winCheck_same p t (by simp [Chip.winShut, hlim, hopen])

/-- A look at a window leaves the resets. -/
@[simp] theorem Chip.winCheck_rst (c : Chip) (p t : Nat) : (c.winCheck p t).rst = c.rst := by
  simp only [Chip.winCheck]
  repeat' split
  all_goals simp

/-- A look at a window leaves it closed exactly when it should be. -/
theorem Chip.winCheck_closed (c : Chip) (p t : Nat) : ((c.winCheck p t).win p t).closed = c.winShut p t := by
  by_cases h : c.winShut p t = (c.win p t).closed
  · rw [c.winCheck_same p t h, h]
  · have hset : (c.winCheck p t).wins = SMap.set c.wins (4 * p + t) { c.win p t with closed := c.winShut p t } := by
      rw [Chip.winCheck]
      refine (congrArg Chip.wins (if_neg h)).trans ?_
      split <;> simp [Chip.winShut]
    simp [Chip.win, hset]

/-- Epochs that expire leave the resets. -/
@[simp] theorem Chip.expireEpochs_rst (c : Chip) (p t : Nat) : (c.expireEpochs p t).rst = c.rst := by
  simp only [Chip.expireEpochs]
  split
  · rfl
  · simp

/-- Epochs that expire on the ports of an island leave the resets. -/
theorem Chip.expireEpochs_each_rst (c : Chip) (ports tcs : List Nat) :
    (c.each ports (fun c p => c.each tcs (fun c t => c.expireEpochs p t))).rst = c.rst :=
  Chip.each_keeps Chip.rst _ (fun d p => Chip.each_keeps Chip.rst _ (fun e t => e.expireEpochs_rst p t) d tcs) c ports

/-- WIN_EXPIRED is no limit: a window's LIMIT stays while it counts. -/
theorem Chip.winLimit_bump_expired (c : Chip) (p t n : Nat) (ht : t < 4) :
    (c.bump (winPage p + 0x304) n).winLimit p t = c.winLimit p t := by
  have hne : winPage p + 0x100 + 0x40 * t + 4 * (p % 16) ≠ winPage p + 0x304 := by omega
  exact congrArg (fld · 15 0) (c.reg_bump_other _ _ _ hne)

/-- An open window without a limit, only whose oldest epoch has expired, loses that epoch and stays open. -/
theorem Chip.expireEpochs_oldest (c : Chip) (p t : Nat) (ht : t < 4) (e : Nat × Nat) (tl : List (Nat × Nat))
    (hes : (c.win p t).epochs = e :: tl) (he : e.1 + 16 * c.epochLen p ≤ c.time.ft)
    (htl : ∀ x ∈ tl, c.time.ft < x.1 + 16 * c.epochLen p) (hlim : c.winLimit p t = 0) (hopen : (c.win p t).closed = false) :
    c.expireEpochs p t = { c.bump (winPage p + 0x304) e.2 with
      wins := SMap.set c.wins (4 * p + t) { epochs := tl, closed := false } } := by
  have hdead : tl.filter (fun x => decide (x.1 + 16 * c.epochLen p ≤ c.time.ft)) = [] := by simpa using htl
  have hleft : tl.filter (fun x => !decide (x.1 + 16 * c.epochLen p ≤ c.time.ft)) = tl := by simpa using htl
  simp only [Chip.expireEpochs, hes, List.filter_cons, he, hdead, hleft, hopen, decide_true, Bool.not_true, if_true,
    Bool.false_eq_true, if_false, List.isEmpty_cons, List.map_cons, List.map_nil, List.sum_cons, List.sum_nil, Nat.add_zero,
    Chip.bump_wins, Chip.bump_time]
  have hlim' : (c.bump (winPage p + 0x304) e.2).winLimit p t = 0 := (c.winLimit_bump_expired p t e.2 ht).trans hlim
  refine Chip.winCheck_unlimited _ _ _ hlim' ?_
  simp [Chip.win]

/-- A tick of P_E that is no epoch's start opens a second epoch beside the only one (R286). -/
theorem epochStart_second (c d : Chip) (p t : Nat) (e : Nat × Nat) (hes : (c.win p t).epochs = [e]) (hlen : 0 < c.epochLen p)
    (hworks : c.winWorks p = true)
    (hd : d = c.untilFabric (e.1 / c.epochLen p * c.epochLen p + c.epochLen p))
    (hnew : d.time.ft / c.epochLen p * c.epochLen p ≠ e.1) :
    epochStart p t c = { d with
      wins := SMap.set d.wins (4 * p + t)
        { epochs := [e, (d.time.ft / c.epochLen p * c.epochLen p, 0)], closed := (c.win p t).closed } } := by
  subst hd
  have hmax : max (c.epochLen p) 1 = c.epochLen p := Nat.max_eq_left hlen
  simp [epochStart, hworks, hes, hmax, hnew.symm]

/-- The epochs of a WIN page that does not work do not start anew (R553; DESIGN CHOICE, log entry 115). -/
theorem epochStart_idle (c : Chip) (p t : Nat) (h : c.winWorks p = false) : epochStart p t c = c := if_pos h

/-- The epochs of a WIN page that does not work do not expire (R553; DESIGN CHOICE, log entry 115). -/
theorem epochExpire_idle (c : Chip) (p t : Nat) (h : c.winWorks p = false) : epochExpire p t c = c := by
  unfold epochExpire
  split
  · rfl
  · simp [h]

/-- The oldest epoch of a window expires at its start plus 16 × P_E (R286). -/
theorem epochExpire_works (c : Chip) (p t : Nat) (e : Nat × Nat) (tl : List (Nat × Nat)) (hes : (c.win p t).epochs = e :: tl)
    (h : c.winWorks p = true) :
    epochExpire p t c = (c.untilFabric (e.1 + 16 * c.epochLen p)).expireEpochs p t := by
  simp [epochExpire, hes, h]

/-- An entry under a QUE page that does not work stays (R553; DESIGN CHOICE, log entry 115). -/
theorem entryAged_idle (c : Chip) (l v i : Nat) (h : c.works (linkQuad l) 0x45 = false) : entryAged l v i c = c := by
  unfold entryAged
  split
  · rfl
  · split
    · rfl
    · exact if_pos (by simp [h])

/-- An entry under a QUE page that does not work goes on where its head has left (R553; DESIGN CHOICE, log entry 115). -/
theorem entryAgedStomp_idle (c : Chip) (l v : Nat) (h : c.works (linkQuad l) 0x45 = false) : entryAgedStomp l v c = c := by
  unfold entryAgedStomp
  split
  · rfl
  · split
    · rfl
    · exact if_pos (by simp [h])

/-- An entry whose head has not left is discarded whole at its age limit (R278). -/
theorem entryAged_discards (c : Chip) (l v i : Nat) (x : Copy) (k : Pkt) (hl : l < 1040) (hx : (c.queue l v)[i]? = some x)
    (hk : c.pkt? x.pkt = some k) (hhead : x.headSent = false) (hworks : c.works (linkQuad l) 0x45 = true) :
    entryAged l v i c = ((c.untilFabric (k.stamp + c.ageLimit (linkQuad l) k.hdr.tc)).agedCount l k.hdr.tc false).dropCopy
      x.id .aged := by
  have hport : ¬ 1040 ≤ l := by omega
  simp [entryAged, hx, hk, hhead, hport, hworks]

/-- An entry whose head has left loses its reference at its age limit and ends in zeros and STOMPED (R279). -/
theorem entryAgedStomp_ends (c d : Chip) (l v : Nat) (x : Copy) (tl : List Copy) (k : Pkt) (hl : l < 1040)
    (hx : c.queue l v = x :: tl) (hk : c.pkt? x.pkt = some k) (hhead : x.headSent = true) (hzeros : x.zeros = false)
    (hworks : c.works (linkQuad l) 0x45 = true)
    (hd : d = ((c.untilFabric (k.stamp + c.ageLimit (linkQuad l) k.hdr.tc)).agedCount l k.hdr.tc true).dropCount x .aged) :
    entryAgedStomp l v c = ((((((d.onCopy x.id (fun y => { y with
      zeros := true, cut := minCut (d.cutOf y) (some y.sent), code := max (d.codeOf y k) 2 })).lowerRef x.sid).tailDead
      x.sid).creditCheck x.sid).gcPkt x.pkt).mcCheck x.pkt) := by
  have hport : ¬ 1040 ≤ l := by omega
  subst hd
  simp [entryAgedStomp, hx, hk, hhead, hzeros, hport, hworks]

/-- The gate of a QUE page that works takes the state called for, and raises its event (R272). -/
theorem gateChange_follows (c : Chip) (q : Nat) (h : c.gateOpen q ≠ c.gateWanted q) (hworks : c.works q 0x45 = true) :
    gateChange q c = Chip.raise { c with gate := c.gate.set q (c.gateWanted q) } (quePage q) 4 :=
  if_neg (by simp [h, hworks])

/-- The gate stays where it stands as called for, and under a QUE page that does not work (R553; DESIGN CHOICE, log entry 115). -/
theorem gateChange_stays (c : Chip) (q : Nat) (h : c.gateOpen q = c.gateWanted q ∨ c.works q 0x45 = false) :
    gateChange q c = c := if_pos h

/-- A change of the part alone: SRAM and the queue as before. -/
theorem onChip_same (s : State) (f : Chip → Chip) (c : Chip) (h : f s.chip = c) : onChip s f = .next (withChip s c) := by
  subst h
  rfl

/-- Settles O28: the gate, ageing and the epochs are the functions of the commands, case by case; the writes have the effects of
their registers' rules, which leave C0 in or out of reset, so that SRAM stays; and every look at a window leaves it closed exactly
when it should be. -/
theorem gateAgeingAndWindows : Obligations.GateAgeingAndWindows := by
  unfold Obligations.GateAgeingAndWindows
  refine ⟨?gateStays, ?gateFollows, ?aged, ?agedIdle, ?agedStomp, ?ageLimit, ?epochStart, ?epochExpire, ?epochIdle,
    ?oldestExpires, ?winExpire, ?winLimit, ?closed⟩
  case gateStays =>
    intro q s h
    exact onChip_same s _ _ (gateChange_stays s.chip q.val h)
  case gateFollows =>
    intro q s h hworks
    exact onChip_same s _ _ (gateChange_follows s.chip q.val h hworks)
  case aged =>
    intro l vc i x k s hl hx hk hhead hworks
    exact onChip_same s _ _ <| congrArg Chip.restall
      (entryAged_discards s.chip _ vc.val i x k hl hx hk hhead hworks)
  case agedIdle =>
    intro l vc i s _ h
    exact ⟨onChip_same s _ _ (congrArg Chip.restall (entryAged_idle s.chip _ vc.val i h)),
      onChip_same s _ _ (congrArg Chip.restall (entryAgedStomp_idle s.chip _ vc.val h))⟩
  case agedStomp =>
    intro l vc x tl k c s hl hx hk hhead hzeros hworks hc
    exact onChip_same s _ _ <| congrArg Chip.restall
      (entryAgedStomp_ends s.chip c _ vc.val x tl k hl hx hk hhead hzeros hworks hc)
  case ageLimit =>
    intro dom q tc val s hmay hval
    have hwrite := s.chip.write_ageLimit dom q tc val.toNat hmay hval
    refine ⟨fun hlo hhi => onPart_same s _ _ (hwrite.trans (if_pos ((within_iff _ _ _).2 ⟨hlo, hhi⟩))) rfl,
      fun hout => onPart_same s _ _ (hwrite.trans (if_neg ?_)) (by simp)⟩
    rw [within_iff]
    omega
  case epochStart =>
    intro p tc e c s hes hlen hworks hc hnew
    exact onChip_same s _ _ (epochStart_second s.chip c p.val tc.val e hes hlen hworks hc hnew)
  case epochExpire =>
    intro p tc e tl s hes hworks
    exact onChip_same s _ _ (epochExpire_works s.chip p.val tc.val e tl hes hworks)
  case epochIdle =>
    intro p tc s h
    exact ⟨onChip_same s _ _ (epochStart_idle s.chip p.val tc.val h),
      onChip_same s _ _ (epochExpire_idle s.chip p.val tc.val h)⟩
  case oldestExpires =>
    intro p tc e tl c hes he htl hlim hopen
    exact c.expireEpochs_oldest p.val tc.val tc.isLt e tl hes he htl hlim hopen
  case winExpire =>
    intro dom q d val s hmay hval
    have hwrite := s.chip.write_winExpire dom q d val.toNat hmay hval
    refine ⟨fun hlo hhi => onPart_same s _ _ (hwrite.trans (if_pos ((within_iff _ _ _).2 ⟨hlo, hhi⟩))) ?_,
      fun hout => onPart_same s _ _ (hwrite.trans (if_neg ?_)) (by simp)⟩
    · rw [Chip.expireEpochs_each_rst, Chip.setReg_rst]
    · rw [within_iff]
      omega
  case winLimit =>
    intro dom q d i val s hmay hval
    exact onPart_same s _ _ (s.chip.write_winLimit dom q d i val.toNat hmay hval) (by simp)
  case closed =>
    intro p tc c _
    exact c.winCheck_closed p.val tc.val

end Sys2Proof.Machine

/-! The check value engine (R475): bit reversal, what each bit of a byte does to STATE, and the rule's function over words of 64
bits. -/
namespace Sys2Proof.Machine

/-! ### Bit reversal -/

theorem bit_eq_testBit (n i : Nat) : bit n i = n.testBit i := Nat.testBit_eq_decide_div_mod_eq.symm

/-- A further bit of `x` comes in below the bits reversed so far. -/
theorem reflect_succ (w x : Nat) : reflect (w + 1) x = 2 * reflect w x + (x.testBit w).toNat := by
  rw [← bit_eq_testBit]
  simp only [reflect, List.range_succ, List.foldl_append, List.foldl_cons, List.foldl_nil]
  cases bit x w <;> rfl

theorem reflect_lt (w x : Nat) : reflect w x < 2 ^ w := by
  induction w with
  | zero => exact Nat.one_pos
  | succ w ih =>
    have hbit := (x.testBit w).toNat_lt
    rw [reflect_succ, Nat.pow_succ]
    omega

/-- Bit `i` of a reversal is the bit as far from the other end. -/
theorem testBit_reflect (w x i : Nat) : (reflect w x).testBit i = (decide (i < w) && x.testBit (w - 1 - i)) := by
  induction w generalizing i with
  | zero => simp [reflect]
  | succ w ih =>
    have hbit := (x.testBit w).toNat_lt
    rw [reflect_succ]
    cases i with
    | zero => cases h : x.testBit w <;> simp [h]
    | succ i =>
      have hhalf : (2 * reflect w x + (x.testBit w).toNat) / 2 = reflect w x := by omega
      rw [Nat.testBit_add_one, hhalf, ih]
      simp [Nat.sub_sub, Nat.add_comm]

theorem reflect_reflect {w x : Nat} (h : x < 2 ^ w) : reflect w (reflect w x) = x := by
  refine Nat.eq_of_testBit_eq fun i => ?_
  rw [testBit_reflect, testBit_reflect]
  by_cases hi : i < w
  · have hback : w - 1 - (w - 1 - i) = i := by omega
    have hmirror : w - 1 - i < w := by omega
    simp [hi, hback, hmirror]
  · simp [hi, Nat.testBit_lt_two_pow (Nat.lt_of_lt_of_le h (Nat.pow_le_pow_right Nat.two_pos (Nat.le_of_not_lt hi)))]

/-! ### One bit of a byte -/

/-- With REFIN, STATE moves down, and takes the reversed polynomial when its low bit differs from the input bit. -/
theorem Cve.feedBit_refin {k : Cve} (h : k.refin = true) (b s i : Nat) :
    k.feedBit b s i = if s.testBit 0 = b.testBit i then s / 2 else s / 2 ^^^ reflect k.width k.poly := by
  simp [Cve.feedBit, h, bit_eq_testBit]

/-- Without REFIN, STATE moves up within its width, and takes the polynomial when its top bit differs from the input bit. -/
theorem Cve.feedBit_direct {k : Cve} (h : k.refin = false) (b s i : Nat) :
    k.feedBit b s i = if s.testBit (k.width - 1) = b.testBit (7 - i) then 2 * s % 2 ^ k.width
      else 2 * s % 2 ^ k.width ^^^ k.poly := by
  simp [Cve.feedBit, h, bit_eq_testBit]

theorem Cve.feedBit_lt {k : Cve} {s : Nat} (hpoly : k.poly < 2 ^ k.width) (hs : s < 2 ^ k.width) (b i : Nat) :
    k.feedBit b s i < 2 ^ k.width := by
  cases hrefin : k.refin with
  | true =>
    have hhalf : s / 2 < 2 ^ k.width := Nat.lt_of_le_of_lt (Nat.div_le_self s 2) hs
    rw [k.feedBit_refin hrefin]
    split
    · exact hhalf
    · exact Nat.xor_lt_two_pow hhalf (reflect_lt k.width k.poly)
  | false =>
    have hup : 2 * s % 2 ^ k.width < 2 ^ k.width := Nat.mod_lt _ (Nat.two_pow_pos _)
    rw [k.feedBit_direct hrefin]
    split
    · exact hup
    · exact Nat.xor_lt_two_pow hup hpoly

theorem Cve.feedByte_lt {k : Cve} {s : Nat} (hpoly : k.poly < 2 ^ k.width) (hs : s < 2 ^ k.width) (b : Nat) :
    k.feedByte s b < 2 ^ k.width :=
  List.foldlRecOn (motive := (· < 2 ^ k.width)) (List.range 8) (k.feedBit b) hs
    fun _ hst i _ => Cve.feedBit_lt hpoly hst b i

/-! ### The rule's function over words of 64 bits -/

/-- The top bit of STATE as the rule computes it: `top`. -/
def Cve.topWord (k : Cve) : BitVec 64 := 1#64 <<< (k.width - 1)

/-- The bits of STATE as the rule computes them: `mask`. -/
def Cve.maskWord (k : Cve) : BitVec 64 := k.topWord ||| (k.topWord - 1#64)

/-- One round of the rule's loop over words of 64 bits (R475). -/
def Cve.feedBitWord (k : Cve) (b st : BitVec 64) (i : Nat) : BitVec 64 :=
  if k.refin = true then
    (if (st ^^^ (b >>> i)) &&& 1#64 = 1#64 then (st >>> 1) ^^^ BitVec.ofNat 64 (reflect k.width k.poly) else st >>> 1)
  else
    (if (st &&& k.topWord ≠ 0#64) = ((b >>> (7 - i)) &&& 1#64 = 1#64) then (st <<< 1) &&& k.maskWord
     else ((st <<< 1) &&& k.maskWord) ^^^ BitVec.ofNat 64 k.poly)

theorem and_one_eq_one_iff (x : BitVec 64) : x &&& 1#64 = 1#64 ↔ x.toNat.testBit 0 = true := by
  rw [BitVec.and_one_eq_setWidth_ofBool_getLsbD, BitVec.testBit_toNat]
  cases x.getLsbD 0 <;> decide

/-- A word shifted down by `i` has bit `i` lowest. -/
theorem toNat_ushiftRight_testBit_zero (x : BitVec 64) (i : Nat) : (x >>> i).toNat.testBit 0 = x.toNat.testBit i := by
  rw [BitVec.toNat_ushiftRight, Nat.testBit_shiftRight, Nat.add_zero]

theorem Cve.topWord_toNat {k : Cve} (hpos : 0 < k.width) (hle : k.width ≤ 64) : k.topWord.toNat = 2 ^ (k.width - 1) := by
  rw [Cve.topWord, ← BitVec.twoPow_eq, BitVec.toNat_twoPow_of_lt (by omega)]

theorem Cve.and_topWord_ne_zero_iff {k : Cve} (hpos : 0 < k.width) (hle : k.width ≤ 64) (x : BitVec 64) :
    x &&& k.topWord ≠ 0#64 ↔ x.toNat.testBit (k.width - 1) = true := by
  have htop : BitVec.twoPow 64 (k.width - 1) ≠ 0#64 := by
    rw [← BitVec.toNat_ne_iff_ne, BitVec.toNat_twoPow_of_lt (by omega)]
    exact Nat.ne_of_gt (Nat.two_pow_pos _)
  rw [Cve.topWord, ← BitVec.twoPow_eq, BitVec.and_twoPow, BitVec.testBit_toNat]
  split <;> simp_all

/-- The mask is the WIDTH low bits, at a WIDTH of 64 too. -/
theorem Cve.maskWord_toNat {k : Cve} (hpos : 0 < k.width) (hle : k.width ≤ 64) : k.maskWord.toNat = 2 ^ k.width - 1 := by
  have htop := k.topWord_toNat hpos hle
  have hone : 1 ≤ 2 ^ (k.width - 1) := Nat.two_pow_pos _
  have hbelow : (k.topWord - 1#64).toNat = 2 ^ (k.width - 1) - 1 := by
    rw [BitVec.toNat_sub_of_le (by rw [BitVec.le_def, htop]; exact hone), htop]
    rfl
  calc k.maskWord.toNat = 2 ^ (k.width - 1) ||| (2 ^ (k.width - 1) - 1) := by
        rw [Cve.maskWord, BitVec.toNat_or, htop, hbelow]
    _ = 2 ^ (k.width - 1) + (2 ^ (k.width - 1) - 1) := by
        simpa using (Nat.two_pow_add_eq_or_of_lt (Nat.sub_lt hone Nat.one_pos) 1).symm
    _ = 2 ^ k.width - 1 := by
        have htwice := Nat.two_pow_pred_mul_two hpos
        omega

/-- The shifted STATE under the mask is twice STATE within WIDTH. -/
theorem Cve.toNat_shiftLeft_and_maskWord {k : Cve} (hpos : 0 < k.width) (hle : k.width ≤ 64) (st : BitVec 64) :
    ((st <<< 1) &&& k.maskWord).toNat = 2 * st.toNat % 2 ^ k.width := by
  rw [BitVec.toNat_and, k.maskWord_toNat hpos hle, Nat.and_two_pow_sub_one_eq_mod, BitVec.toNat_shiftLeft,
    Nat.mod_mod_of_dvd _ (Nat.pow_dvd_pow 2 hle), Nat.shiftLeft_eq, Nat.pow_one, Nat.mul_comm]

theorem toNat_ofNat_of_lt_width {w x : Nat} (hle : w ≤ 64) (h : x < 2 ^ w) : (BitVec.ofNat 64 x).toNat = x :=
  Nat.mod_eq_of_lt (Nat.lt_of_lt_of_le h (Nat.pow_le_pow_right Nat.two_pos hle))

/-- A round over words is the model's round: the tests pick out the same bits, and no word overflows. -/
theorem Cve.feedBitWord_toNat {k : Cve} (hpos : 0 < k.width) (hle : k.width ≤ 64) (hpoly : k.poly < 2 ^ k.width)
    (b st : BitVec 64) (i : Nat) : (k.feedBitWord b st i).toNat = k.feedBit b.toNat st.toNat i := by
  cases hrefin : k.refin with
  | true =>
    have hbit : (st ^^^ (b >>> i)) &&& 1#64 = 1#64 ↔ ¬ st.toNat.testBit 0 = b.toNat.testBit i := by
      rw [and_one_eq_one_iff, BitVec.toNat_xor, Nat.testBit_xor, toNat_ushiftRight_testBit_zero]
      exact bne_iff_ne
    have hrev := toNat_ofNat_of_lt_width hle (reflect_lt k.width k.poly)
    have hdown : (st >>> 1).toNat = st.toNat / 2 := Nat.shiftRight_eq_div_pow st.toNat 1
    simp only [Cve.feedBitWord, k.feedBit_refin hrefin, hrefin, if_true, hbit, ite_not]
    split
    · exact hdown
    · rw [BitVec.toNat_xor, hdown, hrev]
  | false =>
    have hbit : ((st &&& k.topWord ≠ 0#64) = ((b >>> (7 - i)) &&& 1#64 = 1#64)) ↔
        st.toNat.testBit (k.width - 1) = b.toNat.testBit (7 - i) := by
      rw [eq_iff_iff, k.and_topWord_ne_zero_iff hpos hle, and_one_eq_one_iff, toNat_ushiftRight_testBit_zero]
      exact Bool.eq_iff_iff.symm
    have hup := k.toNat_shiftLeft_and_maskWord hpos hle st
    simp only [Cve.feedBitWord, k.feedBit_direct hrefin, hrefin, Bool.false_eq_true, if_false, hbit]
    split
    · exact hup
    · rw [BitVec.toNat_xor, hup, toNat_ofNat_of_lt_width hle hpoly]

/-- The rule's loop over words computes the model's byte. -/
theorem Cve.feedByte_eq_words {k : Cve} {s b : Nat} (hpos : 0 < k.width) (hle : k.width ≤ 64) (hpoly : k.poly < 2 ^ k.width)
    (hs : s < 2 ^ k.width) (hb : b < 256) :
    k.feedByte s b = ((List.range 8).foldl (k.feedBitWord (BitVec.ofNat 64 b)) (BitVec.ofNat 64 s)).toNat := by
  have hword : (BitVec.ofNat 64 b).toNat = b := toNat_ofNat_of_lt_width (w := 8) (by omega) hb
  refine List.foldl_rel (r := fun (n : Nat) (st : BitVec 64) => n = st.toNat) (toNat_ofNat_of_lt_width hle hs).symm ?_
  rintro i - _ st rfl
  rw [k.feedBitWord_toNat hpos hle hpoly, hword]

/-- Settles O48: each round of the rule's loop over words is the model's round, each round keeps STATE within WIDTH, and bit `i` of
a reversal is the bit as far from the other end. -/
theorem checkValuesKeepTheirWidth : Obligations.CheckValuesKeepTheirWidth := by
  unfold Obligations.CheckValuesKeepTheirWidth
  refine ⟨?words, ?castagnoli, ?byte, reflect_lt, fun _ _ => reflect_reflect⟩
  case words =>
    rintro k s b top mask hpos hle hpoly hs hb rfl rfl
    exact Cve.feedByte_eq_words hpos hle hpoly hs hb
  case castagnoli => decide
  case byte =>
    intro k s b _ hpoly hs
    exact Cve.feedByte_lt hpoly hs b

end Sys2Proof.Machine
